-- ==== Sys2Proof/Word.lean ====
section
/-! DEFINITION. The byte and word types of the device (R5: fields are little-endian, bit 0 is the least significant bit). -/

namespace Sys2Proof

/-- One byte of memory or of a parameter layout. -/
abbrev Byte := BitVec 8

/-- A 32-bit register or field. -/
abbrev Word := BitVec 32

end Sys2Proof
end

