-- ==== Sys2Proof/Machine/Env.lean ====
section
/-! DEFINITION. What the commands carry besides numbers: statuses, channel names, and what the environment contributes. -/

namespace Sys2Proof.Machine

/-- The status catalogue (Table 2-15, R74). -/
inductive Status where
  | success | notReady | repeated | badOpcode | badParam | noResource | notPermitted | domainAsleep | routeRefused
  | sleepRefused | poisoned | busError | overlap | revoked | deadlineMissed | authFail | guardViolation
  | shadowCollide | pageNotSealed | pageSealed | internal
  deriving DecidableEq, Repr, Inhabited

/-- A DMA channel of the device. -/
inductive DmaRef where
  | edma (e c : Nat)
  | bdma (blk c : Nat)
  deriving DecidableEq, Repr

/-- What the environment contributes to a transfer: the bytes that reads of host memory or of a peer deliver, in order,
with a poison mark, and the status with which the far side answers. -/
structure DmaEnv where
  data : List Byte
  poison : Bool
  status : Status
  /-- Error responses to writes arrive only after the completion (possible with WAIT_ACK clear, R434). -/
  lateAck : Bool
  deriving DecidableEq, Repr

/-- A mesh request packet as its target's router or port sees it (Tables 14-2, 14-3): the issuing block port
(region · 4 + block), and the header fields. -/
structure MeshReq where
  blk : Nat
  cls : Nat
  init : Nat
  tag : Nat
  write : Bool
  addr : Nat
  len : Nat
  /-- TASK: the issuing task, if any. -/
  task : Option Nat
  /-- Data units of a WRITE, in order, and the units that carry POISON. -/
  data : List Byte
  poison : List Nat
  deriving DecidableEq, Repr, Inhabited

/-- What the environment contributes to a received Ethernet frame: whether the FCS is good, the FEC codewords corrected and not
corrected since the port's last frame, the receive descriptor as the device reads it, and, of a peer's frame, the peer's time
less this device's in 2⁻³² ns and whether it has rejoined. -/
structure EthEnv where
  fcsOk : Bool
  fecOk : Nat
  fecBad : Nat
  desc : List Byte
  step : Int
  rejoined : Bool
  deriving DecidableEq, Repr, Inhabited

/-- An idle-engine summary (R385): the types a member accepts, its idle engines as (region, type), and the kernels resident in
its REMOTE_TENANT as (id, DIGEST8). -/
structure Summary where
  types : Nat
  idle : List (Nat × Nat)
  /-- Those that its reserve gives to class 0 only. -/
  idle0 : List (Nat × Nat)
  kernels : List (Nat × Nat)
  deriving DecidableEq, Repr, Inhabited

/-- What members tell one another (R385, R386, R390); its encoding on the path is the device's own. -/
inductive PeerMsg where
  /-- Migration id, the sender's cell, the receiver's cell, numerology, TOFF_NS, SFN_BASE, SWITCH_SFN. -/
  | pair (mig cell peerCell num : Nat) (toff : Int) (sfnBase sfn : Nat)
  | readyToCopy (mig : Nat)
  | ready (mig : Nat)
  | commit (mig : Nat)
  | commitAck (mig : Nat)
  | final (mig : Nat)
  | abort (mig cause : Nat)
  /-- Migration traffic: lines for an address of the receiver, in order, with poison marks. -/
  | copy (mig addr : Nat) (runs : List (List Byte × Bool))
  /-- A remote task: its id on the sender, its rebased descriptor, the advertised region. -/
  | task (id : Nat) (desc : List Byte) (region : Nat)
  /-- Leave at the next yield: revoked, skipped or forced by a status code. -/
  | revoke (id code : Nat)
  | finish (id code : Nat)
  | summary (sm : Summary)
  /-- The answer to a peer request: tag, status code, data units. -/
  | answer (tag code : Nat) (units : List (List Byte × Bool))
  | keepalive
  deriving DecidableEq, Repr, Inhabited

/-- What happens to a stream's chime reception between two of its commands, as its samples decide it (Table 18-4). -/
inductive ChimeEv where
  /-- At an FRC value, ρ = num / den; the energy sum of the 128 samples, and the AGC gain in dB as a detection freezes it. -/
  | detect (frc num den sum gain : Nat)
  /-- At an FRC value, the hard decisions of 32 symbols, first symbol in bit 31, and the energy sum of their 256 samples. -/
  | sync (frc word sum : Nat)
  /-- At an FRC value, the energy sum of the last 128 valid samples. -/
  | level (frc sum : Nat)
  deriving DecidableEq, Repr, Inhabited

/-- What the level detector of a physical receive lane has seen without a break: the amplitude in mV that the signal stayed below, or
above, and for how long (R296). -/
structure LevelEv where
  k : Nat
  mv : Nat
  ns : Nat
  deriving DecidableEq, Repr, Inhabited

/-- What the CDR or DLL of a physical receive lane has seen: its frequency offset from nominal in 0.01 ppm, over how long; and for how
long its phase detector has been saturated (R297). -/
structure ClockEv where
  k : Nat
  off : Int
  ns : Nat
  satNs : Nat
  deriving DecidableEq, Repr, Inhabited

/-- Slicer samples of a physical lane over a millisecond: the level estimate d and the errors e (R295). -/
structure EyeEv where
  d : Int
  e : List Int
  deriving DecidableEq, Repr, Inhabited

/-- Bits at a PRBS checker of a lane, in order: as received while it hunts; once it is locked, which of the compared bits were errored
(R299). -/
structure PrbsEv where
  lane : Nat
  inst : Nat
  bits : List Bool
  deriving DecidableEq, Repr, Inhabited

/-- What a lane's transmitter sends: electrical idle, training blocks with RX_READY, its traffic, a PRBS, the received bits. -/
inductive LaneTx where
  | idle
  | training (ready : Bool)
  | traffic
  | prbs (code : Nat) (invert : Bool)
  | echo
  deriving DecidableEq, Repr, Inhabited

/-- An instruction that the test port executes (R615). -/
inductive JtagOp where
  | idcode
  /-- Boundary scan, EXTEST apart. -/
  | boundary
  | extest
  | debug
  deriving DecidableEq, Repr, Inhabited

end Sys2Proof.Machine
end

