-- ==== Sys2Proof/Syntax.lean ====
section
/-! DEFINITION. The commands of the block: one constructor per row of spec/opcode_table.json, in the table's order.

Operands in common: `c` is a host command that has been fetched or started through the mailbox; `t` is the FRC at which an event takes
place (time goes on to it; it never goes back); `e` is an engine address. What the environment decides, such as received frames, measured
values or host memory, comes with the command that meets it. -/

namespace Sys2Proof

open Machine

/-- How a host command comes to be carried out: the fetched (or mailbox) command it is, the FRC count at which the
device carries it out, and the bytes the device reads from the command's parameter buffer in host memory (used only
when the command's EXT flag is set), with a mark when that read delivered poison. Host memory is the environment's. -/
structure CmdRef where
  /-- FRC at which the command is carried out. -/
  t : Nat
  /-- The number the device gave the command when it was fetched or started. -/
  id : Nat
  /-- What the device reads at the parameter buffer. -/
  buf : List Byte
  /-- The read of the parameter buffer delivered poison. -/
  poison : Bool
  deriving DecidableEq, Repr, Inhabited

/-- A command of the block. -/
inductive Instr where
  -- Host commands (Table 2-14)
  /-- Returns part, firmware and serial data, and with a buffer the tenant's resources (R69). -/
  | identify (c : CmdRef)
  /-- Attaches the function through the mailbox, registers its host windows and ends any headless hold or muting (R63). -/
  | attach (c : CmdRef)
  /-- Drains the function's fetched commands, removes its queues, windows and subscriptions, and revokes and mutes its tenant's work (R71). -/
  | detach (c : CmdRef)
  /-- Creates a submission and completion queue pair after checking windows, alignment and quota (R48). -/
  | queueCreate (c : CmdRef)
  /-- Stops fetching from a pair, waits for its fetched commands, and removes the pair and its subscriptions (R70). -/
  | queueDelete (c : CmdRef)
  /-- Binds event areas to a completion queue with a minimum severity, or removes every binding (R61). -/
  | eventSubscribe (c : CmdRef)
  /-- Resets an engine or a region and returns it to service, or schedules a WARM reset (R72). -/
  | resetScope (c : CmdRef)
  /-- Changes the chip mode among READY, SERVICE and MAINT where Table 17-2 allows it (R476). -/
  | modeSet (c : CmdRef)
  /-- Enables a tenant with resources taken from tenant 0, or disables it and returns everything to tenant 0 (R42). -/
  | tenantConfig (c : CmdRef)
  /-- Samples FRC, disciplined time and time state at one FRC count (R104). -/
  | timeGet (c : CmdRef)
  /-- Schedules a new RATE and OFFSET to apply from FRC value F (R81). -/
  | timeAdjust (c : CmdRef)
  /-- Anchors or clears the slot timeline of a cell's carrier (R97). -/
  | timelineAnchor (c : CmdRef)
  /-- Configures the PPS_IN capture (R88). -/
  | ppsConfig (c : CmdRef)
  /-- Defines, redefines or deletes a task graph of node and gate templates (R112). -/
  | graphDefine (c : CmdRef)
  /-- Checks a slot plan and atomically instantiates its graph as tasks, gates and sequence numbers (R115). -/
  | slotPlanSubmit (c : CmdRef)
  /-- Makes the tasks of a speculation epoch non-speculative so that they can release (R134). -/
  | epochCommit (c : CmdRef)
  /-- Revokes every unreleased task of an epoch, discarding its buffered writes and shadows (R133). -/
  | epochRevoke (c : CmdRef)
  /-- Enables, disables or reconfigures an ordered flow and its deadline policy (R124). -/
  | flowConfig (c : CmdRef)
  /-- Sets the class-0 engine reserve and pre-emption flag of an engine type in a region (R121). -/
  | classReserve (c : CmdRef)
  /-- Configures the Observing Log ring and its filters (R137). -/
  | ologConfig (c : CmdRef)
  /-- Loads a signed kernel image into every VDE's P-RAM, or unloads one (R200). -/
  | kernelLoad (c : CmdRef)
  /-- Creates a cell in SERVICE on an anchored timeline (R143). -/
  | cellCreate (c : CmdRef)
  /-- Changes the fields of a cell allowed in its state (R141). -/
  | cellModify (c : CmdRef)
  /-- Deletes a cell that has no instantiated task (R141). -/
  | cellDelete (c : CmdRef)
  /-- Stops new plans for a cell and completes when its last task is FREE (R142). -/
  | cellHibernate (c : CmdRef)
  /-- Wakes a hibernated cell and its home regions and returns the first slot a plan may name (R488). -/
  | cellWake (c : CmdRef)
  /-- Configures, removes, reports temperature for or loads calibration sets of a cell's array (R550). -/
  | arrayCalConfig (c : CmdRef)
  /-- Configures a long-reach lane or peer port and restarts bring-up where needed (R302). -/
  | laneConfig (c : CmdRef)
  /-- Reads a lane's bring-up state and counters at one instant, optionally clearing them (R304). -/
  | laneStatus (c : CmdRef)
  /-- Sets or deletes a trail, a lane's TLF settings or a threshold set (R339). -/
  | trailConfig (c : CmdRef)
  /-- Writes connection entries into the unsealed standby TSI page of a lane (R341). -/
  | tsiPageWrite (c : CmdRef)
  /-- Seals the standby pages of a lane mask after checking them, or unseals them (R334). -/
  | tsiPageSeal (c : CmdRef)
  /-- Schedules or cancels a page switch at a reference multiframe (R335). -/
  | tsiPageSwitch (c : CmdRef)
  /-- Creates, changes, commands or deletes a 1+1 protection group (R343). -/
  | apsConfig (c : CmdRef)
  /-- Reads one performance-monitoring bin of a lane or trail (R344). -/
  | pmRead (c : CmdRef)
  /-- Sets or deletes an Ethernet port, or reads and zeroes its counters (R369). -/
  | ethPortConfig (c : CmdRef)
  /-- Installs or deletes a MACsec secure association, or selects the transmit AN (R371). -/
  | macsecSaInstall (c : CmdRef)
  /-- Sets or deletes a packet fronthaul stream, or reads and zeroes its counters (R370). -/
  | fhStreamConfig (c : CmdRef)
  /-- Joins the device to a cluster with a time step, or updates its member table (R379). -/
  | clusterJoin (c : CmdRef)
  /-- Stops remote dispatch, drains remote tasks and leaves the cluster (R381). -/
  | clusterLeave (c : CmdRef)
  /-- Enables or disables a peer port for cluster traffic (R382). -/
  | peerPortConfig (c : CmdRef)
  /-- Starts a migration as source or target, or cancels one (R388). -/
  | cellMigrate (c : CmdRef)
  /-- Sets the ceiling performance level and throttle temperature of regions (R497). -/
  | perfLevelSet (c : CmdRef)
  /-- Sets an IDLE policy or starts two-phase sleep of regions to NAP or OFF (R484). -/
  | regionSleep (c : CmdRef)
  /-- Wakes regions to ACTIVE at their ceiling level (R487). -/
  | regionWake (c : CmdRef)
  /-- Sets the memory banks that NAP keeps in a region (R490). -/
  | retentionMap (c : CmdRef)
  /-- Releases held pad groups whose domains are powered (R492). -/
  | padRelease (c : CmdRef)
  /-- Enters DRAIN and runs two-phase sleep over the whole chip towards WATCH (R495). -/
  | watchEnter (c : CmdRef)
  /-- Configures or deletes a Finderscope listening stream (R527). -/
  | fscListenConfig (c : CmdRef)
  /-- Replaces the Finderscope rule table and timers (R528). -/
  | fscRulesLoad (c : CmdRef)
  /-- Replaces the ADC sequence and restarts it (R529). -/
  | adcSeqConfig (c : CmdRef)
  /-- Calibrates the ADC and writes its offset and gain (R520). -/
  | adcSelfcal (c : CmdRef)
  /-- Reads Finderscope state, counters, ADC results and log, optionally clearing counters (R531). -/
  | fscStatus (c : CmdRef)
  /-- Reads Collimator status of a lane, array or region (R551). -/
  | calStatus (c : CmdRef)
  /-- Sets the Collimator enables and learning parameters (R552). -/
  | calPolicy (c : CmdRef)
  /-- Writes an attestation report signed by the identity key (R570). -/
  | attest (c : CmdRef)
  /-- Programs image data into the inactive boot flash slot (R564). -/
  | imageStage (c : CmdRef)
  /-- Commits, confirms or invalidates a firmware slot (R565). -/
  | imageCommit (c : CmdRef)
  /-- Enrols or revokes a key slot, reads key state or sets a tenant wrapping key (R568). -/
  | keyEnroll (c : CmdRef)
  /-- Loads, removes or reports a Damper licence profile, or unblocks a stream (R575). -/
  | guardProfileLoad (c : CmdRef)
  /-- Issues a challenge, unlocks debug with a signed answer, or locks again (R571). -/
  | debugUnlock (c : CmdRef)
  /-- Returns device error log entries from a given entry number (R596). -/
  | errlogRead (c : CmdRef)
  /-- Retires, restores or lists HBM pages and SRAM banks (R470). -/
  | pageRetire (c : CmdRef)
  /-- Withdraws an engine, block or region from service (R597). -/
  | fence (c : CmdRef)
  /-- Resets a fenced target, reloads its kernels and returns it to dispatch (R600). -/
  | unfence (c : CmdRef)
  /-- Runs memory and logic self-test on a fenced target in MAINT (R599). -/
  | bistRun (c : CmdRef)
  /-- Reads dump information, data or last-gasp slots, sets the dump window or releases the dump (R595). -/
  | dumpRead (c : CmdRef)
  /-- Configures the Photometer or reads its snapshot records (R424). -/
  | photometerRead (c : CmdRef)
  /-- Starts, changes or ends lane loopback and PRBS tests (R305). -/
  | loopbackSet (c : CmdRef)
  /-- Runs or chains one descriptor on a BDMA channel of a block (R448). -/
  | dmaSubmit (c : CmdRef)
  /-- Adds or removes a persistent memory range (R469). -/
  | regionTableSet (c : CmdRef)
  /-- Copies device memory into a host buffer (R472). -/
  | memRead (c : CmdRef)
  /-- Writes host data into device memory, optionally poisoning or injecting errors (R473). -/
  | memWrite (c : CmdRef)
  -- Host accesses, pins and resets
  /-- A write setting GO in MBOX_CTRL samples MBOX_CMD and starts the command, or sets GO_LOST (R45). Function; the value written to MBOX_CTRL. -/
  | mboxGo (t fn v : Nat)
  /-- A write setting ACK in MBOX_CTRL moves a held result from DONE to ACKED (R45). Function; the value written to MBOX_CTRL. -/
  | mboxAck (t fn v : Nat)
  /-- A doorbell write telling the device that SQ entries up to the new tail are valid (R49). Function, queue pair, value. -/
  | sqTailWrite (t fn qp v : Nat)
  /-- A doorbell write returning consumed CQ entries to the device (R49). Function, queue pair, value. -/
  | cqHeadWrite (t fn qp v : Nat)
  /-- A write to a register field without behaviour of its own, by field type (R7). Function, offset in BAR 0, bytes written; with `cfg` the bytes go to the MSI-X message control of configuration space. -/
  | registerWrite (t fn off : Nat) (bs : List Byte) (cfg : Bool)
  /-- A BAR 0 debug aperture access maps to device CSRs while debug is unlocked (R38). Function, offset in the aperture; a read of `n` bytes, or a write of `bs`. -/
  | debugApertureAccess (t fn off n : Nat) (bs : Option (List Byte))
  /-- A BAR 2 access reaches the tenant's HBM extent, or completes with Unsupported Request (R64). Function, offset in BAR 2; a read of `n` bytes, or a write of `bs`. -/
  | bar2Access (t fn off n : Nat) (bs : Option (List Byte))
  /-- A read of an ADC result register returns it and clears NEW (R521). Entry. -/
  | adcResultRead (t e : Nat)
  /-- A private I3C or I2C read returns the 8-byte status (R615). -/
  | i3cRead (t : Nat)
  /-- The device fetches a command from an SQ once its CQ has a free entry to reserve (R51). What the device reads at the SQ entry, and whether that read delivered poison. -/
  | commandFetch (t : Nat) (entry : List Byte) (poison : Bool)
  /-- COAL_US has passed since the oldest unsignalled entry, and the CQ signals its MSI-X vector (R62). Function, queue pair. -/
  | cqCoalesceTimeout (t fn qp : Nat)
  /-- PCIE_PERST_N assertion resets every function, discards fetched commands and starts headless hold (R65). -/
  | pcieReset (t : Nat)
  /-- A function-level reset resets one function and starts its tenant's headless hold (R65). Function. -/
  | functionLevelReset (t fn : Nat)
  /-- HOLD_MS has passed, and the tenant's unreleased tasks are revoked and its carriers muted (R66). Function. -/
  | headlessHoldEnd (t fn : Nat)
  /-- Release of POR_N with rails in tolerance starts the device in BOOT with every state reset (R617). The raw codes that the 12 rail monitors read (R618). -/
  | por (t : Nat) (raw : List Nat)
  /-- Every 1 ms the power controller rereads the rail monitors and enters BOOT once they are in tolerance (R618). The raw codes of the rail monitors; whether Melvi serves its step of R588 if this is a fatal error. -/
  | railMonitorPoll (t : Nat) (raw : List Nat) (serves : Bool)
  /-- VDD_AON below 1.62 V for 1 µs takes the device to OFF at once (R619). -/
  | aonUndervoltage (t : Nat)
  /-- RESET_N low or RESET_SCOPE SCOPE 2 resets the chip into BOOT, keeping domain A and the dump (R499). By RESET_N rather than by RESET_SCOPE. -/
  | warmReset (t : Nat) (pin : Bool)
  /-- The Dome selects and verifies a valid Melvi slot, burns the counter if due, and starts Melvi (R561). -/
  | domeBoot (t : Nat)
  /-- An unconfirmed Melvi fails to reach READY within 2 s, and the Dome erases its header and reboots (R562). -/
  | bootFallback (t : Nat)
  /-- Start-up finishes and the device enters READY (R477). -/
  | bootComplete (t : Nat)
  -- Time
  /-- REFCLK_TIM shows no edge for 100 ns, and the Ephemeris PLL holds its frequency (R77). -/
  | refclkLoss (t : Nat)
  /-- The Ephemeris PLL relocks after REFCLK_TIM returns (R77). -/
  | refclkRestored (t : Nat)
  /-- At FRC F the new RATE, OFFSET and epoch take effect and S absorbs the step (R80). Under a root in a cluster: the OFFSET step and epoch. -/
  | timeAdjustApply (t : Nat) (root : Option (Int × Nat))
  /-- A PPS_IN edge is timestamped and optionally posted (R87). Width of the pulse in ns. -/
  | ppsCapture (t widthNs : Nat)
  /-- The PPS window closes without an edge (R89). -/
  | ppsMissing (t : Nat)
  /-- A radio-frame, subframe, slot or symbol strobe is issued when timeline time reaches its nominal time (R95). Cell; none for the reference timeline. -/
  | timelineStrobe (t : Nat) (cell : Option Nat)
  /-- A pending timeline anchor takes effect at its radio-frame start and the command completes (R97). Cell. -/
  | anchorEffect (t cell : Nat)
  /-- The cluster servo adjusts a member's RATE, at most once per 1 ms (R100). The new RATE, the measured offset in ns, and whether the measurement came over Ethernet. -/
  | servoRateUpdate (t rate : Nat) (offsetNs : Int) (viaEth : Bool)
  -- Scheduler
  /-- A TIMED gate's strobe plus delay arrives and the gate is decremented (R113). Gate. -/
  | timedGateExpiry (t g : Nat)
  /-- A dispatcher gives an idle engine the head task of the highest-priority ready FIFO (R119). -/
  | dispatch (t e : Nat)
  /-- After the remote-dispatch wait, a REMOTE_OK task is sent to a peer advertising an idle engine (R136). Task. -/
  | remoteDispatch (t id : Nat)
  /-- A peer returns a remote task's finish status to the originating device (R386). Task and the status that the peer reports. -/
  | remoteFinish (t id : Nat) (st : Status)
  /-- A task finishes on its engine, moves to DONE_HELD and signals its DONE_GATE (R111). -/
  | taskFinish (t e : Nat)
  /-- A held task whose turn has come makes its writes durable, commits HARQ, signals OUT_GATE and posts its completion (R126). Task. -/
  | release (t id : Nat)
  /-- The VDE finishes zeroing X-RAM and Y-RAM after a task leaves and becomes idle (R153). -/
  | engineZeroingDone (t e : Nat)
  /-- The yield timer reaches 0 and the engine enters the kernel's trap handler (R168). -/
  | yieldTrap (t e : Nat)
  /-- The trap grace expires without a yield and the kernel is aborted with DEADLINE_MISSED (R168). -/
  | yieldAbort (t e : Nat)
  /-- A fixed-function engine ends a unit of work and yields, applying revoke, skip or pre-emption (R122). -/
  | unitBoundary (t e : Nat)
  /-- A run-ahead decoder rereads its readiness counter every 1 µs (R261). -/
  | runAheadPoll (t e : Nat)
  -- VDE instructions (chapter 06)
  /-- Vector word carrying only its moves (R183). -/
  | vnop (t e : Nat)
  /-- Wrapping lane-wise addition (R183). -/
  | vadd (t e : Nat)
  /-- Wrapping lane-wise subtraction (R183). -/
  | vsub (t e : Nat)
  /-- Saturating lane-wise addition (R183). -/
  | vaddS (t e : Nat)
  /-- Saturating lane-wise subtraction (R183). -/
  | vsubS (t e : Nat)
  /-- Bitwise AND of vectors (R183). -/
  | vand (t e : Nat)
  /-- Bitwise OR of vectors (R183). -/
  | vor (t e : Nat)
  /-- Bitwise XOR of vectors (R183). -/
  | vxor (t e : Nat)
  /-- Vector copy (R183). -/
  | vmov (t e : Nat)
  /-- Arithmetic right shift of real lanes (R183). -/
  | vshr (t e : Nat)
  /-- Saturating left shift of real lanes (R183). -/
  | vshlS (t e : Nat)
  /-- Signed lane-wise minimum (R183). -/
  | vmin (t e : Nat)
  /-- Signed lane-wise maximum (R183). -/
  | vmax (t e : Nat)
  /-- Complex conjugate with saturating negation (R183). -/
  | vconj (t e : Nat)
  /-- Saturating high-half real multiply (R183). -/
  | vmulH (t e : Nat)
  /-- Saturating high-half complex multiply (R183). -/
  | vcmulH (t e : Nat)
  /-- Broadcasts a scalar into every lane (R183). -/
  | vsplat (t e : Nat)
  /-- Extracts one complex lane into a scalar (R183). -/
  | vget (t e : Nat)
  /-- Complex multiply-accumulate into an accumulator (R183). -/
  | vmac (t e : Nat)
  /-- Conjugating complex multiply-accumulate (R183). -/
  | vmacC (t e : Nat)
  /-- Complex multiply-subtract from an accumulator (R183). -/
  | vmsu (t e : Nat)
  /-- Real multiply-accumulate (R183). -/
  | vmacR (t e : Nat)
  /-- Complex multiply into an accumulator (R183). -/
  | vmul (t e : Nat)
  /-- Complex multiply-accumulate with a P-bus operand (R183). -/
  | vmacP (t e : Nat)
  /-- Dual complex multiply-accumulate into two accumulators (R161). -/
  | vmacD (t e : Nat)
  /-- Dual conjugating complex multiply-accumulate (R183). -/
  | vmacDc (t e : Nat)
  /-- Dual real multiply-accumulate (R183). -/
  | vmacDr (t e : Nat)
  /-- One FIR tap accumulating and shifting the delay line (R163). -/
  | ftap (t e : Nat)
  /-- Two-coefficient FIR tap into two accumulators (R163). -/
  | ftapD (t e : Nat)
  /-- Clears an accumulator (R183). -/
  | vclr (t e : Nat)
  /-- Accumulates a shifted vector into an accumulator (R183). -/
  | vacc (t e : Nat)
  /-- Adds one accumulator into another (R183). -/
  | vadda (t e : Nat)
  /-- Sums the lanes of an accumulator into lane 0 (R183). -/
  | vsuma (t e : Nat)
  /-- Scalar word carrying only its moves (R185). -/
  | snop (t e : Nat)
  /-- Scalar addition (R185). -/
  | add (t e : Nat)
  /-- Scalar addition of an immediate (R185). -/
  | addI (t e : Nat)
  /-- Scalar subtraction (R185). -/
  | sub (t e : Nat)
  /-- Scalar subtraction of an immediate (R185). -/
  | subI (t e : Nat)
  /-- Scalar bitwise AND (R185). -/
  | and (t e : Nat)
  /-- Scalar bitwise AND with an immediate (R185). -/
  | andI (t e : Nat)
  /-- Scalar bitwise OR (R185). -/
  | or (t e : Nat)
  /-- Scalar bitwise OR with an immediate (R185). -/
  | orI (t e : Nat)
  /-- Scalar bitwise XOR (R185). -/
  | xor (t e : Nat)
  /-- Scalar bitwise XOR with an immediate (R185). -/
  | xorI (t e : Nat)
  /-- Scalar multiply, low 32 bits (R185). -/
  | mul (t e : Nat)
  /-- Scalar multiply by an immediate (R185). -/
  | mulI (t e : Nat)
  /-- Scalar left shift (R185). -/
  | shl (t e : Nat)
  /-- Scalar left shift by an immediate (R185). -/
  | shlI (t e : Nat)
  /-- Scalar logical right shift (R185). -/
  | shr (t e : Nat)
  /-- Scalar logical right shift by an immediate (R185). -/
  | shrI (t e : Nat)
  /-- Scalar arithmetic right shift (R185). -/
  | sar (t e : Nat)
  /-- Scalar arithmetic right shift by an immediate (R185). -/
  | sarI (t e : Nat)
  /-- Signed less-than compare (R185). -/
  | slt (t e : Nat)
  /-- Signed less-than compare with an immediate (R185). -/
  | sltI (t e : Nat)
  /-- Unsigned less-than compare (R185). -/
  | sltu (t e : Nat)
  /-- Unsigned less-than compare with an immediate (R185). -/
  | sltuI (t e : Nat)
  /-- Equality compare (R185). -/
  | seq (t e : Nat)
  /-- Equality compare with an immediate (R185). -/
  | seqI (t e : Nat)
  /-- Signed scalar minimum (R185). -/
  | min (t e : Nat)
  /-- Signed scalar minimum with an immediate (R185). -/
  | minI (t e : Nat)
  /-- Signed scalar maximum (R185). -/
  | max (t e : Nat)
  /-- Signed scalar maximum with an immediate (R185). -/
  | maxI (t e : Nat)
  /-- Copies one scalar-side register to another (R185). -/
  | movG (t e : Nat)
  /-- Adds a small immediate between scalar-side registers (R185). -/
  | addG (t e : Nat)
  /-- Loads an immediate into a register (R186). -/
  | ldi (t e : Nat)
  /-- Loads a data-section address into a register (R186). -/
  | lda (t e : Nat)
  /-- 32-bit scalar load through a pointer (R186). -/
  | lds (t e : Nat)
  /-- 32-bit scalar store through a pointer (R186). -/
  | sts (t e : Nat)
  /-- 64-byte vector load through a pointer (R186). -/
  | vld (t e : Nat)
  /-- 64-byte vector store through a pointer (R186). -/
  | vst (t e : Nat)
  /-- 64-byte read of P-RAM into a vector register (R186). -/
  | vldp (t e : Nat)
  /-- Saturating store of an accumulator's complex lanes (R162). -/
  | vstS (t e : Nat)
  /-- Saturating store of an accumulator's real parts (R186). -/
  | vstSRe (t e : Nat)
  /-- Control no-operation (R187). -/
  | nop (t e : Nat)
  /-- Unconditional branch (R187). -/
  | br (t e : Nat)
  /-- Branch when a scalar is zero (R187). -/
  | brz (t e : Nat)
  /-- Branch when a scalar is non-zero (R187). -/
  | brnz (t e : Nat)
  /-- Branch when a scalar is negative (R187). -/
  | brlt (t e : Nat)
  /-- Branch when a scalar is non-negative (R187). -/
  | brge (t e : Nat)
  /-- Saves the return offset in S31 and branches (R187). -/
  | call (t e : Nat)
  /-- Branches to the offset in S31 (R188). -/
  | ret (t e : Nat)
  /-- Returns from the yield trap handler (R194). -/
  | rtt (t e : Nat)
  /-- Starts a zero-overhead loop counted by a scalar (R190). -/
  | loop (t e : Nat)
  /-- Starts a zero-overhead loop with an immediate count (R190). -/
  | loopI (t e : Nat)
  /-- Yields, acting on a pending revoke, skip or pre-emption (R167). -/
  | yield (t e : Nat)
  /-- Ends the kernel after draining stores and EDMA; the task finishes (R189). -/
  | exit (t e : Nat)
  /-- Ends the kernel; the task finishes as failed with the given status (R189). -/
  | exitF (t e : Nat)
  -- Fixed-function engines
  /-- Matrix engine complex matrix product in BFP16 (R216). -/
  | matmul (t e : Nat)
  /-- Matrix engine Gram matrix X Xᴴ (R217). -/
  | gram (t e : Nat)
  /-- Matrix engine diagonally loaded Hermitian solve (R219). -/
  | solve (t e : Nat)
  /-- Matrix engine computation of per-bundle beam weights (R221). -/
  | weights (t e : Nat)
  /-- Matrix engine application of weight sets to PRB records (R225). -/
  | beamApply (t e : Nat)
  /-- Time-to-frequency transform of symbols into PRB records (R236). -/
  | fft (t e : Nat)
  /-- Frequency-to-time transform of PRB records into samples (R236). -/
  | ifft (t e : Nat)
  /-- PRACH preamble detection over frequency-domain rows (R245). -/
  | detect (t e : Nat)
  /-- LDPC decoding with HARQ combining of transport blocks (R259). -/
  | ldpcDecode (t e : Nat)
  /-- LDPC encoding and rate matching of transport blocks (R269). -/
  | ldpcEncode (t e : Nat)
  /-- CRC-aided list decoding of polar code blocks (R271). -/
  | polarDecode (t e : Nat)
  /-- Polar encoding and rate matching of blocks (R271). -/
  | polarEncode (t e : Nat)
  /-- Turbo decoding of LTE code blocks from triplets (R273). -/
  | turboDecode (t e : Nat)
  /-- Turbo encoding and rate matching of LTE transport blocks (R273). -/
  | turboEncode (t e : Nat)
  /-- Wrap-around Viterbi decoding of tail-biting convolutional blocks (R274). -/
  | tbccDecode (t e : Nat)
  /-- NR HARQ combining and storage without decoding (R275). -/
  | combineNr (t e : Nat)
  /-- LTE rate dematching, HARQ combining and triplet output (R273). -/
  | combineLte (t e : Nat)
  -- DMA
  /-- Kernel code sets GO of an EDMA channel, starting its descriptor (R171). Engine, channel. -/
  | edmaGo (t e c : Nat)
  /-- GO on an idle BDMA channel copies the shadow set and starts the transfer (R441). Block (region · 4 + block), channel. -/
  | bdmaGo (t blk c : Nat)
  /-- Setting ARM arms hand-over of the shadow set at completion, or acts as GO on an idle channel (R441). Block, channel. -/
  | bdmaArm (t blk c : Nat)
  /-- A write to the shadow descriptor is made, disarms, or is refused with SHADOW_COLLIDE (R442). Block, channel, offset, bytes; whether the write lands in the completion cycle. -/
  | bdmaShadowWrite (t blk c off : Nat) (bs : List Byte) (atCompletion : Bool)
  /-- A DMA transfer completes, sets DONE and may hand over the armed shadow set (R434). Channel; what the far sides contribute. -/
  | dmaTransferDone (t : Nat) (r : DmaRef) (env : DmaEnv)
  -- On-chip network
  /-- A target receives a request packet, checks its initiator and serves it (R411). The request; the link on which its header parity was lost, if any; data units with parity errors, by hop and unit. -/
  | meshRequest (t : Nat) (r : MeshReq) (hdrLost : Option Nat) (parity : List (Nat × Nat))
  /-- A response packet arrives at the initiator's block port (R400). Block port, initiator, class, tag of the request; the latency in ns. -/
  | meshResponse (t blk init cls tag ns : Nat)
  /-- A target receives a slot request and grants slots when free (R408). Block port, initiator, target, class, slots. -/
  | rsv (t blk init target cls n : Nat)
  /-- A target receives unused slots back (R408). Target, class, slots. -/
  | rsvReturn (t target cls n : Nat)
  /-- A block port receives granted slots (R408). Block port, target, class. -/
  | gnt (t blk target cls : Nat)
  /-- Granted slots unused for 10 µs are returned with RSV_RETURN (R408). Block port, target, class. -/
  | slotReturnTimeout (t blk target cls : Nat)
  /-- A request has no response after 1 ms and is completed with BUS_ERROR (R413). Block port, initiator, class, tag. -/
  | meshTimeout (t blk init cls tag : Nat)
  /-- A block port receives ROUTE_REFUSED and resends on the alternate route (R419). The request that was refused; its POISON units beyond those it was sent with meet a parity error on the alternate. -/
  | routeRefusedRetry (t : Nat) (r : MeshReq)
  /-- A draining router becomes empty and the epoch switch completes (R418). Router (region). -/
  | routerDrained (t r : Nat)
  /-- A router not empty 100 µs after DRAINING is switched anyway (R420). Router (region). -/
  | routerDrainTimeout (t r : Nat)
  /-- At the end of a period every counter set is copied to a snapshot and restarted (R423). -/
  | photometerPeriod (t : Nat)
  -- Memory
  /-- Melvi copies new region log entries into the device log (R463). Region. -/
  | errlogCopy (t r : Nat)
  /-- A stack's temperature has moved 15 °C and its interface is retrained (R455). Stack; its temperature in °C. -/
  | hbmRetrain (t stack temp : Nat)
  /-- Retraining ends and waiting requests are served (R455). Stack. -/
  | hbmRetrainDone (t stack : Nat)
  -- Power
  /-- A block answers AGREE or REFUSE to PREPARE, leading to COMMIT or ABORT of the sleep (R483). Block. -/
  | blockSleepAnswer (t blk : Nat)
  /-- A block without an answer 100 µs after PREPARE counts as refusing (R484). -/
  | sleepAnswerTimeout (t : Nat)
  /-- A region under an IDLE policy enters IDLE after IDLE_HOLD_US of quiet (R480). Region. -/
  | idleEntry (t r : Nat)
  /-- The power controller lowers or raises a region one level by temperature (R482). Region. -/
  | throttleStep (t r : Nat)
  /-- The power controller's periodic urgent request converts the 12 die thermal sensors (R518). The raw codes of the 12 die thermal sensors; whether Melvi serves its step of R588 if this is a fatal error. -/
  | urgentBurst (t : Nat) (codes : List Nat) (serves : Bool)
  /-- A wake rule or PCIE_PERST_N takes the device out of WATCH (R496). By the release of PCIE_PERST_N rather than by a rule. -/
  | watchWake (t : Nat) (perst : Bool)
  -- Lanes
  /-- Receive amplitude stays below LOS_MV for 1 µs (R296). Lane id; physical lane, the amplitude it stayed below, for how long. -/
  | losSet (t n : Nat) (k : LevelEv)
  /-- Receive amplitude stays above LOS_MV + 20 mV for 1 µs (R296). Lane id; physical lane, the amplitude it stayed above, for how long. -/
  | losClear (t n : Nat) (k : LevelEv)
  /-- The CDR or DLL loses frequency or phase lock (R297). Lane id; physical lane, its frequency offset and how long its phase detector was saturated. -/
  | lolSet (t n : Nat) (k : ClockEv)
  /-- The CDR or DLL frequency returns within 200 ppm for 10 µs (R297). Lane id; physical lane, its frequency offset and how long its phase detector was saturated. -/
  | lolClear (t n : Nat) (k : ClockEv)
  /-- Stage 2 completes when CDR or DLL lock holds (R289). Lane id, physical lane; the frequency offset in ppm. -/
  | lockComplete (t n k : Nat) (freq : Int)
  /-- Stage 3 completes on good EQI or its time-out above the floor (R289). Lane id, physical lane; whether by timeout; the taps it left. -/
  | adaptationComplete (t n k : Nat) (timeout : Bool) (taps : List Int)
  /-- Stage 4 completes on 64 valid sync headers (R289). Lane id, physical lane; found inverted. -/
  | blockLock (t n k : Nat) (inv : Bool)
  /-- Stage 5 decides the lane polarity from 64 blocks (R291). Lane id, physical lane; the 64 blocks as received: sent as a control block, eight descrambled bytes. -/
  | polarityDetect (t n k : Nat) (inv : List (Bool × List Byte))
  /-- Stage 6 maps the physical lanes of a peer port to logical lanes (R292). Lane id; the logical numbers that the physical lanes carry. -/
  | laneOrder (t n : Nat) (nums : List Nat)
  /-- Stage 7 aligns the lanes of a peer port on SEQ (R293). Lane id; arrival times by physical lane. -/
  | deskew (t n : Nat) (arr : List Nat)
  /-- The training handshake completes and the transmitter starts traffic (R288). Lane id. -/
  | handshake (t n : Nat)
  /-- A valid training block is received and its fields recorded (R287). Lane id; sent as a control block; its eight bytes. -/
  | trainingBlockRx (t n : Nat) (ctl : Bool) (b : List Byte)
  /-- 16 invalid sync headers within 64 blocks restart the lane from stage 4 (R294). Lane id, physical lane; bad sync headers. -/
  | syncHeaderLoss (t n k count : Nat)
  /-- A bring-up stage misses its time-out and the receiver holds 1 ms before restarting (R290). Lane id. -/
  | bringupTimeout (t n : Nat)
  /-- The 1 ms hold ends and the receiver restarts from stage 1 (R290). Lane id. -/
  | bringupRestart (t n : Nat)
  /-- EQI is recomputed from a millisecond of slicer samples (R295). Lane id, physical lane; the slicer samples. -/
  | eqiUpdate (t n k : Nat) (v : EyeEv)
  -- Tvednas line format
  /-- The framer meets a FAW or an expected FAW position and applies the hunt or sync rules (R320). Lane; block position; all bits of the FAW match; the FN field; the justification; the header checks. -/
  | fawRx (t n pos : Nat) (exact : Bool) (fn : Nat) (just : Int) (chk : Bool)
  /-- A received TLF frame is taken whole: overhead, BIP, labels, trails and status words (R312). Lane; the blocks of the frame as received. -/
  | tlfFrameRx (t n : Nat) (line : List Nat)
  /-- A TLF frame is formed with justification, overhead and TSI slot contents (R310). Lane. -/
  | tlfFrameTx (t n : Nat)
  /-- A defect's raw condition has held for its set time (R322). Of a trail rather than a lane; its id; defect. -/
  | tlfDefectSet (t : Nat) (trail : Bool) (id d : Nat)
  /-- A defect's raw condition has been absent for its clear time (R322). Of a trail rather than a lane; its id; defect. -/
  | tlfDefectClear (t : Nat) (trail : Bool) (id d : Nat)
  /-- A member's SF has lasted HOLD_OFF and raises a signal fail request (R327). Lane. -/
  | sfHoldoffExpiry (t n : Nat)
  /-- The protection selector changes member at the next FAW (R328). Group. -/
  | apsSwitched (t n : Nat)
  /-- Wait-to-restore ends and a revertive group reverts (R329). Group. -/
  | wtrExpiry (t n : Nat)
  /-- APS modes have disagreed for 50 ms (R329). Group. -/
  | apsMismatch (t n : Nat)
  /-- A scheduled page switch takes effect at the multiframe FAW (R335). Lane. -/
  | tsiSwitched (t n : Nat)
  /-- The new standby page has its copy, is unsealed, and the switch command completes (R335). Lane. -/
  | tsiCopyWindowEnd (t n : Nat)
  /-- A second of T ends and each lane and trail second is classified and binned (R336). -/
  | pmSecond (t : Nat)
  -- Ethernet
  /-- A received Ethernet frame is classified and delivered or dropped (R351). Port; the frame from its destination address, without FCS; what else its reception finds. -/
  | ethFrameRx (t n : Nat) (f : List Byte) (env : EthEnv)
  /-- The device rereads a transmit descriptor every 10 µs while OWN is clear (R352). Port; the descriptor as the device reads it. -/
  | hostTxPoll (t n : Nat) (desc : List Byte)
  /-- A host transmit frame is checked, timestamped and sent or refused (R354). Port; the frame as read from host memory, and whether with poison. -/
  | hostTxFrame (t n : Nat) (frame : List Byte) (poison : Bool)
  /-- A downlink symbol's released records are sent as U-plane frames TX_ADVANCE_NS before its strobe (R360). Stream; timeline point. -/
  | uplaneTx (t id point : Nat)
  /-- A C-plane message is sent at its SEND_AT less TX_ADVANCE_NS (R362). Stream. -/
  | cplaneTx (t id : Nat)
  /-- The window of a slot's last symbol closes and the status word is written (R361). Stream; timeline point. -/
  | uplinkWindowClose (t id point : Nat)
  /-- No progress for 50 µs triggers go-back-N retransmission (R365). Device, class. -/
  | peerRetransmit (t d cls : Nat)
  /-- An idle peer link sends a keepalive carrying the timing exchange (R365). Device, class. -/
  | peerKeepalive (t d cls : Nat)
  /-- The Damper judges a stream's record or frames for a symbol and sends, zeroes or mutes them (R577). Of a trail rather than a stream; its id; timeline point. -/
  | damperCheck (t : Nat) (trail : Bool) (id point : Nat)
  -- Cluster and migration
  /-- A request from a peer through the peer window is admitted or refused (R376). Device; the request; the migration it belongs to; the latency in ns. -/
  | peerRequest (t dev : Nat) (r : MeshReq) (mig : Option Nat) (lat : Nat)
  /-- A relaying member forwards or discards a peer-port frame for another device (R375). Source and destination device; hops so far; class; tag; the mesh packet. -/
  | peerRelay (t src dst hops cls tag : Nat) (packet : List Byte)
  /-- Members exchange idle-engine summaries periodically (R385). Device; its summary; its time less this device's in 2⁻³² ns; it has rejoined. -/
  | idleSummary (t dev : Nat) (sm : Summary) (step : Int) (rejoined : Bool)
  /-- No frame from a member for 200 µs takes the path down (R383). Device. -/
  | pathDown (t dev : Nat)
  /-- The target receives PAIR and checks the source's timeline parameters (R390). Migration; device; own and peer cell; numerology; TOFF; SFN_BASE; switch frame. -/
  | migPair (t id dev cell peerCell num : Nat) (toff : Int) (sfnBase sfn : Nat)
  /-- The source receives READY_TO_COPY and starts Mirror and pre-copy (R390). -/
  | migReadyToCopy (t id : Nat)
  /-- Pre-copy is applied and the target sends READY (R390). -/
  | migPrecopyDone (t id : Nat)
  /-- At t_S − 1.5 ms the source sends COMMIT or aborts (R390). -/
  | migCommit (t id : Nat)
  /-- The source receives COMMIT_ACK (R390). -/
  | migCommitAck (t id : Nat)
  /-- At t_S − 1 ms each side commits and posts MIGRATE_COMMITTED (R390). -/
  | migCommitPoint (t id : Nat)
  /-- At the switch instant the target cell enters SERVICE (R390). -/
  | migSwitch (t id : Nat)
  /-- The source's last task is FREE, FINAL is sent and both commands complete (R390). -/
  | migFinal (t id : Nat)
  /-- A migration aborts before the commit point and both sides undo their switches (R393). Migration; the cause that the peer tells, if it does. -/
  | migAbort (t id : Nat) (told : Option Nat)
  -- Finderscope
  /-- A stream's listening window opens and its chain restarts (R503). Stream. -/
  | listenWindowOpen (t n : Nat)
  /-- A stream's listening window closes (R503). Stream; what its reception has seen. -/
  | listenWindowClose (t n : Nat) (seen : List ChimeEv)
  /-- 96 symbols pass without a sync word (R510). Stream; what its reception has seen. -/
  | chimeSyncTimeout (t n : Nat) (seen : List ChimeEv)
  /-- 192 coded symbols are decoded and an accepted chime becomes a CHIME event (R511). Stream; what its reception has seen; the soft symbols. -/
  | chimeDecode (t n : Nat) (seen : List ChimeEv) (llrs : List Int)
  /-- 16 invalid samples end a reception (R510). Stream; what its reception has seen. -/
  | chimeLost (t n : Nat) (seen : List ChimeEv)
  /-- An occasion's window closes and detected preambles become PRACH events (R514). Stream; the samples of the occasion. -/
  | prachWatchDetect (t n : Nat) (samples : List Int)
  /-- An ENERGY_MS period ends and the level is compared with ENERGY_TH (R522). Stream; energy sum and number of samples. -/
  | energyEvent (t n sum cnt : Nat)
  /-- The sequencer starts a pass of conversions (R517). -/
  | adcPassStart (t : Nat)
  /-- A conversion completes, is calibrated, filtered and compared with rule thresholds (R515). The raw code. -/
  | adcConversion (t raw : Nat)
  /-- A Finderscope timer expires (R522). Timer. -/
  | fscTimerExpiry (t i : Nat)
  /-- LEAD_US before a rule's timeline point the TIMELINE event occurs (R522). Rule. -/
  | timelineEvent (t i : Nat)
  -- Collimator and the Dome
  /-- Every 1 ms the Collimator moves a lane tap one LSB towards its target (R538). Lane id, data lane; the estimates; the tap stepped. -/
  | laneTapStep (t n k : Nat) (est : Option (List Int)) (tap : Nat)
  /-- Every 100 ms the monitor slicer sweeps the eye (R537). Lane id, data lane; width and height. -/
  | eyeSweep (t n k w h : Nat)
  /-- After AVG_SLOTS slots the array gains and phases are estimated and a set taught (R541). Cell; gain and phase by element; the residual; delays by element. -/
  | arrayEstimate (t cell : Nat) (est : List (Int × Int)) (resid : Int) (delays : List Int)
  /-- Every 10 ms applied array factors step towards target and changed sets are published (R543). Cell. -/
  | calPublish (t cell : Nat)
  /-- Every 60 s ageing monitors are read and TRIM may increment (R548). Region; the drift in ppm. -/
  | ageingRead (t r : Nat) (drift : Int)
  /-- A debug challenge expires 60 s after issue (R571). -/
  | challengeExpiry (t : Nat)
  -- Faults
  /-- An engine-internal fault fails its task and Melvi resets the engine (R584). Engine; by an uncorrectable error rather than a hang. -/
  | engineFault (t e : Nat) (ue : Bool)
  /-- An engine not back in service 2 ms after reset is fenced automatically (R584). -/
  | engineRecoveryTimeout (t e : Nat)
  /-- A block control fault fences the block automatically (R585). Block; whether Melvi serves if this is a fatal error. -/
  | blockFault (t blk : Nat) (serves : Bool)
  /-- A region-fatal error fences the region and moves or fails its work (R586). Region; cause; whether Melvi serves if this is fatal to the chip. -/
  | fatalRegion (t r cause : Nat) (serves : Bool)
  /-- A chip-fatal error asserts TOCSIN_N, mutes egress and enters FAULT (R588). Cause; source; whether Melvi serves. -/
  | fatalChip (t cause source : Nat) (serves : Bool)
  /-- Melvi finishes writing the fatal dump and the host copy (R592). The sections that the manual leaves to Melvi: number and bytes. -/
  | dumpComplete (t : Nat) (env : List (Nat × List Byte))
  /-- Melvi fails to dump in time and the Dome writes a last-gasp record and serves the mailbox (R590). By the watchdog rather than by Melvi's silence after a fatal error. -/
  | domeTakeover (t : Nat) (watchdog : Bool)
  /-- A fence not drained within WAIT_MS is withdrawn or forced (R597). -/
  | fenceWaitTimeout (t : Nat)
  /-- A self-test completes and its result is reported (R599). Kind and target; words that failed (address, syndrome, count); engines that failed. -/
  | bistDone (t kind target : Nat) (words : List (Nat × Nat × Nat)) (logic : List Nat)
  -- Pins, arrivals and completions
  /-- VDD_AON reaches tolerance, domain A and XTAL_AON start, and TOCSIN_N is driven low while POR_N is low (R618). -/
  | vddAonInTolerance (t : Nat)
  /-- POR_N goes low, taking precedence over every other reset and taking the device to OFF with TOCSIN_N low (R619). -/
  | porNLow (t : Nat)
  /-- PCIE_PERST_N is released after a wake, and the device stops asserting PCIE_WAKE_N (R522). -/
  | pciePerstNRelease (t : Nat)
  /-- The host clears a vector or function mask, and the device sends the message for a set pending bit (R62). Function; vector, or none for the function mask. -/
  | msixMaskClear (t fn : Nat) (vec : Option Nat)
  /-- A JTAG instruction such as IDCODE, EXTEST or a debug instruction is executed, with debug instructions gated by the unlock (R615). The instruction. -/
  | jtagInstruction (t : Nat) (op : JtagOp)
  /-- An Ethernet lane or port reaches PCS up after alignment markers lock, completing stage 8 and posting ETH_LINK (R289). Lane. -/
  | pcsUp (t n : Nat)
  /-- A running PRBS checker sees 64 error-free bits, locks and starts counting (R299). Lane id, instance and bits. -/
  | prbsCheckerLock (t : Nat) (n : PrbsEv)
  /-- A locked PRBS checker sees 64 errors within 1,024 bits, loses lock and hunts again (R299). Lane id, instance and compared bits. -/
  | prbsCheckerRelock (t : Nat) (n : PrbsEv)
  /-- A peer receives a remote task descriptor and places it at the head of its FIFO in the advertised region (R386). Device; its task id; the rebased descriptor; region. -/
  | remoteTaskArrival (t dev rid : Nat) (desc : List Byte) (region : Nat)
  /-- A peer receives a revoke, skip or deadline for a remote task and marks it to leave at its next yield (R386). Device; its task id; status. -/
  | remoteRevokeArrival (t dev rid : Nat) (st : Status)
  /-- The migration target receives COMMIT and answers COMMIT_ACK (R390). -/
  | commitArrival (t id : Nat)
  /-- A waking region finishes its wake (PLL lock, zeroing, kernel reload) and becomes ACTIVE, and held tasks move into its lists (R487). Region. -/
  | regionActive (t r : Nat)
  /-- A region's voltage and frequency change finishes within 20 µs, and a waiting PERF_LEVEL_SET completes (R482). Region. -/
  | levelChangeDone (t r : Nat)
  /-- An ADC self-calibration ends, writes offset and gain, and the paused sequencer resumes (R520). OFFSET and GAIN. -/
  | adcCalibrationDone (t : Nat) (offset : Int) (gain : Nat)
  /-- A command whose operation takes time (flash programming, zeroing, reload, drain) finishes and its completion is posted (R58). Number of the command. -/
  | commandCompletion (t id : Nat)
  /-- The 100 ms wait of CLUSTER_LEAVE ends, remaining remote tasks fail with BUS_ERROR, and the device leaves (R381). -/
  | leaveWaitRunsOut (t : Nat)
  /-- A joining device receives no keepalive from TIMING_PARENT within 100 ms and completes CLUSTER_JOIN with NOT_READY (R379). -/
  | joinKeepaliveTimeout (t : Nat)
  /-- A wake from WATCH with HBM retained finishes within 8 ms, reaching SERVICE or READY and performing the pending rule actions and WAKE_CELL (R496). -/
  | watchWakeComplete (t : Nat)
  /-- A reset engine or region has had its kernels reloaded and returns to service, and a waiting RESET_SCOPE completes (R584). Kind (0 engine, 1 block, 2 region) and target. -/
  | returnToService (t kind target : Nat)
  deriving DecidableEq, Repr, Inhabited

end Sys2Proof
end

