-- ==== Sys2Proof/Machine/Bytes.lean ====
section
/-! DEFINITION. Byte order and bit fields (R5): multi-byte fields are little-endian, bit 0 is the least
significant bit, byte offsets count from the first byte of the structure. -/

namespace Sys2Proof.Machine

/-- The number a little-endian run of bytes spells (R5). -/
def leNat : List Byte → Nat
  | [] => 0
  | b :: bs => b.toNat + 256 * leNat bs

/-- `n` little-endian bytes of a number, higher bits dropped (R5). -/
def leBytes : (n v : Nat) → List Byte
  | 0, _ => []
  | n + 1, v => BitVec.ofNat 8 v :: leBytes n (v / 256)

/-- The unsigned field of `n` bytes at offset `off`; a byte past the end reads 0. -/
def fld (p : List Byte) (off n : Nat) : Nat := leNat ((p.drop off).take n)

/-- Bits [hi:lo] of a number. -/
def bits (v hi lo : Nat) : Nat := (v >>> lo) % 2 ^ (hi + 1 - lo)

/-- One bit of a number. -/
def bit (v i : Nat) : Bool := v.testBit i

/-- A truth value as a bit. -/
def b2n (b : Bool) : Nat := if b then 1 else 0

/-- The two's complement reading of the low `w` bits. -/
def sgn (w v : Nat) : Int :=
  let u := v % 2 ^ w
  if u < 2 ^ (w - 1) then (u : Int) else (u : Int) - 2 ^ w

/-- The two's complement encoding of an integer in `w` bits. -/
def unsgn (w : Nat) (v : Int) : Nat := (v % (2 : Int) ^ w).toNat

/-- A signed field. -/
def sfld (p : List Byte) (off n : Nat) : Int := sgn (8 * n) (fld p off n)

/-- An integer held to a range. -/
def clampI (lo hi v : Int) : Int := if v < lo then lo else if hi < v then hi else v

/-- A count that stops at the top of a 32-bit counter. -/
def sat32 (v : Nat) : Nat := if 4294967295 < v then 4294967295 else v

/-- `n` zero bytes (R11: reserved bytes and bits read 0). -/
def zeros (n : Nat) : List Byte := List.replicate n 0

/-- Bytes cut or filled with zeros to a length. -/
def fit (n : Nat) (bs : List Byte) : List Byte := bs.take n ++ zeros (n - bs.length)

/-- Whether every byte is zero. -/
def allZero (bs : List Byte) : Bool := bs.all fun b => b == 0

/-- A run of bytes with the bytes at an offset replaced. -/
def splice (bs : List Byte) (off : Nat) (new : List Byte) : List Byte :=
  bs.take off ++ new ++ bs.drop (off + new.length)

/-- The indices of the set bits of a mask below `n`, rising. -/
def maskBits (m n : Nat) : List Nat := (List.range n).filter fun i => m.testBit i

/-- A set of small numbers as a mask. -/
def maskOf (l : List Nat) : Nat := l.foldl (fun m i => m ||| (1 <<< i)) 0

/-- One check of a parameter layout (R10, R18): what the bytes at an offset may hold. -/
inductive Chk where
  /-- `len` reserved bytes at `off`. -/
  | rsv (off len : Nat)
  /-- Reserved bits of the `n`-byte field at `off`: those set in `mask`. -/
  | bits (off n mask : Nat)
  /-- An unsigned field within a range. -/
  | rng (off n lo hi : Nat)
  /-- A signed field within a range. -/
  | srng (off n : Nat) (lo hi : Int)
  /-- An unsigned field with one of the listed encodings. -/
  | oneOf (off n : Nat) (vs : List Nat)
  /-- Part of a field, bits [hi:lo], within a range. -/
  | brng (off n hi lo min max : Nat)
  /-- A condition over several fields, already evaluated. -/
  | cond (ok : Bool)
  deriving DecidableEq, Repr

/-- Whether a parameter layout meets one check. -/
def chkOk (p : List Byte) : Chk → Bool
  | .rsv off len => allZero ((p.drop off).take len)
  | .bits off n mask => fld p off n &&& mask == 0
  | .rng off n lo hi => lo ≤ fld p off n && fld p off n ≤ hi
  | .srng off n lo hi => lo ≤ sfld p off n && sfld p off n ≤ hi
  | .oneOf off n vs => vs.contains (fld p off n)
  | .brng off n hi lo mn mx => mn ≤ bits (fld p off n) hi lo && bits (fld p off n) hi lo ≤ mx
  | .cond ok => ok

/-- Whether a parameter layout meets all its checks. -/
def chkAll (p : List Byte) (cs : List Chk) : Bool := cs.all fun c => chkOk p c

end Sys2Proof.Machine
end

