-- ==== Sys2Proof/Machine/Geometry.lean ====
section
/-! DEFINITION. The fixed geometry of the part: regions, engines, identifiers, mesh positions (chapter 01). -/

namespace Sys2Proof.Machine

/-- Region kinds (Table 1-2). -/
inductive RegKind where
  | D | M | F | T | L | H | C
  deriving DecidableEq, Repr

/-- The kind of a region index 0 to 15 (Table 1-2). -/
def regKind (r : Nat) : RegKind :=
  if r < 8 then .D else if r < 10 then .M else if r < 12 then .F else if r = 12 then .T
  else if r = 13 then .L else if r = 14 then .H else .C

/-- Position of a region in the mesh (Table 1-3). -/
def regPos (r : Nat) : Nat × Nat :=
  match r with
  | 0 => (0, 0) | 1 => (1, 0) | 2 => (2, 0) | 3 => (3, 0)
  | 4 => (0, 3) | 5 => (1, 3) | 6 => (2, 3) | 7 => (3, 3)
  | 8 => (1, 1) | 9 => (2, 2) | 10 => (0, 1) | 11 => (3, 2)
  | 12 => (3, 1) | 13 => (2, 1) | 14 => (1, 2) | _ => (0, 2)

/-- Distance in mesh links between two regions (R119). -/
def hops (a b : Nat) : Nat :=
  let p := regPos a
  let q := regPos b
  (p.1 - q.1) + (q.1 - p.1) + (p.2 - q.2) + (q.2 - p.2)

/-- Blocks of a region: four, two in H0. -/
def regBlocks (r : Nat) : Nat := if r = 14 then 2 else 4

/-- Region memory size in bytes (Table 1-2); H0 has none. -/
def regMemSize (r : Nat) : Nat :=
  match regKind r with
  | .D => 8 * 1048576 | .M => 16 * 1048576 | .F => 24 * 1048576 | .T => 16 * 1048576
  | .L => 32 * 1048576 | .H => 0 | .C => 8 * 1048576

/-- Region of an engine address (Table 1-5). -/
def engRegion (e : Nat) : Nat := e / 32
/-- Block of an engine address. -/
def engBlock (e : Nat) : Nat := e / 8 % 4
/-- Engine number within its block. -/
def engIdx (e : Nat) : Nat := e % 8
/-- Block number over the chip: region · 4 + block. -/
def engBlk (e : Nat) : Nat := e / 8
/-- An engine address from its parts. -/
def mkEng (r b e : Nat) : Nat := r * 32 + b * 8 + e

/-- Whether an engine number is populated (Table 1-4, R16). -/
def engPop (e : Nat) : Bool :=
  let b := engBlock e
  let i := engIdx e
  e < 512 &&
  match regKind (engRegion e) with
  | .D => true
  | .M => i < 4
  | .F => if b < 2 then true else if b = 2 then i < 7 else true
  | .T => i < 5
  | .L => true
  | .H => b < 2 && i < 2
  | .C => if b = 2 then i < 4 else i = 0

/-- The task TYPE an engine serves (Table 4-2 over Table 1-4); none for an engine that takes no task. -/
def engType (e : Nat) : Option Nat :=
  let b := engBlock e
  let i := engIdx e
  if !engPop e then none else
  match regKind (engRegion e) with
  | .D => some 1
  | .M => some 2
  | .F =>
    if b < 2 then some 3
    else if b = 2 then (if i < 4 then some 4 else if i < 6 then some 5 else some 6)
    else (if i < 2 then some 7 else if i < 4 then some 8 else some 9)
  | .T => if i < 4 then some 10 else some 11
  | _ => none

/-- The engines of one type in a region, rising. -/
def enginesOf (r ty : Nat) : List Nat :=
  ((List.range 32).map fun i => r * 32 + i).filter fun e => engType e == some ty

/-- The regions that have engines of a type (Table 4-2). -/
def typeRegions (ty : Nat) : List Nat :=
  if ty = 1 then List.range 8
  else if ty = 2 then [8, 9]
  else if 3 ≤ ty && ty ≤ 9 then [10, 11]
  else if ty = 10 || ty = 11 then [12]
  else []

/-- An initiator id (Table 1-5, Table 1-6). -/
def initId (region block unit : Nat) : Nat := region * 256 + block * 64 + unit

/-- The command engine of C0 (Table 1-4). -/
def initCmd : Nat := initId 15 1 0
/-- The PCIe endpoint. -/
def initPcie : Nat := initId 15 0 0
/-- Melvi's first firmware processor. -/
def initMelvi : Nat := initId 15 2 0
/-- The Dome (Table 1-6). -/
def initDome : Nat := initId 15 3 0x3A
/-- An engine's own port. -/
def initEng (e : Nat) : Nat := initId (engRegion e) (engBlock e) (engIdx e)

/-- Base of a region window (R24). -/
def regBase (r : Nat) : Nat := 0x100000000000 + r * 0x100000000
/-- Base of a block window. -/
def blkBase (r b : Nat) : Nat := regBase r + 0x40000000 + b * 0x10000000
/-- Base of an engine window (Table 1-9). -/
def engBase (e : Nat) : Nat := blkBase (engRegion e) (engBlock e) + engIdx e * 0x1000000
/-- Base of a block's memory (Table 1-9). -/
def blkMemBase (r b : Nat) : Nat := blkBase r b + 0x08000000

/-- First byte of the Carillon area, of the dump and log area, and the end of HBM (Table 1-7). -/
def hbmCarillon : Nat := 0xBE0000000
def hbmDump : Nat := 0xBF0000000
def hbmEnd : Nat := 0xC00000000

/-- Quad (0 to 31) of a long-reach lane (R17). -/
def laneQuad (n : Nat) : Nat := n / 4
/-- L0 block of a long-reach lane (R17). -/
def laneBlock (n : Nat) : Nat := n / 32

/-- The engine types' priorities in distance order: regions of a list by hops from `r`, the lower index first at equal
distance (R119). -/
def byDistance (r : Nat) (rs : List Nat) : List Nat :=
  ((List.range 8).map fun d => rs.filter fun q => hops r q == d).flatten

end Sys2Proof.Machine
end

