-- ==== Sys2Proof/Config.lean ====
section
/-! DEFINITION. What one part fixes and the manual leaves open: free values and outside standards. None has a body,
so no proof can see a value; a claim about them holds whatever they are. -/

namespace Sys2Proof

/-- A free value: what the n-th open value of a run is. (Marked in the assumption log, entry 1.) -/
opaque Config.free : Nat → Nat

/-- The vendor ID that PCI-SIG has assigned to Hexgouth (R35). -/
opaque Config.vendorId : Nat

/-- The fused serial number of the part (Table 2-3: "fused"). -/
opaque Config.serial : Nat

/-- A byte of host memory or of another device's memory, as read at an FRC value and device address: outside this device, so
nothing constrains it. -/
opaque Config.outside : Nat → Nat → Nat

/-- A byte of a memory whose contents a self-test or a fatal error has lost (R586, R599): FRC of the loss, device address. -/
opaque Config.lostByte : Nat → Nat → Nat

/-- A byte of a gate table entry (R107): the gate's count, failing status, whether it has fired; byte of the entry. -/
opaque Config.gateByte : Nat → Nat → Nat → Nat → Nat

/-- Request-buffer slots of a target for a class of 1 to 3 (R408): the manual gives no number. -/
opaque Config.meshSlots : Nat → Nat → Nat
/-- Response buffer of a block port beyond the 65 units of the longest response (R406, R409): the manual gives no size. -/
opaque Config.meshRespExtra : Nat → Nat
/-- Melvi's pick among the routes it may build (R402): FRC of the loading, block, destination. -/
opaque Config.routeChoice : Nat → Nat → Nat → Nat
/-- Class-0 slots of a target that Melvi gives a block (R407): target, block. -/
opaque Config.standingSlots : Nat → Nat → Nat

/-! ## PRACH detection (R244, R245) -/

/-- The cyclic shifts of one root of restricted set type B, in ascending index, as 3GPP TS 38.211 and TS 36.211 give them: L, u,
Ncs. -/
opaque Config.prachShifts : Nat → Nat → Nat → List Nat
/-- The peak of a watched preamble over the noise, in units of 0.125 dB (R514): parameters with root and shift, samples after the NCO. -/
opaque Config.watchPeak : List Nat → List Int → Nat
/-- The noise estimate as a 16-bit field in units of 0.125 dB re full scale, of the correlation powers: their sum, their number. The
manual does not say what power is full scale. -/
opaque Config.prachNoise : Nat → Nat → Nat

/-! ## Channel coding: the clauses of TS 38.212 and TS 36.212 that chapter 09 names without stating them -/

/-- The non-zero entries of a row of a lifted base graph: base graph, set index of the lifting size, row; column and shift
(TS 38.212 Tables 5.3.2-2 and 5.3.2-3). -/
opaque Config.ldpcRow : Nat → Nat → Nat → List (Nat × Nat)
/-- The combination of A, E, CRC and flags is valid for polar coding (TS 38.212 clauses 5.3.1 and 5.4.1). -/
opaque Config.polarValid : List Nat → Bool
/-- The output bits of polar encoding and rate matching: parameters, bits with CRC. -/
opaque Config.polarCode : List Nat → List Bool → List Bool
/-- Successive-cancellation list decoding of a polar block (TS 38.212 clauses 5.3.1 and 5.4.1): parameters, list size, LLRs; the
paths as payload with CRC bits, most likely first, each with its metric in units of 0.125. -/
opaque Config.polarPaths : List Nat → Nat → List Int → List (List Bool × Nat)
/-- The predecessor that a Viterbi search keeps when two cost the same (R274, R509): pass, step, state. -/
opaque Config.viterbiTie : Nat → Nat → Nat → Bool
/-- METRIC of a tail-biting path of a cost in soft-value units (R274): the manual does not relate the two scales. -/
opaque Config.tbccMetric : Nat → Nat
/-- The parameters f1 and f2 of the turbo code's internal interleaver for a block size (TS 36.212 Table 5.1.3-3). -/
opaque Config.qpp : Nat → Nat × Nat
/-- The hard decisions of a turbo decoder: block size, iterations, the triplet's LLRs. -/
opaque Config.turboBits : Nat → Nat → List Int → List Bool

/-! ## The Dome (chapter 20): what a part is provisioned with, and the outside standards it uses -/

/-- OTP and boot flash as the part left manufacture and its board: byte at an offset (Tables 20-1, 20-3). -/
opaque Config.otp : Nat → Nat
opaque Config.flash : Nat → Nat
/-- ID_FW of a Melvi image, by its digest (Table 2-3). -/
opaque Config.fwVersion : List Nat → Nat
/-- SHAKE256 with a 64-byte output. -/
opaque Config.shake256 : List Nat → List Nat
/-- Falcon-1024: public key, digest, signature. -/
opaque Config.falconVerify : List Nat → List Nat → List Nat → Bool
/-- The identity key's signature of a digest (R558). -/
opaque Config.identitySign : List Nat → List Nat
/-- AES-256 key unwrap (RFC 3394): key-encryption key, blob; none when its integrity check fails. -/
opaque Config.keyUnwrap : List Nat → List Nat → Option (List Nat)
/-- MACsec (IEEE 802.1AE): suite and confidentiality, key, SSCI and salt, SCI, PN, bytes before the SecTAG with it, and the
payload; sealed payload with ICV, or, opening, the payload when the ICV holds. -/
opaque Config.macSeal : Nat → List Nat → List Nat → List Nat → Nat → List Nat → List Nat → List Nat
opaque Config.macOpen : Nat → List Nat → List Nat → List Nat → Nat → List Nat → List Nat → Option (List Nat)

/-! ## Others -/

/-- Gain in 10⁻⁹ dB and phase in 10⁻⁹ degrees of an array factor of zero, for which the manual states none (R535). -/
opaque Config.zeroFactor : Int × Int
/-- Hexgouth's JEP106 manufacturer code (R615). -/
opaque Config.jep106 : Nat
/-- The flash's SFDP tables announce 8D-8D-8D mode (R615). -/
opaque Config.flashOctal : Bool

end Sys2Proof
end

