-- ==== Sys2Proof/Machine/Routes.lean ====
section
/-! DEFINITION. Router ports, source routes, the route tables that Melvi builds, and the class arbiter (R13, R31, R32, R401, R402). A node is a region's
router, or 16, the always-on domain behind C0 port 6. -/

namespace Sys2Proof.Machine

/-- The region at a mesh position (Table 1-3). -/
def posRegion (x y : Nat) : Nat := ((List.range 16).find? fun r => regPos r == (x, y)).getD 16

/-- Where an output port of a router leads (Table 1-12); none where the router lacks it, port 0 (its own region) apart. -/
def portTo (r p : Nat) : Option Nat :=
  let x := (regPos r).1
  let y := (regPos r).2
  if 16 ≤ r then none
  else if p = 1 then (if 0 < y then some (posRegion x (y - 1)) else none)
  else if p = 2 then (if x < 3 then some (posRegion (x + 1) y) else none)
  else if p = 3 then (if y < 3 then some (posRegion x (y + 1)) else none)
  else if p = 4 then (if 0 < x then some (posRegion (x - 1) y) else none)
  else if p = 5 then (if r = 13 then some 8 else if r = 8 || r = 9 then some 13 else none)
  else if p = 6 then (if r = 13 then some 9 else if r = 15 then some 16 else none)
  else none

/-- A port is an express port: the links between L0 and the matrix regions (R32). -/
def expressPort (r p : Nat) : Bool := p == 5 || (p == 6 && r == 13)

/-- The port of a router that leads back to the router a packet came from by port `p` of router `r`. -/
def portBack (r p : Nat) : Nat :=
  if expressPort r p then (if r = 8 then 5 else if r = 9 then 6 else 5)
  else if p = 1 then 3 else if p = 3 then 1 else if p = 2 then 4 else if p = 4 then 2 else 0

/-- A hop counts as a west hop: port 4, or the express link from L0 to M0 (R402). -/
def westHop (r p : Nat) : Bool := p == 4 || (p == 5 && r == 13)

/-- What became of a packet on its route: the routers that admitted it, in order; RETURN, the newest port first, which is the route of
its response; and where it left on port 0, or none where a router answered ROUTE_REFUSED. -/
structure Walk where
  path : List Nat
  back : List Nat
  done : Option Nat
  deriving DecidableEq, Repr, Inhabited

/-- A header follows its ROUTE from a router: a DRAINING router refuses it (R418); so does one that lacks the port it names, and one
that it reaches after hop 8 or the end of its route (R401). -/
def walkRoute (draining : Nat → Bool) : (route : List Nat) → (hop r from_ : Nat) → (path back : List Nat) → Walk
  | [], _, _, _, path, back => ⟨path, back, none⟩
  | p :: rest, hop, r, from_, path, back =>
    if draining r || hop = 8 then ⟨path, back, none⟩
    else if p = 0 then ⟨path ++ [r], from_ :: back, some r⟩
    else match portTo r p with
      | none => ⟨path, back, none⟩
      | some n => walkRoute draining rest (hop + 1) n (portBack r p) (path ++ [r]) (from_ :: back)

/-- The route ports of a region's own blocks to a node. -/
def routeFrom (draining : Nat → Bool) (region : Nat) (route : List Nat) : Walk := walkRoute draining route 0 region 0 [] []

/-- West hops come first: none after a hop in another direction (R402). -/
def westFirst : (r : Nat) → (turned : Bool) → List Nat → Bool
  | _, _, [] => true
  | r, turned, p :: rest =>
    !(turned && westHop r p) && (match portTo r p with
      | some n => westFirst n (turned || !westHop r p) rest
      | none => true)

/-- The destinations of a route table: the regions, the always-on domain (16), peer port p (17 + p) and Ethernet port e (25 + e), both
at L0 (R402). -/
def destNode (dest : Nat) : Nat := if dest ≤ 16 then dest else 13

/-- Express links serve only the line-buffer traffic of the matrix regions, and no other traffic (R32). -/
def expressOk (region dest : Nat) : List Nat → Bool
  | [p, 0] => !(expressPort region p) || (dest ≤ 16 && portTo region p == some dest)
  | ps => ps.all fun p => p < 5 || (p == 6 && dest == 16)

/-- A route that Melvi may build from a region to a destination, around the routers to avoid (R402). -/
def legalRoute (avoid : Nat → Bool) (region dest : Nat) (route : List Nat) : Bool :=
  (routeFrom avoid region route).done == some (destNode dest) && route.getLast? == some 0 && route.length ≤ 7
    && westFirst region false route && expressOk region dest route

/-- Every route of at most `fuel` hops from a router to a node. -/
def routesTo (node : Nat) : (fuel r : Nat) → List (List Nat)
  | 0, _ => []
  | fuel + 1, r =>
    (if r = node then [[0]] else [])
      ++ [1, 2, 3, 4, 5, 6].flatMap fun p => match portTo r p with
        | some n => (routesTo node fuel n).map fun ps => p :: ps
        | none => []

/-- An entry of a block's route table. -/
structure RouteEntry where
  blk : Nat
  dest : Nat
  primary : List Nat
  alternate : List Nat
  deriving DecidableEq, Repr, Inhabited

/-- One of a list, as a free number picks it. -/
def pickOf {α : Type} (l : List α) (n : Nat) : Option α := l[n % l.length]?

/-- The primary and the alternate route that Melvi picks among the routes it may build: which of them, the manual leaves to it (log
entry 18). Line-buffer traffic of a matrix engine takes the express link; an alternate is at most 2 hops longer; none is the empty
route. -/
def pickRoutes (avoid : Nat → Bool) (when_ blk dest : Nat) : RouteEntry :=
  let legal := (routesTo (destNode dest) 7 (blk / 4)).filter (legalRoute avoid (blk / 4) dest)
  let express := legal.filter fun ps => dest == 13 && ps.any (expressPort (blk / 4))
  let primary := (pickOf (if express.isEmpty then legal else express) (Config.routeChoice when_ blk dest)).getD []
  let others := legal.filter fun ps => ps != primary && ps.length ≤ primary.length + 2
  ⟨blk, dest, primary, (pickOf others (Config.routeChoice when_ blk (dest + 128))).getD []⟩

/-- The block ports of the chip: region · 4 + block. -/
def allBlocks : List Nat := (List.range 64).filter fun b => b % 4 < regBlocks (b / 4)

/-- The tables of every block: the regions, the always-on domain, the 8 peer ports and the 64 Ethernet ports. -/
def allRoutes (avoid : Nat → Bool) (when_ : Nat) : List RouteEntry :=
  allBlocks.flatMap fun b => (List.range 89).map fun d => pickRoutes avoid when_ b d

/-- The share of a target's 512 class-0 slots that Melvi gives each block (R407): at least 2, in all at most 512; which, the manual
leaves to it (log entry 18). -/
def slotShare (target : Nat) : Nat → Nat :=
  let d (b : Nat) : Nat := max 2 (Config.standingSlots target b)
  if (allBlocks.map d).sum ≤ 512 then d else fun _ => 8

/-- A unit of a block that may send requests (Tables 1-4, 1-6). -/
def unitThere (blk u : Nat) : Bool :=
  (u < 8 && engPop (blk * 8 + u)) || (16 ≤ u && u ≤ 48) || (blk == 63 && 56 ≤ u && u ≤ 59)

/-! ## Arbitration (R13, R404) -/

/-- Weighted round robin 4:2:1 of classes 1 to 3 after class 0 (R13): which class goes, and what is left of the weights. -/
def pickClass (w : Nat × Nat × Nat) (ready : Nat → Bool) : Option (Nat × (Nat × Nat × Nat)) :=
  let go (w : Nat × Nat × Nat) : Option (Nat × (Nat × Nat × Nat)) :=
    if ready 1 && 0 < w.1 then some (1, (w.1 - 1, w.2.1, w.2.2))
    else if ready 2 && 0 < w.2.1 then some (2, (w.1, w.2.1 - 1, w.2.2))
    else if ready 3 && 0 < w.2.2 then some (3, (w.1, w.2.1, w.2.2 - 1))
    else none
  if ready 0 then some (0, w) else (go w).or (go (4, 2, 1))

/-- Round robin: the next number after the last one served, else the lowest. -/
def nextAfter (last : Nat) (l : List Nat) : Option Nat :=
  match (l.filter fun i => last < i).min? with
  | some i => some i
  | none => l.min?

end Sys2Proof.Machine
end

