-- ==== Sys2Proof/Machine/Tab.lean ====
section
/-! DEFINITION. Sparse tables: a list of (key, entry) pairs in one canonical form, keys strictly rising.
A table with a default value lists no entry equal to that default, so equal tables are equal data. -/

namespace Sys2Proof.Machine

/-- A sparse table from a number (an index, an id, an address) to an entry. -/
abbrev Tab (α : Type) := List (Nat × α)

/-- The entry listed under a key. -/
def Tab.find? {α : Type} : Tab α → Nat → Option α
  | [], _ => none
  | (k', v) :: rest, k => if k = k' then some v else Tab.find? rest k

/-- Whether a key is listed. -/
def Tab.has {α : Type} (t : Tab α) (k : Nat) : Bool := (t.find? k).isSome

/-- The entry under a key, or the default of an unlisted key. -/
def Tab.get {α : Type} (d : α) (t : Tab α) (k : Nat) : α := (t.find? k).getD d

/-- List an entry under a key, in place of the one listed there. -/
def Tab.set {α : Type} : Tab α → Nat → α → Tab α
  | [], k, v => [(k, v)]
  | (k', v') :: rest, k, v =>
    if k < k' then (k, v) :: (k', v') :: rest
    else if k = k' then (k, v) :: rest
    else (k', v') :: Tab.set rest k v

/-- Remove the entry of a key. -/
def Tab.del {α : Type} : Tab α → Nat → Tab α
  | [], _ => []
  | (k', v') :: rest, k => if k = k' then rest else (k', v') :: Tab.del rest k

/-- Write an entry of a table whose unlisted keys read as `d`: writing `d` removes the entry. -/
def Tab.put {α : Type} [DecidableEq α] (d : α) (t : Tab α) (k : Nat) (v : α) : Tab α :=
  if v = d then t.del k else t.set k v

/-- Change the entry of a listed key; an unlisted key stays unlisted. -/
def Tab.upd {α : Type} (t : Tab α) (k : Nat) (f : α → α) : Tab α :=
  match t.find? k with
  | some v => t.set k (f v)
  | none => t

/-- Change an entry of a table with a default. -/
def Tab.mod {α : Type} [DecidableEq α] (d : α) (t : Tab α) (k : Nat) (f : α → α) : Tab α :=
  t.put d k (f (t.get d k))

/-- Keep the entries for which the test holds. -/
def Tab.keep {α : Type} (t : Tab α) (p : Nat → α → Bool) : Tab α := t.filter fun e => p e.1 e.2

/-- Change every listed entry. -/
def Tab.each {α : Type} (t : Tab α) (f : Nat → α → α) : Tab α := t.map fun e => (e.1, f e.1 e.2)

/-- The listed keys, rising. -/
def Tab.keys {α : Type} (t : Tab α) : List Nat := t.map Prod.fst

/-- The first entry that meets a test. -/
def Tab.first {α : Type} (t : Tab α) (p : Nat → α → Bool) : Option (Nat × α) := List.find? (fun e => p e.1 e.2) t

/-- How many entries meet a test. -/
def Tab.count {α : Type} (t : Tab α) (p : Nat → α → Bool) : Nat := (t.keep p).length

/-- Whether some entry meets a test. -/
def Tab.some? {α : Type} (t : Tab α) (p : Nat → α → Bool) : Bool := t.any fun e => p e.1 e.2

/-- Keys strictly rising. -/
def Tab.sorted {α : Type} : Tab α → Bool
  | [] => true
  | [_] => true
  | (a, _) :: (b, w) :: rest => a < b && Tab.sorted ((b, w) :: rest)

/-- The canonical form of a table whose unlisted keys read as `d`. -/
def Tab.wf {α : Type} [DecidableEq α] (d : α) (t : Tab α) : Bool := t.sorted && t.all fun e => e.2 != d

/-- The lowest key in a range that is not listed. -/
def Tab.firstFree {α : Type} (t : Tab α) : (fuel lo : Nat) → Option Nat
  | 0, _ => none
  | fuel + 1, lo => if t.has lo then t.firstFree fuel (lo + 1) else some lo

end Sys2Proof.Machine
end

