-- ==== Sys2Proof/Machine/State.lean ====
section
/-! DEFINITION. The state of the device as plain data: every register, table, queue, counter, mode and pin that the
spec names, the outbox of what the device has emitted, the counter of free values, and the queue of waiting commands. -/

namespace Sys2Proof.Machine

/-! ## Command bookkeeping (chapter 02) -/

/-- Chip modes (Table 2-4, Table 17-1). -/
inductive ChipMode where
  | off | boot | ready | service | drain | watch | maint | fault
  deriving DecidableEq, Repr, Inhabited

/-- Where a command came from (R44, R57). -/
inductive CmdSrc where
  | mbox
  | sq (qp : Nat)
  deriving DecidableEq, Repr, Inhabited

/-- What the Dome still does when a command that takes time completes (R564 to R568, R575). -/
inductive DomeAct where
  | none
  /-- Program HDR_CHECK of a slot. -/
  | seal (slot : Nat)
  /-- Burn FW_COUNTER up to a version, and post IMAGE_CONFIRMED with the slot's SEQ. -/
  | confirm (version seq : Nat)
  | enrol (slot : Nat)
  | revoke (slot : Nat)
  /-- Put a profile in force: tenant, the blob. -/
  | profile (fn : Nat) (blob : List Byte)
  deriving DecidableEq, Repr, Inhabited

/-- What a started command still waits for before its completion is posted. -/
inductive Wait where
  /-- Its outcome is settled; only the time it takes remains (R58). -/
  | settled (st : Status) (res : List Byte)
  /-- QUEUE_DELETE: every command fetched from the pair (R70). -/
  | queueDelete (qp : Nat)
  /-- DETACH: every fetched command of the function (R71). -/
  | detach
  /-- TIME_ADJUST: its F (R82). -/
  | timeAdjust (res : List Byte)
  /-- TIMELINE_ANCHOR: its radio-frame start (R97). -/
  | anchor (cell : Nat)
  /-- EPOCH_REVOKE: every task of the epoch FREE (R133). -/
  | epochRevoke (fn epoch : Nat) (res : List Byte)
  /-- CELL_HIBERNATE: the cell HIBERNATED (R142). -/
  | cellIdle (cell : Nat)
  /-- CELL_WAKE: regions ACTIVE and a pending anchor in effect (R98, R488). -/
  | cellWake (cell : Nat)
  /-- DMA_SUBMIT: its transfer (R449). -/
  | dma (blk chan : Nat)
  /-- REGION_SLEEP or WATCH_ENTER: the decision (R484, R495). -/
  | sleep
  /-- REGION_WAKE: every named region ACTIVE (R498). -/
  | regionWake (regions : Nat)
  /-- PERF_LEVEL_SET: every named region at its new ceiling (R498). -/
  | perfLevel (regions : Nat)
  /-- TSI_PAGE_SWITCH: the end of the copy window (R335). -/
  | tsiSwitch (lanes : Nat) (res : List Byte)
  /-- A command of the Dome that takes time: what it does at its completion, its result (R564 to R568, R575). -/
  | dome (act : DomeAct) (res : List Byte)
  /-- CLUSTER_JOIN: a keepalive from TIMING_PARENT (R379). -/
  | join
  /-- CLUSTER_LEAVE: its remote tasks (R381). -/
  | leave
  /-- CELL_MIGRATE: its migration (R387). -/
  | migrate (mig : Nat)
  /-- ADC_SELFCAL: the end of the calibration (R530). -/
  | adcCal
  /-- RESET_SCOPE and UNFENCE of a target (KIND 0 engine, 1 block, 2 region): its return to service (R72, R600). -/
  | reset (kind target : Nat)
  | unfence (kind target : Nat)
  /-- FENCE: its target empty (R597); BIST_RUN: the end of the test (R599). -/
  | fence
  | bist
  /-- TENANT_CONFIG: the HBM that changes hands is zeroed; with ENABLE 0, the tenant's tasks leave (R42). -/
  | tenant (fn : Nat)
  deriving DecidableEq, Repr, Inhabited

/-- A command the device has taken and not completed (R56, R57). -/
structure Flight where
  id : Nat
  fn : Nat
  src : CmdSrc
  /-- The 64 bytes of the command (Table 2-8). -/
  cmd : List Byte
  /-- SQ head after this command was fetched (R59). -/
  sqHead : Nat
  /-- The fetch of the entry delivered poison (R462). -/
  poison : Bool
  /-- Whether its execution has started, and what it then waits for. -/
  wait : Option Wait
  deriving DecidableEq, Repr, Inhabited

/-- Mailbox states (Table 2-7). -/
inductive MboxState where
  | idle | busy | done | acked
  deriving DecidableEq, Repr, Inhabited

/-- The mailbox of one function (Table 2-6). -/
structure Mailbox where
  cmd : List Byte
  irqEn : Bool
  goLost : Bool
  st : MboxState
  res : List Byte
  deriving DecidableEq, Repr, Inhabited

/-- A registered host window (R63). -/
structure Window where
  base : Nat
  len : Nat
  rd : Bool
  wr : Bool
  deriving DecidableEq, Repr, Inhabited

/-- A queue pair (R47 to R52, R59 to R62). -/
structure QueuePair where
  entries : Nat
  sqAddr : Nat
  cqAddr : Nat
  vector : Nat
  urgent : Bool
  coalCount : Nat
  coalUs : Nat
  /-- Last accepted SQ_TAIL, and the device's fetch head. -/
  sqTail : Nat
  sqHead : Nat
  /-- Next CQ index the device writes, its phase, and the last accepted CQ_HEAD. -/
  cqTail : Nat
  phase : Bool
  cqHead : Nat
  /-- Entries posted and not returned; entries reserved for completions to come. -/
  posted : Nat
  reserved : Nat
  /-- Entries not signalled, and the FRC at which the oldest was posted. -/
  unsignalled : Nat
  oldest : Nat
  /-- QUEUE_DELETE or DETACH has stopped fetching. -/
  stopped : Bool
  deriving DecidableEq, Repr, Inhabited

/-- An event subscription of one area (R61). -/
structure Sub where
  qp : Nat
  minSev : Nat
  deriving DecidableEq, Repr, Inhabited

/-- One MSI-X table entry and its pending bit (R36, R62). -/
structure MsixEntry where
  addrLo : Nat
  addrHi : Nat
  data : Nat
  masked : Bool
  pending : Bool
  deriving DecidableEq, Repr, Inhabited

/-- Headless hold of one tenant (R66, R67). -/
inductive Hold where
  | none
  | holding (start : Nat)
  | drained
  deriving DecidableEq, Repr, Inhabited

/-- The per-function state of the host interface. -/
structure Func where
  attached : Bool
  complLost : Nat
  eventsLost : Nat
  mbox : Mailbox
  windows : List Window
  qps : Tab QueuePair
  subs : Tab Sub
  msix : Tab MsixEntry
  fnMask : Bool
  hold : Hold
  /-- The Damper mutes the egress of all the tenant's carriers (R66, R71). -/
  muted : Bool
  /-- Round robin: the last urgent and the last normal pair served (R52). -/
  lastUrgent : Nat
  lastNormal : Nat
  /-- A HEADLESS_HOLD_END event that waits for a subscription after ATTACH: cells drained, FRC (Table 2-12). -/
  holdEvent : Option (Nat × Nat)
  deriving DecidableEq, Repr, Inhabited

/-- What TENANT_CONFIG gives a tenant (Table 2-13). -/
structure Tenant where
  queues : Nat
  tasks : Nat
  hbmBase : Nat
  hbmSize : Nat
  cellBase : Nat
  cellCount : Nat
  trailBase : Nat
  trailCount : Nat
  flowBase : Nat
  flowCount : Nat
  lanes : Nat
  macs : Nat
  deriving DecidableEq, Repr, Inhabited

/-- Who serves commands: nobody yet, Melvi, the Dome in its recovery state (R563), the Dome in FAULT (R590). -/
inductive Server where
  | nobody | melvi | recovery | domeFault
  deriving DecidableEq, Repr, Inhabited

/-- The host interface. -/
structure HostIf where
  server : Server
  funcs : Tab Func
  tenants : Tab Tenant
  holdMs : Nat
  dbgBase : Nat
  /-- Commands taken and not completed, oldest first, and the number of the next. -/
  flights : List Flight
  nextFlight : Nat
  /-- Round robin among functions (R52). -/
  lastFn : Nat
  /-- WARM reset due at this FRC count (R72). -/
  warmAt : Option Nat
  deriving DecidableEq, Repr, Inhabited

/-! ## Time (chapter 03) -/

/-- A conversion of FRC to T that holds from an FRC value on (R78, R80). -/
structure Conv where
  start : Nat
  rate : Nat
  offset : Nat
  epoch : Nat
  deriving DecidableEq, Repr, Inhabited

/-- A TIME_ADJUST that has executed and whose F has not come (R81). -/
structure PendAdj where
  f : Nat
  rate : Nat
  offset : Nat
  slew : Nat
  /-- Δ in units of 2⁻³² ns. -/
  delta : Int
  deriving DecidableEq, Repr, Inhabited

/-- PPS_IN capture (R87 to R89). -/
structure Pps where
  enable : Bool
  falling : Bool
  events : Bool
  windowUs : Nat
  cableNs : Int
  edges : Nat
  last : Option Nat
  /-- FRC around which the next edge is due, and the seconds without an edge. -/
  due : Nat
  missing : Nat
  deriving DecidableEq, Repr, Inhabited

/-- A timeline and the next strobe instant not yet issued: radio frame `k`, count offset in it (R94, R95). -/
structure Timeline where
  num : Nat
  toff : Int
  sfnBase : Nat
  startFrc : Nat
  k : Int
  off : Nat
  deriving DecidableEq, Repr, Inhabited

/-- An anchor that waits for its radio-frame start (R97). -/
structure PendAnchor where
  num : Nat
  toff : Int
  sfnBase : Nat
  k : Int
  deriving DecidableEq, Repr, Inhabited

/-- The Ephemeris. -/
structure TimeSt where
  frc : Nat
  /-- Conversions, newest first (R80). -/
  convs : List Conv
  /-- F of the last TIME_ADJUST that took effect. -/
  lastAdj : Nat
  slew : Nat
  /-- The slew residual S in units of 2⁻³² ns, the FRC from which it holds, and S before that (R91). -/
  resid : Int
  movedAt : Nat
  residWas : Int
  pendAdj : Option PendAdj
  refLost : Option Nat
  pps : Pps
  anchors : Tab Timeline
  pendAnchors : Tab PendAnchor
  refTl : Timeline
  /-- Cluster servo: ALIGNED, MEMBER, consecutive measurements beyond twice the bound, last RATE change (R100, R103). -/
  aligned : Bool
  member : Bool
  misses : Nat
  lastServo : Nat
  deriving DecidableEq, Repr, Inhabited

/-! ## Carillon (chapter 04) -/

/-- A buffer reference of a task (R109). -/
structure BufRef where
  addr : Nat
  len : Nat
  deriving DecidableEq, Repr, Inhabited

/-- Task states (Table 4-3). FREE tasks are not listed; RELEASING lies inside one RELEASE step. -/
inductive TaskState where
  | waiting | ready | running | doneHeld
  deriving DecidableEq, Repr, Inhabited

/-- Why a running or suspended task is to leave its engine at its next yield (R133, R135, R597). -/
inductive Leave where
  | no | revoked | skipped | forced
  deriving DecidableEq, Repr, Inhabited

/-- A published calibration factor set: sequence number, factors (cr, ci) by element, and whether it is poisoned (R222). -/
structure CalSet where
  seq : Nat
  fac : List (Int × Int)
  poison : Bool
  deriving DecidableEq, Repr, Inhabited

/-- A task: its descriptor (Table 4-1) and what Carillon keeps beside it. -/
structure Task where
  kernel : Nat
  type : Nat
  prio : Nat
  cls : Nat
  flow : Nat
  seq : Nat
  epoch : Nat
  cell : Nat
  deadline : Nat
  waitGate : Option Nat
  doneGate : Option Nat
  outGate : Option Nat
  affinity : Option Nat
  commitKib : Nat
  notify : Bool
  runOnFail : Bool
  remoteOk : Bool
  harq : Bool
  inBuf : BufRef
  outBuf : BufRef
  param : BufRef
  arg : Nat
  harqPid : Nat
  node : Nat
  /-- The plan it belongs to. -/
  plan : Nat
  st : TaskState
  /-- The failure status, when it has failed. -/
  fail : Option Status
  /-- The FAILED mark its gate handed to it (R118). -/
  gateMark : Option Status
  /-- The engine it holds (running or suspended), and the last engine it ran on. -/
  engine : Option Nat
  ranOn : Option Nat
  suspended : Bool
  leave : Leave
  late : Bool
  /-- Order of becoming READY, the FRC then, and the region whose list holds it; none: held in C0 (R485). -/
  readyNo : Int
  readyAt : Nat
  region : Option Nat
  /-- The peer device a remote task was sent to (R136). -/
  peer : Option Nat
  /-- Bytes held in the commit buffer by device address, and the words of them that are poison (R129). -/
  lines : Tab Byte
  linePois : Tab Unit
  /-- Block whose commit buffer holds its reservation (R130). -/
  commitBlk : Option Nat
  /-- It holds the shadow slot of its HARQ process (R131). -/
  shadow : Bool
  /-- HARQ directory entries it has written shadow slots for, with their code block counts (R267). -/
  harqEntries : List (Nat × Nat)
  /-- Position of its deadline on the cell's timeline. -/
  deadK : Int
  deadOff : Nat
  /-- A task that a peer sent here: its device and the task id there (R386). -/
  origin : Option (Nat × Nat)
  /-- The receive and transmit factor sets of its cell as latched at dispatch (R223). -/
  calRx : Option CalSet
  calTx : Option CalSet
  deriving DecidableEq, Repr, Inhabited

/-- A slot plan (Table 4-5). -/
structure Plan where
  graph : Nat
  cell : Nat
  /-- The slot's start: radio frame and slot on the cell's timeline. -/
  k : Int
  slot : Nat
  fn : Nat
  epoch : Nat
  qp : Nat
  tagBase : Nat
  windowOpen : Bool
  /-- Its function was reset after it was accepted: completions are discarded, host writes fail (R66). -/
  orphan : Bool
  deriving DecidableEq, Repr, Inhabited

/-- A gate (R117). -/
structure Gate where
  count : Nat
  fail : Option Status
  fired : Bool
  plan : Nat
  /-- TIMED: symbol of the plan's slot and delay in µs (R113). -/
  timed : Option (Nat × Nat)
  deriving DecidableEq, Repr, Inhabited

/-- A defined graph: the function that defined it, gate templates and 64-byte node templates (R112). -/
structure Graph where
  fn : Nat
  gates : List Nat
  nodes : List (List Byte)
  deriving DecidableEq, Repr, Inhabited

/-- An ordered flow (R124, R125). -/
structure Flow where
  enabled : Bool
  stall : Bool
  next : Nat
  head : Nat
  unreleased : Nat
  /-- Sequence numbers beyond the head that are already released, skipped or revoked. -/
  retired : List Nat
  deriving DecidableEq, Repr, Inhabited

/-- What a speculation epoch has come to (R132). -/
inductive EpochSt where
  | opened | committed | revoked
  deriving DecidableEq, Repr, Inhabited

/-- A speculation epoch in use. -/
structure Epoch where
  st : EpochSt
  live : Nat
  released : Nat
  deriving DecidableEq, Repr, Inhabited

/-- CLASS_RESERVE of one engine type in one region (R121). -/
structure Reserve where
  count : Nat
  preempt : Bool
  deriving DecidableEq, Repr, Inhabited

/-- A HARQ directory entry as a task reads it when it starts a transport block (Table 9-6). -/
structure HarqEntry where
  addr : Nat
  valid : Bool
  cbs : Nat
  bytes : Nat
  act : Nat
  shadow : Nat
  deriving DecidableEq, Repr, Inhabited

/-- What became of one code block: its information bits, iterations, whether its checks hold, whether it consumed poison, whether stored
data was lost. -/
structure BlockOut where
  bits : List Bool
  iters : Nat
  good : Bool
  bad : Bool
  lost : Bool
  deriving DecidableEq, Repr, Inhabited

/-- The counts of a coding report (R278). -/
structure CodeRep where
  failed : Nat
  iters : Nat
  lost : Nat
  done : Nat
  deriving DecidableEq, Repr, Inhabited

/-- The progress of a run-ahead task that waits for its counter (R261): its parameter block as read, the transport block it is at with its
HARQ entry once begun, the code blocks of it that are done, the report so far, whether poison was consumed. -/
structure CodeProg where
  block : List Byte
  tb : Nat
  entry : Option (Option HarqEntry)
  outs : List BlockOut
  rep : CodeRep
  pois : Bool
  deriving DecidableEq, Repr, Inhabited

/-- What an engine holds (R119, R123). -/
structure EngineRun where
  /-- The task that runs on it. -/
  task : Option Nat
  /-- The task suspended on it, and whether its context is to be dropped (R123). -/
  suspended : Option Nat
  dropSusp : Bool
  /-- The running task's work has ended with this status; TASK_FINISH is due (R111). -/
  ended : Option Status
  /-- The main parts, the pre-emption partition are being zeroed (R153). -/
  zMain : Bool
  zAlt : Bool
  /-- Being reset or reloaded: not able to take work until back in service (R584). -/
  down : Bool
  /-- FRC of the last yield or dispatch (R122), and of the trap when it was raised (R168). -/
  lastYield : Nat
  trapAt : Option Nat
  /-- The largest value a run-ahead task has read from its counter, and its progress while it waits (R261). -/
  units : Nat
  prog : Option CodeProg
  deriving DecidableEq, Repr, Inhabited

/-- OLOG_CONFIG (Table 4-10) and its counts. -/
structure Olog where
  ring : Nat
  entries : Nat
  enable : Bool
  stop : Bool
  classes : Nat
  regions : Nat
  flow : Nat
  flowMask : Nat
  types : Nat
  written : Nat
  lost : Nat
  deriving DecidableEq, Repr, Inhabited

/-- The scheduler. -/
structure Carillon where
  tasks : Tab Task
  plans : Tab Plan
  nextPlan : Nat
  gates : Tab Gate
  graphs : Tab Graph
  flows : Tab Flow
  /-- Epochs in use, keyed fn · 65,536 + epoch. -/
  epochs : Tab Epoch
  /-- Keyed region · 16 + type. -/
  reserves : Tab Reserve
  engines : Tab EngineRun
  nextReady : Int
  headReady : Int
  olog : Olog
  deriving DecidableEq, Repr, Inhabited

/-- Cell states (Table 4-13). NONE is an unlisted cell. -/
inductive CellState where
  | service | hibernating | hibernated
  deriving DecidableEq, Repr, Inhabited

/-- A cell (Table 4-14). -/
structure Cell where
  st : CellState
  rat : Nat
  duplex : Nat
  prb : Nat
  acsDl : Nat
  acsUl : Nat
  layersDl : Nat
  layersUl : Nat
  home : Nat
  carrier : Nat
  /-- Numerology fixed from CELL_CREATE to CELL_DELETE (R98). -/
  num : Nat
  watchPrach : Bool
  /-- Hibernated as failed (R587). -/
  failed : Bool
  deriving DecidableEq, Repr, Inhabited

/-! ## Memories, error logs and retirement (chapter 16) -/

/-- The mark of a stored word or code word that does not decode clean (R452, R454, R473). -/
inductive Mark where
  | poison | ce | ue
  deriving DecidableEq, Repr, Inhabited

/-- An error log entry (Table 16-4). -/
structure LogEntry where
  seq : Nat
  kind : Nat
  memory : Nat
  source : Nat
  addr : Nat
  count : Nat
  syndrome : Nat
  init : Nat
  task : Nat
  /-- FRC of the first occurrence, from which its TS32 is taken (R464). -/
  frc : Nat
  deriving DecidableEq, Repr, Inhabited

/-- The error log of one region (R463): newest first, at most 256 entries, of which the last `copied` have been copied
into the device log. -/
structure RegionLog where
  entries : List LogEntry
  nextSeq : Nat
  copied : Nat
  deriving DecidableEq, Repr, Inhabited

/-- A persistent range (R468). -/
structure PersRange where
  fn : Nat
  base : Nat
  len : Nat
  deriving DecidableEq, Repr, Inhabited

/-- A host process of the error logs: a slot of the MEM_CE rate limit and the POISON_EGRESS counts. -/
structure EgressCount where
  units : Nat
  lastFrc : Nat
  deriving DecidableEq, Repr, Inhabited

/-- The memories. -/
structure MemSt where
  /-- Bytes by device address; an unlisted byte is 0 (zeroed at boot, R456). VDE X-RAM, Y-RAM and P-RAM, block and
  region memory stand at their device addresses. -/
  mem : Tab Byte
  /-- Words and code words that do not decode clean, by word address. -/
  marks : Tab Mark
  logs : Tab RegionLog
  /-- Device log header: entries written, entries lost (R466). -/
  written : Nat
  overflow : Nat
  ranges : List PersRange
  /-- Base addresses of retired HBM pages and SRAM banks (R470). -/
  retPages : Tab Unit
  retBanks : Tab Unit
  /-- MEM_CE events of a region in its present second: start FRC and count (R467). -/
  ceRate : Tab (Nat × Nat)
  /-- POISON_EGRESS per object: units since the last event and its FRC (Table 16-5). -/
  egress : Tab EgressCount
  /-- HBM stacks in retraining (R455), with the requests that wait counted by the mesh. -/
  retraining : Tab Unit
  /-- The temperature of a stack at its last training, in °C (R455). -/
  trained : Tab Int := []
  /-- Addresses in memory whose contents were lost (R599) that have been written with 0 since. -/
  rewritten : Tab Unit
  deriving DecidableEq, Repr, Inhabited

/-! ## Power (chapter 17) -/

/-- Region states (Table 17-4). -/
inductive RegState where
  | active | idle | nap | off
  deriving DecidableEq, Repr, Inhabited

/-- One region. -/
structure Region where
  st : RegState
  /-- Two-phase sleep in progress (R484). -/
  prepare : Bool
  /-- A wake under way since this FRC count (R487). -/
  waking : Option Nat
  level : Nat
  ceiling : Nat
  throttleC : Nat
  /-- A voltage and frequency change under way (R482). -/
  changing : Bool
  /-- IDLE policy: IDLE_HOLD_US (R480). -/
  idleHold : Option Nat
  autoWake : Bool
  retention : Nat
  /-- FRC of the last throttle step, and since when its sensor has read at least 3 °C below THROTTLE_C (R482). -/
  lastStep : Nat
  coolAt : Option Nat
  deriving DecidableEq, Repr, Inhabited

/-- What a two-phase sleep is for (R483, R495). -/
inductive SleepFor where
  | nap | off | watch
  deriving DecidableEq, Repr, Inhabited

/-- A two-phase sleep in progress (R484). -/
structure SleepOp where
  regions : Nat
  target : SleepFor
  autoWake : Bool
  /-- FRC of PREPARE, and the command that waits for the decision. -/
  start : Nat
  cmd : Nat
  /-- Blocks (region · 4 + block) that have not answered. -/
  pendBlocks : List Nat
  /-- A class-0 request has reached these blocks since PREPARE (R415). -/
  touched : List Nat
  /-- Blocks with a task still on its engine at its first yield after PREPARE. -/
  stuck : List Nat
  hbmRetain : Bool
  prevMode : ChipMode
  deriving DecidableEq, Repr, Inhabited

/-- WATCH as entered (R493, R496). -/
structure WatchSt where
  hbmRetain : Bool
  /-- A wake is under way since this FRC count. -/
  waking : Option Nat
  deriving DecidableEq, Repr, Inhabited

/-- The power controller. -/
structure PowerSt where
  mode : ChipMode
  regions : Tab Region
  sleeps : List SleepOp
  watch : Option WatchSt
  /-- Held pad groups (R491): quads, peer ports, GPIO as masks, xSPI and I3C. -/
  heldQuads : Nat
  heldPeer : Nat
  heldGpio : Nat
  heldCtrl : Bool
  deriving DecidableEq, Repr, Inhabited

/-! ## Vector DSP engines and kernels (chapters 05, 06) -/

/-- A zero-overhead loop: first and last body word, passes left (R190). -/
structure Loop where
  first : Nat
  last : Nat
  left : Nat
  deriving DecidableEq, Repr, Inhabited

/-- What wrote a register last, for the result latencies of Table 6-11. -/
inductive Producer where
  | vmulh | load3 | load4 | acc | vget | scalar | gwrite
  deriving DecidableEq, Repr, Inhabited

/-- One register bank of a VDE with its own flags, task and timing registers and sequencing (R156, R173, R190 to R194). -/
structure Bank where
  /-- V0 to V31, 512 bits each. -/
  v : Tab (BitVec 512)
  /-- A0 to A7, 16 lanes of 40-bit real and imaginary parts. -/
  a : Tab (BitVec 1280)
  /-- S, P, M, L and B registers by register code (Table 6-2). -/
  g : Tab Word
  /-- Poison bits: register codes 0 to 127, 128 + v for V registers, 160 + a for accumulators (R164). -/
  pois : Tab Unit
  sat : Bool
  aov : Bool
  poisonStored : Bool
  gateFailed : Bool
  /-- Task registers, by CSR offset (Table 5-6). -/
  regs : Tab Word
  /-- FRC at which the yield timer reaches 0; loaded anew when the bank resumes (R168, R173). -/
  timerEnd : Nat
  cycles : Nat
  pc : Nat
  loops : List Loop
  /-- Words in the repeat cache (R193). -/
  cache : List Nat
  /-- In the trap handler, with the saved offset (R194). -/
  trap : Option Nat
  /-- Register writes still within a latency: register number to cycle and producer (R195). -/
  board : Tab (Nat × Producer)
  /-- The kernel that runs in the bank. -/
  kernel : Nat
  /-- Task that holds the bank. -/
  task : Option Nat
  /-- Status of an EDMA write that failed after its transfer completed (R434). -/
  lateErr : Option Status
  deriving DecidableEq, Repr, Inhabited

/-- A DMA channel: EDMA (shadow unused) or BDMA (chapter 15). -/
structure DmaChan where
  active : List Byte
  shadow : List Byte
  arm : Bool
  goLost : Bool
  collide : Bool
  busy : Bool
  done : Bool
  descending : Bool
  poisonSeen : Bool
  status : Nat
  faultAddr : Nat
  bytesDone : Nat
  owner : Nat
  /-- The task or function whose work it carries (0: none). -/
  task : Option Nat
  /-- The DMA_SUBMIT command that waits for it, the one armed behind it, and whether it started by hand-over. -/
  cmd : Option Nat
  cmdNext : Option Nat
  ownerNext : Nat
  handed : Bool
  /-- Bytes of the transfer that have been written, in the order of R428, and the bytes after them that have been read and wait in the
  buffer, with their poison (R436, R439). -/
  moved : Nat := 0
  buf : List (Byte × Bool) := []
  deriving DecidableEq, Repr, Inhabited

/-- The engines of a BDMA (R439): what is left of the weights of classes 1 to 3, the channel that each class served last, and the data
in the buffer in order of arrival, as channel and bytes. -/
structure BdmaEng where
  weights : Nat × Nat × Nat
  last : Tab Nat
  order : List (Nat × Nat)
  deriving DecidableEq, Repr, Inhabited

/-- One VDE: two banks, which one runs, its EDMA channels. -/
structure Vde where
  main : Bank
  alt : Bank
  inAlt : Bool
  chans : Tab DmaChan
  deriving DecidableEq, Repr, Inhabited

/-- A resident kernel (R197 to R202): owner, placement and the image as loaded. -/
structure Kernel where
  fn : Nat
  preempting : Bool
  codeBase : Nat
  codeWords : Nat
  dataBytes : Nat
  entry : Nat
  trap : Nat
  digest : List Byte
  /-- Code, padding and data. -/
  body : List Byte
  deriving DecidableEq, Repr, Inhabited

/-! ## Error handling (chapter 21) -/

/-- A FENCE in progress (R597): target, FORCE, FRC at which WAIT_MS ends, the command (none for an automatic fence), tasks failed. -/
structure FenceOp where
  kind : Nat
  target : Nat
  force : Bool
  due : Nat
  forced : Bool
  cmd : Option Nat
  failed : Nat
  deriving DecidableEq, Repr, Inhabited

/-- A BIST_RUN in progress (R599). -/
structure BistOp where
  kind : Nat
  target : Nat
  tests : Nat
  cmd : Nat
  deriving DecidableEq, Repr, Inhabited

/-- The FATAL-CHIP in force (R588, R592, R594): FRC of step 1, cause, source, mode before it; Melvi has made step 4; a dump is being
written; the commands that were fetched and not completed, as the dump lists them. -/
structure FatalSt where
  frc : Nat
  cause : Nat
  source : Nat
  prior : ChipMode
  served : Bool
  dumping : Bool
  cmds : List Byte
  deriving DecidableEq, Repr, Inhabited

/-- Fences and recoveries. -/
structure FaultSt where
  /-- Fenced engines (by address), blocks (region · 4 + block), regions; the mark is true for an automatic fence. -/
  fencedEng : Tab Bool
  fencedBlk : Tab Bool
  fencedReg : Tab Bool
  /-- Fences (kind · 4,096 + target) whose target has passed a BIST_RUN with both tests since the fence (R600). -/
  tested : Tab Unit
  /-- Cause of the fatal error of a region (Table 21-2). -/
  fatal : Tab Nat
  /-- Targets (kind · 4,096 + target) whose memory contents were lost at an FRC by a test or a fatal error (R586, R599), until their
  reset. -/
  lost : Tab Nat
  /-- FRCs of the recoveries of an engine within 60 s, and of the reset it has not returned from (R584). -/
  recov : Tab (List Nat)
  resetAt : Tab Nat
  /-- FRCs of the automatic block fences of a region within 60 s (R585). -/
  blkFences : Tab (List Nat)
  fences : List FenceOp
  bists : List BistOp
  /-- FATAL-CHIP events since POR, the one in force, the dump window. -/
  seq : Nat
  chip : Option FatalSt
  dumpWin : Option (Nat × Nat)
  deriving DecidableEq, Repr, Inhabited

/-! ## Serial lanes and peer ports (chapter 10) -/

/-- The LANE_CONFIG fields of a lane or peer port (Table 10-7). -/
structure LaneCfg where
  mode : Nat
  rate : Nat
  txEn : Bool
  rxEn : Bool
  noHs : Bool
  txInv : Bool
  listen : Bool
  polMode : Nat
  eqiGood : Nat
  eqiFloor : Nat
  losMv : Nat
  swing : Nat
  pre : Nat
  post : Nat
  deriving DecidableEq, Repr, Inhabited

/-- A long-reach lane (ids 0 to 127) or a peer port (0x100 + p). -/
structure Lane where
  cfg : LaneCfg
  /-- Bring-up stage (Table 10-3): 0 disabled, 9 up, 14 TEST; on a peer port its stages 6 and later. -/
  stage : Nat
  /-- Peer port: stages 1 to 6 of the 16 data lanes. -/
  sub : List Nat
  /-- Holding for 1 ms before a restart (R290). -/
  holding : Bool
  /-- Raw LOS and LOL by physical receive lane (bit 16: the forwarded clock). -/
  los : Nat
  lol : Nat
  /-- EQI by physical lane, and the thresholds in force for the present stage 3. -/
  eqis : List Nat
  good : Nat
  floor : Nat
  /-- Physical lanes inverted; physical lane of each logical lane; deskew delays by physical lane. -/
  inverted : Nat
  map : List Nat
  skew : List Nat
  /-- RX_READY, DEVICE and PORT of the last valid training block. -/
  farReady : Bool
  farDevice : Nat
  farPort : Nat
  /-- The transmitter sends traffic and not training blocks; the lane has been Up. -/
  traffic : Bool
  everUp : Bool
  upAt : Option Nat
  restarts : Nat
  hdrErr : Nat
  losCount : Nat
  lolCount : Nat
  freq : Nat
  eyeW : Nat
  eyeH : Nat
  /-- FRC of the last LANE_BRINGUP_FAIL. -/
  failAt : Option Nat
  /-- LOOPBACK_SET in force (Tables 10-5, 10-6). -/
  loop : Nat
  gen : Nat
  chk : Nat
  invert : Bool
  txKeep : Bool
  /-- PRBS checkers that are locked, by instance. -/
  prbsLock : Nat
  prbsBits : Nat
  prbsErrors : Nat
  /-- FRC at which the present stage began, and by physical lane that of stages 1 to 6 of a peer port. -/
  since : Nat
  subAt : List Nat
  /-- FRC at which the hold of R290 began; by physical lane that at which LOL last cleared (bit 16: the forwarded clock), that since
  which EQI has been good in stage 3, and that of the last EQI. -/
  holdAt : Nat
  lolOff : List Nat
  goodAt : List Nat
  eqiAt : List Nat
  /-- What the transmitter sends (R287, R294, R298). -/
  txNow : LaneTx
  /-- FRC of the last lane marker of a peer port (R84). -/
  marker : Option Nat
  deriving DecidableEq, Repr, Inhabited

/-! ## TLF (chapter 11) -/

/-- A defect: its raw condition, since when (FRC), and whether it is set (R322). -/
structure Defect where
  raw : Bool
  since : Nat
  set : Bool
  deriving DecidableEq, Repr, Inhabited

/-- A hunting candidate: its next position in blocks, FN, sightings (R320). -/
structure Cand where
  pos : Nat
  fn : Nat
  sightings : Nat
  deriving DecidableEq, Repr, Inhabited

/-- The framer: in SYNC or in HUNT (Table 11-5). -/
structure Framer where
  sync : Bool
  cands : List Cand
  pos : Nat
  fn : Nat
  just : Int
  errs : Nat
  deriving DecidableEq, Repr, Inhabited

/-- Counts of one PM bin (Table 11-14). -/
structure PmBin where
  start : Nat
  es : Nat
  ses : Nat
  uas : Nat
  eframes : Nat
  suspect : Bool
  events : Nat
  sat : Nat
  rtdMin : Option Nat
  rtdMax : Option Nat
  slips : Nat
  deriving DecidableEq, Repr, Inhabited

/-- A classified second: its number, ES and SES. -/
structure PmSec where
  sec : Nat
  es : Bool
  ses : Bool
  deriving DecidableEq, Repr, Inhabited

/-- Performance monitoring of one object (R336 to R338). -/
structure Pm where
  /-- The second in progress: frames, whether ES and SES conditions have held; its bin. -/
  frames : Nat
  bad : Bool
  severe : Bool
  cur : PmBin
  quarter : PmBin
  day : PmBin
  past : List PmBin
  prevDay : PmBin
  unavail : Bool
  /-- The last ten classified seconds, newest first. -/
  hist : List PmSec
  /-- Thresholds ES, SES, UAS, and those posted in this bin. -/
  th : List Nat
  posted : List Bool
  deriving DecidableEq, Repr, Inhabited

/-- A page switch that is scheduled: reference radio frame, its MFN, the command that waits (R335). -/
structure TsiPend where
  k : Int
  mfn : Nat
  cmd : Nat
  deriving DecidableEq, Repr, Inhabited

/-- TX history of a lane's frames. -/
structure TlfTx where
  /-- Departure of the next FAW in thirds of an FRC count, its FN and multiframe (reference radio frame). -/
  next3 : Nat
  fn : Nat
  k : Int
  /-- FAW departure of the previous frame in thirds and its FN; none before the first. -/
  prev : Option (Nat × Nat)
  /-- FAW departure of FN 0 of this multiframe, in thirds. -/
  zero3 : Nat
  bip : Nat
  scr : Nat
  deriving DecidableEq, Repr, Inhabited

/-- The TLF side of a long-reach lane. -/
structure TlfLane where
  /-- TRAIL_CONFIG OBJECT 1. -/
  txOffset : Int
  times : List Nat
  mc : Bool
  mcRx : Nat
  mcTx : Nat
  framer : Framer
  /-- LOS, LOF, AIS, RDI. -/
  defects : List Defect
  /-- Since when the lane has been in SF (FRC). -/
  sfSince : Option Nat
  /-- Received: FN, MFN, labels by trail id, XOR of the last frame (none: not taken), last 58 line bits. -/
  rxFn : Nat
  rxMfn : Nat
  labels : Tab Nat
  bip : Option Nat
  rei : Nat
  rxScr : Nat
  /-- FAW arrival of the last frame (FRC) with its FN, and the round-trip delay (R313). -/
  rxAt : Option (Nat × Nat)
  rtd : Option Nat
  /-- FRC of the last departure and of the last arrival of each frame number (R313). -/
  sent : Tab Nat
  came : Tab Nat
  /-- Received block 5: request, requested signal, APS_MODE. -/
  farAps : Option (Nat × Nat × Nat)
  /-- Slots of the most recent completed frame: 64 blocks each; frames completed so far. -/
  rxSlots : List (List Nat)
  rxCount : Nat
  tx : Option TlfTx
  /-- Input frames of each source lane taken up to the last output frame (R332). -/
  taken : Tab Nat
  justAt : Option Nat
  slipAt : Option Nat
  pm : Pm
  /-- TSI pages by slot; sealed; scheduled; in the copy window (R331 to R335). -/
  active : Tab Nat
  standby : Tab Nat
  sealed : Bool
  pend : Option TsiPend
  copying : Option Nat
  deriving DecidableEq, Repr, Inhabited

/-- A record that waits to leave on a trail: its timeline point and line bytes (R316). -/
structure TxRec where
  point : Nat
  bytes : List Byte
  deriving DecidableEq, Repr, Inhabited

/-- A trail (Table 11-11). -/
structure Trail where
  tx : Bool
  lane : Nat
  label : Nat
  first : Nat
  count : Nat
  cell : Nat
  acs : Nat
  ring : Nat
  prbFirst : Nat
  prbCount : Nat
  prbStride : Nat
  fsMult : Nat
  area : Nat
  status : Nat
  advance : Nat
  /-- AIS-T and PLM. -/
  defects : List Defect
  /-- XOR of the payload of the last frame; bytes of a record in progress; timeline point last written. -/
  xor : Option Nat
  part : List Byte
  lastTp : Nat
  /-- Records that wait to leave, and what is left of the one under way. -/
  queue : List TxRec
  left : List Byte
  /-- Time-domain symbols that the Damper has passed: radio frame, first and past-the-end count offset in it. -/
  passed : List (Int × Nat × Nat)
  pm : Pm
  deriving DecidableEq, Repr, Inhabited

/-- A 1+1 protection group (R326 to R329, R343). -/
structure ApsGroup where
  work : Nat
  prot : Nat
  bidir : Bool
  revertive : Bool
  holdOff : Nat
  wtrS : Nat
  /-- Command in force: 0 none, 1 LO, 2 FS, 3 MS-P, 4 MS-W. -/
  cmd : Nat
  /-- Signal fail requests raised on working and protection. -/
  sfW : Bool
  sfP : Bool
  /-- Wait-to-restore running since (FRC); DNR in force. -/
  wtr : Option Nat
  dnr : Bool
  sel : Nat
  /-- The selection that the next FAW brings, with the request that caused it. -/
  target : Option (Nat × Nat)
  /-- APS modes have disagreed since; selecting in unidirectional mode. -/
  mismatch : Option Nat
  uni : Bool
  switches : Nat
  deriving DecidableEq, Repr, Inhabited

/-! ## Ethernet, packet fronthaul and MACsec (chapter 12) -/

/-- An Ethernet port (Table 12-6). -/
structure EthPort where
  fn : Nat
  ptype : Nat
  fec : Nat
  lane : Nat
  maxFrame : Nat
  mac : List Byte
  hostRx : Bool
  peer : Bool
  macsec : Bool
  ptpMcast : Bool
  validate : Nat
  etype : Nat
  rxEntries : Nat
  txEntries : Nat
  rxRing : Nat
  txRing : Nat
  replay : Nat
  /-- Next descriptor of each ring; the host rings run (R373). -/
  rxIdx : Nat
  txIdx : Nat
  rings : Bool
  /-- Counters of Table 12-7 by index. -/
  cnt : Tab Nat
  /-- FRC of the last ETH_RX_READY, and whether descriptors were handed back since. -/
  readyAt : Option Nat
  readyDue : Bool
  /-- The transmit AN in use. -/
  txAn : Option Nat
  /-- The transmit descriptor taken with OWN set (R352). -/
  txDesc : Option (List Byte)
  up : Bool
  /-- FRC at which the next transmit descriptor was last read with OWN clear (R352). -/
  pollAt : Option Nat
  deriving DecidableEq, Repr, Inhabited

/-- A MACsec secure association (Table 12-9). -/
structure MacSa where
  port : Nat
  tx : Bool
  an : Nat
  suite : Nat
  conf : Bool
  dflt : Bool
  sci : List Byte
  nextPn : Nat
  ssci : Nat
  salt : List Byte
  key : List Byte
  near : Bool
  spent : Bool
  deriving DecidableEq, Repr, Inhabited

/-- What has arrived for one slot of an uplink stream: PRBs by symbol, late and gap marks. -/
structure FhSlot where
  got : Tab (List Nat)
  late : Bool
  gap : Bool
  deriving DecidableEq, Repr, Inhabited

/-- A packet fronthaul stream (Table 12-8). -/
structure FhStream where
  port : Nat
  width : Nat
  compHdr : Bool
  untagged : Bool
  filter : Nat
  eaxc : Nat
  tci : Nat
  dst : List Byte
  cell : Nat
  acs : Nat
  ring : Nat
  prbFirst : Nat
  prbCount : Nat
  prbStride : Nat
  section_ : Nat
  entries : Nat
  area : Nat
  status : Nat
  advance : Nat
  winStart : Int
  winEnd : Int
  /-- ON_TIME / SENT, EARLY / TX_LATE, LATE / GUARD_DROPS, SEQ_ERR / SAT_PARTS. -/
  cnt : List Nat
  /-- Next sequence count expected and sent; slots in progress by timeline point; FRC of the last FH_LATE. -/
  rxSeq : Option Nat
  txSeq : Nat
  slots : Tab FhSlot
  lateAt : Option Nat
  deriving DecidableEq, Repr, Inhabited

/-- Peer transport of one (peer, class) (R364, R365). -/
structure PeerTx where
  nextSeq : Nat
  acked : Nat
  /-- Frames sent and not acknowledged, oldest first, as payload with FRAG. -/
  unacked : List (Nat × List Byte)
  rxNext : Nat
  /-- Units of a packet under assembly. -/
  parts : List Byte
  progress : Nat
  tries : Nat
  lost : Bool
  deriving DecidableEq, Repr, Inhabited

/-- What a fronthaul stream has ready for a symbol and the Damper holds (R577): stream (DIR · 4,096 + id), timeline point,
its strobe (FRC), sequence count of its first frame, PRBs as compressed, or the C-plane message. -/
structure Held where
  stream : Nat
  point : Nat
  strobe : Nat
  seq : Nat
  prbs : List (List Byte)
  msg : List Byte
  deriving DecidableEq, Repr, Inhabited

/-- L0: lanes, TLF, Ethernet. -/
structure LineSt where
  /-- Lanes and peer ports by lane id. -/
  lanes : Tab Lane
  tlf : Tab TlfLane
  trails : Tab Trail
  groups : Tab ApsGroup
  ports : Tab EthPort
  /-- Secure associations, keyed (port · 2 + tx) · 65,536 + index. -/
  sas : List MacSa
  /-- Streams, keyed DIR · 4,096 + id. -/
  streams : Tab FhStream
  /-- Peer transport, keyed device · 4 + class. -/
  peerTx : Tab PeerTx
  /-- Lines of L0 region memory that something other than L0 has written and no egress has taken: the task that wrote
  them and has not released, or none when nothing unreleased did (R33, R250). -/
  recs : Tab (Option Nat)
  held : List Held
  deriving DecidableEq, Repr, Inhabited

/-! ## The Dome and the Damper (chapter 20) -/

/-- One tenant's profile slot (R573 to R576). -/
structure Guard where
  present : Bool
  seq : Nat
  floor : Nat
  digest8 : List Byte
  /-- Carrier entries of 256 bytes; those before them, which serve symbols whose strobe is not after `since`. -/
  entries : List (List Byte)
  since : Nat
  prev : List (List Byte)
  /-- Streams admitted, by carrier (R579). -/
  admitted : Tab (List Nat)
  prevAdmitted : Tab (List Nat)
  /-- Violations since the load. -/
  viols : Nat
  deriving DecidableEq, Repr, Inhabited

/-- What the Damper keeps of one stream: FRCs of its violations within the last second, the last event, blocked (R580). -/
structure StreamGuard where
  times : List Nat
  eventAt : Option Nat
  blocked : Bool
  deriving DecidableEq, Repr, Inhabited

/-- The Dome and the Damper. -/
structure DomeSt where
  /-- OTP bits burned, and flash bytes programmed or erased, since the part was provisioned. -/
  otp : Tab Nat
  flash : Tab Byte
  /-- The running slot (0 A, 1 B), the digest of the running Melvi, FRC of Melvi's start. -/
  slot : Option Nat
  measure : List Byte
  startAt : Nat
  /-- The inactive slot's header has been erased since the last commit. -/
  staging : Bool
  /-- Key-encryption keys by tenant. -/
  keks : Tab (List Byte)
  /-- A live challenge and the FRC of its issue. -/
  challenge : Option (List Byte × Nat)
  debug : Bool
  debugEver : Bool
  /-- Kernel chain K and its loads. -/
  chain : List Byte
  loads : Nat
  guards : Tab Guard
  streams : Tab StreamGuard
  /-- The flash is read in 8D-8D-8D mode, not in 1S-1S-1S (R615). -/
  octal : Bool
  deriving DecidableEq, Repr, Inhabited

/-! ## Cluster (chapter 13) -/

/-- A member of the cluster (Table 13-2) and what has been heard of it. -/
structure Member where
  path : Nat
  port : Nat
  hops : Nat
  untagged : Bool
  tci : Nat
  mac : List Byte
  /-- FRC at which something last arrived from it, and whether it counts as present. -/
  heard : Nat
  up : Bool
  summary : Summary
  /-- FRC of the last frame, keepalive and idle-engine summary sent to it (R365, R383, R385). -/
  sent : Nat := 0
  kept : Nat := 0
  told : Nat := 0
  deriving DecidableEq, Repr, Inhabited

/-- Steps of a migration (Table 13-6). -/
inductive MigStage where
  | pairing | copying | ready | commitSent | acked | committed | switched
  deriving DecidableEq, Repr, Inhabited

/-- A migration in progress (R387 to R394): role, cells, the other device, switch frame, lanes, ranges (SRC, DST, LEN, KIND). -/
structure Mig where
  source : Bool
  cell : Nat
  peerCell : Nat
  dev : Nat
  sfn : Nat
  /-- Radio frame of the switch on the cell's timeline. -/
  k : Int
  lanes : Nat
  ranges : List (Nat × Nat × Nat × Nat)
  stage : MigStage
  copiedKib : Nat
  /-- The other device was lost after the commit point. -/
  lost : Bool
  cmd : Nat
  deriving DecidableEq, Repr, Inhabited

/-- Cluster membership. -/
structure Cluster where
  /-- Cluster id (0: not a member), own device id, root, timing parent. -/
  id : Nat
  device : Nat
  root : Nat
  parent : Nat
  accept : Bool
  dispatch : Bool
  types : Nat
  tenant : Nat
  waitNs : Nat
  members : Tab Member
  exports : List (Nat × Nat)
  /-- Enabled peer ports with their TIMING flag. -/
  ports : Tab Bool
  /-- A CLUSTER_JOIN that waits: its parameters and start FRC; a CLUSTER_LEAVE that waits since an FRC. -/
  joining : Option (List Byte × Nat)
  leaving : Option Nat
  migs : Tab Mig
  deriving DecidableEq, Repr, Inhabited

/-! ## On-chip network and Photometer (chapter 14) -/

/-- A request that a block port has sent and that has no response yet. -/
structure MeshFl where
  req : MeshReq
  /-- Device of a peer request. -/
  peer : Option Nat
  /-- It has reached its target; the status its target has answered. -/
  arrived : Bool
  ans : Option Status
  /-- The latency of a peer request as the L0 block port measures it, in ns. -/
  lat : Nat
  /-- FRC of its first sending; routers that admitted its header; RETURN, the newest port first (R401). -/
  sent : Nat := 0
  path : List Nat := []
  back : List Nat := []
  /-- It left on the alternate route; a router has refused it, and ROUTE_REFUSED is on its way back. -/
  onAlt : Bool := false
  refused : Bool := false
  /-- Its block port has ended it after 1 ms, while its target still held it: its answer will be discarded (R413). -/
  late : Bool := false
  deriving DecidableEq, Repr, Inhabited

/-- A request that waits at its block port for a slot at its target or for response space (R406): the region whose router finds a
parity error in its header when it crosses, and the data units in which a region finds one (R412). -/
structure MeshWait where
  req : MeshReq
  hdrLost : Option Nat
  parity : List (Nat × Nat)
  deriving DecidableEq, Repr, Inhabited

/-- What a held request waits for: the sleep decision of a region, the end of an HBM stack's retraining, the end of the zeroing of a
VDE's RAMs (R415, R455, R153). -/
inductive HeldFor where
  | sleep (region : Nat)
  | retrain (stack : Nat)
  | zeroing (engine : Nat)
  deriving DecidableEq, Repr, Inhabited

/-- Slots: block port, target, class, number. -/
structure Slots where
  blk : Nat
  target : Nat
  cls : Nat
  n : Nat
  /-- FRC of the last use. -/
  used : Nat
  deriving DecidableEq, Repr, Inhabited

/-- A Photometer counter set (Table 14-5). -/
structure PhotoSet where
  maxNs : Nat
  readBytes : Nat
  writeBytes : Nat
  reads : Nat
  writes : Nat
  rsvs : Nat
  refused : Nat
  asleep : Nat
  errors : Nat
  hist : Tab Nat
  deriving DecidableEq, Repr, Inhabited

/-- The mesh as its block ports, targets and Melvi see it. -/
structure Noc where
  /-- Route tables of the block ports (R402). -/
  routes : List RouteEntry
  /-- Requests that wait at their block ports. -/
  waiting : List MeshWait
  /-- Arbitration of a block port (R13, R404): what is left of the weights of classes 1 to 3 by block, and the initiator served last by
  block · 4 + class. -/
  weights : Tab (Nat × Nat × Nat)
  lastInit : Tab Nat
  /-- Free class-0 slots that a block holds at a target, by target · 64 + block (R407). -/
  standing : Tab Nat
  flights : List MeshFl
  held : List (MeshFl × HeldFor)
  /-- Slots of classes 1 to 3 that block ports hold; requests for slots that wait at targets; grants on their way. -/
  slots : List Slots
  rsvs : List Slots
  grants : List Slots
  /-- Slots given out, by target · 4 + class. -/
  given : Tab Nat
  /-- Routes whose primary is unusable: block, target (R419). -/
  alts : List (Nat × Nat)
  /-- DRAINING routers (region) since an FRC; routers that the route tables avoid. -/
  draining : Tab Nat
  avoided : Tab Unit
  /-- Photometer: enabled, PERIOD_US, sets by (PEER · 4,096 + initiator) · 4 + class, snapshot and its FRC, start of the
  present period. -/
  enable : Bool
  periodUs : Nat
  sets : Tab PhotoSet
  snap : Tab PhotoSet
  snapFrc : Nat
  since : Nat
  deriving DecidableEq, Repr, Inhabited

/-! ## The Finderscope (chapter 18) -/

/-- Where a stream's chime reception stands (Table 18-4). -/
inductive RxState where
  | search | syncWait | receive
  deriving DecidableEq, Repr, Inhabited

/-- A configured listening stream. -/
structure FscStream where
  /-- The parameters of Table 18-10. -/
  cfg : List Byte
  opened : Bool
  rx : RxState
  /-- FRC of the detection, of the end of the sync word. -/
  detAt : Nat
  syncAt : Nat
  latched : Int
  rssi : Int
  /-- The gain a detection has frozen, in dB; none while the AGC follows the samples (R505). -/
  gain : Option Nat
  /-- The last chime accepted: CELL, COUNTER, FRC (R511). -/
  last : Option (Nat × Nat × Nat)
  /-- Open time counted towards ENERGY_MS before the FRC it is counted from (Table 18-8). -/
  energy : Nat
  energyAt : Nat
  /-- The last occasion of the PRACH watch that was evaluated: radio frame, subframe. -/
  occ : Option (Int × Nat)
  /-- The NCO's phase increment, and the FRC of the window opening, where its phase is 0 (R504). -/
  phi : Nat
  chainAt : Nat
  /-- FRC up to which output samples carry VALID = 0 (R506), and the AGC's gain in dB when a detection last stated it (R505). -/
  validAt : Nat
  agc : Nat
  deriving DecidableEq, Repr, Inhabited

/-- A rule (Table 18-7) and what is kept beside it (R522, R524). -/
structure FscRule where
  raw : List Byte
  /-- FRCs of the matching events counted, oldest first. -/
  times : List Nat
  /-- FRC of the last firing by source. -/
  gaps : Tab Nat
  /-- An ADC event may occur again. -/
  armed : Bool
  /-- Radio frame of the last TIMELINE event. -/
  lastK : Option Int
  deriving DecidableEq, Repr, Inhabited

/-- A timer: its word of Table 18-11, FRC from which it counts, running. -/
structure FscTimer where
  cfg : Nat
  start : Nat
  on : Bool
  deriving DecidableEq, Repr, Inhabited

/-- An ADC entry: its configuration, its result register (Table 18-6), FSC_STATUS's NEW, and its filter (R519). -/
structure AdcEntry where
  chan : Nat
  filt : Nat
  value : Nat
  new : Bool
  newSt : Bool
  invalid : Bool
  seq : Nat
  acc : Nat
  /-- Results since the filter's last restart. -/
  count : Nat
  deriving DecidableEq, Repr, Inhabited

/-- The ADC and its sequencer. -/
structure AdcSt where
  num : Nat
  finish : Bool
  passUs : Nat
  /-- Entry under conversion; number of the last pass that was due (in PASS_US). -/
  running : Option Nat
  lastPass : Option Nat
  entries : Tab AdcEntry
  offset : Int
  gain : Nat
  calibrated : Bool
  calibrating : Bool
  /-- Calibrated codes of the 12 die thermal sensors at the last urgent burst, and its FRC (R518). -/
  therm : List Nat
  burstAt : Option Nat
  /-- FRC at which the conversion in progress began, and at which the calibration did (R515, R520). -/
  convAt : Nat := 0
  calAt : Nat := 0
  deriving DecidableEq, Repr, Inhabited

/-- A firing (R526): FRC, rule, event, source, actions performed, data, actions of the rule. -/
structure FscFiring where
  frc : Nat
  rule : Nat
  event : Nat
  source : Nat
  acts : Nat
  data : Nat
  deriving DecidableEq, Repr, Inhabited

/-- The Finderscope. -/
structure FscSt where
  streams : Tab FscStream
  /-- DETECTIONS, CHIMES_OK, FALSE_SYNC, CAPTURED, WEAKER, LOST, DUPLICATES, NOT_MINE, PRACH by stream. -/
  counts : Tab (List Nat)
  rules : List FscRule
  timers : List FscTimer
  adc : AdcSt
  /-- Firings, newest first, at most 64; the last firing of all. -/
  log : List FscFiring
  lastFire : Option FscFiring
  wakes : Nat
  rateLimited : Nat
  lastChime : List Byte
  /-- FRC until which the RC oscillator runs after its last use (R501). -/
  rcUntil : Nat
  /-- A rule has asked to leave WATCH; the firing that did, until FSC_WAKE_CAUSE is posted. -/
  wakeReq : Bool
  cause : Option FscFiring
  /-- Actions that wait for the end of a wake from WATCH (R525): bits of Table 18-9. -/
  deferred : Nat
  /-- Cells that rules wake and regions that rules have asked for. -/
  wakeCells : List Nat
  wakeRegions : Nat
  /-- PCIE_WAKE_N is asserted. -/
  pcieWake : Bool
  deriving DecidableEq, Repr, Inhabited

/-! ## The Collimator (chapter 19) -/

/-- Calibration of one lane, or of one data lane of a peer port: keyed lane id · 16 + data lane. -/
structure LaneCal where
  /-- Applied taps in LSBs; what stage 3 of bring-up left. -/
  taps : List Int
  base : List Int
  /-- Temperature sets at −20, 25, 70 and 105 °C in 10⁻⁹ LSB; none is EMPTY. -/
  sets : List (Option (List Int))
  steps : Nat
  /-- The Up (FRC) from which `steps` count; FRC of the last tap step and of the last sweep. -/
  upAt : Option Nat
  stepAt : Option Nat
  sweepAt : Option Nat
  eyeW : Nat
  eyeH : Nat
  deriving DecidableEq, Repr, Inhabited

/-- Calibration of the array of one cell. Gains in 10⁻⁹ dB, phases in 10⁻⁹ degrees, by element. -/
structure ArrayCal where
  rows : Nat
  cols : Nat
  pols : Nat
  avg : Nat
  freeze : Bool
  /-- Transmit offsets o_e as given (none: unit factors), and as applied. -/
  offs : List (Int × Int)
  offNow : List (Int × Int)
  sets : List (Option (List (Int × Int)))
  now : List (Int × Int)
  /-- Radio-unit temperature in 0.1 °C and the FRC of its report. -/
  temp : Int
  tempAt : Option Nat
  seq : Nat
  /-- Published receive and transmit factors. -/
  rx : List (Int × Int)
  tx : List (Int × Int)
  estimated : Bool
  resid : Int
  delays : List Int
  /-- FRC at which the present accumulation began, and of the last 10 ms step. -/
  since : Nat
  stepAt : Nat
  deriving DecidableEq, Repr, Inhabited

/-- CAL_POLICY (Table 19-3). -/
structure CalPolicy where
  lanes : Bool
  arrays : Bool
  ageing : Bool
  parallel : Bool
  laneShift : Nat
  arrayShift : Nat
  trimMax : Nat
  delayPs : Nat
  deriving DecidableEq, Repr, Inhabited

/-- Ageing of a region (R548, R549): TRIM, drift in ppm, FRC of the last reading, FRC of the last event of severity 2. -/
structure Ageing where
  trim : Nat
  drift : Int
  readAt : Option Nat
  warnAt : Option Nat
  deriving DecidableEq, Repr, Inhabited

/-- The Collimator. -/
structure CalSt where
  lanes : Tab LaneCal
  arrays : Tab ArrayCal
  policy : CalPolicy
  ageing : Tab Ageing
  deriving DecidableEq, Repr, Inhabited

/-! ## Pins and supplies (chapter 22) -/

/-- Rails, reset inputs and the test port. -/
structure PinSt where
  /-- VDD_AON in tolerance; POR_N high; TOCSIN_N driven low. -/
  vddAon : Bool
  porN : Bool
  tocsin : Bool
  /-- Since when the rail monitors have all read in tolerance while the device waits in OFF; since when one has not. -/
  okSince : Option Nat
  badSince : Option Nat
  /-- The test port holds EXTEST (R571). -/
  extest : Bool
  deriving DecidableEq, Repr, Inhabited

/-! ## What the device has emitted -/

/-- An output of the device. -/
inductive Out where
  /-- A PCIe memory write to host memory of one function, one TLP stream; `poison` is the EP bit (R461). -/
  | hostWrite (fn addr : Nat) (bytes : List Byte) (poison : Bool)
  /-- An MSI-X message (R62). -/
  | msix (fn vec addr data : Nat)
  /-- The answer to a BAR 0 or BAR 2 read. -/
  | barRead (fn bar off : Nat) (bytes : List Byte) (poison : Bool)
  /-- Unsupported Request (R64). -/
  | unsupported (fn bar off : Nat)
  /-- A write that leaves for a peer device through its peer window (R27). -/
  | peerWrite (addr : Nat) (bytes : List Byte) (poison : Bool)
  /-- A TLF frame on a lane: its blocks in line order as they leave, bits [63:0] scrambled, bit 64 set for a control block; on a PAM4
  lane its symbols. -/
  | tlfFrame (lane : Nat) (blocks : List Nat) (symbols : List Nat)
  /-- A lane's transmitter changes over: what it sends now, inverted or not, and the bytes it begins with by physical lane. -/
  | laneTx (lane : Nat) (now : LaneTx) (invert : Bool) (first : List (List Byte))
  /-- One bit of a PRBS generator's next output is inverted (R299). -/
  | inject (lane : Nat)
  /-- An Ethernet frame on a port, from its destination address, without FCS. -/
  | ethFrame (port : Nat) (frame : List Byte)
  /-- A response packet leaves for a block port: initiator, class, tag, status, data units with POISON (R400). -/
  | meshResponse (blk init cls tag : Nat) (st : Status) (units : List (List Byte × Bool))
  /-- What a block port tells its initiator of a request that got no answer from its target (R413, R419). -/
  | portAnswer (blk init cls tag : Nat) (st : Status)
  /-- GNT and RSV_RETURN packets: block, target, class, slots (R408). -/
  | grant (blk target cls n : Nat) (st : Status)
  | slotReturn (blk target cls n : Nat)
  /-- A message to a cluster member over its path. -/
  | peerMsg (dev : Nat) (msg : PeerMsg)
  /-- A frame relayed to another member's device over a peer port: port, class, mesh packet (R375). -/
  | relay (dev port cls : Nat) (packet : List Byte)
  /-- The answer to a read of a CSR by an initiator of C0: device address, value. -/
  | csrRead (addr value : Nat)
  /-- The answer to a write to a BDMA channel's shadow set that is refused (R442). -/
  | shadowRefused (blk c : Nat) (st : Status)
  /-- The answer to a private I3C or I2C read (Table 22-4). -/
  | i3cRead (bytes : List Byte)
  /-- What the test port shifts out for an instruction: the IDCODE, or nothing of the device. -/
  | jtag (idcode : Option Nat)
  /-- A record or dump is written to host memory: the dump window (R595). -/
  | dumpCopy (addr : Nat) (len : Nat)
  deriving DecidableEq, Repr, Inhabited

/-- An output that leaves over a lane or peer-port serialiser, or a MAC. -/
def Out.onLane : Out → Bool
  | .peerWrite .. | .tlfFrame .. | .ethFrame .. | .peerMsg .. | .relay .. => true
  | _ => false

/-! ## Why a step can stop -/

/-- Faults. No command of this device stops with a fault: every failure that the manual describes is a status, an
event or a mode, that is, a next state. The one constructor stands for a device that is not there at all. -/
inductive Fault where
  /-- Raised by no command. Safe. -/
  | noDevice
  deriving DecidableEq, Repr

/-- Refusals. -/
inductive Refusal where
  /-- The command has no meaning in the model yet. Safe: no claim about it can be proved. -/
  | notModelled (mnemonic : String)
  deriving DecidableEq, Repr

/-! ## The machine -/

-- TOP
/-- The state of the device. -/
structure State where
  host : HostIf
  time : TimeSt
  car : Carillon
  cells : Tab Cell
  mem : MemSt
  pow : PowerSt
  /-- VDEs by engine address. -/
  vdes : Tab Vde
  /-- Resident kernels by id. -/
  kernels : Tab Kernel
  fault : FaultSt
  /-- BDMA channels, keyed block · 32 + channel with block = region · 4 + block. -/
  bdma : Tab DmaChan
  /-- BDMA engines by block (R439). -/
  bdmaEng : Tab BdmaEng
  line : LineSt
  dome : DomeSt
  clu : Cluster
  noc : Noc
  fsc : FscSt
  cal : CalSt
  pins : PinSt
  /-- Everything the device has emitted, newest first. -/
  outs : List Out
  /-- How many free values have been drawn (the model's own field). -/
  freeCtr : Nat
  /-- The commands that wait, first in, first out. -/
  pending : List Instr
  deriving DecidableEq, Repr, Inhabited

/-! ## Reset -/

/-- A mailbox after reset (Table 2-6). -/
def Mailbox.reset : Mailbox := ⟨List.replicate 64 0, false, false, .idle, List.replicate 32 0⟩

/-- An MSI-X table entry after reset: masked (PRESUMED, PCI Express). -/
def MsixEntry.reset : MsixEntry := ⟨0, 0, 0, true, false⟩

/-- A function's state after reset. -/
def Func.reset : Func := ⟨false, 0, 0, Mailbox.reset, [], [], [], [], false, .none, false, 0, 0, none⟩

/-- The host interface after POR. -/
def HostIf.reset : HostIf := ⟨.nobody, [], [], 40, 0, [], 0, 0, none⟩

/-- PPS_IN after POR (R88). -/
def Pps.reset : Pps := ⟨false, false, false, 0, 0, 0, none, 0, 0⟩

/-- The Ephemeris after POR (R79, Table 3-8). The reference timeline's first strobe is that of frame 0 at FRC 0. -/
def TimeSt.reset : TimeSt :=
  ⟨0, [⟨0, 0x1046AAAAAAAA, 0, 0⟩], 0, 0, 0, 0, 0, none, none, Pps.reset, [], [], ⟨0x100, 0, 0, 0, 0, 0⟩, true, false, 0, 0⟩

/-- The Observing Log after POR. -/
def Olog.reset : Olog := ⟨0, 0, false, false, 0, 0, 0, 0, 0, 0, 0⟩

/-- Carillon after POR: every table empty. -/
def Carillon.reset : Carillon := ⟨[], [], 0, [], [], [], [], [], [], 0, -1, Olog.reset⟩

/-- The memories after POR: zeroed, nothing logged, nothing retired (R456, R474). -/
def MemSt.reset : MemSt := ⟨[], [], [], 0, 0, [], [], [], [], [], [], [], []⟩

/-- A region after POR: ACTIVE at P0, THROTTLE_C 100 (Table 17-7). -/
def Region.reset : Region := ⟨.active, false, none, 0, 0, 100, false, none, false, 0, 0, none⟩

/-- The power controller after POR: BOOT (Table 17-7). -/
def PowerSt.reset : PowerSt := ⟨.boot, [], [], none, 0, 0, 0, false⟩

/-- A register bank after an engine reset (R174). -/
def Bank.reset : Bank :=
  ⟨[], [], [], [], false, false, false, false, [], 0, 0, 0, [], [], none, [], 0, none, none⟩

/-- A DMA channel after reset. -/
def DmaChan.reset : DmaChan :=
  ⟨List.replicate 48 0, List.replicate 48 0, false, false, false, false, false, false, false, 0, 0, 0, 255, none, none, none, 255, false, 0, []⟩
/-- A BDMA's engines after reset. -/
def BdmaEng.reset : BdmaEng := ⟨(4, 2, 1), [], []⟩

/-- A VDE after an engine reset. -/
def Vde.reset : Vde := ⟨Bank.reset, Bank.reset, false, []⟩

/-- No fence after POR. -/
def FaultSt.reset : FaultSt := ⟨[], [], [], [], [], [], [], [], [], [], [], 0, none, none⟩

/-- An engine that holds nothing. -/
def EngineRun.idle : EngineRun := ⟨none, none, false, none, false, false, false, 0, none, 0, none⟩

/-- LANE_CONFIG defaults (Table 10-7, R307). -/
def LaneCfg.reset : LaneCfg := ⟨0, 0, false, false, false, false, false, 0, 160, 96, 50, 0, 0, 0⟩

/-- A lane or port after reset: disabled, no signal. -/
def Lane.reset : Lane :=
  ⟨LaneCfg.reset, 0, List.replicate 16 0, false, 131071, 131071, List.replicate 16 0, 160, 96, 0, List.range 16, List.replicate 16 0,
    false, 0, 0, false, false, none, 0, 0, 0, 0, 0, 0, 0, none, 0, 0, 0, false, false, 0, 0, 0,
    0, List.replicate 16 0, 0, List.replicate 17 0, List.replicate 16 0, List.replicate 16 0, .idle, none⟩

/-- An empty PM bin, and PM after reset. -/
def PmBin.reset : PmBin := ⟨0, 0, 0, 0, 0, true, 0, 0, none, none, 0⟩
def Pm.reset : Pm := ⟨0, false, false, PmBin.reset, PmBin.reset, PmBin.reset, [], PmBin.reset, false, [], [0, 0, 0], [false, false, false]⟩

/-- A framer before its first SYNC (R321). -/
def Framer.reset : Framer := ⟨false, [], 0, 0, 0, 0⟩

/-- A defect that is not there. -/
def Defect.none_ : Defect := ⟨false, 0, false⟩

/-- A TLF lane after reset: default times (Table 11-6). -/
def TlfLane.reset : TlfLane :=
  { txOffset := 0, times := [8, 80, 24, 24, 5, 5, 5, 5, 48, 48], mc := false, mcRx := 0, mcTx := 0, framer := Framer.reset
    defects := List.replicate 4 Defect.none_, sfSince := none, rxFn := 0, rxMfn := 0, labels := [], bip := none, rei := 0, rxScr := 0
    rxAt := none, rtd := none, sent := [], came := [], farAps := none, rxSlots := [], rxCount := 0, tx := none, taken := [], justAt := none, slipAt := none
    pm := Pm.reset, active := [], standby := [], sealed := false, pend := none, copying := none }

/-- L0 after POR. -/
def LineSt.reset : LineSt := ⟨[], [], [], [], [], [], [], [], [], []⟩

/-- The Dome and the Damper after POR. -/
def DomeSt.reset : DomeSt := ⟨[], [], none, List.replicate 64 0, 0, false, [], none, false, false, List.replicate 64 0, 0, [], [], false⟩
/-- A tenant without a profile; a stream without violations. -/
def Guard.none_ : Guard := ⟨false, 0, 0, List.replicate 8 0, [], 0, [], [], [], 0⟩
def StreamGuard.reset : StreamGuard := ⟨[], none, false⟩

/-- No cluster; the network after POR (R396, R425). -/
def Cluster.reset : Cluster := ⟨0, 0, 0, 0, false, false, 0, 0, 0, [], [], [], none, none, []⟩
def Noc.reset : Noc := ⟨[], [], [], [], [], [], [], [], [], [], [], [], [], [], false, 1000000, [], [], 0, 0⟩
def PhotoSet.reset : PhotoSet := ⟨0, 0, 0, 0, 0, 0, 0, 0, 0, []⟩

/-- Peer transport before its first frame. -/
def PeerTx.reset : PeerTx := ⟨0, 0, [], 0, [], 0, 0, false⟩

/-- The Finderscope after POR (R533, Table 18-6). -/
def AdcEntry.reset : AdcEntry := ⟨0, 0, 0, false, false, false, 0, 0, 0⟩
def AdcSt.reset : AdcSt := ⟨0, false, 0, none, none, [], 0, 0x8000, false, false, List.replicate 12 0, none, 0, 0⟩
def FscSt.reset : FscSt :=
  { streams := [], counts := [], rules := [], timers := List.replicate 8 ⟨0, 0, false⟩, adc := AdcSt.reset, log := [], lastFire := none
    wakes := 0, rateLimited := 0, lastChime := List.replicate 16 0, rcUntil := 0, wakeReq := false, cause := none, deferred := 0
    wakeCells := [], wakeRegions := 0, pcieWake := false }

/-- The Collimator after POR (R554, Table 19-3). -/
def LaneCal.reset : LaneCal := ⟨[], [], [none, none, none, none], 0, none, none, none, 0, 0⟩
def CalPolicy.reset : CalPolicy := ⟨true, true, true, false, 6, 4, 6, 1000⟩
def Ageing.reset : Ageing := ⟨0, 0, none, none⟩
def CalSt.reset : CalSt := ⟨[], [], CalPolicy.reset, []⟩

/-- The pins after the release of POR_N with every rail in tolerance (R618). -/
def PinSt.reset : PinSt := ⟨true, true, false, none, none, false⟩

/-- The machine right after POR. -/
def State.reset : State where
  host := HostIf.reset
  time := TimeSt.reset
  car := Carillon.reset
  cells := []
  mem := MemSt.reset
  pow := PowerSt.reset
  vdes := []
  kernels := []
  fault := FaultSt.reset
  bdma := []
  bdmaEng := []
  line := LineSt.reset
  dome := DomeSt.reset
  clu := Cluster.reset
  noc := Noc.reset
  fsc := FscSt.reset
  cal := CalSt.reset
  pins := PinSt.reset
  outs := []
  freeCtr := 0
  pending := []

end Sys2Proof.Machine
end

