-- ==== Sys2Proof/Machine/Ops.lean ====
section
/-! DEFINITION. The named operations every command is built from: codes, time, events and completions, tenant
ownership, the device address map, and reads and writes of memory with check codes, poison and logs. -/

namespace Sys2Proof.Machine

/-! ## Codes -/

/-- The 16-bit code of a status (Table 2-15). -/
def Status.code : Status → Nat
  | .success => 0x0000 | .notReady => 0x0001 | .repeated => 0x0002 | .badOpcode => 0x0010 | .badParam => 0x0011
  | .noResource => 0x0012 | .notPermitted => 0x0013 | .domainAsleep => 0x0020 | .routeRefused => 0x0021
  | .sleepRefused => 0x0022 | .poisoned => 0x0030 | .busError => 0x0031 | .overlap => 0x0032 | .revoked => 0x0040
  | .deadlineMissed => 0x0041 | .authFail => 0x0050 | .guardViolation => 0x0051 | .shadowCollide => 0x0060
  | .pageNotSealed => 0x0061 | .pageSealed => 0x0062 | .internal => 0x00FF

/-- The MODE code (Table 2-4); OFF has none and reads 0. -/
def ChipMode.code : ChipMode → Nat
  | .off => 0 | .boot => 1 | .ready => 2 | .service => 3 | .drain => 4 | .watch => 5 | .maint => 6 | .fault => 7

/-! ## Counting time (chapter 03) -/

/-- FRC counts in a number of ns, rounded up: 983.04 counts in 1,000 ns (R75). -/
def nsToFrc (ns : Nat) : Nat := (ns * 98304 + 99999) / 100000
/-- FRC counts in a number of µs, rounded up. -/
def usToFrc (us : Nat) : Nat := (us * 98304 + 99) / 100
/-- FRC counts in a number of ms, rounded up. -/
def msToFrc (ms : Nat) : Nat := ms * 983040

/-- Time goes on to FRC `t` (R75: the FRC never counts backwards). -/
def State.advance (s : State) (t : Nat) : State :=
  if s.time.frc < t then { s with time := { s.time with frc := t } } else s

/-- The conversion in force at an FRC value (R80). -/
def convAt : List Conv → Nat → Conv
  | [], _ => ⟨0, 0, 0, 0⟩
  | [c], _ => c
  | c :: c' :: rest, f => if c.start ≤ f then c else convAt (c' :: rest) f

/-- The block idles for one count of the FRC. -/
def State.idle (s : State) : State := { s with time := { s.time with frc := s.time.frc + 1 } }

/-- T of an FRC value under one conversion, 64 integer and 32 fraction bits (R78). -/
def Conv.timeAt (c : Conv) (f : Nat) : Nat := ((f * c.rate) / 4096 + c.offset) % 2 ^ 96

/-- T of an FRC value. -/
def State.timeAt (s : State) (f : Nat) : Nat := (convAt s.time.convs f).timeAt f

/-- The time epoch in force at an FRC value (R80). -/
def State.epochAt (s : State) (f : Nat) : Nat := (convAt s.time.convs f).epoch

/-- The slew residual S in force at an FRC value (R91). -/
def State.residAt (s : State) (f : Nat) : Int := if f < s.time.movedAt then s.time.residWas else s.time.resid

/-- Timeline time Θ = T − S at an FRC value (R91). -/
def State.theta (s : State) (f : Nat) : Int := (s.timeAt f : Int) - s.residAt f

/-- The newest conversion. -/
def State.conv (s : State) : Conv := s.time.convs.headD ⟨0, 0, 0, 0⟩

/-- The first FRC count from `a` on at which T ≥ a time, under the newest conversion; T counts modulo 2⁹⁶ (R78). -/
def State.frcOfTime (s : State) (a : Nat) (x : Int) : Nat :=
  let c := s.conv
  let d := sgn 96 (unsgn 96 (x - c.timeAt a))
  if d ≤ 0 then a else ((a * c.rate / 4096 + d.toNat) * 4096 + (c.rate - 1)) / c.rate

/-- The first FRC count at which Θ ≥ a nominal time, under the newest conversion: with the S of before, when that comes before
S last moved; else from where S moved on (R95). -/
def State.frcOfTheta (s : State) (nominal : Int) : Nat :=
  let a := s.conv.start
  let m := s.time.movedAt
  let before := s.frcOfTime a (nominal + s.time.residWas)
  if a < m && before < m then before else s.frcOfTime (max a m) (nominal + s.time.resid)

/-- The bytes of the TS32 of an FRC value (Table 3-2, R83). -/
def State.ts32 (s : State) (f : Nat) : List Byte :=
  let t := s.timeAt f
  leBytes 4 (t / 2 ^ 32) ++ leBytes 1 (t / 2 ^ 24) ++ zeros 1 ++ leBytes 2 (s.epochAt f)

/-- The cluster device id; 0 outside a cluster (Table 2-4, R381). -/
def State.deviceId (s : State) : Nat := s.clu.device

/-- ID_FW (Table 2-3): the version of the running Melvi. -/
def State.fwVersion (s : State) : Nat :=
  if s.dome.slot.isSome && s.host.server == .melvi then Config.fwVersion (s.dome.measure.map fun b => b.toNat) % 2 ^ 32 else 0

/-- The device is a cluster member; a migration is in progress; a peer port is enabled. -/
def State.member (s : State) : Bool := s.clu.id != 0
def State.migrating (s : State) : Bool := !s.clu.migs.isEmpty
def State.peerEnabled (s : State) : Bool := !s.clu.ports.isEmpty
/-- A member other than the root (R100). -/
def State.underRoot (s : State) : Bool := s.member && s.clu.root != s.clu.device
/-- No request of a block awaits a response and it has returned every granted slot (R417). -/
def State.meshQuiet (s : State) (blk : Nat) : Bool :=
  !(s.noc.flights.any fun f => f.req.blk == blk) && !(s.noc.slots.any fun x => x.blk == blk && x.n != 0)

/-- Change the cluster; change the network. -/
def State.modClu (s : State) (f : Cluster → Cluster) : State := { s with clu := f s.clu }
def State.modNoc (s : State) (f : Noc → Noc) : State := { s with noc := f s.noc }
/-- Change the host interface. -/
def State.modHost (s : State) (f : HostIf → HostIf) : State := { s with host := f s.host }

/-! ## Free values and outputs -/

/-- Draw the next free value (log entry 1). -/
def State.draw (s : State) : Nat × State := (Config.free s.freeCtr, { s with freeCtr := s.freeCtr + 1 })

/-- Emit an output; EXTEST holds the serialisers at electrical idle (R571). -/
def State.emit (s : State) (o : Out) : State := { s with outs := if s.pins.extest && o.onLane then s.outs else o :: s.outs }

/-! ## Functions, interrupts, completion queues (chapter 02) -/

/-- A function's state. -/
def State.func (s : State) (fn : Nat) : Func := s.host.funcs.get Func.reset fn

/-- Change a function's state. -/
def State.modFunc (s : State) (fn : Nat) (f : Func → Func) : State :=
  { s with host := { s.host with funcs := s.host.funcs.mod Func.reset fn f } }

/-- Signal an MSI-X vector: a message, or the pending bit while the vector or the function is masked (R62). -/
def State.signal (s : State) (fn vec : Nat) : State :=
  let e := (s.func fn).msix.get MsixEntry.reset vec
  if e.masked || (s.func fn).fnMask then
    s.modFunc fn fun f => { f with msix := f.msix.mod MsixEntry.reset vec fun e => { e with pending := true } }
  else s.emit (.msix fn vec (e.addrHi * 2 ^ 32 + e.addrLo) e.data)

/-- Free entries of a CQ: neither posted and unreturned nor reserved (R51, R61). -/
def QueuePair.free (q : QueuePair) : Nat := q.entries - q.posted - q.reserved

/-- The 32 bytes of a completion entry (Table 2-10). -/
def entryBytes (tag status sqHead : Nat) (phase : Bool) (opcode flags rlen : Nat) (result : List Byte) : List Byte :=
  leBytes 4 tag ++ leBytes 2 status ++ leBytes 2 (sqHead % 4096 + 32768 * b2n phase) ++ leBytes 2 opcode
    ++ leBytes 2 flags ++ leBytes 4 rlen ++ fit 16 result

/-- What a CQ entry carries beside head and phase. -/
structure Entry where
  tag : Nat
  status : Nat
  opcode : Nat
  flags : Nat
  rlen : Nat
  result : List Byte
  deriving DecidableEq, Repr

/-- Write one entry into the CQ of a pair and signal as R62 lays down (R59, R60). The pair exists. -/
def State.cqWrite (s : State) (fn qp : Nat) (sqHead : Option Nat) (e : Entry) (useReserved : Bool) : State :=
  match (s.func fn).qps.find? qp with
  | none => s
  | some q =>
    let bytes := entryBytes e.tag e.status (sqHead.getD q.sqHead) q.phase e.opcode e.flags e.rlen e.result
    let s := s.emit (.hostWrite fn (q.cqAddr + 32 * q.cqTail) bytes false)
    let wrap := q.cqTail + 1 == q.entries
    let n := q.unsignalled + 1
    let now := q.coalCount == 0 || q.coalUs == 0 || q.coalCount ≤ n
    let q' := { q with
      cqTail := if wrap then 0 else q.cqTail + 1
      phase := if wrap then !q.phase else q.phase
      posted := q.posted + 1
      reserved := if useReserved then q.reserved - 1 else q.reserved
      unsignalled := if now then 0 else n
      oldest := if q.unsignalled == 0 then s.time.frc else q.oldest }
    let s := s.modFunc fn fun f => { f with qps := f.qps.set qp q' }
    if now then s.signal fn q.vector else s

/-- The bytes of an event record (Table 2-11), its timestamp taken at an FRC value. -/
def State.eventBytes (s : State) (code sev : Nat) (data : Nat) (f : Nat) : List Byte :=
  leBytes 2 code ++ leBytes 1 sev ++ zeros 1 ++ s.ts32 f ++ leBytes 4 data

/-- Post an event to one function, if it has subscribed (R61). No event is posted in FAULT (R604). -/
def State.postTo (s : State) (fn : Nat) (code sev : Nat) (data : Nat) (f : Nat) : State :=
  if s.pow.mode = .fault then s else
  match (s.func fn).subs.find? (code / 256) with
  | none => s
  | some sub =>
    if sev < sub.minSev then s else
    match (s.func fn).qps.find? sub.qp with
    | none => s
    | some q =>
      if q.free = 0 then s.modFunc fn fun f => { f with eventsLost := sat32 (f.eventsLost + 1) }
      else s.cqWrite fn sub.qp none ⟨0xFFFFFFFF, 0, 0, 2, 16, s.eventBytes code sev data f⟩ false

/-- Post an event to every function that has subscribed its area (log entry 6). -/
def State.postAll (s : State) (code sev data : Nat) : State :=
  (List.range 8).foldl (fun s fn => s.postTo fn code sev data s.time.frc) s

/-- Post an event to one function with the present timestamp. -/
def State.post (s : State) (fn code sev data : Nat) : State := s.postTo fn code sev data s.time.frc

/-! ## Completing commands -/

/-- What a command answers: its status, its inline result, or a result buffer written (R59). -/
structure Reply where
  st : Status
  inl : List Byte
  /-- Result buffer: address and the bytes written, in order, each run with its poison mark (R461). -/
  buf : Option (Nat × List (List Byte × Bool))
  deriving DecidableEq, Repr

/-- A reply without a result. -/
def Reply.bare (st : Status) : Reply := ⟨st, [], none⟩
/-- SUCCESS with an inline result. -/
def Reply.ok (inl : List Byte) : Reply := ⟨.success, inl, none⟩
/-- SUCCESS with a result buffer. -/
def Reply.okBuf (addr : Nat) (bytes : List Byte) : Reply := ⟨.success, [], some (addr, [(bytes, false)])⟩

/-- Write runs of bytes to consecutive host addresses. -/
def State.hostRuns (s : State) (fn : Nat) : (addr : Nat) → List (List Byte × Bool) → State
  | _, [] => s
  | addr, (bs, p) :: rest => (s.emit (.hostWrite fn addr bs p)).hostRuns fn (addr + bs.length) rest

/-- Length of a list of runs. -/
def runsLen (rs : List (List Byte × Bool)) : Nat := (rs.map fun r => r.1.length).sum

/-- The completion entry of a command (R59). -/
def replyEntry (tag opcode : Nat) (r : Reply) : Entry :=
  match r.buf with
  | some (a, runs) => ⟨tag, r.st.code, opcode, 1, runsLen runs, leBytes 8 a ++ leBytes 4 (runsLen runs)⟩
  | none => ⟨tag, r.st.code, opcode, 0, r.inl.length, r.inl⟩

/-- Take a command out of the list of commands in progress. -/
def State.dropFlight (s : State) (id : Nat) : State :=
  { s with host := { s.host with flights := s.host.flights.filter fun f => f.id != id } }

/-- The command in progress with a number. -/
def State.flight? (s : State) (id : Nat) : Option Flight := s.host.flights.find? fun f => f.id == id

/-- Write a reply's result buffer. -/
def State.writeReply (s : State) (fn : Nat) (r : Reply) : State :=
  match r.buf with
  | some (a, runs) => s.hostRuns fn a runs
  | none => s

/-- Hand a completion entry to the sender of a command: into the mailbox result (R45), or on the CQ paired with its SQ (R57). -/
def State.answer (s : State) (fl : Flight) (e : Entry) : State :=
  match fl.src with
  | .mbox =>
    let res := entryBytes e.tag e.status 0 false e.opcode e.flags e.rlen e.result
    let s := s.modFunc fl.fn fun f => { f with mbox := { f.mbox with st := .done, res := res } }
    if (s.func fl.fn).mbox.irqEn then s.signal fl.fn 0 else s
  | .sq qp =>
    if (s.func fl.fn).qps.has qp then s.cqWrite fl.fn qp (some fl.sqHead) e true
    else s.modFunc fl.fn fun f => { f with complLost := sat32 (f.complLost + 1) }

/-- Post a command's completion: its result buffer, then its entry; the command is no longer in progress. -/
def State.complete (s : State) (fl : Flight) (opcode : Nat) (r : Reply) : State :=
  ((s.writeReply fl.fn r).dropFlight fl.id).answer fl (replyEntry (fld fl.cmd 4 4) opcode r)

/-- Mark a command as started and waiting. -/
def State.park (s : State) (id : Nat) (w : Wait) : State :=
  { s with host := { s.host with
      flights := s.host.flights.map fun f => if f.id = id then { f with wait := some w } else f } }

/-- Complete every started command whose wait meets a test, with the reply computed from it. -/
def State.completeWaits (s : State) (p : Wait → Option Reply) : State :=
  s.host.flights.foldl (fun s fl =>
    match fl.wait with
    | none => s
    | some w =>
      match p w with
      | none => s
      | some r => s.complete fl (fld fl.cmd 0 2) r) s

/-! ## Tenants (R39, R40) -/

/-- A tenant's configuration, when it is enabled. -/
def State.tenant? (s : State) (fn : Nat) : Option Tenant := s.host.tenants.find? fn

/-- Whether an enabled tenant 1 to 7 holds something. -/
def State.heldByOther (s : State) (p : Tenant → Bool) : Bool := s.host.tenants.some? fun _ t => p t

/-- Whether a tenant holds what `p` says: tenant 0 holds what no other enabled tenant holds (R39). -/
def State.holds (s : State) (fn : Nat) (p : Tenant → Bool) : Bool :=
  if fn = 0 then !s.heldByOther p else (s.tenant? fn).any p

/-- A number within a base and count. -/
def inSpan (base count n : Nat) : Bool := base ≤ n && n < base + count
/-- Two byte ranges overlap. -/
def overlaps (a la b lb : Nat) : Bool := 0 < la && 0 < lb && a < b + lb && b < a + la
/-- A byte range lies inside another. -/
def within (a la b lb : Nat) : Bool := b ≤ a && a + la ≤ b + lb

/-- The tenant's function holds the cell, trail, flow, lane or MAC (R39, R40). -/
def State.ownsCell (s : State) (fn c : Nat) : Bool := s.holds fn fun t => inSpan t.cellBase t.cellCount c
def State.ownsTrail (s : State) (fn n : Nat) : Bool := s.holds fn fun t => inSpan t.trailBase t.trailCount n
def State.ownsFlow (s : State) (fn n : Nat) : Bool := s.holds fn fun t => inSpan t.flowBase t.flowCount n
def State.ownsLane (s : State) (fn n : Nat) : Bool := s.holds fn fun t => t.lanes.testBit n
def State.ownsMac (s : State) (fn n : Nat) : Bool := s.holds fn fun t => t.macs.testBit n

/-- A byte range of HBM lies within the tenant's extent (R39). -/
def State.ownsHbm (s : State) (fn addr len : Nat) : Bool :=
  if fn = 0 then
    addr + len ≤ hbmCarillon && !(s.heldByOther fun t => overlaps addr len t.hbmBase t.hbmSize)
  else (s.tenant? fn).any fun t => within addr len t.hbmBase t.hbmSize

/-- The function to whose tenant a resource belongs. -/
def State.ownerOf (s : State) (p : Tenant → Bool) : Nat :=
  match s.host.tenants.find? 0, (s.host.tenants.filter fun e => p e.2) with
  | _, e :: _ => e.1
  | _, [] => 0
/-- The function that owns a cell, trail or lane. -/
def State.cellOwner (s : State) (c : Nat) : Nat := s.ownerOf fun t => inSpan t.cellBase t.cellCount c
def State.trailOwner (s : State) (n : Nat) : Nat := s.ownerOf fun t => inSpan t.trailBase t.trailCount n
def State.laneOwner (s : State) (n : Nat) : Nat := s.ownerOf fun t => t.lanes.testBit n
def State.macOwner (s : State) (n : Nat) : Nat := s.ownerOf fun t => t.macs.testBit n

/-- Task quota (R39). -/
def State.taskQuota (s : State) (fn : Nat) : Nat :=
  if fn = 0 then 262144 - (s.host.tenants.map fun e => e.2.tasks).sum
  else ((s.tenant? fn).map Tenant.tasks).getD 0
/-- Queue-pair quota (R39). -/
def State.queueQuota (s : State) (fn : Nat) : Nat :=
  if fn = 0 then 64 else ((s.tenant? fn).map Tenant.queues).getD 0
/-- HBM that a tenant holds (R39, R69): tenant 0's is the general-use HBM that no other holds. -/
def State.hbmSize (s : State) (fn : Nat) : Nat :=
  if fn = 0 then hbmCarillon - (s.host.tenants.map fun e => e.2.hbmSize).sum else ((s.tenant? fn).map Tenant.hbmSize).getD 0
/-- Base and size of the tenant's HBM extent; function 0's BAR 2 view is R64's. -/
def State.hbmExtent (s : State) (fn : Nat) : Nat × Nat :=
  if fn = 0 then (0, hbmCarillon) else ((s.tenant? fn).map fun t => (t.hbmBase, t.hbmSize)).getD (0, 0)

/-- A host address range lies inside one registered window of the function that grants the direction (R29, R63). -/
def State.hostOk (s : State) (fn addr len : Nat) (wr : Bool) : Bool :=
  (s.func fn).windows.any fun w => within addr len w.base w.len && (if wr then w.wr else w.rd)

/-- A host address range lies inside a registered window of another function (R40). -/
def State.hostElse (s : State) (fn addr len : Nat) : Bool :=
  (List.range 8).any fun g => g != fn && (s.func g).windows.any fun w => within addr len w.base w.len

/-! ## Regions as memory sees them -/

/-- A region's power state. -/
def State.region (s : State) (r : Nat) : Region := s.pow.regions.get Region.reset r
/-- Change a region's power state. -/
def State.modRegion (s : State) (r : Nat) (f : Region → Region) : State :=
  { s with pow := { s.pow with regions := s.pow.regions.mod Region.reset r f } }
/-- A region in NAP or OFF. -/
def State.asleep (s : State) (r : Nat) : Bool := (s.region r).st == .nap || (s.region r).st == .off
/-- An address in the window of a region that is asleep: its router answers every request to it (R416). -/
def State.asleepAt (s : State) (a : Nat) : Bool :=
  0x100000000000 ≤ a && a < 0x101000000000 && s.asleep ((a - 0x100000000000) / 0x100000000)

/-! ## The device address map (R20 to R29) -/

/-- What stands at a device address: the kind of place, and the first and last populated byte of its range. -/
inductive Place where
  | hbm
  | regMem (r : Nat)
  | blkMem (r b : Nat)
  | xram (e : Nat) | yram (e : Nat) | pram (e : Nat)
  | engCsr (e : Nat) | blkCsr (r b : Nat) | regCsr (r : Nat)
  | aon
  | peer (d : Nat)
  | host
  | unmapped
  deriving DecidableEq, Repr

/-- A place with its populated range. -/
structure Span where
  place : Place
  lo : Nat
  hi : Nat
  deriving DecidableEq, Repr

/-- The range `lo` to `lo + n − 1`, unmapped when empty or missed. -/
def spanOf (p : Place) (lo n a : Nat) : Span := if lo ≤ a && a < lo + n then ⟨p, lo, lo + n⟩ else ⟨.unmapped, a, a⟩

/-- Where an address inside engine e's window falls (Table 1-9, Table 1-11). -/
def engSpan (e a : Nat) : Span :=
  let base := engBase e
  if !engPop e then ⟨.unmapped, a, a⟩
  else if base + 0xF00000 ≤ a then spanOf (.engCsr e) (base + 0xF00000) 0x10000 a
  else if regKind (engRegion e) != .D then ⟨.unmapped, a, a⟩
  else if a < base + 0x100000 then spanOf (.xram e) base 0x20000 a
  else if a < base + 0x200000 then spanOf (.yram e) (base + 0x100000) 0x20000 a
  else spanOf (.pram e) (base + 0x200000) 0x10000 a

/-- Where an address inside a region window falls (Table 1-8, Table 1-9). The manual gives the offsets of the BDMA registers among the
block CSRs, and of no region CSR: the whole of each CSR space counts as populated (DESIGN CHOICE, log entry 20). -/
def regSpan (r a : Nat) : Span :=
  let off := a - regBase r
  if off < 0x40000000 then spanOf (.regMem r) (regBase r) (regMemSize r) a
  else if off < 0x80000000 then
    let b := (off - 0x40000000) / 0x10000000
    let o := (off - 0x40000000) % 0x10000000
    if regBlocks r ≤ b then ⟨.unmapped, a, a⟩
    else if o < 0x8000000 then engSpan (mkEng r b (o / 0x1000000)) a
    else if o < 0xC000000 then
      (if regKind r = .D then spanOf (.blkMem r b) (blkMemBase r b) 0x400000 a else ⟨.unmapped, a, a⟩)
    else if o < 0xF000000 then ⟨.unmapped, a, a⟩
    else spanOf (.blkCsr r b) (blkBase r b + 0xF000000) 0x1000000 a
  else if off < 0xF0000000 then ⟨.unmapped, a, a⟩
  else spanOf (.regCsr r) (regBase r + 0xF0000000) 0x10000000 a

/-- First address of the Finderscope's registers (R26). -/
def fscBase : Nat := 0x200001000000

/-- Where an address inside the always-on window falls: only registers are populated, and of these the manual gives the ADC's alone
(R26, Table 18-6). -/
def aonSpan (a : Nat) : Span :=
  if a < fscBase + 0x100 then spanOf .aon (fscBase + 0x80) 8 a else spanOf .aon (fscBase + 0x100) 0x80 a

/-- Where an address inside the peer window of device d falls (Table 1-10): its HBM, and each region's memory to its size. -/
def peerSpan (d a : Nat) : Span :=
  let lo := 0x400000000000 + d * 0x1000000000
  let o := a - lo
  if o < 0xC00000000 then ⟨.peer d, lo, lo + 0xC00000000⟩
  else
    let r := (o - 0xC00000000) / 0x40000000
    spanOf (.peer d) (lo + 0xC00000000 + r * 0x40000000) (regMemSize r) a

/-- Where an address falls (Table 1-7). -/
def spanAt (a : Nat) : Span :=
  if a < hbmEnd then ⟨.hbm, 0, hbmEnd⟩
  else if a < 0x100000000000 then ⟨.unmapped, a, a⟩
  else if a < 0x101000000000 then regSpan ((a - 0x100000000000) / 0x100000000) a
  else if a < 0x200000000000 then ⟨.unmapped, a, a⟩
  else if a < 0x200004000000 then aonSpan a
  else if a < 0x400000000000 then ⟨.unmapped, a, a⟩
  else if a < 0x800000000000 then peerSpan ((a - 0x400000000000) / 0x1000000000) a
  else if a < 0x1000000000000 then ⟨.host, 0x800000000000, 0x1000000000000⟩
  else ⟨.unmapped, a, a⟩

/-- The device's own address of an address in a peer window (Table 1-10, R28). -/
def peerToOwn (a : Nat) : Nat :=
  let o := (a - 0x400000000000) % 0x1000000000
  if o < 0xC00000000 then o
  else regBase ((o - 0xC00000000) / 0x40000000) + (o - 0xC00000000) % 0x40000000

/-- Who makes a request: initiator id, the function that owns the work (none: Melvi or hardware), whether it comes from a
peer device, and the task. -/
structure Who where
  init : Nat
  fn : Option Nat
  peer : Bool
  task : Option Nat
  deriving DecidableEq, Repr

/-- The size of a memory word at an address: 32-byte HBM code words, 8-byte SRAM words (R451, R453). -/
def wordSize (a : Nat) : Nat := if a < hbmEnd then 32 else 8
/-- The base of the word an address lies in. -/
def wordBase (a : Nat) : Nat := a - a % wordSize a

/-- The answer to a request of the host window that no window of its function admits: NOT_PERMITTED where a task names one of another
function (R40), otherwise BUS_ERROR (R29). -/
def State.hostRefusal (s : State) (w : Who) (fn addr len : Nat) : Status :=
  if w.task.isSome && s.hostElse fn addr len then .notPermitted else .busError

/-- Whether a byte range meets a retired page or bank (R470). -/
def State.retiredIn (s : State) (addr len : Nat) : Bool :=
  (s.mem.retPages.some? fun b _ => overlaps addr len b 65536)
    || (s.mem.retBanks.some? fun b _ => overlaps addr len b 262144)

/-- The initiators that reach a VDE's memories over the mesh: its own EDMA, the BDMA channels of its block, C0 (R152). -/
def ramInit (e init : Nat) : Bool :=
  init / 256 == 15 || (init / 64 == engBlk e && (init % 64 == engIdx e || (16 ≤ init % 64 && init % 64 < 48)))

/-- An engine is fenced, itself or with its block or region (R597). -/
def State.fenced (s : State) (e : Nat) : Bool :=
  s.fault.fencedEng.has e || s.fault.fencedBlk.has (engBlk e) || s.fault.fencedReg.has (engRegion e)
/-- A block is fenced, itself or with its region. -/
def State.blkFenced (s : State) (blk : Nat) : Bool := s.fault.fencedBlk.has blk || s.fault.fencedReg.has (blk / 4)

/-- A FENCE in progress that overlaps the engines of one region, block or engine: targets as spans of engine addresses (R598). -/
def fenceSpan (kind target : Nat) : Nat × Nat :=
  if kind = 0 then (target, 1) else if kind = 1 then (8 * target, 8) else (32 * target, 32)
/-- Two targets overlap. -/
def spansMeet (a b : Nat × Nat) : Bool := overlaps a.1 a.2 b.1 b.2
/-- Carillon dispatches nothing to an engine: it is fenced, or a FENCE that covers it is in progress (R597). -/
def State.withdrawn (s : State) (e : Nat) : Bool :=
  s.fenced e || s.fault.fences.any fun f => spansMeet (fenceSpan f.kind f.target) (e, 1)

/-- Engines, Carillon, block ports, ports and peer transport do not run: in FAULT (R588), in WATCH but for domain A and the listening
lanes (R493), in OFF. -/
def State.stopped (s : State) : Bool := s.pow.mode == .fault || s.pow.mode == .watch || s.pow.mode == .off

/-- No region has power (Table 17-1). -/
def State.dark (s : State) : Bool := s.pow.mode == .watch || s.pow.mode == .off

/-- A place belongs to a fenced target. -/
def State.placeFenced (s : State) : Place → Bool
  | .regMem r | .regCsr r => s.fault.fencedReg.has r
  | .blkMem r b | .blkCsr r b => s.blkFenced (r * 4 + b)
  | .xram e | .yram e | .pram e | .engCsr e => s.fenced e
  | _ => false

/-- The first address of the peer windows, and of the host window (Table 1-7). -/
def peerBase : Nat := 0x400000000000
def hostBase : Nat := 0x800000000000

/-- The address that an address stands for: one in the device's own peer window is the device's own (R28). -/
def State.real (s : State) (a : Nat) : Nat :=
  if a < peerBase || hostBase ≤ a then a
  else if s.member && (a - peerBase) / 0x1000000000 = s.deviceId then peerToOwn a else a

/-- A task of a plan that was accepted before its function's reset (R66). -/
def State.orphanTask (s : State) (id : Nat) : Bool :=
  (s.car.tasks.find? id).any fun t => (s.car.plans.find? t.plan).any Plan.orphan

/-- Another member is reached through its peer window: it is in the table and not lost (R28, R384). -/
def State.peerThere (s : State) (d : Nat) : Bool := s.member && d != s.deviceId && (s.clu.members.find? d).any Member.up

/-- The answer to a request before it is served: SUCCESS, or the status that refuses it (R20 to R29, R40, R107, R384, R416,
R470). -/
def State.access (s : State) (w : Who) (addr len : Nat) (wr : Bool) : Status :=
  let addr := s.real addr
  let sp := spanAt addr
  if s.asleepAt addr then .domainAsleep
  else if len = 0 || sp.hi < addr + len then .busError
  else if s.retiredIn addr len then .busError
  else if s.placeFenced sp.place && w.init / 256 != 15 then .busError
  else match sp.place with
  | .unmapped => .busError
  | .hbm =>
    if wr && overlaps addr len hbmDump (hbmEnd - hbmDump) && (w.peer || !((w.init / 64 == 62 && w.init % 64 < 4) || w.init == initDome)) then .notPermitted
    else if wr && overlaps addr len hbmCarillon (hbmDump - hbmCarillon) && (w.peer || !(w.init / 256 == 15)) then .notPermitted
    else match w.fn with
      | none => .success
      | some fn => if s.ownsHbm fn addr len then .success else .notPermitted
  | .regMem _ | .blkMem .. => .success
  | .xram e | .yram e => if !ramInit e w.init then .notPermitted else .success
  | .pram e =>
    if !ramInit e w.init then .notPermitted
    else if wr && !(w.init / 256 == 15 || (32 ≤ w.init % 64 && w.init % 64 < 48)) then .notPermitted
    else .success
  | .engCsr _ | .blkCsr .. | .regCsr _ | .aon => if w.init / 256 != 15 then .notPermitted else .success
  | .peer d => if s.peerThere d then .success else .busError
  | .host =>
    match w.fn with
    | some fn =>
      if s.hostOk fn (addr - hostBase) len wr && !(wr && w.task.any s.orphanTask) then .success
      else s.hostRefusal w fn (addr - hostBase) len
    | none => .busError

/-! ## Error logs (R463 to R467) -/

/-- MEMORY code and SOURCE unit of a memory address (Table 16-4). -/
def memCode (a : Nat) : Nat × Nat :=
  match (spanAt a).place with
  | .hbm => (0x10, initId 14 (a / 4096 % 2) 1)
  | .regMem r => (0x05, initId r 0 0)
  | .blkMem r b => (0x04, initId r b 0)
  | .xram e => (0x01, initEng e)
  | .yram e => (0x02, initEng e)
  | .pram e => (0x03, initEng e)
  | _ => (0, 0)

/-- The region whose log records an error at an address. -/
def memRegion (a : Nat) : Nat := (memCode a).2 / 256

/-- An entry of a log matches for merging (R465). -/
def logMatch (kind memory addr now : Nat) (e : LogEntry) : Bool :=
  (kind == 1 || kind == 5) && e.kind == kind && e.memory == memory && e.addr == addr && now ≤ e.frc + 983040000

/-- Add one to the COUNT of the first entry that matches among the 8 newest. -/
def logMerge (p : LogEntry → Bool) : Nat → List LogEntry → Option (List LogEntry)
  | 0, _ => none
  | _, [] => none
  | n + 1, e :: rest =>
    if p e then some ({ e with count := min 65535 (e.count + 1) } :: rest)
    else (logMerge p n rest).map fun r => e :: r

/-- A region's log. -/
def State.log (s : State) (r : Nat) : RegionLog := s.mem.logs.get ⟨[], 0, 0⟩ r

/-- Record an error in a region's log; whether a new entry was made (R463, R465). -/
def State.logError (s : State) (region : Nat) (e : LogEntry) : State × Bool :=
  let l := s.log region
  match logMerge (logMatch e.kind e.memory e.addr s.time.frc) 8 l.entries with
  | some es => ({ s with mem := { s.mem with logs := s.mem.logs.set region { l with entries := es } } }, false)
  | none =>
    let full := l.entries.length == 256
    let lost := full && l.copied == 0
    let es := { e with seq := l.nextSeq % 2 ^ 32, count := 1, frc := s.time.frc } :: l.entries.take 255
    let l' : RegionLog := ⟨es, l.nextSeq + 1, if full then l.copied - 1 else l.copied⟩
    let s := { s with mem := { s.mem with
      logs := s.mem.logs.set region l'
      overflow := if lost then s.mem.overflow + 1 else s.mem.overflow } }
    (if lost then s.postAll 0x0B06 1 region else s, true)

/-- Who of a request as the log's INIT and TASK fields (Table 16-4). -/
def Who.initField (w : Who) : Nat := w.init + 32768 * b2n w.peer
def Who.taskField (w : Who) : Nat :=
  match w.task with
  | some t => t + 262144 * (w.fn.getD 0) + 2147483648
  | none => 0

/-- Log a CE or UE at a word and post its event (R452, R467). -/
def State.logWord (s : State) (w : Who) (a : Nat) (m : Mark) : State :=
  let (memory, source) := memCode a
  let region := source / 256
  match m with
  | .poison => s
  | .ce =>
    let syn := if a < hbmEnd then 0x0100 else 0x0000
    let seq := (s.log region).nextSeq % 65536
    let (s, new) := s.logError region ⟨0, 1, memory, source, a, 1, syn, w.initField, w.taskField, s.time.frc⟩
    if new then
      let (t0, n) := s.mem.ceRate.get (0, 0) region
      let fresh := t0 + 983040000 ≤ s.time.frc || n = 0
      if fresh then
        ({ s with mem := { s.mem with ceRate := s.mem.ceRate.set region (s.time.frc, 1) } }).postAll 0x0B04 0
          (memory + 256 * region + 65536 * seq)
      else if n < 100 then
        ({ s with mem := { s.mem with ceRate := s.mem.ceRate.set region (t0, n + 1) } }).postAll 0x0B04 0
          (memory + 256 * region + 65536 * seq)
      else s
    else s
  | .ue =>
    let seq := (s.log region).nextSeq % 65536
    let (s, _) := s.logError region ⟨0, 2, memory, source, a, 1, 0, w.initField, w.taskField, s.time.frc⟩
    s.postAll 0x0B03 2 (memory + 256 * region + 65536 * seq)

/-! ## Reading and writing memory (R452 to R461) -/

/-- The engine addresses that a memory's place covers: an engine, a block, a region. -/
def Place.span : Place → Nat × Nat
  | .xram e | .yram e | .pram e | .engCsr e => (e, 1)
  | .blkMem r b | .blkCsr r b => (8 * (r * 4 + b), 8)
  | .regMem r | .regCsr r => (32 * r, 32)
  | _ => (0, 0)

/-- The FRC at which the contents of the memory at an address were lost, if they were and nothing has been written there since. -/
def State.lostAt (s : State) (a : Nat) : Option Nat :=
  if s.fault.lost.isEmpty || s.mem.mem.has a || s.mem.rewritten.has a then none
  else
    let x := (spanAt a).place.span
    (List.find? (fun e => x.2 != 0 && within x.1 x.2 (fenceSpan (e.1 / 4096) (e.1 % 4096)).1 (fenceSpan (e.1 / 4096) (e.1 % 4096)).2) s.fault.lost).map
      Prod.snd

/-- The gate table: 4 bytes for each of the 1,048,576 gates, behind the task table (R107, R117). The manual does not lay an entry out: its
bytes are free in what the gate holds (log entry 33). -/
def hbmGates : Nat := hbmCarillon + 0x1000000
def State.gateByte? (s : State) (a : Nat) : Option Byte :=
  if a < hbmGates || hbmGates + 0x400000 ≤ a then none
  else (s.car.gates.find? ((a - hbmGates) / 4)).map fun g =>
    BitVec.ofNat 8 (Config.gateByte g.count ((g.fail.map Status.code).getD 0) (b2n g.fired) (a % 4))

/-- One byte: of the device's memory, where its contents are not lost, or, in the host window or another device's, whatever stands
there (log entry 15). -/
def State.byteAt (s : State) (a : Nat) : Byte :=
  if a < peerBase then
    match s.lostAt a with
    | none => (s.gateByte? a).getD (s.mem.mem.get 0 a)
    | some f => BitVec.ofNat 8 (Config.lostByte f a)
  else BitVec.ofNat 8 (Config.outside s.time.frc a)

/-- The bytes at an address, as the memory holds them after correction. -/
def State.bytesAt (s : State) (addr : Nat) (n : Nat) : List Byte :=
  let a := s.real addr
  (List.range n).map fun i => s.byteAt (a + i)

/-- The marked words that a byte range touches. -/
def State.marksIn (s : State) (addr len : Nat) : Tab Mark :=
  let lo := s.real addr
  s.mem.marks.keep fun a _ => overlaps lo len a (wordSize a)

/-- Whether a byte range touches a word that reads as poison. -/
def State.poisonIn (s : State) (addr len : Nat) : Bool := (s.marksIn addr len).any fun e => e.2 != .ce

/-- Log what a read of a byte range meets (R452). -/
def State.logRead (s : State) (w : Who) (addr len : Nat) : State :=
  (s.marksIn addr len).foldl (fun s e => s.logWord w e.1 e.2) s

/-- The runs of at most `step` bytes of a byte range, counted from its first byte, with their poison marks (R461). -/
def State.unitsAt (s : State) (step : Nat) : (fuel addr len : Nat) → List (List Byte × Bool)
  | 0, _, _ => []
  | fuel + 1, addr, len =>
    if len = 0 then []
    else
      let n := min step len
      (s.bytesAt addr n, s.poisonIn addr n) :: s.unitsAt step fuel (addr + n) (len - n)

/-- Read a byte range in 64-byte units (R461). -/
def State.readUnits (s : State) (w : Who) (addr len : Nat) : List (List Byte × Bool) × State :=
  (s.unitsAt 64 (len / 64 + 1) addr len, s.logRead w addr len)

/-- Write bytes without regard to words. -/
def Tab.putBytes (m : Tab Byte) : (addr : Nat) → List Byte → Tab Byte
  | _, [] => m
  | a, b :: bs => Tab.putBytes (m.put 0 a b) (a + 1) bs

/-- List the addresses at which bytes are 0. -/
def Tab.addZeros (m : Tab Unit) : (addr : Nat) → List Byte → Tab Unit
  | _, [] => m
  | a, b :: bs => Tab.addZeros (if b = 0 then m.set a () else m) (a + 1) bs

/-- Zero a byte range. -/
def Tab.zeroRange (m : Tab Byte) (lo len : Nat) : Tab Byte := m.keep fun a _ => !(lo ≤ a && a < lo + len)

/-- The bases of the words that a byte range touches. -/
def wordsOf (addr len : Nat) : List Nat :=
  if len = 0 then [] else
  let w := wordSize addr
  let b := addr / w
  (List.range ((addr + len - 1) / w - b + 1)).map fun i => (b + i) * w

/-- Make one word poison: data 0 under the poison pattern. -/
def State.poisonWord (s : State) (a : Nat) : State :=
  { s with mem := { s.mem with
      mem := s.mem.mem.zeroRange a (wordSize a), marks := s.mem.marks.set a .poison } }

/-- Note that something other than L0 has written lines of L0 region memory (R33, R250): its task, if it carries one. -/
def State.noteLines (s : State) (w : Who) (addr len : Nat) : State :=
  if w.init == initId 13 0 0 || len = 0 || addr < regBase 13 || regBase 13 + 0x40000000 ≤ addr then s
  else
    let ls := (List.range ((addr + len - 1) / 64 - addr / 64 + 1)).map fun i => (addr / 64 + i) * 64
    { s with line := { s.line with recs := ls.foldl (fun r a => r.set a w.task) s.line.recs } }

/-- Write bytes to the device's memory (R457, R458, R461): a poisoned write poisons every word it touches; a clean write clears
the mark of a word it covers whole, merges into a word that corrects, and leaves a poisoned word poisoned. -/
def State.writeOwn (s : State) (w : Who) (addr : Nat) (bs : List Byte) (poison : Bool) : State :=
  let s := s.noteLines w addr bs.length
  if poison then
    let part := (s.marksIn addr bs.length).keep fun a _ => !within a (wordSize a) addr bs.length
    (wordsOf addr bs.length).foldl (fun s a => s.poisonWord a) (part.foldl (fun s e => s.logWord w e.1 e.2) s)
  else
    let ms := s.marksIn addr bs.length
    let s := { s with mem := { s.mem with
      mem := s.mem.mem.putBytes addr bs
      rewritten := if s.fault.lost.isEmpty then s.mem.rewritten else s.mem.rewritten.addZeros addr bs } }
    ms.foldl (fun s e =>
      if within e.1 (wordSize e.1) addr bs.length then
        { s with mem := { s.mem with marks := s.mem.marks.del e.1 } }
      else match e.2 with
        | .ce => ({ s with mem := { s.mem with marks := s.mem.marks.del e.1 } }).logWord w e.1 .ce
        | .ue => (s.logWord w e.1 .ue).poisonWord e.1
        | .poison => s.poisonWord e.1) s

/-- Steps of a migration in which its source mirrors (Table 13-6). -/
def Mig.mirrors (m : Mig) : Bool := m.source && m.stage != .pairing && !m.lost

/-- Duplicate a write to the target of every migration that it falls in (R390). -/
def State.mirror (s : State) (addr : Nat) (bs : List Byte) (poison : Bool) : State :=
  s.clu.migs.foldl (fun s e =>
    if !e.2.mirrors then s
    else e.2.ranges.foldl (fun s r =>
      if !overlaps addr bs.length r.1 r.2.2.1 then s
      else
        let lo := max addr r.1
        let hi := min (addr + bs.length) (r.1 + r.2.2.1)
        s.emit (.peerMsg e.2.dev (.copy e.1 (r.2.1 + lo - r.1) [((bs.drop (lo - addr)).take (hi - lo), poison)]))) s) s

/-- Write bytes: to the device's memory, to host memory, or to another device through its peer window. -/
def State.write (s : State) (w : Who) (addr : Nat) (bs : List Byte) (poison : Bool) : State :=
  let a := s.real addr
  if hostBase ≤ a then s.emit (.hostWrite (w.fn.getD 0) (a - hostBase) bs poison)
  else if peerBase ≤ a then s.emit (.peerWrite a bs poison)
  else
    let s := s.writeOwn w a bs poison
    if s.clu.migs.isEmpty then s else s.mirror a bs poison

/-- Zero a byte range with valid check bytes (R456). -/
def State.zeroMem (s : State) (lo len : Nat) : State :=
  { s with mem := { s.mem with
      mem := s.mem.mem.zeroRange lo len
      marks := s.mem.marks.keep fun a _ => !(lo ≤ a && a < lo + len) } }

/-- Log a refused access to retired memory (R463, R470). -/
def State.logRetired (s : State) (w : Who) (addr : Nat) : State :=
  let (memory, source) := memCode addr
  (s.logError (source / 256) ⟨0, 5, memory, source, wordBase addr, 1, 0, w.initField, w.taskField, s.time.frc⟩).1

/-- A record that Melvi makes itself (KIND 6, Table 16-4), in the log of a region. -/
def State.logMelvi (s : State) (region source addr : Nat) : State :=
  (s.logError region ⟨0, 6, 0, source, addr, 1, 0, initMelvi, 0, s.time.frc⟩).1

end Sys2Proof.Machine
end

