-- ==== Sys2Proof/Machine/Timeline.lean ====
section
/-! DEFINITION. Slot timelines: numerologies, strobe positions, timeline points (R93 to R99). -/

namespace Sys2Proof.Machine

/-- One ns in the units of T, 2³². -/
def nsUnit : Int := 4294967296

/-- FRC counts in a radio frame, a subframe, a half-subframe. -/
def frameCounts : Nat := 9830400
def subframeCounts : Nat := 983040
def halfCounts : Nat := 491520

/-- Numerology codes of Table 3-4. -/
def numerologies : List Nat := [0x00, 0x01, 0x02, 0x03, 0x04, 0x05, 0x06, 0x12, 0x20, 0x21, 0x22]

/-- Slots per radio frame (Table 3-4). -/
def slotsPer (num : Nat) : Nat :=
  match num with
  | 0x00 => 10 | 0x01 => 20 | 0x02 => 40 | 0x03 => 80 | 0x04 => 160 | 0x05 => 320 | 0x06 => 640
  | 0x12 => 40 | 0x20 => 20 | 0x21 => 20 | 0x22 => 5 | _ => 0

/-- Symbols per slot (Table 3-4). -/
def symsPer (num : Nat) : Nat :=
  match num with
  | 0x12 => 12 | 0x20 => 7 | 0x21 => 6 | 0x22 => 7 | 0x00 | 0x01 | 0x02 | 0x03 | 0x04 | 0x05 | 0x06 => 14 | _ => 0

/-- The ordinary symbol length in counts (Table 3-4). -/
def symLen (num : Nat) : Nat :=
  match num with
  | 0x00 => 70144 | 0x01 => 35072 | 0x02 => 17536 | 0x03 => 8768 | 0x04 => 4384 | 0x05 => 2192 | 0x06 => 1096
  | 0x12 => 20480 | 0x20 => 70144 | 0x21 => 81920 | 0x22 => 270336 | _ => 0

/-- What the first symbol of a half-subframe is longer by (Table 3-4). -/
def symExtra (num : Nat) : Nat := if num < 7 || num = 0x20 then 512 else 0

/-- Symbols per half-subframe of rows whose half-subframes begin with a symbol. -/
def symsPerHalf (num : Nat) : Nat := if symLen num = 0 then 1 else (halfCounts - symExtra num) / symLen num

/-- Count offset of a symbol from the start of its radio frame. -/
def symOff (num slot sym : Nat) : Nat :=
  if num = 0x22 then slot * 1966080 + sym * 270336
  else
    let n := slot * symsPer num + sym
    let i := n % symsPerHalf num
    n / symsPerHalf num * halfCounts + (if i = 0 then 0 else symExtra num + i * symLen num)

/-- Count offset of the first symbol start after an offset, when the timeline has symbols; else the end of the frame. -/
def nextSym (num off : Nat) : Nat :=
  if symLen num = 0 then frameCounts
  else if num = 0x22 then
    let r := off % 1966080
    if r / 270336 < 6 then off - r + (r / 270336 + 1) * 270336 else off - r + 1966080
  else
    let r := off % halfCounts
    let i := if r < symLen num + symExtra num then 0 else (r - symExtra num) / symLen num
    if i + 1 < symsPerHalf num then off - r + symExtra num + (i + 1) * symLen num else off - r + halfCounts

/-- The next strobe instant after (k, off): a subframe or symbol start (R94). -/
def nextStrobe (num : Nat) (k : Int) (off : Nat) : Int × Nat :=
  let sub := (off / subframeCounts + 1) * subframeCounts
  let n := min sub (nextSym num off)
  if frameCounts ≤ n then (k + 1, 0) else (k, n)

/-- The nominal time of a position, in 2⁻³² ns of Θ (R94). -/
def nominal (toff : Int) (k : Int) (off : Nat) : Int :=
  (k * 10000000 + toff) * 4294967296 + ((off * 3125 * 4294967296 / 3072 : Nat) : Int)

/-- The radio frame in which Θ lies. -/
def frameAt (toff theta : Int) : Int := (theta - toff * 4294967296) / (10000000 * 4294967296)

/-- The first radio frame that starts at or after a time. -/
def frameFrom (toff theta : Int) : Int :=
  let k := frameAt toff theta
  if nominal toff k 0 = theta then k else k + 1

/-- The slot a time lies in. -/
def slotNow (tl : Timeline) (theta : Int) : Int × Nat :=
  let k := frameAt tl.toff theta
  let off := ((theta - nominal tl.toff k 0) * 3072 / (3125 * nsUnit)).toNat
  let per := slotsPer tl.num
  let e := off * per / frameCounts
  (k, if off < symOff tl.num e 0 then e - 1 else if e + 1 < per && symOff tl.num (e + 1) 0 ≤ off then e + 1 else e)

/-- Positions in order. -/
def posLe (a b : Int × Nat) : Bool := a.1 < b.1 || (a.1 == b.1 && a.2 ≤ b.2)

/-- Fields of a timeline point (R99). -/
def tpSfn (p : Nat) : Nat := bits p 31 22
def tpSlot (p : Nat) : Nat := bits p 21 12
def tpSym (p : Nat) : Nat := bits p 11 8
/-- A timeline point from its fields. -/
def tpMake (sfn slot sym : Nat) : Nat := sfn * 4194304 + slot * 4096 + sym * 256

/-- A timeline point is valid for a numerology (R99). -/
def tpValid (num p : Nat) : Bool := bits p 7 0 == 0 && tpSlot p < slotsPer num && tpSym p < symsPer num

/-- The radio frame of a timeline point: the occurrence nearest the present position (R99). -/
def tpFrame (tl : Timeline) (theta : Int) (p : Nat) : Int :=
  let x := frameAt tl.toff theta
  let r := ((tpSfn p : Int) - tl.sfnBase - x) % 1024
  let off := symOff tl.num (tpSlot p) (tpSym p)
  let a := nominal tl.toff (x + r) off - theta
  let b := theta - nominal tl.toff (x + r - 1024) off
  if a ≤ b then x + r else x + r - 1024

/-- The position a timeline point denotes. -/
def tpPos (tl : Timeline) (theta : Int) (p : Nat) : Int × Nat :=
  (tpFrame tl theta p, symOff tl.num (tpSlot p) (tpSym p))

/-- A slot some slots after (k, slot). -/
def slotAfter (num : Nat) (k : Int) (slot n : Nat) : Int × Nat :=
  let per := slotsPer num
  (k + ((slot + n) / per : Nat), (slot + n) % per)

/-- A slot some slots before (k, slot). -/
def slotBefore (num : Nat) (k : Int) (slot n : Nat) : Int × Nat :=
  if n ≤ slot then (k, slot - n) else (k - 1, slot + slotsPer num - n)

/-- A cell's anchored timeline. -/
def State.anchor? (s : State) (cell : Nat) : Option Timeline := s.time.anchors.find? cell

/-- Some cell timeline is anchored or has an anchor pending (R91). -/
def State.anchored (s : State) : Bool := !s.time.anchors.isEmpty || !s.time.pendAnchors.isEmpty

/-- The FRC count at which a position of a timeline comes, under the newest conversion. -/
def State.frcOfPos (s : State) (tl : Timeline) (k : Int) (off : Nat) : Nat := s.frcOfTheta (nominal tl.toff k off)

/-- Theta now. -/
def State.thetaNow (s : State) : Int := s.theta s.time.frc

end Sys2Proof.Machine
end

