-- ==== Sys2Proof/Machine/TaskMem.lean ====
section
/-! DEFINITION. Carillon's tables, gates and ready lists, and what a task reads and writes (chapter 04). -/

namespace Sys2Proof.Machine

/-! ## Tables -/

def State.task? (s : State) (id : Nat) : Option Task := s.car.tasks.find? id
def State.modCar (s : State) (f : Carillon → Carillon) : State := { s with car := f s.car }
/-- Change a listed task. -/
def State.modTask (s : State) (id : Nat) (f : Task → Task) : State :=
  s.modCar fun c => { c with tasks := c.tasks.upd id f }
/-- What an engine holds. -/
def State.eng (s : State) (e : Nat) : EngineRun := s.car.engines.get EngineRun.idle e
def State.modEng (s : State) (e : Nat) (f : EngineRun → EngineRun) : State :=
  s.modCar fun c => { c with engines := c.engines.mod EngineRun.idle e f }
/-- The function of a plan. -/
def State.planFn (s : State) (p : Nat) : Nat := ((s.car.plans.find? p).map Plan.fn).getD 0
/-- The function whose tenant a task belongs to; a task that a peer sent runs under REMOTE_TENANT (Table 13-1). -/
def State.taskFn (s : State) (t : Task) : Nat := if t.origin.isSome then s.clu.tenant else s.planFn t.plan
/-- Key of a tenant's epoch. -/
def epochKey (fn ep : Nat) : Nat := fn * 65536 + ep
/-- A task's epoch is open: the task is speculative (R132). -/
def State.speculative (s : State) (t : Task) : Bool :=
  t.epoch != 0 && t.origin.isNone && ((s.car.epochs.find? (epochKey (s.taskFn t) t.epoch)).any fun e => e.st == .opened)
/-- Who of a task's own requests. -/
def State.taskWho (s : State) (id : Nat) (t : Task) (init : Nat) : Who := ⟨init, some (s.taskFn t), false, some id⟩

/-- The region that serves a task of a type when its AFFINITY is not given: the cell's home (Table 4-14). -/
def homeRegion (home ty : Nat) : Nat :=
  if ty = 1 then home % 8
  else if ty = 2 then 8 + bits home 3 3
  else if ty = 10 || ty = 11 then 12
  else 10 + bits home 4 4

/-- A task's affinity region (Table 4-1). -/
def State.taskRegion (s : State) (t : Task) : Nat :=
  match t.affinity with
  | some r => r
  | none => homeRegion (((s.cells.find? t.cell).map Cell.home).getD 0) t.type

/-! ## The Observing Log (R137) -/

/-- The PC byte of a task (Table 4-1). -/
def Task.pcByte (t : Task) : Nat := t.prio + 16 * t.cls

/-- Write a record, when the log is enabled and the record passes its filters. `region` is the region compared. -/
def State.olog (s : State) (type id : Nat) (t : Task) (engine : Option Nat) (region : Nat) (status aux : Nat) : State :=
  let o := s.car.olog
  if !o.enable || !o.classes.testBit t.cls || !o.types.testBit type || !o.regions.testBit region
      || (t.flow &&& o.flowMask) != (o.flow &&& o.flowMask) then s
  else
    let w : Who := ⟨initMelvi, none, false, none⟩
    let consumed := leNat (s.bytesAt (o.ring + 16) 8)
    if o.stop && o.entries ≤ o.written - consumed then
      let s := s.modCar fun c => { c with olog := { o with lost := o.lost + 1 } }
      s.write w (o.ring + 8) (leBytes 4 (o.lost + 1)) false
    else
      let rec_ := leBytes 1 type ++ leBytes 1 t.pcByte ++ leBytes 2 (engine.getD 0x1FF) ++ leBytes 4 id
        ++ leBytes 2 t.flow ++ leBytes 2 t.seq ++ leBytes 2 t.epoch ++ leBytes 2 status ++ leBytes 8 s.time.frc
        ++ leBytes 4 t.deadline ++ leBytes 4 aux
      let s := s.modCar fun c => { c with olog := { o with written := o.written + 1 } }
      let s := s.write w (o.ring + 64 + 32 * (o.written % o.entries)) rec_ false
      s.write w o.ring (leBytes 8 (o.written + 1)) false

/-- The region a record of a task compares: its engine's, or its affinity region when it was never dispatched (R137). -/
def State.ologTask (s : State) (type id : Nat) (t : Task) (status aux : Nat) : State :=
  match t.ranOn with
  | some e => s.olog type id t (some e) (engRegion e) status aux
  | none => s.olog type id t none (s.taskRegion t) status aux

/-! ## Ready lists (R116, R119, R485) -/

/-- A region is fenced or a FENCE of it is in progress; a region whose list can take a task now is neither, and awake. -/
def State.regWithdrawn (s : State) (r : Nat) : Bool :=
  s.fault.fencedReg.has r || s.fault.fences.any fun f => f.kind == 2 && f.target == r
def State.listOpen (s : State) (r : Nat) : Bool := !s.regWithdrawn r && !s.asleep r

/-- Start a region's wake, if it sleeps and no wake is under way (R485, R487). -/
def State.startWake (s : State) (r : Nat) : State :=
  if s.asleep r && (s.region r).waking.isNone then s.modRegion r fun g => { g with waking := some s.time.frc } else s

/-- Raise an IDLE region's clock request: it returns to ACTIVE (R480). -/
def State.clockUp (s : State) (r : Nat) : State :=
  if (s.region r).st == .idle then s.modRegion r fun g => { g with st := .active } else s

/-- The region that serves a device address, if one does. -/
def regionAt (a : Nat) : Option Nat :=
  match (spanAt a).place with
  | .hbm => some 14
  | .regMem r | .regCsr r | .blkMem r _ | .blkCsr r _ => some r
  | .xram e | .yram e | .pram e | .engCsr e => some (engRegion e)
  | .peer _ => some 13
  | _ => none

/-- A request to an address raises the clock request of its region (R414, R480). -/
def State.clockFor (s : State) (a : Nat) : State :=
  match regionAt (s.real a) with
  | some r => s.clockUp r
  | none => s

/-- Put a READY task into a list: its affinity region's, or the nearest ACTIVE region's of the same kind; with none, hold
it in C0, write a WAKE_REQUEST record and wake the nearest sleeping region when its sleep allows (R485). -/
def State.enlist (s : State) (id : Nat) (t : Task) : State :=
  let home := s.taskRegion t
  let kin := byDistance home (typeRegions t.type)
  let pool := home :: kin.filter (· != home)
  let cand := if s.listOpen home then some home
    else match pool.find? fun r => s.listOpen r && (s.region r).st == .active with
      | some r => some r
      | none => pool.find? fun r => s.listOpen r
  let allLow := (pool.filter fun r => !s.fault.fencedReg.has r).all fun r => (s.region r).st != .active
  match cand with
  | some r =>
    let s := s.modTask id fun t => { t with region := some r }
    let s := if allLow then s.olog 7 id t none r 0 r else s
    s.clockUp r
  | none =>
    let s := s.modTask id fun t => { t with region := none }
    match pool.find? fun r => s.asleep r && !s.regWithdrawn r with
    | none => s
    | some r =>
      let s := s.olog 7 id t none r 0 r
      if (s.region r).autoWake then s.startWake r else s

/-- Make a task READY: it takes its place at the end of its priority's order. -/
def State.makeReady (s : State) (id : Nat) : State :=
  let s := s.modTask id fun t => { t with st := .ready, readyNo := s.car.nextReady, readyAt := s.time.frc }
  let s := s.modCar fun c => { c with nextReady := c.nextReady + 1 }
  match s.task? id with
  | some t => s.enlist id t
  | none => s

/-- Whether a task's wait gate lets it go: it has none, or it has fired; and the failing status the gate carries. -/
def State.gateOpen (s : State) (t : Task) : Bool × Option Status :=
  match t.waitGate with
  | none => (true, none)
  | some g =>
    match s.car.gates.find? g with
    | none => (true, none)
    | some gt => (gt.fired, gt.fail)

/-! ## Gates (R117, R118) -/

/-- A signal to a gate: with the failing status, or clean. -/
abbrev Signal := Nat × Option Status

/-- Fail a task into DONE_HELD with a status, unless it is there; the signals this gives (R111, R118). -/
def Task.failHeld (t : Task) (st : Status) : Task :=
  { t with st := .doneHeld, fail := some st, engine := none, suspended := false, leave := .no, region := none }

/-- Consider a WAITING task again: a failed gate fails it, an open gate and window make it READY. The signals it gives. -/
def State.consider (s : State) (id : Nat) : State × List Signal :=
  match s.task? id with
  | none => (s, [])
  | some t =>
    if t.st != .waiting then (s, []) else
    match s.gateOpen t with
    | (false, _) => (s, [])
    | (true, some st) =>
      if t.runOnFail then
        let s := s.modTask id fun t => { t with gateMark := some st }
        if (s.car.plans.find? t.plan).any Plan.windowOpen then (s.makeReady id, []) else (s, [])
      else
        (s.modTask id fun t => t.failHeld st, (t.doneGate.toList).map fun g => (g, some st))
    | (true, none) =>
      if (s.car.plans.find? t.plan).any Plan.windowOpen then (s.makeReady id, []) else (s, [])

/-- Consider a list of tasks. -/
def State.considerAll (s : State) : List Nat → State × List Signal
  | [] => (s, [])
  | id :: rest =>
    let (s, a) := s.consider id
    let (s, b) := s.considerAll rest
    (s, a ++ b)

/-- One signal: the counter falls by one, FAILED sticks; at zero the gate fires (R117). -/
def State.signal1 (s : State) (g : Signal) : State × List Signal :=
  match s.car.gates.find? g.1 with
  | none => (s, [])
  | some gt =>
    if gt.fired then (s, [])
    else
      let fail := if gt.fail.isSome then gt.fail else g.2
      let fired := gt.count ≤ 1
      let s := s.modCar fun c => { c with gates := c.gates.set g.1 { gt with count := gt.count - 1, fail := fail, fired := fired } }
      if fired then s.considerAll ((s.car.tasks.keep fun _ t => t.st == .waiting && t.waitGate == some g.1).keys)
      else (s, [])

/-- Deliver signals and the signals they give rise to. Each task fails at most once, so the fuel never runs out. -/
def State.signals (s : State) : (fuel : Nat) → List Signal → State
  | 0, _ => s
  | _, [] => s
  | fuel + 1, g :: rest =>
    let (s, more) := s.signal1 g
    s.signals fuel (rest ++ more)

/-- Deliver signals to gates. -/
def State.signalGates (s : State) (gs : List Signal) : State := s.signals (s.car.tasks.length + gs.length + 1) gs

/-- Optional gate as a signal list. -/
def sig (g : Option Nat) (st : Option Status) : List Signal := g.toList.map fun g => (g, st)

/-! ## Engines -/

/-- A kernel's PREEMPTING mark. -/
def State.preempting (s : State) (t : Task) : Bool := t.type == 1 && ((s.kernels.find? t.kernel).any Kernel.preempting)

/-- A VDE's state. -/
def State.vde (s : State) (e : Nat) : Vde := s.vdes.get Vde.reset e
def State.modVde (s : State) (e : Nat) (f : Vde → Vde) : State := { s with vdes := s.vdes.mod Vde.reset e f }
def Vde.bank (v : Vde) : Bank := if v.inAlt then v.alt else v.main
def Vde.setBank (v : Vde) (b : Bank) : Vde := if v.inAlt then { v with alt := b } else { v with main := b }

/-- FRC counts of the yield timer and of the trap's grace (R168). -/
def yieldCounts : Nat := 9831
def trapCounts : Nat := 394

/-- Main part and pre-emption partition of X-RAM and Y-RAM, zeroed when a task leaves a bank (R153, Table 5-3). -/
def State.zeroPart (s : State) (e : Nat) (alt : Bool) : State :=
  let b := engBase e
  if alt then (s.zeroMem (b + 0x1C000) 0x4000).zeroMem (b + 0x11C000) 0x4000
  else (s.zeroMem b 0x1C000).zeroMem (b + 0x100000) 0x1C000

/-- The EDMA channels of a bank: 0 to 2 main, 3 alternate (R170). -/
def bankChans (alt : Bool) : List Nat := if alt then [3] else [0, 1, 2]

/-! ## Persistent memory (R128 to R131, R468) -/

/-- A byte range meets a persistent range. -/
def State.persistent (s : State) (addr len : Nat) : Bool := s.mem.ranges.any fun r => overlaps addr len r.base r.len

/-- List every byte of a run, zero bytes too. -/
def Tab.listBytes (m : Tab Byte) : (addr : Nat) → List Byte → Tab Byte
  | _, [] => m
  | a, b :: bs => Tab.listBytes (m.set a b) (a + 1) bs

/-- Distinct 64-byte lines among byte addresses. -/
def lineCount (t : Tab Byte) : Nat := ((t.keys.map (· / 64)).dedup).length

/-- A word holds a byte of a task's commit-buffer lines. -/
def Task.inLines (t : Task) (a : Nat) : Bool := (List.range (wordSize a)).any fun i => t.lines.has (a + i)

/-- Whether a word is poison to its task: as its lines say where they hold a byte of it, else as memory does (R129, R165). -/
def State.wordPoison (s : State) (t : Task) (a : Nat) : Bool :=
  t.linePois.has a || (s.poisonIn a (wordSize a) && !t.inLines a)

/-- Poison of the words of a task's lines after a write to them: a poisoned store poisons each word, a clean one of a whole word clears
it, and a clean one of a part leaves it as it was (R165). -/
def State.linesPoison (s : State) (t : Task) (addr n : Nat) (poison : Bool) : Tab Unit :=
  (wordsOf addr n).foldl (fun l a =>
    if poison then l.set a ()
    else if addr ≤ a && a + wordSize a ≤ addr + n then l.del a
    else if s.wordPoison t a then l.set a () else l) t.linePois

/-- A byte range cut where persistence may change: at multiples of 64 KiB (R468). -/
def persParts : (fuel addr : Nat) → List Byte → List (Nat × List Byte)
  | 0, _, _ => []
  | fuel + 1, a, bs =>
    let k := 65536 - a % 65536
    if bs.length ≤ k then [(a, bs)] else (a, bs.take k) :: persParts fuel (a + k) (bs.drop k)

/-- A task's write (R129, R130): to memory, and, of what is persistent while its epoch is open, to its commit-buffer lines; refused
past its reservation. -/
def State.taskWrite (s : State) (id init addr : Nat) (bs : List Byte) (poison : Bool) : State × Status :=
  match s.task? id with
  | none => (s, .busError)
  | some t =>
    let addr := s.real addr
    let w := s.taskWho id t init
    match s.access w addr bs.length true with
    | .success =>
      let s := s.clockFor addr
      if s.speculative t && s.persistent addr bs.length then
        let parts := persParts (bs.length / 65536 + 2) addr bs
        let mine := parts.filter fun p => s.persistent p.1 p.2.length
        let ls := mine.foldl (fun l p => Tab.listBytes l p.1 p.2) t.lines
        if t.commitKib * 1024 < lineCount ls * 64 then (s, .noResource)
        else
          let lp := mine.foldl (fun l p => s.linesPoison { t with linePois := l } p.1 p.2.length poison) t.linePois
          let s := (parts.filter fun p => !s.persistent p.1 p.2.length).foldl (fun s p => s.write w p.1 p.2 poison) s
          (s.modTask id fun t => { t with lines := ls, linePois := lp }, .success)
      else (s.write w addr bs poison, .success)
    | st => (if s.retiredIn addr bs.length then s.logRetired w addr else s, st)

/-- What a task reads: its own buffered bytes over memory (R129). -/
def State.taskBytes (s : State) (t : Task) (addr n : Nat) : List Byte :=
  let a := s.real addr
  (List.range n).map fun i => match t.lines.find? (a + i) with
    | some b => b
    | none => s.byteAt (a + i)

/-- Whether what a task reads is poison. -/
def State.taskPoison (s : State) (t : Task) (addr n : Nat) : Bool := (wordsOf (s.real addr) n).any fun a => s.wordPoison t a

end Sys2Proof.Machine
end

