-- ==== Sys2Proof/Machine/DmaOps.lean ====
section
/-! DEFINITION. DMA shared operations (chapter 15): descriptors, load checks, the transfer itself, completion and
hand-over. -/

namespace Sys2Proof.Machine

/-! ## Descriptors (R427 to R431) -/

/-- Fields of a descriptor (Table 15-2). -/
def dSrc (d : List Byte) : Nat := fld d 0 6
def dFlags (d : List Byte) : Nat := fld d 6 2
def dDst (d : List Byte) : Nat := fld d 8 6
def dRun (d : List Byte) : Nat := fld d 16 2
def dCount1 (d : List Byte) : Nat := fld d 18 2
def dCount2 (d : List Byte) : Nat := fld d 20 2
def dSstep1 (d : List Byte) : Int := sfld d 24 4
def dDstep1 (d : List Byte) : Int := sfld d 28 4
def dSstep2 (d : List Byte) : Int := sfld d 32 4
def dDstep2 (d : List Byte) : Int := sfld d 36 4
def dWaitAck (d : List Byte) : Bool := bit (dFlags d) 0
def dOverlapOk (d : List Byte) : Bool := bit (dFlags d) 1
def dClass (d : List Byte) : Nat := bits (dFlags d) 3 2

/-- The extent of one side, as [lo, hi) (R429). -/
def extentOf (a : Nat) (run c1 c2 : Nat) (t1 t2 : Int) : Int × Int :=
  let x1 := ((c1 : Int) - 1) * t1
  let x2 := ((c2 : Int) - 1) * t2
  ((a : Int) + min 0 x1 + min 0 x2, (a : Int) + max 0 x1 + max 0 x2 + run)

def dSrcExt (d : List Byte) : Int × Int := extentOf (dSrc d) (dRun d) (dCount1 d) (dCount2 d) (dSstep1 d) (dSstep2 d)
def dDstExt (d : List Byte) : Int × Int := extentOf (dDst d) (dRun d) (dCount1 d) (dCount2 d) (dDstep1 d) (dDstep2 d)

/-- A transfer is contiguous (R430). -/
def dContiguous (d : List Byte) : Bool :=
  (dCount1 d ≤ 1 || (dSstep1 d == dRun d && dDstep1 d == dRun d))
    && (dCount2 d ≤ 1 || (dSstep2 d == dRun d * dCount1 d && dDstep2 d == dRun d * dCount1 d))

/-- The extents share a byte. -/
def dShares (d : List Byte) : Bool := (dSrcExt d).1 < (dDstExt d).2 && (dDstExt d).1 < (dSrcExt d).2

/-- Check 1 of R430. -/
def dBad (d : List Byte) (edma : Bool) : Bool :=
  dFlags d &&& 0xFFF0 != 0 || fld d 14 2 != 0 || fld d 22 2 != 0 || fld d 40 8 != 0
    || dRun d == 0 || dCount1 d == 0 || dCount2 d == 0 || (edma && dClass d != 0)
    || (dSrcExt d).1 < 0 || 281474976710656 < (dSrcExt d).2 || (dDstExt d).1 < 0 || 281474976710656 < (dDstExt d).2

/-- The load checks of R430. -/
def dCheck (d : List Byte) (edma : Bool) : Option Status :=
  if dBad d edma then some .badParam
  else if dShares d && !dOverlapOk d then some .overlap
  else if dShares d && !dContiguous d then some .overlap
  else none

/-- A transfer that runs in descending byte order (R431). -/
def dDescending (d : List Byte) : Bool := dShares d && dOverlapOk d && dContiguous d && dSrc d < dDst d

/-- The runs of a transfer in the order of R428: source, destination, length. -/
def dRuns (d : List Byte) : List (Nat × Nat × Nat) :=
  (List.range (dCount2 d)).flatMap fun (i2 : Nat) => (List.range (dCount1 d)).map fun (i1 : Nat) =>
    (((dSrc d : Int) + i1 * dSstep1 d + i2 * dSstep2 d).toNat, ((dDst d : Int) + i1 * dDstep1 d + i2 * dDstep2 d).toNat, dRun d)

/-! ## Channels -/

def State.chan (s : State) : DmaRef → DmaChan
  | .edma e c => (s.vde e).chans.get DmaChan.reset c
  | .bdma b c => s.bdma.get DmaChan.reset (b * 32 + c)

def State.modChan (s : State) (r : DmaRef) (f : DmaChan → DmaChan) : State :=
  match r with
  | .edma e c => s.modVde e fun v => { v with chans := v.chans.mod DmaChan.reset c f }
  | .bdma b c => { s with bdma := s.bdma.mod DmaChan.reset (b * 32 + c) f }

/-- The bank whose kernel drives an EDMA channel. -/
def chanBank (v : Vde) (c : Nat) : Bank := if c = 3 then v.alt else v.main

/-- Who of a channel's requests (R426). -/
def State.chanWho (s : State) : DmaRef → Who
  | .edma e c =>
    let id := (chanBank (s.vde e) c).task
    ⟨initEng e, some (((id.bind s.task?).map s.taskFn).getD 0), false, id⟩
  | .bdma b c =>
    let o := (s.bdma.get DmaChan.reset (b * 32 + c)).owner
    ⟨initId (b / 4) (b % 4) (16 + c), if o < 8 then some o else none, false, none⟩

/-- An EDMA extent on the engine's own RAMs lies in the part of the bank that drives the channel (R437). -/
def edmaPartOk (e c : Nat) (x : Int × Int) : Bool :=
  let part (lo : Nat) : Bool :=
    let inRam := x.1 < (lo + 0x20000 : Nat) && (lo : Int) < x.2
    !inRam || (if c = 3 then ((lo + 0x1C000 : Nat) : Int) ≤ x.1 else x.2 ≤ ((lo + 0x1C000 : Nat) : Int))
  part (engBase e) && part (engBase e + 0x100000)

/-- The load check of a channel (R430, R437). -/
def chanCheck (r : DmaRef) (d : List Byte) : Option Status :=
  match r with
  | .edma e c =>
    match dCheck d true with
    | some st => some st
    | none => if edmaPartOk e c (dSrcExt d) && edmaPartOk e c (dDstExt d) then none else some .notPermitted
  | .bdma _ _ => dCheck d false

/-- The result of DMA_SUBMIT (Table 15-5). -/
def dmaResult (c : Nat) (ch : DmaChan) : List Byte :=
  leBytes 1 c ++ leBytes 1 (b2n ch.poisonSeen + 2 * b2n ch.descending + 4 * b2n ch.handed) ++ leBytes 6 ch.faultAddr
    ++ leBytes 8 ch.bytesDone

/-- Complete the DMA_SUBMIT command with a number. -/
def State.dmaReply (s : State) (id : Nat) (st : Status) (res : List Byte) : State :=
  match s.flight? id with
  | some fl => s.complete fl 0x0B01 ⟨st, res, none⟩
  | none => s

/-- Start the transfer of a channel's active set: the load check first; a failing descriptor completes at once (R430).
Answers whether it started. -/
def State.chanStart (s : State) (r : DmaRef) (d : List Byte) : State :=
  match chanCheck r d with
  | none => s.modChan r fun ch => { ch with
      active := d, busy := true, descending := dDescending d, poisonSeen := false, bytesDone := 0, faultAddr := 0, moved := 0, buf := [] }
  | some st =>
    let ch := s.chan r
    let s := s.modChan r fun ch => { ch with
      active := d, busy := false, done := true, status := st.code, descending := false, poisonSeen := false
      bytesDone := 0, faultAddr := 0, cmd := none, owner := 255 }
    match r, ch.cmd with
    | .bdma _ c, some id => s.dmaReply id st (dmaResult c { ch with bytesDone := 0, faultAddr := 0, poisonSeen := false, descending := false, handed := false })
    | _, _ => s

/-- A BDMA's engines. -/
def State.bdmaEngOf (s : State) (blk : Nat) : BdmaEng := s.bdmaEng.get BdmaEng.reset blk
def State.modBdmaEng (s : State) (blk : Nat) (f : BdmaEng → BdmaEng) : State :=
  { s with bdmaEng := s.bdmaEng.mod BdmaEng.reset blk f }

/-- Nothing of a channel's data is left in its BDMA's buffer. -/
def State.leaveBuffer (s : State) (blk c : Nat) : State := s.modBdmaEng blk fun g => { g with order := g.order.filter fun x => x.1 != c }

/-- A transfer completes with a status (R441, R449): DONE and STATUS set; after SUCCESS an armed shadow is handed over;
otherwise ARM clears and a command armed behind it completes with the same status. -/
def State.chanDone (s : State) (r : DmaRef) (st : Status) : State :=
  let ch := s.chan r
  let hand := st = .success && ch.arm
  let s := s.modChan r fun ch => { ch with
    busy := false, done := true, status := st.code, arm := false, cmd := none, owner := 255, moved := 0, buf := [] }
  let c := match r with
    | .edma _ c => c
    | .bdma _ c => c
  let s := match r with
    | .edma _ _ => s
    | .bdma blk c => s.leaveBuffer blk c
  let s := match ch.cmd with
    | some id => s.dmaReply id st (dmaResult c ch)
    | none => s
  if hand then
    let s := s.modChan r fun x => { x with cmd := ch.cmdNext, cmdNext := none, owner := ch.ownerNext, ownerNext := 255, handed := true }
    s.chanStart r ch.shadow
  else
    let s := s.modChan r fun x => { x with cmdNext := none, ownerNext := 255 }
    match ch.cmdNext with
    | some id => s.dmaReply id st (dmaResult c DmaChan.reset)
    | none => s

/-! ## The transfer -/

/-- A transfer in progress: state, environment data left, bytes written, poison met, and where it failed. -/
structure Xfer where
  s : State
  data : List Byte
  bytes : Nat
  poison : Bool
  /-- Failing status, failing address, and whether a read failed. -/
  fail : Option (Status × Nat × Bool)
  /-- The first write error that arrives after the completion (R434), with its address. -/
  late : Option (Status × Nat)
  /-- Bytes that were read ahead and wait in the channel's buffer, with their poison. -/
  buf : List (Byte × Bool)

/-- The 64-byte-aligned pieces of a run (R432, R461). -/
def alignedPieces : (fuel addr len : Nat) → List (Nat × Nat)
  | 0, _, _ => []
  | fuel + 1, a, n =>
    if n = 0 then []
    else
      let k := min n (64 - a % 64)
      (a, k) :: alignedPieces fuel (a + k) (n - k)

/-- Read one run with poison marks per byte; a failing status with its address. -/
def xferRead (who : Who) (env : DmaEnv) (x : Xfer) (a n : Nat) : Xfer × List (Byte × Bool) :=
  match (spanAt (x.s.real a)).place with
  | .host =>
    if env.status != .success then ({ x with fail := some (env.status, a, true) }, [])
    else if !(who.fn.any fun fn => x.s.hostOk fn (a - 0x800000000000) n false) then
      ({ x with fail := some ((who.fn.map fun fn => x.s.hostRefusal who fn (a - 0x800000000000) n).getD .busError, a, true) }, [])
    else ({ x with data := x.data.drop n }, (fit n x.data).map fun b => (b, env.poison))
  | .peer d =>
    if !x.s.peerThere d then ({ x with fail := some (.busError, a, true) }, [])
    else if env.status != .success then ({ x with fail := some (env.status, a, true) }, [])
    else ({ x with data := x.data.drop n }, (fit n x.data).map fun b => (b, env.poison))
  | _ =>
    match x.s.access who a n false with
    | .success =>
      let bs := (alignedPieces (n + 1) a n).flatMap fun p =>
        match who.task.bind x.s.task? with
        | some t => (x.s.taskBytes t p.1 p.2).map fun b => (b, x.s.taskPoison t p.1 p.2)
        | none => (x.s.bytesAt p.1 p.2).map fun b => (b, x.s.poisonIn p.1 p.2)
      ({ x with s := (x.s.clockFor a).logRead who a n }, bs)
    | st =>
      let s := if x.s.retiredIn a n then x.s.logRetired who a else x.s
      ({ x with s := s, fail := some (st, a, true) }, [])

/-- A write fails: it counts as issued (Table 15-3), and the transfer stops, or, when responses come late, it goes on and the error is
kept (R434, R440). After a write past its task's reservation no later one is made (R130). -/
def Xfer.badWrite (x : Xfer) (late : Bool) (st : Status) (a n : Nat) : Xfer :=
  let x := { x with bytes := x.bytes + n }
  if late && st != .noResource then { x with late := some (x.late.getD (st, a)) } else { x with fail := some (st, a, false) }

/-- Write one aligned piece. -/
def xferPiece (who : Who) (env : DmaEnv) (x : Xfer) (a : Nat) (bs : List (Byte × Bool)) : Xfer :=
  if x.fail.isSome then x else
  let p := bs.any Prod.snd
  let d := bs.map Prod.fst
  let bad (x : Xfer) (st : Status) : Xfer := x.badWrite env.lateAck st a d.length
  let good (s : State) : Xfer := { x with s := s, bytes := x.bytes + d.length, poison := x.poison || p }
  match (spanAt (x.s.real a)).place, who.fn with
  | .host, some fn =>
    if env.status != .success then bad x env.status
    else if x.s.hostOk fn (a - 0x800000000000) d.length true && !(who.task.any x.s.orphanTask) then good (x.s.emit (.hostWrite fn (a - 0x800000000000) d p))
    else bad x (x.s.hostRefusal who fn (a - 0x800000000000) d.length)
  | .host, none => bad x .busError
  | .peer v, _ =>
    if !x.s.peerThere v then bad x .busError
    else if env.status != .success then bad x env.status else good (x.s.emit (.peerWrite a d p))
  | _, _ =>
    match who.task with
    | some id =>
      match x.s.taskWrite id who.init a d p with
      | (s, .success) => good s
      | (s, st) => bad { x with s := s } st
    | none =>
      match x.s.access who a d.length true with
      | .success => good ((x.s.clockFor a).write who a d p)
      | st => bad { x with s := if x.s.retiredIn a d.length then x.s.logRetired who a else x.s } st

/-- Write one run in aligned pieces. -/
def xferWrite (who : Who) (env : DmaEnv) : (pieces : List (Nat × Nat)) → Xfer → List (Byte × Bool) → Xfer
  | [], x, _ => x
  | (a, n) :: rest, x, bs => xferWrite who env rest (xferPiece who env x a (bs.take n)) (bs.drop n)

/-- Read one run, of which the buffer may hold the first bytes. -/
def xferFetch (who : Who) (env : DmaEnv) (x : Xfer) (a n : Nat) : Xfer × List (Byte × Bool) :=
  if x.buf.isEmpty then xferRead who env x a n
  else
    let have_ := x.buf.take n
    let x := { x with buf := x.buf.drop n }
    if have_.length = n then (x, have_)
    else
      let (x, bs) := xferRead who env x (a + have_.length) (n - have_.length)
      (x, have_ ++ bs)

/-- Copy the runs of a transfer in order; a failure stops it (R428, R438, R440). -/
def xferRuns (who : Who) (env : DmaEnv) : List (Nat × Nat × Nat) → Xfer → Xfer
  | [], x => x
  | (a, b, n) :: rest, x =>
    if x.fail.isSome then x
    else
      let (x, bs) := xferFetch who env x a n
      let x := if x.fail.isSome then x else xferWrite who env (alignedPieces (n + 1) b n) x bs
      xferRuns who env rest x

/-- A memory move (R431): every source byte is read before any destination byte is written. -/
def xferMove (who : Who) (env : DmaEnv) (a b n : Nat) (x : Xfer) : Xfer :=
  let (x, bs) := xferRead who env x a n
  if x.fail.isSome then x else xferWrite who env (alignedPieces (n + 1) b n) x bs

/-- The runs of a transfer that are left when `m` bytes are through. -/
def dropRuns : (m : Nat) → List (Nat × Nat × Nat) → List (Nat × Nat × Nat)
  | _, [] => []
  | m, (a, b, n) :: rest =>
    if m = 0 then (a, b, n) :: rest
    else if n ≤ m then dropRuns (m - n) rest
    else (a + m, b + m, n - m) :: rest

/-- Run a channel's active transfer from where it stands to its end: the state after it, and how it ended. -/
def State.runXfer (s : State) (r : DmaRef) (env : DmaEnv) : Xfer :=
  let ch := s.chan r
  let d := ch.active
  let who := s.chanWho r
  let x : Xfer := ⟨s, env.data, ch.moved, ch.poisonSeen, none, none, ch.buf⟩
  let env := { env with lateAck := env.lateAck && !dWaitAck d }
  if dShares d then xferMove who env (dSrc d) (dDst d) (dRun d * dCount1 d * dCount2 d) x
  else xferRuns who env (dropRuns ch.moved (dRuns d)) x

/-! ## Progress of channels that share an engine (R172, R436 to R439)

A transfer completes in the row DMA_TRANSFER_DONE. Before that, whenever another channel of the engine starts or completes, or the
transfer is stopped, the channels of the engine have moved a free part of their data (log entry 30), in the order of their arbiters. The
last beat of a transfer, one that would fail, and one that needs the far side (host, another device) stay for the row that completes it;
a memory move is made whole there. -/

/-- An access of the device's own, whose answer needs no far side. -/
def State.ownSide (s : State) (a : Nat) : Bool :=
  match (spanAt (s.real a)).place with
  | .host | .peer _ | .unmapped => false
  | _ => true

/-- Nothing that a far side contributes. -/
def DmaEnv.none : DmaEnv := ⟨[], false, .success, false⟩

/-- The bytes of the next read of a channel, at most `lim`, within its run and its 4 KiB page (R432). -/
def DmaChan.nextRead (ch : DmaChan) (lim : Nat) : Nat × Nat :=
  match dropRuns (ch.moved + ch.buf.length) (dRuns ch.active) with
  | (a, _, n) :: _ => (a, min n (min lim (4096 - a % 4096)))
  | [] => (0, 0)

/-- Read up to `lim` bytes of a transfer into its channel's buffer; how many were read. -/
def State.readAhead (s : State) (r : DmaRef) (lim : Nat) : State × Nat :=
  let ch := s.chan r
  let (a, n) := ch.nextRead lim
  if n = 0 || !ch.busy || dShares ch.active || !s.ownSide a then (s, 0)
  else
    let (x, bs) := xferRead (s.chanWho r) DmaEnv.none ⟨s, [], 0, false, none, none, []⟩ a n
    if x.fail.isSome then (s, 0) else (x.s.modChan r fun c => { c with buf := c.buf ++ bs }, n)

/-- Write one beat of at most `width` bytes, aligned, from a channel's buffer; how many were written. -/
def State.writeBeat (s : State) (r : DmaRef) (width : Nat) : State × Nat :=
  let ch := s.chan r
  match dropRuns ch.moved (dRuns ch.active) with
  | (_, b, n) :: _ =>
    let m := min (min n ch.buf.length) (width - b % width)
    if m = 0 || !ch.busy || !s.ownSide b || dRun ch.active * dCount1 ch.active * dCount2 ch.active ≤ ch.moved + m then (s, 0)
    else
      let x := xferPiece (s.chanWho r) DmaEnv.none ⟨s, [], 0, false, none, none, []⟩ b (ch.buf.take m)
      if x.fail.isSome then (s, 0)
      else
        let isB := match r with
          | .bdma _ _ => true
          | .edma _ _ => false
        (x.s.modChan r fun c => { c with
          moved := c.moved + m, buf := c.buf.drop m, bytesDone := c.moved + m, poisonSeen := c.poisonSeen || (isB && x.poison) }, m)
  | [] => (s, 0)

/-- One beat of 32 bytes of an EDMA channel (R436). -/
def State.edmaBeat (s : State) (e c : Nat) : State :=
  let r := DmaRef.edma e c
  let s := if (s.chan r).buf.isEmpty then (s.readAhead r 32).1 else s
  (s.writeBeat r 32).1

/-- The channels of an EDMA by their fixed priority (R436). -/
def edmaPrio : List Nat := [3, 0, 1, 2]

/-- The datapath of an EDMA serves its busy channels but `k`, the higher priority first, each as far as it has beats ready; a channel that
is displaced keeps what it has read, up to the 2 KiB of its buffer (R436, R437). -/
def State.edmaShare (s : State) (e k : Nat) : State :=
  edmaPrio.foldl (fun s c =>
    if c = k || !(s.chan (.edma e c)).busy then s
    else
      let (beats, s) := s.draw
      let s := Nat.repeat (fun s => s.edmaBeat e c) (beats % 65536) s
      let (ahead, s) := s.draw
      (s.readAhead (.edma e c) (ahead % (2049 - (s.chan (.edma e c)).buf.length))).1) s

/-- The class of a BDMA channel. -/
def State.chanClass (s : State) (blk c : Nat) : Nat := dClass (s.chan (.bdma blk c)).active

/-- Bytes in a BDMA's buffer of the channels of a class range. -/
def State.buffered (s : State) (blk : Nat) (p : Nat → Bool) : Nat :=
  ((List.range 32).map fun c => if p (s.chanClass blk c) then (s.chan (.bdma blk c)).buf.length else 0).sum

/-- The largest request of a channel: 256 bytes in class 0, 4,096 bytes otherwise (R432). -/
def reqLimit (cls : Nat) : Nat := if cls = 0 then 256 else 4096

/-- The read engine may issue the next read request of a channel: the buffer has space for the whole response, 8 KiB of it being kept for
class 0 (R439). -/
def State.mayFetch (s : State) (blk c : Nat) : Bool :=
  let ch := s.chan (.bdma blk c)
  let n := (ch.nextRead (reqLimit (s.chanClass blk c))).2
  ch.busy && !dShares ch.active && n != 0 && s.buffered blk (fun _ => true) + n ≤ 65536
    && (s.chanClass blk c = 0 || s.buffered blk (· != 0) + n ≤ 57344)

/-- The read engine issues one request, of the class and channel that its arbiter picks (R439). -/
def State.bdmaFetch (s : State) (blk k : Nat) : State :=
  let ready := (List.range 32).filter fun c => c != k && s.mayFetch blk c
  let g := s.bdmaEngOf blk
  match pickClass g.weights fun cls => ready.any fun c => s.chanClass blk c == cls with
  | none => s
  | some (cls, wt) =>
    match nextAfter (g.last.get 0 cls) (ready.filter fun c => s.chanClass blk c == cls) with
    | none => s
    | some c =>
      let (s, n) := s.readAhead (.bdma blk c) (reqLimit cls)
      s.modBdmaEng blk fun g => { g with
        weights := wt, last := g.last.put 0 cls c, order := if n = 0 then g.order else g.order ++ [(c, n)] }

/-- The write engine drains one beat of 64 bytes: class-0 data first, otherwise data in order of arrival (R439). -/
def State.bdmaDrain (s : State) (blk k : Nat) : State :=
  let items := (s.bdmaEngOf blk).order.filter fun x => x.1 != k
  let go (s : State) : List (Nat × Nat) → State := fun l =>
    match l.find? fun x => (s.writeBeat (.bdma blk x.1) 64).2 != 0 with
    | none => s
    | some x =>
      let (s, n) := s.writeBeat (.bdma blk x.1) (min 64 x.2)
      s.modBdmaEng blk fun g => { g with
        order := if x.2 ≤ n then g.order.erase x else g.order.map fun y => if y = x then (x.1, x.2 - n) else y }
  go s ((items.filter fun x => s.chanClass blk x.1 == 0) ++ items.filter fun x => s.chanClass blk x.1 != 0)

/-- A free number of turns of a BDMA's two engines, for its busy channels but `k`. -/
def State.bdmaShare (s : State) (blk k : Nat) : State :=
  if (List.range 32).any fun c => c != k && (s.chan (.bdma blk c)).busy then
    let (turns, s) := s.draw
    Nat.repeat (fun s =>
      let (v, s) := s.draw
      if v % 2 = 0 then s.bdmaFetch blk k else s.bdmaDrain blk k) (turns % 65536) s
  else s

/-- The other channels of a channel's engine make their progress. -/
def State.othersShare (s : State) : DmaRef → State
  | .edma e c => s.edmaShare e c
  | .bdma blk c => s.bdmaShare blk c

/-- Every other busy channel of a BDMA stops with a status and failing address (R440). -/
def State.stopSiblings (s : State) (blk c : Nat) (st : Status) (addr : Nat) : State :=
  (List.range 32).foldl (fun s k =>
    if k != c && (s.chan (.bdma blk k)).busy then
      (s.modChan (.bdma blk k) fun ch => { ch with faultAddr := addr, arm := false }).chanDone (.bdma blk k) st
    else s) s

/-- Stop a BDMA channel at its next beat, what it has written staying where it landed, and give it its reset values; a command that uses it completes with a status (R446, R597), or is
discarded with none. -/
def State.resetChan (s : State) (blk c : Nat) (st : Option Status) : State :=
  let ch := s.chan (.bdma blk c)
  let s := if ch.busy then s.bdmaShare blk 32 else s
  let s := (s.modChan (.bdma blk c) fun _ => DmaChan.reset).leaveBuffer blk c
  match st with
  | none => s
  | some st =>
    (ch.cmd.toList ++ ch.cmdNext.toList).foldl (fun s id => s.dmaReply id st (dmaResult c DmaChan.reset)) s

/-- Every BDMA channel of a block is reset. -/
def State.resetBdma (s : State) (blk : Nat) (st : Option Status) : State :=
  (List.range 32).foldl (fun s c => if s.bdma.has (blk * 32 + c) then s.resetChan blk c st else s) s

/-- GO of an EDMA channel by kernel code (R171): ignored with GO_LOST while BUSY, else the descriptor is checked and the
transfer starts. -/
def State.edmaGo (s : State) (e c : Nat) : State :=
  let ch := s.chan (.edma e c)
  if ch.busy then s.modChan (.edma e c) fun ch => { ch with goLost := true }
  else (s.edmaShare e c).chanStart (.edma e c) ch.active

/-- Stop the busy EDMA channels of a bank at their next beat; what they have written stays where it landed (R172). -/
def State.stopEdma (s : State) (e : Nat) (alt : Bool) : State :=
  let s := s.edmaShare e 4
  s.modVde e fun v => { v with chans := v.chans.each fun c d =>
    if (bankChans alt).contains c then { d with busy := false, moved := 0, buf := [] } else d }

end Sys2Proof.Machine
end

