-- ==== Sys2Proof/Machine/CarOps.lean ====
section
/-! DEFINITION. Carillon's shared operations (chapter 04): task table, gates, ready lists, engines, release, revoke,
deadlines, the Observing Log, and a task's writes to persistent memory. -/

namespace Sys2Proof.Machine

/-- A task has left the running context of its engine (R123, R153, R169): a VDE starts zeroing the bank's part; another
engine resumes the suspended task, or drops it. -/
def State.vacate (s : State) (e : Nat) : State :=
  let r := s.eng e
  if engType e = some 1 then
    let alt := (s.vde e).inAlt
    let s := s.stopEdma e alt
    let s := s.modVde e fun v => v.setBank { v.bank with task := none, trap := none, loops := [], cache := [] }
    let s := s.zeroPart e alt
    s.modEng e fun r => { r with task := none, ended := none, trapAt := none, zMain := r.zMain || !alt, zAlt := r.zAlt || alt }
  else
    match r.suspended with
    | some id =>
      if r.dropSusp then
        s.modEng e fun r => { r with task := none, suspended := none, dropSusp := false, ended := none, units := 0, prog := none }
      else
        let s := s.modEng e fun r => { r with task := some id, suspended := none, ended := none, lastYield := s.time.frc }
        s.modTask id fun t => { t with suspended := false }
    | none => s.modEng e fun r => { r with task := none, ended := none, units := 0, prog := none }

/-- A suspended task leaves at once (R123): its EDMA channels stop (R172), and its context is dropped when the pre-empting task leaves. -/
def State.dropSuspended (s : State) (e : Nat) : State :=
  (if engType e = some 1 then s.stopEdma e false else s).modEng e fun r => { r with dropSusp := true }

/-! ## Flows, epochs, plans -/

/-- Move a flow's head over the sequence numbers already retired. -/
def Flow.settle (f : Flow) : (fuel : Nat) → Flow
  | 0 => f
  | fuel + 1 =>
    if f.retired.contains f.head then
      Flow.settle { f with head := (f.head + 1) % 65536, retired := f.retired.filter (· != f.head) } fuel
    else f

/-- Retire a sequence number of a flow (R125, R133). -/
def Flow.retire (f : Flow) (seq : Nat) : Flow :=
  Flow.settle { f with unreleased := f.unreleased - 1, retired := seq :: f.retired } (f.retired.length + 1)

/-- A HIBERNATING cell without a task becomes HIBERNATED, and its CELL_HIBERNATE completes (R142). -/
def State.settleCell (s : State) (c : Nat) : State :=
  match s.cells.find? c with
  | none => s
  | some cell =>
    if cell.st == .hibernating && !(s.car.tasks.some? fun _ t => t.cell == c && t.origin.isNone) then
      let s := { s with cells := s.cells.set c { cell with st := .hibernated } }
      s.completeWaits fun w => if w = .cellIdle c then some (.bare .success) else none
    else s

/-- An epoch without a live task, committed or revoked, returns to unused, and its EPOCH_REVOKE completes (R132, R133). -/
def State.settleEpoch (s : State) (fn ep : Nat) : State :=
  match s.car.epochs.find? (epochKey fn ep) with
  | none => s
  | some e =>
    if e.live = 0 && e.st != .opened then
      let s := s.modCar fun c => { c with epochs := c.epochs.del (epochKey fn ep) }
      s.completeWaits fun w => match w with
        | .epochRevoke f e' res => if f = fn && e' = ep then some (.ok res) else none
        | _ => none
    else s

/-- A plan without a task is gone, and its gates are freed (R117). -/
def State.settlePlan (s : State) (p : Nat) : State :=
  if s.car.tasks.some? fun _ t => t.plan == p && t.origin.isNone then s
  else s.modCar fun c => { c with plans := c.plans.del p, gates := c.gates.keep fun _ g => g.plan != p }

/-- Post a task's completion (R127), or count it lost when its queue is gone (R66, R71). -/
def State.taskDone (s : State) (id : Nat) (t : Task) (st : Status) : State :=
  if !t.notify then s else
  match s.car.plans.find? t.plan with
  | none => s
  | some p =>
    if p.orphan || !((s.func p.fn).qps.has p.qp) then
      s.modFunc p.fn fun f => { f with complLost := sat32 (f.complLost + 1) }
    else
      let res := leBytes 4 id ++ leBytes 2 t.flow ++ leBytes 2 t.seq ++ leBytes 2 t.epoch ++ leBytes 2 t.cell
        ++ leBytes 2 t.node ++ zeros 2
      s.cqWrite p.fn p.qp none ⟨(p.tagBase + t.node) % 2 ^ 32, st.code, 0x0202, 0, 16, res⟩ true

/-- The lines of L0 memory that a task has written: released, they may leave; otherwise they leave as zeros (R33). -/
def State.settleLines (s : State) (id : Nat) (released : Bool) : State :=
  if !(s.line.recs.some? fun _ v => v == some id) then s
  else
    let r := if released then s.line.recs.map fun e => if e.2 == some id then (e.1, none) else e
      else s.line.recs.filter fun e => e.2 != some id
    { s with line := { s.line with recs := r } }

/-- The device leaves its cluster (R381): id 0, its own reference; it keeps RATE, OFFSET and epoch. -/
def State.leaveCluster (s : State) : State :=
  let s := s.modClu fun c => { Cluster.reset with ports := c.ports }
  let s := { s with time := { s.time with member := false, aligned := true, misses := 0 } }
  s.completeWaits fun w => if w = .leave then some (.bare .success) else none

/-- A task sent to a peer, or accepted from one, that is not FREE. -/
def Task.remote (t : Task) : Bool := t.peer.isSome || t.origin.isSome

/-- A CLUSTER_LEAVE that waits ends when the last remote task is FREE. -/
def State.settleLeave (s : State) : State :=
  if s.clu.leaving.isSome && !(s.car.tasks.some? fun _ t => t.remote) then s.leaveCluster else s

/-- A task becomes FREE: its sequence number is retired, its epoch, plan and cell settle. -/
def State.freeTask (s : State) (id : Nat) (t : Task) (released : Bool) : State :=
  let fn := s.taskFn t
  let s := s.modCar fun c => { c with
    tasks := c.tasks.del id
    flows := c.flows.upd t.flow fun f => f.retire t.seq
    epochs := c.epochs.upd (epochKey fn t.epoch) fun e =>
      { e with live := e.live - 1, released := if released then e.released + 1 else e.released } }
  let s := s.settleLines id false
  let s := s.settleEpoch fn t.epoch
  let s := s.settlePlan t.plan
  let s := s.settleCell t.cell
  if t.peer.isSome then s.settleLeave else s

/-- A task that a peer sent ends: its finish status goes back, nothing else happens here (R386). -/
def State.endOrigin (s : State) (id : Nat) (o : Nat × Nat) (st : Status) : State :=
  ((s.emit (.peerMsg o.1 (.finish o.2 st.code))).modCar fun c => { c with tasks := c.tasks.del id }).settleLeave

/-- A revoked task leaves the state machine (R133): nothing signalled, lines and shadow discarded, a completion with
REVOKED under NOTIFY. -/
def State.dropRevoked (s : State) (id : Nat) (t : Task) : State :=
  match t.origin with
  | some o => s.endOrigin id o .revoked
  | none =>
  let s := s.ologTask 4 id t Status.revoked.code 0
  let s := s.taskDone id t .revoked
  s.freeTask id t false

/-- Fail a task into DONE_HELD and signal its DONE_GATE with FAILED. -/
def State.failTask (s : State) (id : Nat) (t : Task) (st : Status) : State :=
  match t.origin with
  | some o => s.endOrigin id o st
  | none => (s.modTask id fun t => t.failHeld st).signalGates (sig t.doneGate (some st))

/-- The status with which a leaving task fails. -/
def Leave.status : Leave → Status
  | .skipped => .deadlineMissed
  | .forced => .noResource
  | _ => .revoked

/-- A task leaves its engine on a revoke, skip or force. -/
def State.leaveEngine (s : State) (e id : Nat) (t : Task) : State :=
  let s := s.vacate e
  match t.leave with
  | .revoked => s.dropRevoked id t
  | l => s.failTask id t l.status

/-- Take a task out for a revoke, skip or force: at once when it is not running, or suspended; at its next yield when it
runs (R123, R133, R135). -/
def State.pullTask (s : State) (id : Nat) (t : Task) (l : Leave) : State :=
  if t.st == .running && !t.suspended then
    let s := match t.peer, t.engine with
      | some d, none => s.emit (.peerMsg d (.revoke id l.status.code))
      | _, _ => s
    s.modTask id fun t => { t with leave := if t.leave = .revoked then .revoked else l }
  else
    let s := match t.engine with
      | some e => if t.suspended then s.dropSuspended e else s
      | none => s
    match l with
    | .revoked => s.dropRevoked id t
    | l => s.failTask id t l.status

/-- Revoke tasks by id. -/
def State.revokeAll (s : State) (ids : List Nat) : State :=
  ids.foldl (fun s id => match s.task? id with
    | some t => s.pullTask id t .revoked
    | none => s) s

/-- Every unreleased task of a tenant. -/
def State.tenantTasks (s : State) (fn : Nat) : List Nat :=
  (s.car.tasks.keep fun _ t => t.origin.isNone && s.planFn t.plan == fn).keys

/-- The initiator of a task's release writes: unit 0x30 of the block that holds its commit buffer, else of the block it ran in (R19,
Table 1-6). -/
def Task.agent (t : Task) : Nat := (t.commitBlk.getD ((t.ranOn.map engBlk).getD 63)) * 64 + 0x30

/-- Drain a task's commit-buffer lines into memory, word by word: a whole word at once, a part byte by byte (R126, R458). -/
def State.drainLines (s : State) (id : Nat) (t : Task) : State :=
  let w := s.taskWho id t t.agent
  let s := ((t.lines.keys.map wordBase).dedup).foldl (fun s a =>
    let n := wordSize a
    let bs := t.lines.keep fun k _ => a ≤ k && k < a + n
    if bs.length = n then s.write w a (bs.map Prod.snd) false else bs.foldl (fun s e => s.write w e.1 [e.2] false) s) s
  t.linePois.foldl (fun s e => s.poisonWord e.1) s

/-! ## HARQ commit (R267) -/

/-- Commit one directory entry: ACTIVE flips, VALID moves, CBS and GEN are written. The status it gives the completion. -/
def State.harqCommit1 (s : State) (w : Who) (entry c : Nat) : State × Option Status :=
  match s.access w entry 32 true with
  | .success =>
    let s := s.clockFor entry
    if s.poisonIn entry 32 then
      let s := s.logRead w entry 32
      (s.poisonWord (wordBase entry), some .poisoned)
    else
      let b := s.bytesAt entry 32
      let state := fld b 0 1
      let act := 1 - state % 2
      let new := act + (if act = 0 then 2 else 4)
      let s := s.write w entry (leBytes 1 new ++ (b.drop 1).take 1 ++ leBytes 2 c) false
      (s.write w (entry + 24) (leBytes 4 (fld b 24 4 + 1)) false, none)
  | st => (s, some st)

/-- Commit every entry a task wrote. -/
def State.harqCommit (s : State) (w : Who) : List (Nat × Nat) → State × Option Status
  | [] => (s, none)
  | (a, c) :: rest =>
    let (s, st) := s.harqCommit1 w a c
    let (s, st') := s.harqCommit w rest
    (s, if st.isSome then st else st')

/-! ## Release (R125, R126) -/

/-- A held task's turn has come. -/
def State.releasable (s : State) (t : Task) : Bool :=
  t.st == .doneHeld && t.origin.isNone
    && ((s.car.flows.find? t.flow).any fun f => f.head == t.seq)
    && (t.fail.isSome || !s.speculative t)

/-- Release a task: durable writes and HARQ, OUT_GATE, completion; or, as failed, discard and signal FAILED (R126). -/
def State.release (s : State) (id : Nat) (t : Task) : State :=
  match t.fail with
  | some st =>
    let s := s.ologTask 3 id t st.code 0
    let s := s.signalGates (sig t.outGate (some st))
    let s := s.taskDone id t st
    s.freeTask id t true
  | none =>
    let s := (s.drainLines id t).settleLines id true
    let w := s.taskWho id t t.agent
    let (s, hs) := if t.harq then s.harqCommit w t.harqEntries else (s, none)
    let st := hs.getD (if t.late then .deadlineMissed else .success)
    let s := s.ologTask 3 id t st.code 0
    let s := s.signalGates (sig t.outGate none)
    let s := s.taskDone id t st
    s.freeTask id t true

/-! ## Finishing -/

/-- The task on an engine finishes with a status (R111, R118): DONE_HELD, DONE_GATE signalled, the engine vacated. A
revoke, skip or force that reached it before it finished takes effect now. -/
def State.finishTask (s : State) (e id : Nat) (t : Task) (st : Status) : State :=
  if t.leave != .no then s.leaveEngine e id t
  else
    let s := s.vacate e
    match t.origin with
    | some o => s.endOrigin id o st
    | none =>
    if st = .success then
      (s.modTask id fun t => { t with st := .doneHeld, engine := none, region := none }).signalGates (sig t.doneGate none)
    else s.failTask id t st

/-- End the work on an engine with a status; TASK_FINISH follows. -/
def State.endWork (s : State) (e : Nat) (st : Status) : State := s.modEng e fun r => { r with ended := some st }

/-! ## Deadlines and windows (R116, R135) -/

/-- Mark one task late at its deadline strobe. -/
def State.lateTask (s : State) (id : Nat) (t : Task) : State :=
  let s := s.ologTask 5 id t Status.deadlineMissed.code 0
  let s := s.modTask id fun t => { t with late := true }
  if (s.car.flows.find? t.flow).any Flow.stall then s
  else if t.st == .doneHeld then s.modTask id fun t => { t with fail := some .deadlineMissed }
  else s.pullTask id { t with late := true } .skipped

/-- Every deadline of a cell's timeline up to a position acts. -/
def State.deadlines (s : State) (cell : Nat) (pos : Int × Nat) : State :=
  let due := s.car.tasks.keep fun _ t => t.cell == cell && !t.late && t.origin.isNone && posLe (t.deadK, t.deadOff) pos
  due.keys.foldl (fun s id => match s.task? id with
    | some t => if t.late then s else s.lateTask id t
    | none => s) s

/-- The position at which a plan's dispatch window opens: two slots before its slot (R116). -/
def windowPos (num : Nat) (p : Plan) : Int × Nat :=
  let b := slotBefore num p.k p.slot 2
  (b.1, symOff num b.2 0)

/-- Open the dispatch windows of a cell's plans up to a position. -/
def State.openWindows (s : State) (cell num : Nat) (pos : Int × Nat) : State :=
  let due := (s.car.plans.keep fun _ p => p.cell == cell && !p.windowOpen && posLe (windowPos num p) pos).keys
  due.foldl (fun s pid =>
    let s := s.modCar fun c => { c with plans := c.plans.upd pid fun p => { p with windowOpen := true } }
    let (s, gs) := s.considerAll ((s.car.tasks.keep fun _ t => t.plan == pid && t.st == .waiting).keys)
    s.signalGates gs) s

/-! ## Dispatch (R119 to R121, R123, R130, R131) -/

/-- An engine able to take work: nothing on it, in service, its region ACTIVE and not in PREPARE. -/
def State.ableEngine (s : State) (e : Nat) : Bool :=
  let r := s.eng e
  let g := s.region (engRegion e)
  r.task.isNone && r.suspended.isNone && !r.zMain && !r.zAlt && !r.down && !s.withdrawn e && !s.stopped && g.st == .active && !g.prepare
    && g.waking.isNone

/-- Idle for the counts of R121 and R123. -/
def State.idleEngine (s : State) (e : Nat) : Bool :=
  let r := s.eng e
  r.task.isNone && r.suspended.isNone && !r.zMain && !r.zAlt && !r.down && !s.withdrawn e

/-- Runs class 0. -/
def State.runsClass0 (s : State) (e : Nat) : Bool :=
  match (s.eng e).task with
  | some id => (s.task? id).any fun t => t.cls == 0
  | none => false

/-- Engines of a type in a region that are idle or run class 0. -/
def State.inForce (s : State) (r ty : Nat) : Nat :=
  ((enginesOf r ty).filter fun e => s.idleEngine e || s.runsClass0 e).length

/-- CLASS_RESERVE of a type in a region. -/
def State.reserve (s : State) (r ty : Nat) : Reserve := s.car.reserves.get ⟨0, false⟩ (r * 16 + ty)

/-- Commit-buffer bytes reserved in a block (R130). -/
def State.commitUsed (s : State) (blk : Nat) : Nat :=
  ((s.car.tasks.keep fun _ t => t.commitBlk == some blk).map fun e => e.2.commitKib * 1024).sum

/-- Some other task holds the shadow of the same HARQ process (R131). -/
def State.shadowHeld (s : State) (id : Nat) (t : Task) : Bool :=
  t.harq && t.origin.isNone && (s.car.tasks.some? fun i u => i != id && u.shadow && u.origin.isNone && u.cell == t.cell && u.harqPid == t.harqPid)

/-- A HARQ task of a migration's target, held until Final or the loss of the source (R391). -/
def State.migHeld (s : State) (t : Task) : Bool :=
  t.harq && t.origin.isNone && s.clu.migs.some? fun _ m => !m.source && m.cell == t.cell && !m.lost

/-- A READY task that an engine may be given. -/
def State.eligible (s : State) (e id : Nat) (t : Task) : Bool :=
  t.st == .ready && !s.migHeld t && engType e == some t.type && !s.shadowHeld id t
    && (t.origin.isSome || (s.anchor? t.cell).isSome)
    && (!(s.speculative t) || s.commitUsed (engBlk e) + t.commitKib * 1024 ≤ 65536)
    && (t.cls == 0 || (s.reserve (engRegion e) t.type).count + 1 ≤ s.inForce (engRegion e) t.type)

/-- The first of a list of tasks in FIFO order that meets a test. -/
def firstFifo (l : List (Nat × Task)) : Option (Nat × Task) :=
  l.foldl (fun best e => match best with
    | none => some e
    | some b => if e.2.readyNo < b.2.readyNo then some e else some b) none

/-- The head of one region's FIFO of one priority, past the tasks the dispatcher passes over (R131). -/
def State.fifoHead (s : State) (e r prio : Nat) : Option (Nat × Task) :=
  firstFifo (s.car.tasks.filter fun x => x.2.region == some r && x.2.prio == prio && s.eligible e x.1 x.2)

/-- The task an engine's dispatcher picks (R119): highest priority first; at equal priority its own region's list, then
regions of the same kind at 1 and 2 hops. -/
def State.pickTask (s : State) (e : Nat) : Option (Nat × Task) :=
  let r := engRegion e
  let near := (byDistance r ((List.range 16).filter fun q => regKind q == regKind r && q != r)).filter fun q => hops r q ≤ 2
  ((List.range 16).flatMap fun prio => (r :: near).filterMap fun q => s.fifoHead e q prio).head?

/-- The task registers of a bank at dispatch (Table 5-6). -/
def taskRegs (fn id : Nat) (t : Task) : Tab Word :=
  let ref (b : BufRef) : Nat := b.addr + (b.len / 256) * 2 ^ 48
  let put (m : Tab Word) (o v : Nat) : Tab Word := m.put 0 o (BitVec.ofNat 32 v)
  let put64 (m : Tab Word) (o v : Nat) : Tab Word := put (put m o v) (o + 4) (v / 2 ^ 32)
  let m := put (put (put [] 0x08 id) 0x0C (t.flow + 65536 * t.seq)) 0x10 t.arg
  let m := put m 0x14 (t.cell + 512 * fn + 4096 * t.cls + 16384 * t.prio)
  let m := put (put (put m 0x18 t.epoch) 0x1C t.deadline) 0x20 ((t.gateMark.map Status.code).getD 0)
  put64 (put64 (put64 m 0x28 (ref t.inBuf)) 0x30 (ref t.outBuf)) 0x38 (ref t.param)

/-- A bank at dispatch: registers 0 and unpoisoned but S0, which holds ARG; flags 0; timer loaded (R157, R168). -/
def Bank.atDispatch (fn id : Nat) (t : Task) (k : Kernel) (frc : Nat) : Bank :=
  { Bank.reset with
    g := Tab.put 0 [] 0 (BitVec.ofNat 32 t.arg)
    regs := taskRegs fn id t
    gateFailed := t.gateMark.isSome
    timerEnd := frc + yieldCounts
    pc := k.entry
    kernel := t.kernel
    task := some id }

/-- The factor set that the Collimator has published for a cell: transmit or receive (R222). -/
def State.calSet (s : State) (cell : Nat) (tx : Bool) : Option CalSet :=
  (s.cal.arrays.find? cell).map fun a => ⟨a.seq, if tx then a.tx else a.rx, false⟩

/-- Give an engine a task: it runs (R111, R157, R169). -/
def State.startOn (s : State) (e id : Nat) (t : Task) : State :=
  let s := s.modTask id fun t => { t with
    st := .running, engine := some e, ranOn := some e, region := none, shadow := t.harq
    calRx := if t.type = 2 && t.origin.isNone then s.calSet t.cell false else none
    calTx := if t.type = 2 && t.origin.isNone then s.calSet t.cell true else none
    commitBlk := if s.speculative t then some (engBlk e) else t.commitBlk }
  let s := s.modEng e fun r => { r with task := some id, ended := none, lastYield := s.time.frc, trapAt := none, units := 0, prog := none }
  if engType e = some 1 then
    match s.kernels.find? t.kernel with
    | none => s.endWork e .busError
    | some k =>
      let b := Bank.atDispatch (s.taskFn t) id t k s.time.frc
      s.modVde e fun v => if k.preempting then { v with alt := b, inAlt := true } else { v with main := b, inAlt := false }
  else s

/-- The address of a task's descriptor in the Carillon area (R107). -/
def taskAddr (id : Nat) : Nat := hbmCarillon + 64 * id

/-- Dispatch a task to an engine: the DISPATCH record, or failure when the descriptor read is poison (Table 16-3). -/
def State.dispatchTo (s : State) (e id : Nat) (t : Task) : State :=
  if s.poisonIn (taskAddr id) 64 then
    let s := s.logRead ⟨initId 15 3 0, none, false, some id⟩ (taskAddr id) 64
    s.failTask id t .poisoned
  else
    let ns := (s.time.frc - t.readyAt) * 3125 / 3072
    let s := s.startOn e id t
    s.olog 0 id t (some e) (engRegion e) 0 ns

/-! ## Yield (R122, R123, R167) -/

/-- The class-0 task that may pre-empt at this engine's yield (R123). -/
def State.preemptBy (s : State) (e : Nat) (t : Task) : Option (Nat × Task) :=
  let r := engRegion e
  if t.cls = 0 || 2 < t.type || !(s.reserve r t.type).preempt || (s.eng e).suspended.isSome || s.preempting t then none
  else if (s.region r).prepare then none
  else if (enginesOf r t.type).any s.idleEngine then none
  else
    ((List.range 16).filterMap fun prio =>
      firstFifo (s.car.tasks.filter fun x => x.2.region == some r && x.2.prio == prio && x.2.cls == 0
        && s.eligible e x.1 x.2 && (t.type != 1 || s.preempting x.2))).head?

/-- Suspend the running task and give the engine to a class-0 task. -/
def State.preempt (s : State) (e id : Nat) (t : Task) (by_ : Nat × Task) : State :=
  let s := s.olog 2 id t (some e) (engRegion e) 0 0
  let s := s.modTask id fun t => { t with suspended := true }
  let s := s.modEng e fun r => { r with suspended := some id, task := none }
  let s := s.modVde e fun v => if engType e = some 1 then
      { v with main := { v.main with cache := [] } } else v
  let s := s.dispatchTo e by_.1 by_.2
  if (s.eng e).task.isNone then
    (s.modEng e fun r =>
      { r with suspended := none, task := some id, trapAt := none, lastYield := s.time.frc }).modTask id fun t => { t with suspended := false }
  else s

/-- Mark a block that still has a task at its first yield after PREPARE (R484). -/
def State.stuckBlock (s : State) (e : Nat) : State :=
  let mark (o : SleepOp) : SleepOp := if o.regions.testBit (engRegion e) then { o with stuck := engBlk e :: o.stuck } else o
  { s with pow := { s.pow with sleeps := s.pow.sleeps.map mark } }

/-- What a yield does: the first of revoke, skip or force; pre-emption; or nothing but a record (R167, R123). -/
def State.yieldAt (s : State) (e : Nat) : State :=
  match (s.eng e).task with
  | none => s
  | some id =>
    match s.task? id with
    | none => s
    | some t =>
      if t.leave != .no then (s.olog 1 id t (some e) (engRegion e) 0 0).leaveEngine e id t
      else
        let s := if (s.region (engRegion e)).prepare then s.stuckBlock e else s
        match s.preemptBy e t with
        | some u => s.preempt e id t u
        | none =>
          let s := s.modEng e fun r => { r with lastYield := s.time.frc, trapAt := none }
          s.olog 1 id t (some e) (engRegion e) 0 0

/-! ## Cells waking (R98, R488) -/

/-- The home regions of a cell: D, M and F of HOME, T0 and L0 (R488). -/
def homeRegions (home : Nat) : List Nat := [homeRegion home 1, homeRegion home 2, homeRegion home 3, 12, 13]

/-- A cell that is being woken can enter SERVICE: every home region ACTIVE, no sleep of one under way, no anchor
pending. -/
def State.wakeReady (s : State) (c : Nat) (cell : Cell) : Bool :=
  !s.time.pendAnchors.has c
    && (homeRegions cell.home).all fun r => (s.region r).st == .active && !(s.region r).prepare && (s.region r).waking.isNone

/-- The first slot a plan may name: the first that starts at or after now (R115, Table 4-14). -/
def State.firstSlot (s : State) (c : Nat) : Nat :=
  match s.anchor? c with
  | none => 0
  | some tl =>
    let n := slotNow tl s.thetaNow
    let q := if nominal tl.toff n.1 (symOff tl.num n.2 0) = s.thetaNow then n else slotAfter tl.num n.1 n.2 1
    tpMake ((q.1 + tl.sfnBase) % 1024).toNat q.2 0

/-- A cell that a Finderscope rule wakes is awake, or gone. -/
def State.ruleWoke (s : State) (c : Nat) : State :=
  if s.fsc.wakeCells.contains c then { s with fsc := { s.fsc with wakeCells := s.fsc.wakeCells.filter (· != c) } } else s

/-- Complete the CELL_WAKE of one cell, if its wait is over. -/
def State.settleWake (s : State) (c : Nat) : State :=
  match s.cells.find? c with
  | none => s.ruleWoke c
  | some cell =>
    if s.wakeReady c cell then
      let slot := leBytes 4 (s.firstSlot c)
      let s := ({ s with cells := s.cells.set c { cell with st := .service, failed := false } }).ruleWoke c
      s.completeWaits fun w => if w = .cellWake c then some (.ok slot) else none
    else s

/-- The cells for which a CELL_WAKE waits, and those that Finderscope rules wake. -/
def State.wakingCells (s : State) : List Nat :=
  (s.host.flights.filterMap fun f => match f.wait with
    | some (.cellWake c) => some c
    | _ => none) ++ s.fsc.wakeCells

/-- Complete every CELL_WAKE whose wait is over. -/
def State.settleWakes (s : State) : State := s.wakingCells.foldl (fun s c => s.settleWake c) s

end Sys2Proof.Machine
end

