-- ==== Sys2Proof/Machine/Cmd.lean ====
section
/-! DEFINITION. How a host command runs: the opcode catalogue, the generic checks in their order (R630), the start
order within an SQ (R56), and the one operation every host command's meaning is a call of. -/

namespace Sys2Proof.Machine

/-- Opcodes of Table 2-14 that every function may send. -/
def opcodesAny : List Nat :=
  [0x0001, 0x0002, 0x0003, 0x0004, 0x0005, 0x0006, 0x0101, 0x0103, 0x0201, 0x0202, 0x0203, 0x0204, 0x0205, 0x0208]
  ++ [0x0301, 0x0302, 0x0303, 0x0304, 0x0305, 0x0306, 0x0401, 0x0402, 0x0403, 0x0404, 0x0405, 0x0406, 0x0407, 0x0408]
  ++ [0x0409, 0x040A, 0x040B, 0x0504, 0x0705, 0x0801, 0x0901, 0x0905, 0x0A01, 0x0B01, 0x0B02, 0x0B03, 0x0B04]

/-- Opcodes of Table 2-14 marked PF. -/
def opcodesPf : List Nat :=
  [0x0007, 0x0008, 0x0009, 0x0102, 0x0104, 0x0206, 0x0207, 0x0501, 0x0502, 0x0503, 0x0601, 0x0602, 0x0603, 0x0604]
  ++ [0x0605, 0x0606, 0x0701, 0x0702, 0x0703, 0x0704, 0x0802, 0x0902, 0x0903, 0x0904, 0x0906, 0x0A02, 0x0A03, 0x0A04]
  ++ [0x0A05, 0x0A06, 0x0A07, 0x0A08]

/-- Whether an opcode is in Table 2-14 (R73). -/
def opcodeKnown (op : Nat) : Bool := opcodesAny.contains op || opcodesPf.contains op

/-- OPCODE, FLAGS, TAG, PLEN of a command (Table 2-8). -/
def Flight.op (f : Flight) : Nat := fld f.cmd 0 2
def Flight.tag (f : Flight) : Nat := fld f.cmd 4 4
def Flight.plen (f : Flight) : Nat := fld f.cmd 8 4
def Flight.ext (f : Flight) : Bool := bit (fld f.cmd 2 2) 0
def Flight.fence (f : Flight) : Bool := bit (fld f.cmd 2 2) 1

/-- What a command's body is given: the function and the parameter bytes. -/
structure CmdIn where
  fn : Nat
  id : Nat
  /-- Sent through the mailbox. -/
  mbox : Bool
  /-- SQ pair it came from, when sent through a queue. -/
  qp : Option Nat
  p : List Byte
  /-- What the device reads from host memory apart from a parameter buffer, and whether that read delivered poison. -/
  env : List Byte
  envPoison : Bool
  deriving DecidableEq, Repr

/-- What a command's body answers: finished with a reply, or started and waiting. -/
inductive Step1 where
  | done (r : Reply)
  | later (w : Wait)
  deriving DecidableEq, Repr

/-- A body's answer beside the new state. -/
abbrev Ans := State × Step1

/-- Refuse: the state as it was, a status without a result. -/
def refuse (s : State) (st : Status) : Ans := (s, .done (.bare st))
/-- Finish with SUCCESS and an inline result. -/
def ok (s : State) (inl : List Byte) : Ans := (s, .done (.ok inl))

/-- What is fixed of one opcode's layout: the minimum PLEN, whether it is always sent with EXT, the checks of reserved
fields, encodings and identifier ranges (R10, R18), and its result buffers (address, length) that must lie in a window
permitting device writes (R55). -/
structure Layout where
  op : Nat
  plen : Nat
  ext : Bool
  checks : List Byte → List Chk
  bufs : List Byte → List (Nat × Nat)

/-- The pairing rule of an optional result buffer (R55): address and length 0 together or non-zero together, and then at
least `min` bytes. -/
def optBuf (addr len min : Nat) : Chk :=
  .cond (if addr = 0 then len == 0 else (len != 0 && min ≤ len))

/-- Commands that may start: not started, every earlier command of its SQ started, no earlier FENCE unfinished, and with
FENCE every earlier one completed (R56). The list is oldest first. -/
def mayStart (fl : Flight) : List Flight → Bool
  | [] => true
  | g :: rest =>
    if g.id = fl.id then true
    else if g.fn = fl.fn && g.src == fl.src then
      !g.fence && !fl.fence && g.wait.isSome && mayStart fl rest
    else mayStart fl rest

/-- The function has the Dome's leave to use buffers anywhere in host memory (R55, R563, R590). -/
def State.anyBuf (s : State) : Bool := s.host.server == .recovery || s.host.server == .domeFault

/-- Opcodes that need no ATTACH (R68). -/
def preAttach : List Nat := [0x0001, 0x0002, 0x0007, 0x0008, 0x0901, 0x0A06, 0x0A01]

/-- RESET_SCOPE with SCOPE 2. -/
def warmScope (p : List Byte) : Bool := fld p 0 1 == 2

/-- The mode and attachment check (R630 item 3, R629, R563, R589, R590, R68). -/
def modeCheck (s : State) (fl : Flight) (p : List Byte) : Option Status :=
  let op := fl.op
  let dome := [0x0001, 0x0901, 0x0902, 0x0903].contains op || (op == 0x0007 && warmScope p)
  match s.host.server with
  | .recovery => if dome then none else some .notReady
  | .domeFault => if dome || op == 0x0A06 then none else some .notReady
  | _ =>
    if s.pow.mode = .boot && !([0x0001, 0x0002, 0x0003, 0x0901, 0x0A06, 0x0A01].contains op || (op == 0x0007 && warmScope p))
    then some .notReady
    else if s.pow.mode = .fault && !([0x0001, 0x0002, 0x0003, 0x0901, 0x0A06, 0x0A01].contains op
        || (op == 0x0007 && warmScope p)) then some .notPermitted
    else if op == 0x0002 && fl.src != .mbox then some .notPermitted
    else if !(s.func fl.fn).attached && !preAttach.contains op then some .notPermitted
    else none

/-- The parameter bytes: inline, or what was read from the parameter buffer. -/
def Flight.params (fl : Flight) (buf : List Byte) : List Byte :=
  if fl.ext then fit fl.plen buf else (fl.cmd.drop 16).take (min fl.plen 48)

/-- The command word and parameter buffer under R53 to R55; `free` when the buffer may lie anywhere. -/
def wordOk (s : State) (fl : Flight) (ly : Layout) (free : Bool) : Bool :=
  fl.tag != 0xFFFFFFFF && ly.plen ≤ fl.plen && fld fl.cmd 2 2 < 4 && fld fl.cmd 12 4 == 0
  && (if fl.ext then
        allZero (fl.cmd.drop 28) && fl.plen ≤ fld fl.cmd 24 4 && fld fl.cmd 24 4 ≤ 16777216
          && (free || s.hostOk fl.fn (fld fl.cmd 16 8) (fld fl.cmd 24 4) false)
      else fl.plen ≤ 48 && !ly.ext)

/-- The generic checks in the order of R630, items 1 to 4; poison in the parameter buffer after the checks that need no
parameter (Table 16-3), but after the layout of a profile (R575). -/
def genericCheck (s : State) (fl : Flight) (ly : Layout) (c : CmdRef) : Option Status :=
  let p := fl.params c.buf
  if !opcodeKnown fl.op then some .badOpcode
  else if opcodesPf.contains fl.op && fl.fn != 0 then some .notPermitted
  else match modeCheck s fl p with
  | some st => some st
  | none =>
    if !wordOk s fl ly (fl.op == 0x0002 || s.anyBuf) then some .badParam
    else if fl.ext && c.poison && fl.op != 0x0905 then some .poisoned
    else if !chkAll p (ly.checks p) then some .badParam
    else if !((ly.bufs p).all fun b =>
        s.anyBuf || (fl.op == 0x0901 && !(s.func fl.fn).attached) || s.hostOk fl.fn b.1 b.2 true) then some .badParam
    else if fl.ext && c.poison then some .poisoned
    else none

/-- What becomes of an entry that is no command: read with poison (R462), or with an unlisted opcode (R54, R630). -/
def Flight.bad (fl : Flight) : Option (Nat × Status) :=
  if fl.poison then some (0, .poisoned) else if opcodeKnown fl.op then none else some (fl.op, .badOpcode)

/-- An entry that is no command ends when it may start (R56). -/
def State.endBad (s : State) (fl : Flight) : State :=
  match fl.bad with
  | some (op, st) => if fl.wait.isNone && mayStart fl s.host.flights then s.complete fl op (.bare st) else s
  | none => s

/-- The command a row carries out: in progress, not started, allowed to start, with the row's opcode. -/
def State.startable (s : State) (id op : Nat) : Option Flight :=
  match s.flight? id with
  | none => none
  | some fl => if fl.wait.isNone && !fl.poison && fl.op = op && mayStart fl s.host.flights then some fl else none

/-- The SQ pair a command came from. -/
def CmdSrc.pair : CmdSrc → Option Nat
  | .sq q => some q
  | .mbox => none

/-- What a command's own part is given: its function, its parameters, what the device reads for it. -/
def Flight.input (fl : Flight) (c : CmdRef) : CmdIn :=
  ⟨fl.fn, fl.id, fl.src == .mbox, fl.src.pair, fl.params c.buf, c.buf, c.poison⟩

/-- Carry out a host command: time goes on to the row's FRC; with no such command waiting nothing else happens; the
generic checks come first, then the command's own body; then the completion is posted, or the command waits. -/
def runCmd (ly : Layout) (c : CmdRef) (body : CmdIn → State → Ans) (s : State) : State :=
  let s := s.advance c.t
  match s.startable c.id ly.op with
  | none => s
  | some fl =>
    match genericCheck s fl ly c with
    | some st => s.complete fl ly.op (.bare st)
    | none =>
      match body (fl.input c) s with
      | (s', .done r) => s'.complete fl ly.op r
      | (s', .later w) => s'.park fl.id w

end Sys2Proof.Machine
end

