-- ==== Sys2Proof/Machine/Host.lean ====
section
/-! DEFINITION. The host's own accesses (chapter 02): mailbox, doorbells, BAR 0 registers, BAR 2, command fetch, interrupt
coalescing and masks, and the resets of R65 with the headless hold. -/

namespace Sys2Proof.Machine

/-- BAR accesses reach the device: the endpoint is powered and something serves it (Table 17-1). -/
def State.barUp (s : State) : Bool := s.host.server != .nobody && !s.dark

/-! ## Mailbox (R44, R45) -/

/-- STATUS that MBOX_STS reads (Table 2-7). -/
def Mailbox.status (m : Mailbox) : Nat :=
  match m.st with
  | .idle | .busy => Status.notReady.code
  | .done => fld m.res 4 2
  | .acked => Status.repeated.code

/-- Commands the Dome serves when it has taken over in FAULT come through function 0 only (R590); so does recovery. -/
def State.domeServes (s : State) : Bool := s.host.server == .recovery || s.host.server == .domeFault

/-- What IRQ_EN, GO_LOST and ACK of a write of MBOX_CTRL make of the mailbox (Table 2-6, R45). -/
def Mailbox.ctrl (m : Mailbox) (v : Nat) : Mailbox :=
  { m with irqEn := bit v 2, goLost := m.goLost && !bit v 3, st := if bit v 1 && m.st == .done then .acked else m.st }

/-- A GO is obeyed in IDLE and ACKED (Table 2-7). -/
def Mailbox.open_ (m : Mailbox) : Bool := m.st == .idle || m.st == .acked

/-- Replace a function's mailbox. -/
def State.setMbox (s : State) (fn : Nat) (m : Mailbox) : State := s.modFunc fn fun f => { f with mbox := m }

/-- Take the command in MBOX_CMD (R44): an unlisted opcode completes at once (R54). While Melvi runs in FAULT other functions' commands
complete with NOT_PERMITTED (R589); when the Dome serves, theirs never complete (R590). -/
def State.mboxTake (s : State) (fn : Nat) (cmd : List Byte) : State :=
  if s.domeServes && fn != 0 then s
  else
    let fl : Flight := ⟨s.host.nextFlight, fn, .mbox, cmd, 0, false, none⟩
    let s := { s with host := { s.host with flights := s.host.flights ++ [fl], nextFlight := s.host.nextFlight + 1 } }
    if s.pow.mode == .fault && s.host.server == .melvi && fn != 0 then s.complete fl fl.op (.bare .notPermitted)
    else if opcodeKnown fl.op then s
    else s.complete fl fl.op (.bare .badOpcode)

/-- A write of MBOX_CTRL (R45, Table 2-6): ACK first, then GO, which is lost while a command runs or an unacknowledged result is held.
With nobody serving commands a GO has no effect (log entry 8). -/
def State.mboxCtrl (s : State) (fn v : Nat) : State :=
  let m := (s.func fn).mbox.ctrl v
  if !bit v 0 then s.setMbox fn m
  else if !m.open_ then s.setMbox fn { m with goLost := true }
  else if s.host.server == .nobody then s.setMbox fn m
  else (s.setMbox fn { m with st := .busy }).mboxTake fn m.cmd

/-- MBOX_GO: a write of MBOX_CTRL with GO set. -/
def doMboxGo (t fn v : Nat) (s : State) : State :=
  let s := s.advance t
  if bit v 0 && fn < 8 && s.barUp then s.mboxCtrl fn v else s

def execMboxGo (t fn v : Nat) (s : State) : Host.Outcome State Fault Refusal := .next (doMboxGo t fn v s)

/-- MBOX_ACK: a write of MBOX_CTRL with ACK set and GO clear. -/
def doMboxAck (t fn v : Nat) (s : State) : State :=
  let s := s.advance t
  if bit v 1 && !bit v 0 && fn < 8 && s.barUp then s.mboxCtrl fn v else s

def execMboxAck (t fn v : Nat) (s : State) : Host.Outcome State Fault Refusal := .next (doMboxAck t fn v s)

/-! ## Doorbells (R49) -/

/-- A doorbell was ignored: DOORBELL_INVALID (R628). -/
def State.badDoorbell (s : State) (fn qp : Nat) (cq : Bool) : State := s.post fn 0x0001 2 (qp + 256 * b2n cq)

/-- A write of SQ_TAIL. -/
def State.sqTail (s : State) (fn qp v : Nat) : State :=
  let i := v % 4096
  match (s.func fn).qps.find? qp with
  | none => s.badDoorbell fn qp false
  | some q =>
    if q.entries ≤ i then s.badDoorbell fn qp false
    else s.modFunc fn fun f => { f with qps := f.qps.upd qp fun q => { q with sqTail := i } }

/-- A write of CQ_HEAD. -/
def State.cqHead (s : State) (fn qp v : Nat) : State :=
  let i := v % 4096
  match (s.func fn).qps.find? qp with
  | none => s.badDoorbell fn qp true
  | some q =>
    let n := (i + q.entries - q.cqHead) % q.entries
    if q.entries ≤ i || q.posted < n then s.badDoorbell fn qp true
    else s.modFunc fn fun f => { f with qps := f.qps.upd qp fun q => { q with cqHead := i, posted := q.posted - n } }

/-- SQ_TAIL_WRITE. -/
def doSqTailWrite (t fn qp v : Nat) (s : State) : State :=
  let s := s.advance t
  if fn < 8 && qp < 64 && s.barUp then s.sqTail fn qp v else s

def execSqTailWrite (t fn qp v : Nat) (s : State) : Host.Outcome State Fault Refusal := .next (doSqTailWrite t fn qp v s)

/-- CQ_HEAD_WRITE. -/
def doCqHeadWrite (t fn qp v : Nat) (s : State) : State :=
  let s := s.advance t
  if fn < 8 && qp < 64 && s.barUp then s.cqHead fn qp v else s

def execCqHeadWrite (t fn qp v : Nat) (s : State) : Host.Outcome State Fault Refusal := .next (doCqHeadWrite t fn qp v s)

/-! ## MSI-X masks (R62) -/

/-- Send the messages whose pending bits are set and whose masks are clear. -/
def State.flushMsix (s : State) (fn : Nat) : State :=
  if (s.func fn).fnMask then s
  else (s.func fn).msix.foldl (fun s e =>
    if e.2.pending && !e.2.masked then
      (s.modFunc fn fun f => { f with msix := f.msix.mod MsixEntry.reset e.1 fun x => { x with pending := false } }).emit
        (.msix fn e.1 (e.2.addrHi * 2 ^ 32 + e.2.addrLo) e.2.data)
    else s) s

/-- MSIX_MASK_CLEAR: the host clears a vector's mask, or with no vector the function mask; a pending message is sent. -/
def doMsixMaskClear (t fn : Nat) (vec : Option Nat) (s : State) : State :=
  let s := s.advance t
  let s := match vec with
    | some v => s.modFunc fn fun f => { f with msix := f.msix.mod MsixEntry.reset v fun x => { x with masked := false } }
    | none => s.modFunc fn fun f => { f with fnMask := false }
  s.flushMsix fn

def execMsixMaskClear (t fn : Nat) (vec : Option Nat) (s : State) : Host.Outcome State Fault Refusal :=
  .next (doMsixMaskClear t fn vec s)

/-! ## BAR 0 (R36, R37, R43) -/

/-- Write one 32-bit word of the MSI-X table. -/
def State.msixWord (s : State) (fn off v : Nat) : State :=
  let s := s.modFunc fn fun f => { f with msix := f.msix.mod MsixEntry.reset (off / 16) fun e =>
    match off % 16 / 4 with
    | 0 => { e with addrLo := v }
    | 1 => { e with addrHi := v }
    | 2 => { e with data := v }
    | _ => { e with masked := bit v 0 } }
  s.flushMsix fn

/-- Write one aligned 32-bit word of BAR 0. Read-only and unmapped offsets ignore it. -/
def State.bar0Word (s : State) (fn off v : Nat) : State :=
  if off < 0x40 then s.modFunc fn fun f => { f with mbox := { f.mbox with cmd := splice f.mbox.cmd off (leBytes 4 v) } }
  else if off = 0x40 then s.mboxCtrl fn v
  else if 0x1000 ≤ off && off < 0x1200 then
    if off % 8 = 0 then s.sqTail fn ((off - 0x1000) / 8) v else s.cqHead fn ((off - 0x1000) / 8) v
  else if 0x10000 ≤ off && off < 0x11000 then s.msixWord fn (off - 0x10000) v
  else if off = 0x100018 && fn = 0 then
    if v % 1024 ≤ 1000 then { s with host := { s.host with holdMs := v % 1024 } } else s
  else if off = 0x100020 && fn = 0 then { s with host := { s.host with dbgBase := v % 2 ^ 24 } }
  else s

/-- REGISTER_WRITE: a write access to BAR 0, or with `cfg` to the MSI-X message control of configuration space. Accesses that
R37 does not accept are ignored as a whole. -/
def doRegisterWrite (t fn off : Nat) (bs : List Byte) (cfg : Bool) (s : State) : State :=
  let s := s.advance t
  if 8 ≤ fn then s
  else if cfg then
    (s.modFunc fn fun f => { f with fnMask := bit (leNat bs) 14 }).flushMsix fn
  else if !s.barUp then s
  else if bs.length = 4 && off % 4 = 0 then s.bar0Word fn off (leNat bs)
  else if bs.length = 8 && off % 8 = 0 then
    (s.bar0Word fn off (leNat (bs.take 4))).bar0Word fn (off + 4) (leNat (bs.drop 4))
  else s

def execRegisterWrite (t fn off : Nat) (bs : List Byte) (cfg : Bool) (s : State) : Host.Outcome State Fault Refusal :=
  .next (doRegisterWrite t fn off bs cfg s)

/-! ## BAR 2 (R64, R470) -/

/-- BAR2_ACCESS: a read of `n` bytes, or a write of `bs`. -/
def doBar2Access (t fn off n : Nat) (bs : Option (List Byte)) (s : State) : State :=
  let s := s.advance t
  let ext := if fn = 0 then (0, hbmEnd) else s.hbmExtent fn
  let a := ext.1 + off
  let len := match bs with
    | some b => b.length
    | none => n
  let w : Who := ⟨initPcie, none, false, none⟩
  if !s.barUp then s
  else if ext.2 < off + len then s.emit (.unsupported fn 2 off)
  else if s.retiredIn a len then (s.logRetired w a).emit (.unsupported fn 2 off)
  else match bs with
    | none => ((s.clockFor a).logRead w a len).emit (.barRead fn 2 off (s.bytesAt a len) (s.poisonIn a len))
    | some b =>
      if overlaps a len hbmCarillon (hbmEnd - hbmCarillon) then s.emit (.unsupported fn 2 off)
      else (s.clockFor a).write w a b false

def execBar2Access (t fn off n : Nat) (bs : Option (List Byte)) (s : State) : Host.Outcome State Fault Refusal :=
  .next (doBar2Access t fn off n bs s)

/-! ## Fetching commands (R51, R52, R57) -/

/-- The next number after `last` in round-robin order that meets a test. -/
def roundRobin (n last : Nat) (p : Nat → Bool) : Option Nat :=
  ((List.range n).map fun i => (last + 1 + i) % n).find? p

/-- A pair from which the device can fetch. -/
def QueuePair.ready (q : QueuePair) : Bool := !q.stopped && q.sqHead != q.sqTail && 0 < q.free

/-- The pair of a function that is fetched next: urgent pairs first, round robin within each priority. -/
def Func.nextPair (f : Func) : Option Nat :=
  let ok (u : Bool) (i : Nat) : Bool := (f.qps.find? i).any fun q => q.urgent == u && q.ready
  match roundRobin 64 f.lastUrgent (ok true) with
  | some i => some i
  | none => roundRobin 64 f.lastNormal (ok false)

/-- COMMAND_FETCH: the device fetches the entry at the head of the pair whose turn it is; `entry` is what it reads there. An
entry read with poison or with an unlisted opcode ends at once when it may start (R56), else by COMMAND_COMPLETION. In FAULT nothing is fetched (R588).
-/
def doCommandFetch (t : Nat) (entry : List Byte) (poison : Bool) (s : State) : State :=
  let s := s.advance t
  if s.host.server != .melvi || s.pow.mode == .fault then s
  else match roundRobin 8 s.host.lastFn fun fn => (s.func fn).nextPair.isSome with
  | none => s
  | some fn =>
    match (s.func fn).nextPair with
    | none => s
    | some qp =>
      match (s.func fn).qps.find? qp with
      | none => s
      | some q =>
        let head := if q.sqHead + 1 = q.entries then 0 else q.sqHead + 1
        let fl : Flight := ⟨s.host.nextFlight, fn, .sq qp, fit 64 entry, head, poison, none⟩
        let s := s.modFunc fn fun f => { f with
          qps := f.qps.set qp { q with sqHead := head, reserved := q.reserved + 1 }
          lastUrgent := if q.urgent then qp else f.lastUrgent
          lastNormal := if q.urgent then f.lastNormal else qp }
        let s := { s with host := { s.host with
          flights := s.host.flights ++ [fl], nextFlight := s.host.nextFlight + 1, lastFn := fn } }
        s.endBad fl

def execCommandFetch (t : Nat) (entry : List Byte) (poison : Bool) (s : State) : Host.Outcome State Fault Refusal :=
  .next (doCommandFetch t entry poison s)

/-- CQ_COALESCE_TIMEOUT: COAL_US has passed since the oldest unsignalled entry (R62). -/
def doCqCoalesceTimeout (t fn qp : Nat) (s : State) : State :=
  let s := s.advance t
  match (s.func fn).qps.find? qp with
  | none => s
  | some q =>
    if q.unsignalled = 0 || s.time.frc < q.oldest + usToFrc q.coalUs then s
    else (s.modFunc fn fun f => { f with qps := f.qps.set qp { q with unsignalled := 0 } }).signal fn q.vector

def execCqCoalesceTimeout (t fn qp : Nat) (s : State) : Host.Outcome State Fault Refusal :=
  .next (doCqCoalesceTimeout t fn qp s)

/-! ## Resets of R65 and the headless hold (R66) -/

/-- Cells of a tenant in SERVICE. -/
def State.servedCells (s : State) (fn : Nat) : Nat := s.cells.count fun c x => x.st == .service && s.ownsCell fn c

/-- A function's accepted plans go on as orphans (R66, R71). -/
def State.orphanPlans (s : State) (fn : Nat) : State :=
  s.modCar fun c => { c with plans := c.plans.each fun _ p => if p.fn = fn then { p with orphan := true } else p }

/-- Reset one function (R65, R446): its BAR 0 state, queues, windows and subscriptions; its fetched and mailbox commands are
discarded; its accepted plans go on as orphans; its DMA transfers stop; a tenant with cells in service starts its hold. -/
def State.resetFunction (s : State) (fn : Nat) : State :=
  let f := s.func fn
  let hold := if 0 < s.servedCells fn then
      (if f.hold = .drained then Hold.drained else .holding s.time.frc)
    else f.hold
  let mine := (s.bdma.keep fun _ ch => ch.owner == fn && (ch.cmd.isSome || ch.cmdNext.isSome)).keys
  let s := mine.foldl (fun s k => s.resetChan (k / 32) (k % 32) none) s
  let s := { s with line := { s.line with ports := s.line.ports.each fun _ p => if p.fn = fn then { p with rings := false } else p } }
  let s := if fn = 0 then { s with fault := { s.fault with dumpWin := none } } else s
  let s := { s with host := { s.host with
    dbgBase := if fn = 0 then 0 else s.host.dbgBase
    flights := s.host.flights.filter fun x => x.fn != fn
    funcs := s.host.funcs.put Func.reset fn { Func.reset with hold := hold, muted := f.muted, holdEvent := f.holdEvent } } }
  s.orphanPlans fn

/-- PCIE_RESET: PCIE_PERST_N resets every function (R65). -/
def doPcieReset (t : Nat) (s : State) : State := (List.range 8).foldl (fun s fn => s.resetFunction fn) (s.advance t)

def execPcieReset (t : Nat) (s : State) : Host.Outcome State Fault Refusal := .next (doPcieReset t s)

/-- FUNCTION_LEVEL_RESET: the same for one function (R65). -/
def doFunctionLevelReset (t fn : Nat) (s : State) : State :=
  let s := s.advance t
  if fn < 8 then s.resetFunction fn else s

def execFunctionLevelReset (t fn : Nat) (s : State) : Host.Outcome State Fault Refusal := .next (doFunctionLevelReset t fn s)

/-- Revoke a tenant's unreleased tasks and mute the egress of its carriers (Table 2-12 step 4, R71). -/
def State.drainTenant (s : State) (fn : Nat) : State :=
  (s.revokeAll (s.tenantTasks fn)).modFunc fn fun f => { f with muted := true }

/-- HEADLESS_HOLD_END: HOLD_MS has passed since the hold began (R66). -/
def doHeadlessHoldEnd (t fn : Nat) (s : State) : State :=
  let s := s.advance t
  match (s.func fn).hold with
  | .holding start =>
    if s.time.frc < start + msToFrc s.host.holdMs then s
    else
      let n := s.servedCells fn
      (s.drainTenant fn).modFunc fn fun f => { f with hold := .drained, holdEvent := some (n, s.time.frc) }
  | _ => s

def execHeadlessHoldEnd (t fn : Nat) (s : State) : Host.Outcome State Fault Refusal := .next (doHeadlessHoldEnd t fn s)

end Sys2Proof.Machine
end

