-- ==== Sys2Proof/Machine/Admin.lean ====
section
/-! DEFINITION. Admin commands (Table 2-13): IDENTIFY, ATTACH, DETACH, queue pairs, event subscriptions, MODE_SET, and the
completion of commands that waited for others. -/

namespace Sys2Proof.Machine

/-- ID_PART (Table 2-2). -/
def idPart : Nat := 0x8128A100

/-- The inline result of IDENTIFY. -/
def State.identity (s : State) : List Byte := leBytes 4 idPart ++ leBytes 4 s.fwVersion ++ leBytes 8 Config.serial

/-- The lanes or MACs that a tenant holds, as a mask of `n` bits. -/
def holdMask (n : Nat) (p : Nat → Bool) : Nat := maskOf ((List.range n).filter p)

/-- The result buffer of IDENTIFY. -/
def State.identityBuf (s : State) (fn : Nat) : List Byte :=
  let cells := ((List.range 384).filter fun c => s.ownsCell fn c).length
  s.identity ++ leBytes 2 cells ++ leBytes 2 (s.queueQuota fn) ++ leBytes 4 (s.taskQuota fn)
    ++ leBytes 8 (s.hbmExtent fn).1 ++ leBytes 8 (s.hbmSize fn)
    ++ leBytes 16 (holdMask 128 fun n => s.ownsLane fn n) ++ leBytes 8 (holdMask 64 fun n => s.ownsMac fn n) ++ zeros 192

def layIdentify : Layout := ⟨0x0001, 12, false, fun p => [optBuf (fld p 0 8) (fld p 8 4) 256],
  fun p => if fld p 0 8 = 0 then [] else [(fld p 0 8, fld p 8 4)]⟩

def bodyIdentify (i : CmdIn) (s : State) : Ans :=
  if fld i.p 0 8 = 0 then ok s s.identity else (s, .done (.okBuf (fld i.p 0 8) (s.identityBuf i.fn)))

def execIdentify (c : CmdRef) (s : State) : Host.Outcome State Fault Refusal := .next (runCmd layIdentify c bodyIdentify s)

/-! ## ATTACH (R63, R67, R68) -/

/-- Window `k` of an ATTACH layout, and its checks. -/
def attachWin (p : List Byte) (k : Nat) : Window :=
  let o := 8 + 24 * k
  ⟨fld p o 8, fld p (o + 8) 8, bit (fld p (o + 16) 4) 0, bit (fld p (o + 16) 4) 1⟩
def winOk (p : List Byte) (k : Nat) : Bool :=
  let o := 8 + 24 * k
  let w := attachWin p k
  w.base % 4096 == 0 && w.len % 4096 == 0 && w.len != 0 && fld p (o + 16) 4 < 4 && fld p (o + 20) 4 == 0

def layAttach : Layout := ⟨0x0002, 8, false, fun p =>
  [.rng 4 4 0 16, .cond (8 + 24 * fld p 4 4 ≤ p.length), .cond ((List.range (min 16 (fld p 4 4))).all fun k => winOk p k)],
  fun _ => []⟩

/-- Remove the queue pairs and subscriptions of a function. -/
def Func.noQueues (f : Func) : Func := { f with qps := [], subs := [] }

def bodyAttach (i : CmdIn) (s : State) : Ans :=
  if fld i.p 2 2 != 1 then refuse s .notPermitted
  else
    let ws := (List.range (fld i.p 4 4)).map fun k => attachWin i.p k
    let s := s.modFunc i.fn fun f => { f.noQueues with
      attached := true, windows := ws, hold := .none, muted := false, complLost := 0, eventsLost := 0 }
    ok s (leBytes 2 i.fn ++ leBytes 2 s.deviceId)

def execAttach (c : CmdRef) (s : State) : Host.Outcome State Fault Refusal := .next (runCmd layAttach c bodyAttach s)

/-! ## DETACH (R71) -/

def layDetach : Layout := ⟨0x0003, 4, false, fun _ => [.rsv 0 4], fun _ => []⟩

def bodyDetach (i : CmdIn) (s : State) : Ans :=
  (s.modFunc i.fn fun f => { f with qps := f.qps.each fun _ q => { q with stopped := true } }, .later .detach)

def execDetach (c : CmdRef) (s : State) : Host.Outcome State Fault Refusal := .next (runCmd layDetach c bodyDetach s)

/-- DETACH completes: its completion, then the removals, the revokes and the muting; completions of the function's plans that fall
due from then on are lost. -/
def State.finishDetach (s : State) (fl : Flight) : State :=
  let s := s.complete fl 0x0003 (.bare .success)
  let s := s.modFunc fl.fn fun f => { f.noQueues with attached := false, windows := [] }
  let s := if fl.fn = 0 then { s with fault := { s.fault with dumpWin := none } } else s
  let s := if 0 < s.servedCells fl.fn then s.modFunc fl.fn fun f => { f with hold := .drained } else s
  (s.orphanPlans fl.fn).drainTenant fl.fn

/-! ## Queue pairs (R47, R48, R70) -/

def layQueueCreate : Layout := ⟨0x0004, 32, false, fun _ =>
  [.rng 0 2 0 63, .rng 2 2 2 4096, .rng 4 2 1 255, .rng 6 1 0 1, .rsv 10 6], fun _ => []⟩

def bodyQueueCreate (i : CmdIn) (s : State) : Ans :=
  let p := i.p
  let n := fld p 2 2
  let sq := fld p 16 8
  let cq := fld p 24 8
  if sq % 64 != 0 || cq % 32 != 0 || !s.hostOk i.fn sq (64 * n) false || !s.hostOk i.fn cq (32 * n) true then refuse s .badParam
  else if (s.func i.fn).qps.has (fld p 0 2) || s.queueQuota i.fn ≤ (s.func i.fn).qps.length then refuse s .noResource
  else
    let q : QueuePair := ⟨n, sq, cq, fld p 4 2, fld p 6 1 == 0, fld p 7 1, fld p 8 2, 0, 0, 0, true, 0, 0, 0, 0, 0, false⟩
    ok (s.modFunc i.fn fun f => { f with qps := f.qps.set (fld p 0 2) q }) []

def execQueueCreate (c : CmdRef) (s : State) : Host.Outcome State Fault Refusal :=
  .next (runCmd layQueueCreate c bodyQueueCreate s)

def layQueueDelete : Layout := ⟨0x0005, 2, false, fun _ => [.rng 0 2 0 63], fun _ => []⟩

/-- The CQ of a pair holds entries reserved for task completions of accepted plans. -/
def State.cqAwaited (s : State) (fn qp : Nat) : Bool :=
  s.car.tasks.some? fun _ t => t.notify && (s.car.plans.find? t.plan).any fun p => p.fn == fn && p.qp == qp && !p.orphan

def bodyQueueDelete (i : CmdIn) (s : State) : Ans :=
  let qp := fld i.p 0 2
  if !(s.func i.fn).qps.has qp then refuse s .badParam
  else if i.qp == some qp then refuse s .notPermitted
  else if s.cqAwaited i.fn qp then refuse s .noResource
  else (s.modFunc i.fn fun f => { f with qps := f.qps.upd qp fun q => { q with stopped := true } }, .later (.queueDelete qp))

def execQueueDelete (c : CmdRef) (s : State) : Host.Outcome State Fault Refusal :=
  .next (runCmd layQueueDelete c bodyQueueDelete s)

/-- QUEUE_DELETE completes: its completion, then the pair and the subscriptions bound to its CQ are removed. -/
def State.finishQueueDelete (s : State) (fl : Flight) (qp : Nat) : State :=
  let s := s.complete fl 0x0005 (.bare .success)
  s.modFunc fl.fn fun f => { f with qps := f.qps.del qp, subs := f.subs.keep fun _ x => x.qp != qp }

/-! ## Events (R61) -/

def layEventSubscribe : Layout := ⟨0x0006, 4, false, fun _ => [.bits 0 2 0xF000, .rng 2 1 0 3, .rng 3 1 0 63], fun _ => []⟩

/-- FSC_WAKE_CAUSE is posted on the first CQ that is subscribed for it after a wake from WATCH (R526). -/
def State.postCause (s : State) (fn : Nat) : State :=
  match s.fsc.cause with
  | none => s
  | some x =>
    ({ s with fsc := { s.fsc with cause := none } }).postTo fn 0x0702 1
      (x.rule + 256 * x.event + 65536 * x.source + 16777216 * x.acts) x.frc

def bodyEventSubscribe (i : CmdIn) (s : State) : Ans :=
  let areas := fld i.p 0 2
  let sub : Sub := ⟨fld i.p 3 1, fld i.p 2 1⟩
  if areas = 0 then ok (s.modFunc i.fn fun f => { f with subs := [] }) []
  else if !(s.func i.fn).qps.has sub.qp then refuse s .badParam
  else
    let s := s.modFunc i.fn fun f => { f with subs := (maskBits areas 12).foldl (fun m a => m.set a sub) f.subs }
    let s := if bit areas 7 then s.postCause i.fn else s
    match (s.func i.fn).holdEvent with
    | some (n, f) =>
      if bit areas 0 then ok ((s.modFunc i.fn fun f => { f with holdEvent := none }).postTo i.fn 0x0002 1 n f) [] else ok s []
    | none => ok s []

def execEventSubscribe (c : CmdRef) (s : State) : Host.Outcome State Fault Refusal :=
  .next (runCmd layEventSubscribe c bodyEventSubscribe s)

/-! ## MODE_SET (R476, Table 17-2) -/

/-- Enter a mode and post MODE_CHANGED. -/
def State.enterMode (s : State) (m : ChipMode) : State :=
  ({ s with pow := { s.pow with mode := m } }).postAll 0x0003 0 m.code

def layModeSet : Layout := ⟨0x0008, 1, false, fun _ => [.oneOf 0 1 [2, 3, 6]], fun _ => []⟩

/-- Whether MODE_SET may go from a mode to READY, SERVICE or MAINT. -/
def modeMay (noCell : Bool) (m : ChipMode) (n : Nat) : Bool :=
  match m, n with
  | .ready, 3 | .ready, 6 | .service, 6 | .maint, 3 => true
  | .service, 2 | .maint, 2 => noCell
  | _, _ => false

def bodyModeSet (i : CmdIn) (s : State) : Ans :=
  let m := fld i.p 0 1
  if s.pow.mode == .maint && m != 6 && !s.fault.bists.isEmpty then refuse s .noResource
  else if modeMay s.cells.isEmpty s.pow.mode m then
    ok (s.enterMode (if m = 2 then .ready else if m = 3 then .service else .maint)) []
  else refuse s .notPermitted

def execModeSet (c : CmdRef) (s : State) : Host.Outcome State Fault Refusal := .next (runCmd layModeSet c bodyModeSet s)

end Sys2Proof.Machine
end

