-- ==== Sys2Proof/Machine/DomeOps.lean ====
section
/-! DEFINITION. The Dome's stores and checks (chapter 20): OTP, boot flash, key slots, signatures, firmware slots, counters. -/

namespace Sys2Proof.Machine

/-- Change the Dome's state. -/
def State.modDome (s : State) (f : DomeSt → DomeSt) : State := { s with dome := f s.dome }

/-! ## OTP and boot flash (R556, R559) -/

/-- A byte of OTP: as provisioned, with what has been burned since. -/
def State.otpByte (s : State) (a : Nat) : Nat := (Config.otp a % 256) ||| s.dome.otp.get 0 a
/-- A little-endian field of OTP. -/
def State.otpFld (s : State) (a n : Nat) : Nat := leNat ((List.range n).map fun i => BitVec.ofNat 8 (s.otpByte (a + i)))
def State.otpBytes (s : State) (a n : Nat) : List Byte := (List.range n).map fun i => BitVec.ofNat 8 (s.otpByte (a + i))

/-- Burn bits from 0 to 1. -/
def State.burn (s : State) (a : Nat) (bs : List Byte) : State :=
  (List.range bs.length).foldl (fun s i => s.modDome fun d =>
    { d with otp := d.otp.put 0 (a + i) (d.otp.get 0 (a + i) ||| (bs.getD i 0).toNat) }) s

/-- The value of a counter: the number of its bits burned. -/
def State.counter (s : State) (a : Nat) : Nat := ((List.range 64).filter fun i => (s.otpFld a 8).testBit i).length
def State.fwCounter (s : State) : Nat := s.counter 0x150
def State.profileFloor (s : State) : Nat := s.counter 0x158
/-- Burn a counter up to a value, bits in ascending order. -/
def State.burnTo (s : State) (a v : Nat) : State := if s.counter a < v then s.burn a (leBytes 8 (2 ^ v - 1)) else s

/-- The board's boot flash. -/
def State.flashByte (s : State) (a : Nat) : Byte := (s.dome.flash.find? a).getD (BitVec.ofNat 8 (Config.flash a))
def State.flashBytes (s : State) (a n : Nat) : List Byte := (List.range n).map fun i => s.flashByte (a + i)
/-- Program flash bytes. -/
def State.program (s : State) (a : Nat) (bs : List Byte) : State :=
  s.modDome fun d => { d with flash := (List.range bs.length).foldl (fun m i => m.set (a + i) (bs.getD i 0)) d.flash }
/-- Erase a range of flash: all ones. -/
def State.erase (s : State) (a n : Nat) : State := s.program a (List.replicate n 0xFF)

/-! ## Hashes and signatures -/

def nats (bs : List Byte) : List Nat := bs.map fun b => b.toNat
def bytesOf (l : List Nat) : List Byte := l.map fun n => BitVec.ofNat 8 n
/-- SHAKE256 with 64 bytes. -/
def shake (bs : List Byte) : List Byte := fit 64 (bytesOf (Config.shake256 (nats bs)))

/-- Key uses (Table 20-2). -/
def useFirmware : Nat := 0
def useKernel : Nat := 1
def useProfile : Nat := 2
def useDebug : Nat := 3
def useEnroll : Nat := 4

/-- The public key of a slot in the key block. -/
def State.slotKey (s : State) (k : Nat) : List Byte := s.flashBytes (2048 * k) 1793
/-- The digest of a slot in OTP. -/
def State.slotDigest (s : State) (k : Nat) : List Byte := s.otpBytes (64 * k) 64
/-- The use mask of a slot; that of slot 0 is fixed. -/
def State.slotUse (s : State) (k : Nat) : Nat := if k = 0 then 0x1B else s.otpByte (0x140 + k - 1)
def State.slotValid (s : State) (k : Nat) : Bool := k == 0 || (s.otpByte 0x144).testBit k
def State.slotRevoked (s : State) (k : Nat) : Bool := (s.otpByte 0x145).testBit k

/-- A slot is usable for a use (R557). -/
def State.slotUsable (s : State) (k use : Nat) : Bool :=
  k ≤ 4 && shake (s.slotKey k) == s.slotDigest k && s.slotValid k && !s.slotRevoked k && (s.slotUse k).testBit use

/-- A signature of a digest by a slot usable for a use verifies. -/
def State.sigOk (s : State) (k use : Nat) (digest sig : List Byte) : Bool :=
  s.slotUsable k use && Config.falconVerify (nats (s.slotKey k)) (nats digest) (nats sig)

/-- A trailer of Table 6-14: its reserved bytes, SIG_LEN, padding. -/
def trailerOk (t : List Byte) : Bool :=
  fld t 64 1 ≤ 4 && fld t 65 1 == 0 && 1 ≤ fld t 66 2 && fld t 66 2 ≤ 1280 && allZero ((t.drop 68).take 60)
    && allZero ((t.drop (128 + fld t 66 2)).take (1280 - fld t 66 2))
/-- Its digest is that of the bytes before it and its signature verifies. -/
def State.trailerAuth (s : State) (use : Nat) (body t : List Byte) : Bool :=
  shake body == t.take 64 && s.sigOk (fld t 64 1) use (t.take 64) ((t.drop 128).take (fld t 66 2))

/-! ## Firmware slots (R560, R561) -/

def slotBase (x : Nat) : Nat := if x = 0 then 0x100000 else 0x1100000
def State.slotHeader (s : State) (x : Nat) : List Byte := s.flashBytes (slotBase x) 4096
def State.slotImage (s : State) (x len : Nat) : List Byte := s.flashBytes (slotBase x + 4096) len

/-- HDR_CHECK holds. -/
def headerComplete (h : List Byte) : Bool := (h.drop 4032).take 64 == shake (h.take 4028)
/-- MAGIC, FORMAT, VERSION, IMAGE_LEN as Table 20-4 gives them. -/
def headerForm (h : List Byte) : Bool :=
  fld h 0 4 == 0x4D454C56 && fld h 4 2 == 1 && fld h 6 1 ≤ 64 && 1 ≤ fld h 8 4 && fld h 8 4 ≤ 16773120 && 1 ≤ fld h 132 2 && fld h 132 2 ≤ 1280

/-- The checks of a header besides HDR_CHECK. -/
def State.headerAuth (s : State) (x : Nat) (h : List Byte) : Bool :=
  headerForm h && s.sigOk (fld h 7 1) useFirmware (shake (h.take 128)) ((h.drop 136).take (fld h 132 2))
    && (h.drop 16).take 64 == shake (s.slotImage x (fld h 8 4)) && s.fwCounter ≤ fld h 6 1

/-- A slot is valid (R560). -/
def State.slotOk (s : State) (x : Nat) : Bool := headerComplete (s.slotHeader x) && s.headerAuth x (s.slotHeader x)
def headerSeq (h : List Byte) : Nat := fld h 128 4
def headerVersion (h : List Byte) : Nat := fld h 6 1
/-- Confirmed: CONFIRMED programmed to 0. -/
def headerConfirmed (h : List Byte) : Bool := fld h 4028 4 == 0

/-- The valid slot with the higher SEQ. -/
def State.bootSlot (s : State) : Option Nat :=
  match s.slotOk 0, s.slotOk 1 with
  | true, true => some (if headerSeq (s.slotHeader 0) < headerSeq (s.slotHeader 1) then 1 else 0)
  | true, false => some 0
  | false, true => some 1
  | false, false => none

/-- The slot not running; slot A when neither runs (R564). -/
def State.inactiveSlot (s : State) : Nat :=
  match s.dome.slot with
  | some 0 => 1
  | some _ => 0
  | none => 0

/-! ## Boot (R561, R562) -/

/-- Boot the valid slot with the higher SEQ, or stay in the recovery state. -/
def State.domeBoot (s : State) : State :=
  match s.bootSlot with
  | none => (s.modDome fun d => { d with slot := none, measure := zeros 64 }).modHost fun h => { h with server := .recovery }
  | some x =>
    let h := s.slotHeader x
    let s := if headerConfirmed h then s.burnTo 0x150 (headerVersion h) else s
    (s.modDome fun d => { d with slot := some x, measure := (h.drop 16).take 64, startAt := s.time.frc }).modHost fun h =>
      { h with server := .melvi }

/-! ## Kernel chain (Table 20-7) -/

/-- A successful KERNEL_LOAD extends the chain. -/
def State.chainKernel (s : State) (digest : List Byte) : State :=
  s.modDome fun d => { d with chain := shake (d.chain ++ digest), loads := (d.loads + 1) % 2 ^ 32 }

end Sys2Proof.Machine
end

