-- ==== Sys2Proof/Machine/EngOps.lean ====
section
/-! DEFINITION. How a fixed-function engine carries out its task's operation: the task it runs, reads and writes under the
task's identity, and the end of the work. -/

namespace Sys2Proof.Machine

/-- A fixed-function task at work. With a revoke or skip pending, `quota` is how many units of work end before the boundary at
which it takes effect; without one, every unit runs. -/
structure Job where
  e : Nat
  id : Nat
  task : Task
  who : Who
  quota : Option Nat

/-- An operation in progress: the state, the status that has failed it, whether poison was consumed, and the units of work left
before the task leaves. -/
structure Work where
  s : State
  stop : Option Status
  pois : Bool
  quota : Option Nat

/-- An operation of a job about to begin in a state. -/
def Job.work (j : Job) (s : State) : Work := ⟨s, none, false, j.quota⟩

/-- Begin a unit of work: at the boundary where a revoke or skip takes effect the operation ends, and the unit's output is not
written (R228, R240, R277). -/
def Work.unit (x : Work) : Work :=
  if x.stop.isSome then x
  else match x.quota with
  | none => x
  | some 0 => { x with stop := some .revoked }
  | some (n + 1) => { x with quota := some n }

def Work.fail (x : Work) (st : Status) : Work := if x.stop.isSome then x else { x with stop := some st }

/-- Fail with a status unless a test holds. -/
def Work.need (x : Work) (ok : Bool) (st : Status) : Work := if ok then x else x.fail st

/-- The task that runs on a fixed-function engine of a type, when its KERNEL names the operation and its work has not ended. -/
def State.job (s : State) (e ty kernel : Nat) : Option Job :=
  if engType e != some ty || (s.eng e).ended.isSome || s.fenced e || s.stopped then none
  else match (s.eng e).task with
  | none => none
  | some id =>
    match s.task? id with
    | some t => if t.kernel = kernel then some ⟨e, id, t, s.taskWho id t (initEng e), none⟩ else none
    | none => none

/-- With a revoke or skip pending, the units that end before it takes effect are free in number (log entry 31). -/
def State.withQuota (s : State) (j : Job) : Job × State :=
  if j.task.leave = .no then (j, s) else let d := s.draw; ({ j with quota := some d.1 }, d.2)

/-- The end of a run of an operation: a task that met its boundary leaves at that yield (R122, R133, R135); another's work ends with
its status. -/
def State.endRun (s : State) (e : Nat) (st : Status) : State := if st = .revoked then s.yieldAt e else s.endWork e st

/-- Run an operation of a job to its end, or to the boundary where a pending revoke or skip takes effect. -/
def State.runOp (s : State) (j : Job) (op : Job → State → State × Status) : State :=
  let q := s.withQuota j
  let r := op q.1 q.2
  r.1.endRun j.e r.2

/-- Carry out a row of a fixed-function engine: the running task's operation from first to last, then its end. -/
def State.engRow (s : State) (t e ty kernel : Nat) (op : Job → State → State × Status) : State :=
  let s := s.advance t
  match s.job e ty kernel with
  | none => s
  | some j => s.runOp j op

/-- The task's own bytes at an address (R129), and whether they are poison. -/
def Job.bytes (j : Job) (s : State) (a n : Nat) : List Byte := s.taskBytes ((s.task? j.id).getD j.task) a n
def Job.bad (j : Job) (s : State) (a n : Nat) : Bool := s.taskPoison ((s.task? j.id).getD j.task) a n

/-- Read: the access is checked and errors are logged; an error answer fails the task (R214). -/
def Job.read (j : Job) (a n : Nat) (x : Work) : Work :=
  if x.stop.isSome || n = 0 then x
  else match x.s.access j.who a n false with
  | .success => { x with s := (x.s.clockFor a).logRead j.who a n }
  | st => { x with s := if x.s.retiredIn a n then x.s.logRetired j.who a else x.s }.fail st

/-- Write under the task's identity. -/
def Job.write (j : Job) (a : Nat) (bs : List Byte) (pois : Bool) (x : Work) : Work :=
  if x.stop.isSome then x
  else match x.s.taskWrite j.id j.who.init a bs pois with
  | (s, .success) => { x with s := s, pois := x.pois || pois }
  | (s, st) => { x with s := s }.fail st

/-- Write after the task's status is settled: an error leaves it as it is. -/
def Job.writeLast (j : Job) (a : Nat) (bs : List Byte) (s : State) : State := (s.taskWrite j.id j.who.init a bs false).1

/-- A byte range lies inside one buffer reference. -/
def BufRef.covers (b : BufRef) (a n : Nat) : Bool := 0 < b.len && within a n b.addr b.len

/-- Reads lie in IN_BUF or PARAM, writes in OUT_BUF (R214). -/
def Job.mayRead (j : Job) (a n : Nat) : Bool := j.task.inBuf.covers a n || j.task.param.covers a n
def Job.mayWrite (j : Job) (a n : Nat) : Bool := j.task.outBuf.covers a n

/-- A byte range lies in persistent ranges of the task's tenant, one after another (R263, R276). -/
def coveredBy (rs : List (Nat × Nat)) : (fuel : Nat) → (a n : Nat) → Bool
  | 0, _, _ => false
  | fuel + 1, a, n =>
    match rs.find? fun r => r.1 ≤ a && a < r.1 + r.2 with
    | none => false
    | some r => if a + n ≤ r.1 + r.2 then true else coveredBy rs fuel (r.1 + r.2) (n - (r.1 + r.2 - a))

/-- Bytes of a trail's area: IQ records, time-domain samples, a byte ring (R316 to R318). -/
def Trail.areaLen (t : Trail) : Nat :=
  if 1 ≤ t.label && t.label ≤ 4 then t.ring * (64 * 14 * t.prbStride)
  else if t.label = 5 then t.ring * (t.fsMult * 960) * 4
  else if t.label = 7 || t.label = 8 then 65600
  else 0

/-- Bytes of a stream's area: records, or a message ring (R360 to R362). -/
def FhStream.areaLen (x : FhStream) : Nat := if x.entries = 0 then x.ring * (64 * 14 * x.prbStride) else 64 + 1024 * x.entries

/-- A byte range of L0 region memory lies in the line-buffer areas of a cell, those of its trails and streams (R226), or with `td`
in the areas of its time-domain trails (R239). -/
def State.lineArea (s : State) (cell a n : Nat) (td : Bool) : Bool :=
  (s.line.trails.some? fun _ t => t.cell == cell && (!td || t.label == 5) && within a n t.area t.areaLen)
    || (!td && s.line.streams.some? fun k x => k < 8192 && x.cell == cell && within a n x.area x.areaLen)

/-- A stream record or a symbol's samples may be read or written (R226, R239): in the line-buffer areas of the cell, where
`inArea` permits it, else in IN_BUF or OUT_BUF; time-domain samples are written in L0 region memory in those areas only. -/
def Job.mayStream (j : Job) (s : State) (a n : Nat) (wr td inArea : Bool) : Bool :=
  let l0 := (spanAt a).place == .regMem 13
  if inArea && l0 && s.lineArea j.task.cell a n td then true
  else if wr then j.mayWrite a n && !(td && l0)
  else j.task.inBuf.covers a n

/-- How the operation ended. -/
def Work.status (x : Work) : Status := x.stop.getD (if x.pois then .poisoned else .success)

/-- Finish an operation: the report is written last, when one is named, whatever the status (R215, R241, R278); after a write that
the commit buffer refused, no later write is made (R130). -/
def Job.finish (j : Job) (rep : Nat) (bytes : List Byte) (x : Work) : State × Status :=
  if rep = 0 || x.stop = some .noResource then (x.s, x.status)
  else if x.stop.isSome then (j.writeLast rep bytes x.s, x.status)
  else
    let w := j.write rep bytes false x
    (w.s, w.status)

/-- The report that a field of a parameter block names may be written: one is named, aligned, and in OUT_BUF. -/
def Job.reportOk (j : Job) (rep align : Nat) : Bool := rep != 0 && rep % align == 0 && j.mayWrite rep 16

/-- Fail on a poisoned parameter block: nothing is written but the report, where the word that names it is clean (R230,
R242, R279). -/
def Job.poisonedBlock (j : Job) (rep : Nat × Nat) (s : State) : State × Status :=
  let a := j.task.param.addr + rep.1
  let r := leNat (j.bytes s a 8)
  if j.bad s a 8 || !(j.reportOk r rep.2) then (s, .poisoned) else (j.writeLast r (zeros 16) s, .poisoned)

/-- Read a parameter block of a size, whose first 64 bytes may hold the address of a report (its offset and alignment); then
check it and run the body on its bytes. A check that fails leaves nothing written (R214). -/
def Job.withBlock (j : Job) (size : List Byte → Nat) (rep : Option (Nat × Nat)) (check : State → List Byte → Option Status)
    (body : List Byte → Work → State × Status) (s : State) : State × Status :=
  let a := j.task.param.addr
  if a % 64 != 0 then (s, .busError)
  else
    let n := size (j.bytes s a 64)
    let x := j.read a n (j.work s)
    if x.stop.isSome then (x.s, x.status)
    else if j.bad x.s a n then
      match rep with
      | some o => j.poisonedBlock o x.s
      | none => (x.s, .poisoned)
    else
      let p := j.bytes x.s a n
      match check x.s p with
      | some st => (x.s, st)
      | none => body p x

end Sys2Proof.Machine
end

