-- ==== Sys2Proof/Machine/Flags.lean ====
section
/-! DEFINITION. Arithmetic that sets flags: saturation to 16 bits (SAT), 40-bit accumulation (AOV), and the exact
complex products (R160, R162, R183). -/

namespace Sys2Proof.Machine

/-- sat() of R183. -/
def sat16 (x : Int) : Int := clampI (-32768) 32767 x

/-- Whether sat() changes a value, which sets SAT. -/
def sats16 (x : Int) : Bool := x < -32768 || 32767 < x

/-- A value taken modulo 2⁴⁰ as a signed value (R160). -/
def wrap40 (x : Int) : Int := sgn 40 (unsgn 40 x)

/-- Whether a sum leaves the 40-bit range, which sets AOV. -/
def wraps40 (x : Int) : Bool := x < -549755813888 || 549755813887 < x

/-- Real and imaginary part of u × w, exact (R160). -/
def cprod (ur ui wr wi : Int) : Int × Int := (ur * wr - ui * wi, ur * wi + ui * wr)

/-- Real and imaginary part of u × conj(w), exact (R183). -/
def cprodConj (ur ui wr wi : Int) : Int × Int := (ur * wr + ui * wi, ui * wr - ur * wi)

/-- Arithmetic shift right: floor of x / 2^s (R162). -/
def asr (x : Int) (n : Nat) : Int := x / (2 : Int) ^ n

end Sys2Proof.Machine
end

