-- ==== Sys2Proof/Machine/Operands.lean ====
section
/-! DEFINITION. Operand forms of the VDE: the fields of an instruction word (Tables 6-1 to 6-10), register codes, lanes,
register banks with poison, post-modify addressing, and the parallel move field. -/

namespace Sys2Proof.Machine

/-! ## Fields of a 64-bit word -/

/-- FMT [63:62]. -/
def wFmt (w : Nat) : Nat := bits w 63 62
/-- OPC: [61:54] in formats V and S, [61:56] in formats C and M. -/
def wOpc (w : Nat) : Nat := if wFmt w < 2 then bits w 61 54 else bits w 61 56
/-- OPD [53:34]. -/
def wOpd (w : Nat) : Nat := bits w 53 34
/-- X move [33:17] and Y move [16:0]. -/
def wX (w : Nat) : Nat := bits w 33 17
def wY (w : Nat) : Nat := bits w 16 0

/-- Vd or Sd, Va or Sa, Vb or Sb, IMM5 (Table 6-5, R185). -/
def wD (w : Nat) : Nat := bits w 53 49
def wA (w : Nat) : Nat := bits w 48 44
def wB (w : Nat) : Nat := bits w 43 39
def wImm5 (w : Nat) : Nat := bits w 38 34
/-- Aa, Ab; Vu and Vw of class DUAL; Vw of class FT. -/
def wAa (w : Nat) : Nat := bits w 53 51
def wAb (w : Nat) : Nat := bits w 50 48
def wVu (w : Nat) : Nat := bits w 47 43
def wVw (w : Nat) : Nat := bits w 42 38
def wFt (w : Nat) : Nat := bits w 47 43
/-- PB (Table 6-4) and LANE. -/
def wPb (w : Nat) : Nat := bits w 37 34
/-- IMM10, sign-extended, and the count of an immediate shift. -/
def wImm10 (w : Nat) : Word := BitVec.ofInt 32 (sgn 10 (bits w 43 34))
/-- Destination and source G of MOV.G and ADD.G, and IMM6. -/
def wGd (w : Nat) : Nat := bits w 53 47
def wGs (w : Nat) : Nat := bits w 46 40
def wImm6 (w : Nat) : Word := BitVec.ofInt 32 (sgn 6 (bits w 39 34))
/-- Format M (Table 6-8). -/
def wReg (w : Nat) : Nat := bits w 55 49
def wRegV (w : Nat) : Nat := bits w 53 49
def wRegA (w : Nat) : Nat := bits w 51 49
def wPtr (w : Nat) : Nat := bits w 48 45
def wAm (w : Nat) : Nat := bits w 44 43
def wMsrc (w : Nat) : Bool := bit w 42
def wMreg (w : Nat) : Nat := bits w 41 38
def wShift (w : Nat) : Nat := bits w 37 33
def wImm32 (w : Nat) : Nat := bits w 31 0
/-- Format C (R187). -/
def wSa (w : Nat) : Nat := bits w 52 48
def wCount (w : Nat) : Nat := bits w 47 32
def wTgt (w : Nat) : Nat := bits w 15 0

/-! ## Register numbers: codes of Table 6-2, then V and A -/

def rP (n : Nat) : Nat := 0x20 + n
def rM (n : Nat) : Nat := 0x30 + n
def rL (n : Nat) : Nat := 0x40 + n
def rB (n : Nat) : Nat := 0x50 + n
def rV (n : Nat) : Nat := 128 + n
def rA (n : Nat) : Nat := 160 + n

/-- A scalar-side register, and whether it is poisoned. -/
def Bank.getG (b : Bank) (c : Nat) : Word := b.g.get 0 c
def Bank.poisoned (b : Bank) (r : Nat) : Bool := b.pois.has r
/-- A vector register, an accumulator. -/
def Bank.getV (b : Bank) (n : Nat) : BitVec 512 := b.v.get 0 n
def Bank.getA (b : Bank) (n : Nat) : BitVec 1280 := b.a.get 0 n

/-- Set or clear a poison bit (R164). -/
def Bank.mark (b : Bank) (r : Nat) (p : Bool) : Bank := { b with pois := if p then b.pois.set r () else b.pois.del r }

/-- Write a register in full, with the poison of what was written (R164). -/
def Bank.setG (b : Bank) (c : Nat) (v : Word) (p : Bool) : Bank := { b with g := b.g.put 0 c v }.mark c p
def Bank.setV (b : Bank) (n : Nat) (v : BitVec 512) (p : Bool) : Bank := { b with v := b.v.put 0 n v }.mark (rV n) p
def Bank.setA (b : Bank) (n : Nat) (v : BitVec 1280) (p : Bool) : Bank := { b with a := b.a.put 0 n v }.mark (rA n) p

/-- Set the sticky flags SAT and AOV when something saturated or wrapped (R160, R162). -/
def Bank.raiseSat (b : Bank) (x : Bool) : Bank := { b with sat := b.sat || x }
def Bank.raiseAov (b : Bank) (x : Bool) : Bank := { b with aov := b.aov || x }

/-! ## Lanes (R159) -/

/-- Real lane j of 512 bits; the real part of complex lane k is lane 2k, the imaginary part lane 2k + 1. -/
def lane (v : BitVec 512) (j : Nat) : Int := sgn 16 (v.toNat >>> (16 * j))

/-- 512 bits from 32 int16 lanes, each taken modulo 2¹⁶. -/
def ofLanes (f : Nat → Int) : BitVec 512 :=
  BitVec.ofNat 512 ((List.range 32).foldr (fun j acc => acc * 65536 + unsgn 16 (f j)) 0)

/-- Part i of an accumulator: 2k the real and 2k + 1 the imaginary part of lane k. -/
def accPart (a : BitVec 1280) (i : Nat) : Int := sgn 40 (a.toNat >>> (40 * i))

/-- An accumulator from its 32 parts, each taken modulo 2⁴⁰. -/
def ofParts (f : Nat → Int) : BitVec 1280 :=
  BitVec.ofNat 1280 ((List.range 32).foldr (fun i acc => acc * 1099511627776 + unsgn 40 (f i)) 0)

/-- The bytes of a vector register in memory, and back (R159). -/
def vecBytes (v : BitVec 512) : List Byte := leBytes 64 v.toNat
def bytesVec (bs : List Byte) : BitVec 512 := BitVec.ofNat 512 (leNat bs)

/-- Complex products of two vectors as 32 parts. -/
def prods (f : Int → Int → Int → Int → Int × Int) (u w : BitVec 512) (i : Nat) : Int :=
  let k := i / 2 * 2
  let r := f (lane u k) (lane u (k + 1)) (lane w k) (lane w (k + 1))
  if i % 2 = 0 then r.1 else r.2

/-- Products of one complex coefficient with the elements of a 32-element window, elements 0 to 15 (R163). -/
def tapProds (cr ci : Int) (w : BitVec 512) (i : Nat) : Int :=
  let k := i / 2 * 2
  let r := cprod (lane w k) (lane w (k + 1)) cr ci
  if i % 2 = 0 then r.1 else r.2

/-! ## Addressing (R158) -/

/-- Reverse the low `w` bits. -/
def bitRev : (w v : Nat) → Nat
  | 0, _ => 0
  | w + 1, v => (v % 2) * 2 ^ w + bitRev w (v / 2)

/-- The pointer after an access (R158): mode 0 linear, 1 circular, 2 bit-reversed. -/
def ptrUpdate (mode : Nat) (p m l b : Word) : Word :=
  if mode = 0 || l = 0 then p + m
  else if mode = 1 then
    let r : Int := p.toNat + m.toInt
    let r' := if ((b.toNat + l.toNat : Nat) : Int) ≤ r then r - l.toNat else if r < b.toNat then r + l.toNat else r
    BitVec.ofInt 32 r'
  else
    let w := Nat.log2 l.toNat
    let o := unsgn w ((p.toNat : Int) - b.toNat)
    let o' := bitRev w ((bitRev w o + bitRev w (unsgn w m.toInt)) % 2 ^ w)
    BitVec.ofNat 32 (b.toNat + o')

/-- One use of a pointer: pointer index, mode, a fixed modifier or an M register. -/
structure PtrUse where
  p : Nat
  mode : Nat
  imm : Word
  mreg : Option Nat
  deriving DecidableEq, Repr

/-- The registers a pointer use reads: Pn, its M, and Ln and Bn in the modes that use them. -/
def PtrUse.regs (u : PtrUse) (b : Bank) : List Nat :=
  rP u.p :: (u.mreg.map rM).toList
    ++ (if u.mode = 0 then [] else if b.getG (rL u.p) = 0 then [rL u.p] else [rL u.p, rB u.p])

/-- The pointer after the use. -/
def PtrUse.next (u : PtrUse) (b : Bank) : Word :=
  let m := match u.mreg with
    | some n => b.getG (rM n)
    | none => u.imm
  ptrUpdate u.mode (b.getG (rP u.p)) m (b.getG (rL u.p)) (b.getG (rB u.p))

/-- A poisoned register forms an address (R165). -/
def PtrUse.bad (u : PtrUse) (b : Bank) : Bool := (u.regs b).any b.poisoned

/-! ## Parallel moves (Table 6-3) -/

/-- A parallel move. -/
structure Move where
  load : Bool
  v : Nat
  ptr : PtrUse
  deriving DecidableEq, Repr

/-- The fixed modifiers of MSEL 0 to 7. -/
def mselImm (m : Nat) : Int :=
  match m with
  | 0 => 0 | 1 => 64 | 2 => -64 | 3 => 128 | 4 => -128 | 5 => 4 | 6 => -4 | _ => 32

/-- Read a move field; none for KIND 0b00. -/
def moveOf (f : Nat) : Option Move :=
  let kind := bits f 16 15
  if kind = 0 then none
  else
    let ms := bits f 3 0
    some ⟨kind = 1, bits f 14 10,
      ⟨bits f 9 6, bits f 5 4, BitVec.ofInt 32 (if ms < 8 then mselImm ms else 0), if ms < 8 then none else some ms⟩⟩

/-- The moves of a format V or S word, X first. -/
def movesOf (w : Nat) : List Move := (moveOf (wX w)).toList ++ (moveOf (wY w)).toList

/-- The fixed modifiers of PMOD 0 to 6. -/
def pmodImm (m : Nat) : Int :=
  match m with
  | 0 => 0 | 1 => 4 | 2 => 8 | 3 => 64 | 4 => -4 | 5 => -8 | _ => -64

/-- The pointer use of a P-bus operand: circular when the matching L is non-zero (R180), so L is always read (R195). -/
def pbUse (pb : Nat) : PtrUse :=
  let n := 14 + bits pb 3 3
  let m := bits pb 2 0
  ⟨n, 1, BitVec.ofInt 32 (if m < 7 then pmodImm m else 0),
    if m < 7 then none else some n⟩

/-- The pointer use of a format M word (R186). -/
def memUse (w : Nat) : PtrUse :=
  ⟨wPtr w, wAm w, BitVec.ofNat 32 (wImm32 w), if wMsrc w then some (wMreg w) else none⟩

/-! ## Loops (R190 to R193) -/

/-- The offset after the word at `pc`, and the loops still active, innermost first (R190, R191). -/
def loopNext (pc : Nat) : List Loop → Nat × List Loop
  | [] => (pc + 1, [])
  | l :: rest =>
    if l.last = pc then
      (if 1 < l.left then (l.first, { l with left := l.left - 1 } :: rest) else loopNext pc rest)
    else (pc + 1, l :: rest)

/-- The loops that go on after a taken branch to `t`: one whose body `t` lies outside of ends, with every loop inside it. -/
def loopJump (t : Nat) : List Loop → List Loop
  | [] => []
  | l :: rest =>
    let r := loopJump t rest
    if r.length < rest.length then r else if l.first ≤ t && t ≤ l.last then l :: rest else rest

/-- The loop the repeat cache serves: the outermost with at most 64 words. -/
def servedLoop (ls : List Loop) : Option (Nat × Nat) :=
  (ls.reverse.find? fun l => l.last + 1 - l.first ≤ 64).map fun l => (l.first, l.last)

/-- The word at `pc` lies in the body of the loop that the cache serves, outside the trap handler. -/
def Bank.served (b : Bank) : Bool := b.trap.isNone && (servedLoop b.loops).any fun x => x.1 ≤ b.pc && b.pc ≤ x.2

/-- The word at `pc` issues from the repeat cache. -/
def Bank.cacheHit (b : Bank) : Bool := b.served && b.cache.contains b.pc

/-! ## Hazards (Table 6-11) -/

/-- How a word uses a register that it reads. -/
inductive RegUse where
  | any | narrow | branch | addr
  deriving DecidableEq, Repr

/-- Result latency L. -/
def latency : Producer → RegUse → Nat
  | .vmulh, _ => 2
  | .load3, _ => 3
  | .load4, _ => 4
  | .acc, .narrow => 3
  | .acc, _ => 1
  | .vget, _ => 2
  | .scalar, .branch => 2
  | .scalar, _ => 1
  | .gwrite, .addr => 2
  | .gwrite, _ => 1

/-- The largest register-dependency stall of a word (R195). -/
def Bank.stall (b : Bank) (reads : List (Nat × RegUse)) : Nat :=
  reads.foldl (fun m r => match b.board.find? r.1 with
    | some (i, p) => max m (i + latency p r.2 - b.cycles)
    | none => m) 0

/-- Note the registers that a word at cycle `i` wrote. -/
def Bank.wrote (b : Bank) (i : Nat) (ws : List (Nat × Option Producer)) : Bank :=
  { b with board := ws.foldl (fun m w => match w.2 with
    | some p => m.set w.1 (i, p)
    | none => m.del w.1) b.board }

end Sys2Proof.Machine
end

