-- ==== Sys2Proof/Machine/VdeWord.lean ====
section
/-! DEFINITION. How a VDE word runs (chapters 05, 06): fetch, the local map and its checks, engine CSRs, loads and stores
with poison, P-bus operands, parallel moves, pointer updates, costs, and the end of a word. -/

namespace Sys2Proof.Machine

/-! ## The word in hand -/

/-- A word about to take effect: engine, task, kernel, bank, the word, and whether it issues from the repeat cache. -/
structure WordCtx where
  e : Nat
  id : Nat
  task : Task
  k : Kernel
  alt : Bool
  w : Nat
  hit : Bool

/-- Change the running bank of an engine. -/
def State.modBank (s : State) (e : Nat) (f : Bank → Bank) : State := s.modVde e fun v => v.setBank (f v.bank)

/-- First byte of a kernel's data section, as a local address (R198). -/
def Kernel.dataBase (k : Kernel) : Nat := k.codeBase + 64 * ((k.codeWords + 7) / 8)

/-- The kernel stops at once and its task fails (R30, R149, R165, R172). -/
def State.stopKernel (s : State) (e : Nat) (st : Status) : State := (s.stopEdma e (s.vde e).inAlt).endWork e st

/-- The kernel that runs on a VDE, and its task; none while none runs or its work has ended. -/
def State.vdeRuns (s : State) (e : Nat) : Option (Nat × Task × Kernel) :=
  if engType e != some 1 || (s.eng e).ended.isSome || s.fenced e || s.stopped then none
  else match (s.eng e).task with
  | none => none
  | some id =>
    match s.task? id, s.kernels.find? (s.vde e).bank.kernel with
    | some t, some k => some (id, t, k)
    | _, _ => none

/-- Carry out a row of the instruction set on engine `e`: time goes on to the row's FRC; while a kernel runs there and its
yield timer has not run out, the word at the kernel's offset is fetched (R165: a poisoned one stops the kernel), and takes
effect when it is the row's word. -/
def State.vdeRow (s : State) (t e fmt opc : Nat) (act : WordCtx → State → State) : State :=
  let s := s.advance t
  match s.vdeRuns e with
  | none => s
  | some (id, task, k) =>
    let b := (s.vde e).bank
    let a := engBase e + k.codeBase + 8 * b.pc
    let who := s.taskWho id task (initEng e)
    if b.timerEnd ≤ s.time.frc then s
    else if !b.cacheHit && s.poisonIn a 8 then (s.logRead who a 8).stopKernel e .poisoned
    else
      let w := leNat (s.bytesAt a 8)
      if wFmt w = fmt && wOpc w = opc then
        act ⟨e, id, task, k, (s.vde e).inAlt, w, b.cacheHit⟩ (if b.cacheHit then s else s.logRead who a 8)
      else s

/-! ## A word in progress -/

/-- A word in progress: the state, the extra cycles of Table 5-2 so far, and the status that stops the kernel. -/
structure Prog where
  s : State
  extra : Nat
  stop : Option Status

def Prog.fail (a : Prog) (st : Status) : Prog := { a with stop := some st }

/-! ## The local map (Table 1-11, Table 5-3) -/

/-- Where a local access falls. -/
inductive LPlace where
  | xram (dev : Nat)
  | yram (dev : Nat)
  | block (dev : Nat)
  | region (dev : Nat)
  | csr (off : Nat)
  | none
  deriving DecidableEq, Repr

/-- Resolve a local access of `n` bytes by a kernel of one bank (R30, R151, R154). -/
def localPlace (e : Nat) (alt : Bool) (a n : Nat) : LPlace :=
  let lo := if alt then 0x1C000 else 0
  let hi := if alt then 0x20000 else 0x1C000
  if lo ≤ a && a + n ≤ hi then .xram (engBase e + a)
  else if 0x100000 + lo ≤ a && a + n ≤ 0x100000 + hi then .yram (engBase e + a)
  else if 0x1000000 ≤ a && a + n ≤ 0x1400000 then .block (blkMemBase (engRegion e) (engBlock e) + (a - 0x1000000))
  else if 0x2000000 ≤ a && a + n ≤ 0x2800000 then .region (regBase (engRegion e) + (a - 0x2000000))
  else if 0xF00000 ≤ a && a + n ≤ 0xF10000 then .csr (a - 0xF00000)
  else .none

/-- The check of a block or region memory access against the task's buffer references (R151). A task that a peer sent may
not name the executing device's block or region memory (R389). -/
def refOk (t : Task) (wr : Bool) (a n : Nat) : Bool :=
  if wr then t.outBuf.covers a n else t.inBuf.covers a n || t.outBuf.covers a n || t.param.covers a n

/-! ## Engine CSRs (R173, Tables 5-5 to 5-8) -/

/-- A revoke, skip or pre-emption waits for a yield. -/
def State.yieldPending (s : State) (e id : Nat) : Bool :=
  (s.task? id).any fun t => t.leave != .no || (s.preemptBy e t).isSome

/-- A CSR word of an engine, the bank's own for a banked one; none for an unmapped offset or a channel outside `chans`. -/
def State.engCsr (s : State) (e : Nat) (chans : List Nat) (off : Nat) : Option Nat :=
  let b := (s.vde e).bank
  if off % 4 != 0 then none
  else if off = 0 then some (e + 512 * s.deviceId)
  else if off = 4 then
    some (b2n b.sat + 2 * b2n b.aov + 4 * b2n b.poisonStored + 8 * b2n (s.vde e).inAlt
      + 16 * b2n ((s.eng e).task.any fun id => s.yieldPending e id) + 32 * b2n b.gateFailed)
  else if off < 0x24 || (0x28 ≤ off && off < 0x40) then some (b.regs.get 0 off).toNat
  else if off = 0x40 then some (min 65535 (b.timerEnd - s.time.frc))
  else if off = 0x44 then some (b.cycles % 2 ^ 32)
  else if off < 0x100 || 0x200 ≤ off then none
  else
    let c := (off - 0x100) / 64
    let o := (off - 0x100) % 64
    let ch := (s.vde e).chans.get DmaChan.reset c
    if !chans.contains c then none
    else if o < 0x30 then some (fld ch.active o 4)
    else if o = 0x30 then some (2 * b2n ch.goLost)
    else if o = 0x34 then some (b2n ch.busy + 2 * b2n ch.done + 65536 * ch.status)
    else none

/-- Read a CSR word from kernel code, in a word that issues at cycle `i`: the channels of its bank only (R170), CYCLES as it
stands at the issue (R173). -/
def csrRead (s : State) (x : WordCtx) (i off : Nat) : Option Nat :=
  if off = 0x44 then some (i % 2 ^ 32) else s.engCsr x.e (bankChans x.alt) off

/-- Write a CSR word whose offset is mapped. -/
def State.engCsrWrite (s : State) (e off v : Nat) : State :=
  if off = 4 then s.modBank e fun b => { b with sat := b.sat && !bit v 0, aov := b.aov && !bit v 1 }
  else if off < 0x100 then s
  else
    let c := (off - 0x100) / 64
    let o := (off - 0x100) % 64
    let r := DmaRef.edma e c
    if o < 0x30 then
      s.modChan r fun ch => if ch.busy then ch else { ch with active := splice ch.active o (leBytes 4 v) }
    else if o = 0x30 then
      let s := s.modChan r fun ch => { ch with goLost := ch.goLost && !bit v 1 }
      if bit v 0 then s.edmaGo e c else s
    else s.modChan r fun ch => { ch with done := ch.done && !bit v 1 }

/-- The CSR words of an access; none when any is unmapped. -/
def csrWords (s : State) (x : WordCtx) (i off n : Nat) : Option (List Nat) :=
  if off % 4 != 0 || n % 4 != 0 then none
  else ((List.range (n / 4)).map fun k => csrRead s x i (off + 4 * k)).foldr (fun o acc => match o, acc with
    | some v, some l => some (v :: l)
    | _, _ => none) (some [])

/-- Write consecutive CSR words. -/
def csrWriteAll (s : State) (x : WordCtx) : (off : Nat) → List (List Byte) → State
  | _, [] => s
  | off, bs :: rest => csrWriteAll (s.engCsrWrite x.e off (leNat bs)) x (off + 4) rest

/-- Four-byte pieces. -/
def words4 (bs : List Byte) : List (List Byte) := (List.range (bs.length / 4)).map fun i => (bs.drop (4 * i)).take 4

/-! ## Loads and stores (R148 to R155, R164, R165) -/

/-- An access of `n` bytes crosses a 64-byte line. -/
def crosses (a n : Nat) : Bool := a / 64 != (a + n - 1) / 64

/-- Cycles a load from block or region memory stalls: a free value within the class-0 bound (Table 5-2). -/
def State.meshStall (s : State) (t : Task) (bound : Nat) : Nat × State :=
  let (v, s) := s.draw
  (if t.cls = 0 then v % (bound + 1) else v, s)

/-- A load: its bytes, whether any word of it was poison, and the latency class of its destination. -/
structure Loaded where
  bytes : List Byte
  poison : Bool
  lat : Option Producer

/-- Load from a device address of local, block or region memory. -/
def loadDev (x : WordCtx) (a : Prog) (dev n : Nat) : Prog × List Byte × Bool :=
  let who := a.s.taskWho x.id x.task (initEng x.e)
  match a.s.access who dev n false with
  | .success =>
    let t := (a.s.task? x.id).getD x.task
    ({ a with s := a.s.logRead who dev n }, a.s.taskBytes t dev n, a.s.taskPoison t dev n)
  | st => ({ a with s := if a.s.retiredIn dev n then a.s.logRetired who dev else a.s }.fail st, [], false)

/-- Load through the X or Y bus from a local address. `align` is 2 for a vector and 4 for a scalar access (R149). -/
def loadLocal (x : WordCtx) (i addr n align : Nat) (sameRam : Bool) (a : Prog) : Prog × Loaded :=
  let none_ : Loaded := ⟨zeros n, false, none⟩
  if addr % align != 0 then (a.fail .busError, none_) else
  match localPlace x.e x.alt addr n with
  | .none => (a.fail .busError, none_)
  | .csr off =>
    match csrWords a.s x i off n with
    | none => (a.fail .busError, none_)
    | some ws => ({ a with extra := a.extra + 1 }, ⟨ws.flatMap (leBytes 4), false, some .load3⟩)
  | .xram dev | .yram dev =>
    let (a, bs, p) := loadDev x a dev n
    let c := crosses addr n
    ({ a with extra := a.extra + b2n c }, ⟨bs, p, some (if c || sameRam then .load4 else .load3)⟩)
  | .block dev =>
    if !refOk x.task false dev n then (a.fail .notPermitted, none_)
    else
      let (a, bs, p) := loadDev x a dev n
      let (k, s) := (a.s.clockFor dev).meshStall x.task 64
      ({ a with s := s, extra := a.extra + k + b2n (crosses addr n) }, ⟨bs, p, none⟩)
  | .region dev =>
    if !refOk x.task false dev n then (a.fail .notPermitted, none_)
    else
      let (a, bs, p) := loadDev x a dev n
      let (k, s) := (a.s.clockFor dev).meshStall x.task 160
      ({ a with s := s, extra := a.extra + k + b2n (crosses addr n) }, ⟨bs, p, none⟩)

/-- Store to a device address; a poisoned register writes poison (R165). -/
def storeDev (x : WordCtx) (dev : Nat) (bs : List Byte) (p : Bool) (a : Prog) : Prog :=
  match a.s.taskWrite x.id (initEng x.e) dev bs p with
  | (s, .success) => { a with s := s }
  | (s, st) => { a with s := s }.fail st

/-- Store through the X or Y bus to a local address. POISON_STORED is set when the register is poisoned (R165).
Its costs are those of Table 5-2; the cycles for which the store buffer is full are a free value. -/
def storeLocal (x : WordCtx) (addr align : Nat) (bs : List Byte) (p : Bool) (a : Prog) : Prog :=
  let n := bs.length
  let cost := b2n (crosses addr n) + 2 * b2n (addr % 8 != 0 || n % 8 != 0)
  let flagged (a : Prog) : Prog :=
    if p then { a with s := a.s.modBank x.e fun b => { b with poisonStored := true } } else a
  if addr % align != 0 then a.fail .busError else
  match localPlace x.e x.alt addr n with
  | .none => a.fail .busError
  | .csr off =>
    match csrWords a.s x 0 off n with
    | none => a.fail .busError
    | some _ => if p then flagged a else { a with s := csrWriteAll a.s x off (words4 bs) }
  | .xram dev | .yram dev =>
    storeDev x dev bs p (flagged { a with extra := a.extra + cost })
  | .block dev | .region dev =>
    if !refOk x.task true dev n then a.fail .notPermitted
    else
      let (full, s) := a.s.draw
      storeDev x dev bs p (flagged { a with s := s, extra := a.extra + full + cost })

/-! ## P-bus operands (R180, R181) -/

/-- Read `n` bytes of P-RAM over the P bus: aligned to its width, inside the running kernel's image; +1 cycle when the word
was fetched from P-RAM (R147). -/
def loadP (x : WordCtx) (addr n : Nat) (a : Prog) : Prog × Nat × Bool :=
  if addr % n != 0 || !within addr n x.k.codeBase (x.k.dataBase + x.k.dataBytes - x.k.codeBase) then
    (a.fail .busError, 0, false)
  else
    let (a, bs, p) := loadDev x a (engBase x.e + addr) n
    ({ a with extra := a.extra + b2n (!x.hit) }, leNat bs, p)

/-! ## The end of a word -/

/-- A word has issued at cycle `i` and costs `c` cycles; the kernel goes on at `pc`, with the loops given. The cache takes
in the word when it is served, and is emptied when the loop it serves ends (R193); past the last code word the task fails
(R188). -/
def State.goOn (s : State) (x : WordCtx) (i c : Nat) (pc : Nat) (loops : List Loop) : State :=
  let s := s.modBank x.e fun b =>
    let cache := if b.served && !b.cache.contains b.pc then b.pc :: b.cache else b.cache
    let keep := servedLoop b.loops == servedLoop loops
    { b with cycles := i + c, cache := if keep then cache else [], pc := pc, loops := loops }
  if x.k.codeWords ≤ pc then s.stopKernel x.e .busError else s

/-- Where a word without a branch goes on (R190); loops are left as they are in the trap handler (R194). -/
def Bank.fall (b : Bank) : Nat × List Loop := if b.trap.isSome then (b.pc + 1, b.loops) else loopNext b.pc b.loops

/-- Finish a word: the kernel stops, or goes on in sequence. -/
def Prog.finish (a : Prog) (x : WordCtx) (i : Nat) : State :=
  match a.stop with
  | some st => a.s.stopKernel x.e st
  | none =>
    let f := (a.s.vde x.e).bank.fall
    a.s.goOn x i (1 + a.extra) f.1 f.2

/-- Write a pointer after its use (R178 step 5): unpoisoned, since no register that formed it was poisoned. -/
def putPtr (x : WordCtx) (b0 : Bank) (u : PtrUse) (s : State) : State :=
  s.modBank x.e fun b => { b.setG (rP u.p) (u.next b0) false with board := b.board.del (rP u.p) }

/-! ## Format V and S words (R178) -/

/-- What one operation does: the registers it reads and writes, the width of its P-bus operand (0: none), and its effect on
the bank, given the P-bus operand with its poison. -/
structure Uop where
  reads : List (Nat × RegUse)
  writes : List (Nat × Option Producer)
  pwidth : Nat
  eff : Nat × Bool → Bank → Bank

/-- The registers that the moves of a word read. -/
def Move.reads (m : Move) (b : Bank) : List (Nat × RegUse) :=
  (if m.load then [] else [(rV m.v, .any)]) ++ (m.ptr.regs b).map fun r => (r, .addr)

/-- Both moves of a word reach the same RAM (Table 5-2). -/
def sameRam (x : WordCtx) (b : Bank) (ms : List Move) : Bool :=
  match ms.map fun m => localPlace x.e x.alt (b.getG (rP m.ptr.p)).toNat 64 with
  | [.xram _, .xram _] => true
  | [.yram _, .yram _] => true
  | _ => false

/-- Make one move; stores take the register as it was read in step 1 (`b0`). -/
def doMove (x : WordCtx) (i : Nat) (b0 : Bank) (same : Bool) (m : Move) (a : Prog) : Prog :=
  if a.stop.isSome then a
  else if m.ptr.bad b0 then a.fail .poisoned
  else
    let addr := (b0.getG (rP m.ptr.p)).toNat
    if m.load then
      let (a, l) := loadLocal x i addr 64 2 same a
      if a.stop.isSome then a
      else { a with s := a.s.modBank x.e fun b => (b.setV m.v (bytesVec l.bytes) l.poison).wrote i [(rV m.v, l.lat)] }
    else storeLocal x addr 2 (vecBytes (b0.getV m.v)) (b0.poisoned (rV m.v)) a

/-- The P-bus operand of a word, read in step 1. -/
def readP (x : WordCtx) (b0 : Bank) (u : Uop) (a : Prog) : Prog × Nat × Bool :=
  if u.pwidth = 0 then (a, 0, false)
  else
    let pu := pbUse (wPb x.w)
    if pu.bad b0 then (a.fail .poisoned, 0, false) else loadP x (b0.getG (rP pu.p)).toNat u.pwidth a

/-- Run a format V or S word in the order of R178. -/
def runVS (u : Uop) (x : WordCtx) (s : State) : State :=
  let b0 := (s.vde x.e).bank
  let ms := movesOf x.w
  let pu := pbUse (wPb x.w)
  let preads := if u.pwidth = 0 then [] else (pu.regs b0).map fun r => (r, RegUse.addr)
  let i := b0.cycles + b0.stall (u.reads ++ preads ++ ms.flatMap fun m => m.reads b0)
  let same := sameRam x b0 ms
  let (a, p) := readP x b0 u ⟨s, b2n same, none⟩
  if a.stop.isSome then a.finish x i
  else
    let a := { a with s := a.s.modBank x.e fun b => (u.eff p b).wrote i u.writes }
    let a := ms.foldl (fun a m => doMove x i b0 same m a) a
    if a.stop.isSome then a.finish x i
    else
      let uses := ms.map Move.ptr ++ (if u.pwidth = 0 then [] else [pu])
      { a with s := uses.foldl (fun s u => putPtr x b0 u s) a.s }.finish x i

/-! ## Format M words (R186) -/

/-- Run a format M word that accesses memory: `reads` are the registers stored, `act` makes the access at an address. -/
def runM (reads : List (Nat × RegUse)) (act : WordCtx → (i addr : Nat) → Bank → Prog → Prog) (x : WordCtx) (s : State) : State :=
  let b0 := (s.vde x.e).bank
  let u := memUse x.w
  let i := b0.cycles + b0.stall (reads ++ (u.regs b0).map fun r => (r, RegUse.addr))
  let a : Prog := ⟨s, 0, none⟩
  if u.bad b0 then (a.fail .poisoned).finish x i
  else
    let a := act x i (b0.getG (rP u.p)).toNat b0 a
    if a.stop.isSome then a.finish x i else { a with s := putPtr x b0 u a.s }.finish x i

/-! ## Format C words (R187) -/

/-- Issue a control word: `reads` are checked for poison (R165) and for stalls. -/
def runC (reads : List Nat) (act : WordCtx → (i : Nat) → Bank → State → State) (x : WordCtx) (s : State) : State :=
  let b0 := (s.vde x.e).bank
  let i := b0.cycles + b0.stall (reads.map fun r => (r, RegUse.branch))
  if reads.any b0.poisoned then s.stopKernel x.e .poisoned else act x i b0 s

/-- A taken branch to `t` (R192, Table 6-12). -/
def jumpTo (x : WordCtx) (i t : Nat) (b0 : Bank) (s : State) : State :=
  s.goOn x i 3 t (if b0.trap.isSome then b0.loops else loopJump t b0.loops)

/-- A word without a branch that costs `c` cycles. -/
def fallOn (x : WordCtx) (i c : Nat) (b0 : Bank) (s : State) : State := s.goOn x i c b0.fall.1 b0.fall.2

/-- Branch when a condition on Sa holds. -/
def branchIf (p : Word → Bool) (x : WordCtx) (s : State) : State :=
  runC [wSa x.w] (fun x i b0 s => if p (b0.getG (wSa x.w)) then jumpTo x i (wTgt x.w) b0 s else fallOn x i 1 b0 s) x s

end Sys2Proof.Machine
end

