-- ==== Sys2Proof/Machine/Dma.lean ====
section
/-! DEFINITION. DMA rows (chapter 15): GO, ARM, shadow writes, the end of a transfer, and DMA_SUBMIT. -/

namespace Sys2Proof.Machine

/-- EDMA_GO: kernel code sets GO of a channel of its own bank (R170, R171). -/
def doEdmaGo (t e c : Nat) (s : State) : State :=
  let s := s.advance t
  if s.stopped then s else
  match s.vdeRuns e with
  | none => s
  | some _ => if (bankChans (s.vde e).inAlt).contains c then s.edmaGo e c else s

def execEdmaGo (t e c : Nat) (s : State) : Host.Outcome State Fault Refusal := .next (doEdmaGo t e c s)

/-- A BDMA channel whose registers can be reached: a populated block of a region that does not sleep (Table 15-1, R25). -/
def State.bdmaThere (s : State) (blk c : Nat) : Bool :=
  blk / 4 < 16 && blk % 4 < regBlocks (blk / 4) && c < 32 && !s.asleep (blk / 4)

/-- GO of a BDMA channel (R441). -/
def State.bdmaStart (s : State) (blk c : Nat) : State :=
  let r := DmaRef.bdma blk c
  let ch := s.chan r
  if ch.busy then s.modChan r fun ch => { ch with goLost := true }
  else ((s.bdmaShare blk c).modChan r fun ch => { ch with handed := false }).chanStart r ch.shadow

/-- BDMA_GO: on an idle channel the shadow set becomes active and the transfer starts; while BUSY, GO_LOST (R441). -/
def doBdmaGo (t blk c : Nat) (s : State) : State :=
  let s := s.advance t
  if s.stopped then s else
  if s.bdmaThere blk c then s.bdmaStart blk c else s

def execBdmaGo (t blk c : Nat) (s : State) : Host.Outcome State Fault Refusal := .next (doBdmaGo t blk c s)

/-- BDMA_ARM: arms hand-over on a busy channel; on an idle one it acts as GO and leaves ARM at 0 (R441). A set of ARM that
lands in the completion cycle counts as set after it (R442): it is a row after DMA_TRANSFER_DONE. -/
def doBdmaArm (t blk c : Nat) (s : State) : State :=
  let s := s.advance t
  if s.stopped then s else
  let r := DmaRef.bdma blk c
  if !s.bdmaThere blk c then s
  else if (s.chan r).busy then s.modChan r fun ch => { ch with arm := true }
  else s.bdmaStart blk c

def execBdmaArm (t blk c : Nat) (s : State) : Host.Outcome State Fault Refusal := .next (doBdmaArm t blk c s)

/-- BDMA_SHADOW_WRITE: a write to the shadow set, in the channel's completion cycle or not (R442): one that is refused is answered
SHADOW_COLLIDE. -/
def doBdmaShadowWrite (t blk c off : Nat) (bs : List Byte) (atCompletion : Bool) (s : State) : State :=
  let s := s.advance t
  if s.stopped then s else
  let r := DmaRef.bdma blk c
  if !s.bdmaThere blk c || 48 < off + bs.length then s
  else if (s.chan r).arm && (s.chan r).busy && atCompletion then
    (s.modChan r fun ch => { ch with collide := true }).emit (.shadowRefused blk c .shadowCollide)
  else s.modChan r fun ch => { ch with arm := false, shadow := splice ch.shadow off bs }

def execBdmaShadowWrite (t blk c off : Nat) (bs : List Byte) (atCompletion : Bool) (s : State) :
    Host.Outcome State Fault Refusal := .next (doBdmaShadowWrite t blk c off bs atCompletion s)

/-- A write error that arrives after the completion (R434, R450). -/
def State.lateError (s : State) (r : DmaRef) (owner : Nat) (init : Nat) (e : Status × Nat) : State :=
  match r with
  | .edma en c =>
    s.modVde en fun v =>
      if c = 3 then { v with alt := { v.alt with lateErr := some (v.alt.lateErr.getD e.1) } }
      else { v with main := { v.main with lateErr := some (v.main.lateErr.getD e.1) } }
  | .bdma blk _ =>
    let s := s.logMelvi (blk / 4) init e.2
    s.post (if owner < 8 then owner else 0) 0x0B01 2 (init + 65536 * e.1.code)

/-- The task of a bank of a VDE ends with a status: the one that runs stops, a suspended one leaves as failed (R130). -/
def State.endBank (s : State) (e : Nat) (alt : Bool) (st : Status) : State :=
  if (s.vde e).inAlt = alt then s.stopKernel e st
  else match (s.eng e).suspended with
    | some id =>
      match s.task? id with
      | some t => if (s.eng e).dropSusp then s else (s.dropSuspended e).failTask id t st
      | none => s
    | none => s

/-- DMA_TRANSFER_DONE: the transfer of a busy channel runs to its end and completes (R428, R434, R438, R440, R441, R444). -/
def doDmaTransferDone (t : Nat) (r : DmaRef) (env : DmaEnv) (s : State) : State :=
  let s := s.advance t
  if s.stopped then s else
  let ch := s.chan r
  if !ch.busy then s
  else
    let s := s.othersShare r
    let x := s.runXfer r env
    let init := (s.chanWho r).init
    let isB := match r with
      | .bdma _ _ => true
      | .edma _ _ => false
    let fa := match x.fail with
      | some (_, a, _) => if isB then a else 0
      | none => 0
    let s := x.s.modChan r fun c => { c with
      bytesDone := x.bytes, poisonSeen := isB && x.poison, faultAddr := if isB then fa else c.faultAddr }
    match x.fail with
    | none =>
      let s := s.chanDone r .success
      match x.late with
      | some e => s.lateError r ch.owner init e
      | none => s
    | some (st, a, rd) =>
      let s := s.chanDone r st
      match r with
      | .bdma blk c => if rd then s.stopSiblings blk c st a else s
      | .edma e c => if st = .noResource then s.endBank e (c == 3) st else s

def execDmaTransferDone (t : Nat) (r : DmaRef) (env : DmaEnv) (s : State) : Host.Outcome State Fault Refusal :=
  .next (doDmaTransferDone t r env s)

/-! ## DMA_SUBMIT (R447 to R449) -/

/-- A byte range is one that a function may name in DMA_SUBMIT, MEM_READ and MEM_WRITE (R448 step 1, R472): its HBM extent,
its host windows with the direction, and for function 0 region memories; for its reads also the Carillon and dump areas. -/
def State.mayName (s : State) (fn : Nat) (lo len : Nat) (wr areas : Bool) : Bool :=
  let sp := spanAt lo
  lo + len ≤ sp.hi &&
  match sp.place with
  | .hbm => s.ownsHbm fn lo len || (areas && fn = 0 && hbmCarillon ≤ lo)
      || (areas && fn = 0 && !(s.heldByOther fun t => overlaps lo len t.hbmBase t.hbmSize))
  | .regMem _ => fn = 0
  | .host => s.hostOk fn (lo - 0x800000000000) len wr
  | _ => false

/-- An extent of a descriptor is permitted. -/
def State.mayExtent (s : State) (fn : Nat) (x : Int × Int) (wr : Bool) : Bool :=
  0 ≤ x.1 && x.2 ≤ 281474976710656 && s.mayName fn x.1.toNat (x.2 - x.1).toNat wr false

/-- Reserved fields, unlisted encodings and identifiers of DMA_SUBMIT (R10, R18, Tables 15-2 and 15-5). -/
def layDmaSubmit : Layout := ⟨0x0B01, 56, true, fun p =>
  [.rsv 4 4, .rng 3 1 0 1, .bits 14 2 0xFFF0, .rsv 22 2, .rsv 30 2, .rsv 48 8,
   .cond (fld p 0 1 < 16 && fld p 1 1 < regBlocks (fld p 0 1)), .cond (fld p 2 1 < 16 || fld p 2 1 == 255)], fun _ => []⟩

/-- The channel a DMA_SUBMIT uses. -/
def State.pickChan (s : State) (blk c : Nat) : Option Nat :=
  if c = 255 then (List.range 16).find? fun k => !(s.chan (.bdma blk k)).busy else some c

def bodyDmaSubmit (i : CmdIn) (s : State) : Ans :=
  let p := i.p
  let reg := fld p 0 1
  let b := fld p 1 1
  let blk := reg * 4 + b
  let c := fld p 2 1
  let mode := fld p 3 1
  let d := (p.drop 8).take 48
  let run := s.chan (.bdma blk c)
  if i.fn != 0 && dClass d = 0 then refuse s .notPermitted
  else if !(s.mayExtent i.fn (dSrcExt d) false && s.mayExtent i.fn (dDstExt d) true) then refuse s .notPermitted
  else if mode = 1 && c < 16 && run.busy && run.owner < 8 && run.owner != i.fn then refuse s .notPermitted
  else if 16 ≤ reg || regBlocks reg ≤ b || (15 < c && c != 255) || (c = 255 && mode = 1) || 1 < mode || dBad d false then
    refuse s .badParam
  else match dCheck d false with
  | some st => refuse s st
  | none =>
    if s.asleep reg then refuse s .domainAsleep
    else match s.pickChan blk c with
    | none => refuse s .noResource
    | some k =>
      let r := DmaRef.bdma blk k
      let ch := s.chan r
      if (mode = 0 && ch.busy) || (mode = 1 && ch.arm) then refuse s .noResource
      else
        let s := s.clockUp reg
        if ch.busy then
          (s.modChan r fun x => { x with shadow := d, arm := true, cmdNext := some i.id, ownerNext := i.fn }, .later (.dma blk k))
        else
          let s := (s.bdmaShare blk k).modChan r fun x => { x with shadow := d, cmd := some i.id, owner := i.fn, handed := false }
          (s.chanStart r d, .later (.dma blk k))

def execDmaSubmit (c : CmdRef) (s : State) : Host.Outcome State Fault Refusal :=
  .next (runCmd layDmaSubmit c bodyDmaSubmit s)

end Sys2Proof.Machine
end

