-- ==== Sys2Proof/Machine/CsrOps.lean ====
section
/-! DEFINITION. The registers that the mesh and the debug aperture reach (R25, R26): engine CSRs of VDEs, BDMA registers, ADC
registers. -/

namespace Sys2Proof.Machine

/-- Change the Finderscope; change its ADC. -/
def State.modFsc (s : State) (f : FscSt → FscSt) : State := { s with fsc := f s.fsc }
def State.modAdc (s : State) (f : AdcSt → AdcSt) : State := s.modFsc fun x => { x with adc := f x.adc }

/-- ADC_SELFCAL starts, unless one runs (R520). -/
def State.startCal (s : State) : State := s.modAdc fun a => { a with calibrating := true, calAt := if a.calibrating then a.calAt else s.time.frc }

/-- ADC_RESULT of an entry as a word, with one of its NEW flags (Table 18-6). -/
def AdcEntry.word (e : AdcEntry) (new : Bool) : Nat := e.value + 4096 * b2n new + 8192 * b2n e.invalid + 65536 * e.seq

/-- A BDMA register (Table 15-3). -/
def DmaChan.bdmaReg (ch : DmaChan) (o : Nat) : Option Nat :=
  if o < 0x30 then some (fld ch.active o 4)
  else if 0x40 ≤ o && o < 0x70 then some (fld ch.shadow (o - 0x40) 4)
  else if o = 0x80 then some (2 * b2n ch.arm + 4 * b2n ch.goLost + 8 * b2n ch.collide)
  else if o = 0x84 then
    some (b2n ch.busy + 2 * b2n ch.done + 4 * b2n ch.descending + 8 * b2n ch.poisonSeen + 65536 * ch.status)
  else if o = 0x88 then some (ch.faultAddr % 2 ^ 32)
  else if o = 0x8C then some (ch.faultAddr / 2 ^ 32)
  else if o = 0x90 then some (ch.bytesDone % 2 ^ 32)
  else if o = 0x94 then some (ch.bytesDone / 2 ^ 32 % 2 ^ 32)
  else if o = 0x98 then some ch.owner
  else none

/-- The channel and register offset of a block CSR offset (R441). -/
def bdmaAt (off : Nat) : Option (Nat × Nat) :=
  if 0x100000 ≤ off && off < 0x102000 then some ((off - 0x100000) / 256, off % 256) else none

/-- A CSR word at a device address, as far as the manual gives it: engine CSRs of VDEs, BDMA registers, ADC registers. -/
def State.csrAt (s : State) (a : Nat) : Option Nat :=
  match (spanAt a).place with
  | .engCsr e => if engType e = some 1 then s.engCsr e [0, 1, 2, 3] (a - (spanAt a).lo) else none
  | .blkCsr r b => (bdmaAt (a - (spanAt a).lo)).bind fun x => (s.chan (.bdma (r * 4 + b) x.1)).bdmaReg x.2
  | .aon =>
    let o := a - fscBase
    if a < fscBase then none
    else if o = 0x80 then some (unsgn 12 s.fsc.adc.offset)
    else if o = 0x84 then some s.fsc.adc.gain
    else if 0x100 ≤ o && o < 0x180 && o % 4 == 0 then
      let x := s.fsc.adc.entries.get AdcEntry.reset ((o - 0x100) / 4)
      some (x.word x.new)
    else none
  | _ => none

/-- A read of a CSR word: its value, a free one where the manual gives none; a read of ADC_RESULT clears NEW (R521). -/
def State.csrFetch (s : State) (a : Nat) : Nat × State :=
  match s.csrAt a with
  | none => let (v, s) := s.draw; (v % 2 ^ 32, s)
  | some v =>
    if fscBase + 0x100 ≤ a && a < fscBase + 0x180 then
      (v, s.modAdc fun d => { d with entries := d.entries.upd ((a - fscBase - 0x100) / 4) fun x => { x with new := false } })
    else (v, s)

/-- A write of a BDMA register: the shadow set under R442, the controls, DONE, OWNER. -/
def State.bdmaRegWrite (s : State) (blk c o v : Nat) : State :=
  let r := DmaRef.bdma blk c
  if 0x40 ≤ o && o < 0x70 then s.modChan r fun ch => { ch with arm := false, shadow := splice ch.shadow (o - 0x40) (leBytes 4 v) }
  else if o = 0x80 then
    let s := s.modChan r fun ch => { ch with goLost := ch.goLost && !bit v 2, collide := ch.collide && !bit v 3 }
    let s := if bit v 0 then s.bdmaStart blk c else s
    if !bit v 1 then s else if (s.chan r).busy then s.modChan r fun ch => { ch with arm := true } else s.bdmaStart blk c
  else if o = 0x84 then s.modChan r fun ch => { ch with done := ch.done && !bit v 1 }
  else if o = 0x98 && (v % 256 < 8 || v % 256 == 255) then s.modChan r fun ch => { ch with owner := v % 256 }
  else s

/-- A write of a CSR word, as far as the manual gives the register. -/
def State.csrStore (s : State) (a v : Nat) : State :=
  if (s.csrAt a).isNone then s
  else match (spanAt a).place with
    | .engCsr e => s.engCsrWrite e (a - (spanAt a).lo) v
    | .blkCsr r b =>
      match bdmaAt (a - (spanAt a).lo) with
      | some (c, o) => s.bdmaRegWrite (r * 4 + b) c o v
      | none => s
    | _ => s

/-- A place of registers, not of memory. -/
def Place.isCsr : Place → Bool
  | .engCsr _ | .blkCsr .. | .regCsr _ | .aon => true
  | _ => false

/-- A mesh read of registers (R25): the words that a byte range touches, rising, each read once. -/
def State.csrWordsRead (s : State) : (k a : Nat) → List Byte × State
  | 0, _ => ([], s)
  | k + 1, a =>
    let (v, s) := s.csrFetch a
    let (rest, s) := s.csrWordsRead k (a + 4)
    (leBytes 4 v ++ rest, s)
def State.csrReadBytes (s : State) (a n : Nat) : List Byte × State :=
  let (bs, s) := s.csrWordsRead ((a % 4 + n + 3) / 4) (a - a % 4)
  ((bs.drop (a % 4)).take n, s)

/-- A mesh write of registers (R25), word by word, rising. A word that it covers only in part, or that a poisoned unit touches, is not
written (log entry 19). `clean` tells of each byte of the write whether its unit is clean. -/
def State.csrWriteBytes (s : State) (clean : Nat → Bool) (a : Nat) (bs : List Byte) : State :=
  let first := (4 - a % 4) % 4
  (List.range ((bs.length - first) / 4)).foldl (fun s k =>
    let i := first + 4 * k
    if clean i && clean (i + 3) then s.csrStore (a + i) (leNat ((bs.drop i).take 4)) else s) s

end Sys2Proof.Machine
end

