-- ==== Sys2Proof/Machine/LineOps.lean ====
section
/-! DEFINITION. Shared operations on L0's lines: lanes, their rates and frame sizes, defects' raw conditions, ports and
streams that use a lane. -/

namespace Sys2Proof.Machine

/-- Change the line state. -/
def State.modLine (s : State) (f : LineSt → LineSt) : State := { s with line := f s.line }
/-- Note when stages, holds and losses of lock began and ended. -/
def Lane.stamp (l old : Lane) (frc : Nat) : Lane :=
  let fresh (k : Nat) : Bool := l.sub.getD k 0 != old.sub.getD k 0
  { l with
    since := if l.stage = old.stage then l.since else frc
    subAt := (List.range 16).map fun k => if fresh k then frc else l.subAt.getD k 0
    holdAt := if l.holding && !old.holding then frc else l.holdAt
    lolOff := (List.range 17).map fun k => if old.lol.testBit k && !l.lol.testBit k then frc else l.lolOff.getD k 0
    goodAt := (List.range 16).map fun k =>
      if (l.stage == 3 && old.stage != 3) || (l.sub.getD k 0 == 3 && fresh k) then frc else l.goodAt.getD k 0 }

/-- A lane or peer port. -/
def State.lane (s : State) (n : Nat) : Lane := s.line.lanes.get Lane.reset n
def State.modLane (s : State) (n : Nat) (f : Lane → Lane) : State :=
  s.modLine fun l => { l with lanes := l.lanes.mod Lane.reset n fun x => (f x).stamp x s.time.frc }
/-- The TLF side of a lane. -/
def State.tlf (s : State) (n : Nat) : TlfLane := s.line.tlf.get TlfLane.reset n
def State.modTlf (s : State) (n : Nat) (f : TlfLane → TlfLane) : State :=
  s.modLine fun l => { l with tlf := l.tlf.mod TlfLane.reset n f }
def State.modTrail (s : State) (n : Nat) (f : Trail → Trail) : State :=
  s.modLine fun l => { l with trails := l.trails.upd n f }
def State.modPort (s : State) (n : Nat) (f : EthPort → EthPort) : State :=
  s.modLine fun l => { l with ports := l.ports.upd n f }

/-- A lane id names a long-reach lane or a peer port (R280). -/
def laneOk (n : Nat) : Bool := n < 128 || (256 ≤ n && n < 264)
def isPeer (n : Nat) : Bool := 256 ≤ n

/-- Post an event about a lane: to the function that holds it; about a peer port, to every subscribed function. -/
def State.postLane (s : State) (n code sev data : Nat) : State :=
  if isPeer n then s.postAll code sev data else s.post (s.laneOwner n) code sev data

/-- TLF frame sizes by rate: blocks, overhead blocks, time slots (Table 11-1). -/
def tlfBlocks (rate : Nat) : Nat := if rate = 1 then 4608 else if rate = 2 then 46080 else 92160
def tlfOver (rate : Nat) : Nat := if rate = 3 then 128 else 64
def tlfSlots (rate : Nat) : Nat := if rate = 1 then 71 else if rate = 2 then 719 else 1438
/-- A lane's own. -/
def State.slotsOf (s : State) (n : Nat) : Nat := tlfSlots (s.lane n).cfg.rate
/-- A lane in MODE 1. -/
def State.isTlf (s : State) (n : Nat) : Bool := (s.lane n).cfg.mode == 1

/-- A peer port is enabled by PEER_PORT_CONFIG. -/
def State.portEnabled (s : State) (p : Nat) : Bool := s.clu.ports.has p

/-- Lanes of a port type (Table 12-1), and their number. -/
def portLanes (ptype : Nat) : Nat := if ptype = 4 then 2 else if ptype = 5 then 4 else 1
def EthPort.lanes (p : EthPort) : List Nat := (List.range (portLanes p.ptype)).map (p.lane + ·)
/-- The port that a lane belongs to. -/
def State.lanePort (s : State) (n : Nat) : Option (Nat × EthPort) := s.line.ports.first fun _ p => p.lanes.contains n

/-- A protection group that a lane belongs to. -/
def State.laneGroup (s : State) (n : Nat) : Option (Nat × ApsGroup) := s.line.groups.first fun _ g => g.work == n || g.prot == n
/-- A lane is the protection lane of a group. -/
def State.isProt (s : State) (n : Nat) : Bool := s.line.groups.some? fun _ g => g.prot == n
/-- The member that stands for a lane named as working lane (R326). -/
def State.member? (s : State) (n : Nat) : Nat :=
  match s.line.groups.first fun _ g => g.work == n with
  | some g => if g.2.sel = 0 then g.2.work else g.2.prot
  | none => n

/-- Fields of a connection entry (Table 11-9). -/
def entSrc (e : Nat) : Nat := bits e 31 30
def entLane (e : Nat) : Nat := bits e 28 20
def entIx (e : Nat) : Nat := bits e 11 0

/-- A lane carries the connections that name another: its own, and as protection lane those of its working lane; a protection lane's
own entries are not used (R326). -/
def State.carries (s : State) (w n : Nat) : Bool :=
  (w == n && !s.isProt w) || s.line.groups.some? fun _ g => g.work == w && g.prot == n

/-- A connection of the active TSI page whose source is neither unequipped nor AIS uses a lane, as output or as source. -/
def State.tsiUses (s : State) (n : Nat) : Bool :=
  s.line.tlf.some? fun o t => t.active.some? fun _ e =>
    2 ≤ entSrc e && !s.isProt o && (s.carries o n || (entSrc e == 2 && s.carries (entLane e) n))

/-- A cell in SERVICE or HIBERNATING. -/
def State.cellLive (s : State) (c : Nat) : Bool :=
  (s.cells.find? c).any fun x => x.st == .service || x.st == .hibernating

/-- A fronthaul stream uses a lane. -/
def State.streamsOn (s : State) (n : Nat) : List FhStream :=
  match s.lanePort n with
  | none => []
  | some (p, _) => (s.line.streams.filter fun x => x.2.port == p).map Prod.snd

/-- A connection of the active page or a stream uses a lane for a live cell (R303). -/
def State.laneServes (s : State) (n : Nat) : Bool :=
  (s.line.tlf.some? fun o t => !s.isProt o && t.active.some? fun _ e =>
      (entSrc e == 3 && s.carries o n && (s.line.trails.find? (entIx e)).any fun t => s.cellLive t.cell)
      || (entSrc e == 2 && (s.carries o n || s.carries (entLane e) n)
        && s.line.trails.some? fun _ r => !r.tx && r.lane == entLane e && inSpan r.first r.count (entIx e) && s.cellLive r.cell))
    || ((s.streamsOn n).any fun x => s.cellLive x.cell)

/-! ## Raw conditions of defects (R322, R323) -/

/-- Note a raw condition at the present FRC. -/
def Defect.note (d : Defect) (raw : Bool) (frc : Nat) : Defect := if d.raw = raw then d else { d with raw := raw, since := frc }

/-- LOS and LOF of a lane as its receiver stands: LOS raw or TEST; out of frame unless in SYNC. -/
def State.noteLane (s : State) (n : Nat) : State :=
  if !s.isTlf n || isPeer n then s
  else
    let l := s.lane n
    let los := l.los.testBit 0 || l.stage == 14
    s.modTlf n fun t => { t with defects :=
      ((t.defects.modify 0 fun d => d.note los s.time.frc).modify 1 fun d => d.note (!t.framer.sync) s.time.frc) }

/-- The framer of a lane is out of frame: it hunts with no candidate (R321). -/
def State.losesFrame (s : State) (n : Nat) : State :=
  (s.modTlf n fun t => { t with framer := { Framer.reset with just := t.framer.just }, bip := none }).noteLane n

/-- L0 is powered for a lane: awake, or a listening lane in WATCH and sleep (R283, R307). -/
def State.laneLive (s : State) (n : Nat) : Bool :=
  (s.lane n).cfg.listen || (!s.asleep 13 && !s.stopped)

/-! ## Signal fail -/

/-- The defects of a lane or trail give ES and SES conditions while set: LOS, LOF, AIS (lane); AIS-T, PLM (trail). -/
def setAt (ds : List Defect) (i : Nat) : Bool := (ds.getD i Defect.none_).set
def TlfLane.sf (t : TlfLane) : Bool := setAt t.defects 0 || setAt t.defects 1 || setAt t.defects 2
/-- LOS or LOF is set: other defects are not evaluated (R323). -/
def TlfLane.blind (t : TlfLane) : Bool := setAt t.defects 0 || setAt t.defects 1

/-! ## Protection (R326 to R329) -/

/-- What a request code selects, with the current member for those that keep it (Table 11-8). -/
def reqSelects (code : Nat) (revertive : Bool) (now : Nat) : Nat :=
  if code = 0xF || code = 0xE || code = 7 then 0
  else if code = 0xD || code = 0xB || code = 8 || code = 6 || code = 1 then 1
  else if revertive then 0 else now

/-- Request code of a command. -/
def cmdCode (c : Nat) : Nat := match c with
  | 1 => 0xF | 2 => 0xD | 3 => 8 | 4 => 7 | _ => 0

/-- The local request: the highest in force. -/
def ApsGroup.localReq (g : ApsGroup) : Nat :=
  [cmdCode g.cmd, 0xE * b2n g.sfP, 0xB * b2n g.sfW, 6 * b2n g.wtr.isSome, b2n g.dnr].foldl max 0

/-- The requested signal of the local request. -/
def ApsGroup.localSig (g : ApsGroup) : Nat := reqSelects g.localReq g.revertive g.sel

/-- The request that the selector follows: code and requested signal (R328). -/
def ApsGroup.winner (g : ApsGroup) (far : Option (Nat × Nat × Nat)) : Nat × Nat :=
  let own := (g.localReq, g.localSig)
  match far with
  | some (c, sg, _) => if g.bidir && !g.uni && (own.1 < c || (own.1 = c && own.2 < sg)) then (c, sg) else own
  | none => own

/-- The request received: from the protection lane, or from the working lane while protection is in SF (R328). -/
def State.farReq (s : State) (g : ApsGroup) : Option (Nat × Nat × Nat) :=
  if (s.tlf g.prot).sf then (s.tlf g.work).farAps else (s.tlf g.prot).farAps

/-- Work out the selection that the next FAW is to bring. -/
def State.apsUpdate (s : State) (n : Nat) : State :=
  match s.line.groups.find? n with
  | none => s
  | some g =>
    let (c, sg) := g.winner (s.farReq g)
    let want := if c = 0 then reqSelects 0 g.revertive g.sel else if c = g.localReq && sg = g.localSig then g.localSig else sg
    s.modLine fun l => { l with groups := l.groups.set n { g with target := if want = g.sel then none else some (want, c) } }

/-- A member's signal fail request is raised or drops (R327, R329). -/
def ApsGroup.setSf (g : ApsGroup) (work : Bool) (on : Bool) (frc : Nat) : ApsGroup :=
  if work then
    if on then { g with sfW := true, wtr := none, dnr := false }
    else
      let g := { g with sfW := false }
      if g.sel = 1 && g.localReq < 6 then (if g.revertive then { g with wtr := some frc } else { g with dnr := true }) else g
  else { g with sfP := on }

/-- A lane's SF changes the requests of its group: at once when it clears, after HOLD_OFF when it is set. -/
def State.sfRequest (s : State) (lane : Nat) (on : Bool) : State :=
  match s.laneGroup lane with
  | none => s
  | some (n, g) =>
    let work := g.work == lane
    if (if work then g.sfW else g.sfP) = on then s
    else
      (s.modLine fun l => { l with groups := l.groups.set n (g.setSf work on s.time.frc) }).apsUpdate n

end Sys2Proof.Machine
end

