-- ==== Sys2Proof/Machine/EthOps.lean ====
section
/-! DEFINITION. Shared operations of the Ethernet ports (chapter 12): counters, MACsec, sending a frame, POISON_EGRESS. -/

namespace Sys2Proof.Machine

/-! ## Counters and events -/

/-- Counters of Table 12-7 by index. -/
def cRxFrames : Nat := 0
def cRxBytes : Nat := 1
def cTxFrames : Nat := 2
def cTxBytes : Nat := 3
def cFcs : Nat := 4
def cSize : Nat := 5
def cAddr : Nat := 6
def cUnmatched : Nat := 7
def cHostDrops : Nat := 8
def cTxRefused : Nat := 9
def cMacBad : Nat := 10
def cMacReplay : Nat := 11
def cUnsecured : Nat := 12
def cPeerRetx : Nat := 15

/-- Add to a counter, saturating at 64 bits. -/
def State.portCount (s : State) (p c n : Nat) : State :=
  s.modPort p fun e => { e with cnt := e.cnt.put 0 c (min (2 ^ 64 - 1) (e.cnt.get 0 c + n)) }

/-- Big-endian fields: headers on the wire are in network byte order (R347). -/
def beBytes (n v : Nat) : List Byte := (leBytes n v).reverse
def befld (p : List Byte) (off n : Nat) : Nat := leNat ((p.drop off).take n).reverse

/-- Units of one object zeroed or skipped at egress because of poison; the event at most once per second per object
(Table 16-5): kind 0 trail, 1 downlink stream, 2 C-plane stream, 3 host port. -/
def State.poisonEgress (s : State) (owner kind id n : Nat) : State :=
  if n = 0 then s
  else
    let key := kind * 4096 + id
    let due := match s.mem.egress.find? key with
      | none => true
      | some e => e.lastFrc + 983040000 ≤ s.time.frc
    let units := ((s.mem.egress.find? key).map EgressCount.units).getD 0 + n
    if due then
      ({ s with mem := { s.mem with egress := s.mem.egress.set key ⟨0, s.time.frc⟩ } }).post owner 0x0B02 1
        (id + 4096 * kind + 65536 * min 65535 units)
    else { s with mem := { s.mem with egress := s.mem.egress.upd key fun e => { e with units := units } } }

/-! ## MACsec (R366 to R368) -/

/-- The last PN of a suite, and the PN past which MACSEC_PN_NEAR is posted. -/
def pnLast (suite : Nat) : Nat := if suite = 0 then 2 ^ 32 - 1 else 2 ^ 64 - 1
def pnNear (suite : Nat) : Nat := if suite = 0 then 2 ^ 32 - 2 ^ 24 else 2 ^ 64 - 2 ^ 40

/-- The transmit association in use on a port. -/
def State.txSa (s : State) (p : Nat) : Option MacSa :=
  match s.line.ports.find? p with
  | some e => s.line.sas.find? fun a => a.port == p && a.tx && e.txAn == some a.an
  | none => none

/-- Put a changed association in place of the one it was. -/
def State.setSa (s : State) (a : MacSa) : State :=
  s.modLine fun l => { l with sas := l.sas.map fun b => if b.port == a.port && b.tx == a.tx && b.an == a.an && b.sci == a.sci then a else b }

/-- MACSEC_PN_NEAR and MACSEC_PN_EXHAUSTED data. -/
def MacSa.data (a : MacSa) : Nat := a.port + 256 * a.an + 1024 * b2n a.tx

/-- The keys and salt that MACsec computes with. -/
def MacSa.mat (a : MacSa) : List Nat × List Nat := (nats a.key, a.ssci :: nats a.salt)

/-- The SecTAG of a frame: Ethertype, TCI with SC, E and C, AN, SL, PN, SCI. -/
def secTag (a : MacSa) (len : Nat) : List Byte :=
  beBytes 2 0x88E5 ++ beBytes 1 (0x20 + 12 * b2n a.conf + a.an) ++ beBytes 1 (if len < 48 then len else 0)
    ++ beBytes 4 (a.nextPn % 2 ^ 32) ++ a.sci

/-- Secure a frame under an association: addresses, SecTAG, payload with ICV. -/
def MacSa.seal (a : MacSa) (f : List Byte) : List Byte :=
  let aad := f.take 12 ++ secTag a (f.drop 12).length
  aad ++ bytesOf (Config.macSeal (a.suite * 2 + b2n a.conf) a.mat.1 a.mat.2 (nats a.sci) a.nextPn (nats aad) (nats (f.drop 12)))

/-- Secure a departing frame: none when it may not be sent (R368). -/
def State.secure (s : State) (p : Nat) (f : List Byte) : Option (List Byte) × State :=
  match s.txSa p with
  | none => (none, s)
  | some a =>
    if pnLast a.suite < a.nextPn then
      (none, if a.spent then s else (s.setSa { a with spent := true }).post (s.macOwner p) 0x0424 2 a.data)
    else
      let a' := { a with nextPn := a.nextPn + 1, near := a.near || pnNear a.suite < a.nextPn + 1 }
      let s := s.setSa a'
      let s := if a'.near && !a.near then s.post (s.macOwner p) 0x0423 1 a.data else s
      (some (a.seal f), s)

/-! ## Sending -/

/-- The Ethertype of a frame after at most one 0x8100 tag, and the offset of what follows it. -/
def etherType (f : List Byte) : Nat × Nat :=
  if befld f 12 2 = 0x8100 then (befld f 16 2, 18) else (befld f 12 2, 14)

/-- No Ethernet port runs while L0 sleeps or in WATCH (R373); the port's link is up. -/
def State.portRuns (s : State) (p : Nat) : Bool :=
  !s.asleep 13 && !s.stopped
    && (s.line.ports.find? p).any fun e => e.up && !(e.lanes.any fun n => s.pow.heldQuads.testBit (laneQuad n))

/-- Send a frame, from its destination address: padded, secured on a MACsec port unless EAPOL, counted (R350, R366). -/
def State.ethSend (s : State) (p : Nat) (f : List Byte) : State :=
  match s.line.ports.find? p with
  | none => s
  | some e =>
    if !s.portRuns p then s
    else
      let f := f ++ zeros (60 - f.length)
      let out (s : State) (f : List Byte) : State :=
        ((s.emit (.ethFrame p f)).portCount p cTxFrames 1).portCount p cTxBytes (f.length + 4)
      if e.macsec && (etherType f).1 != 0x888E then
        match s.secure p f with
        | (some g, s) => out s g
        | (none, s) => s
      else out s f

/-- The header of a frame to a destination: addresses, a tag unless untagged, Ethertype. -/
def ethHeader (dst src : List Byte) (untagged : Bool) (tci etype : Nat) : List Byte :=
  fit 6 dst ++ fit 6 src ++ (if untagged then [] else beBytes 2 0x8100 ++ beBytes 2 tci) ++ beBytes 2 etype

/-! ## Peer transport (R364, R365) -/

/-- Peer transport with a member in a class. -/
def State.peerTx (s : State) (k : Nat) : PeerTx := s.line.peerTx.get PeerTx.reset k
def State.modPeerTx (s : State) (k : Nat) (f : PeerTx → PeerTx) : State :=
  s.modLine fun l => { l with peerTx := l.peerTx.mod PeerTx.reset k f }

/-- Whole units that fit in one frame of a port, with at most one tag. -/
def unitsPerFrame (e : EthPort) (untagged : Bool) : Nat := (e.maxFrame - (if untagged then 34 else 38)) / 66

/-- A frame of peer transport to a member: kind, class, FRAG, SEQ and payload (Table 12-5). -/
def State.peerFrame (s : State) (d : Nat) (m : Member) (kind cls frag seq : Nat) (units : List Byte) : State :=
  match s.line.ports.find? m.port with
  | none => s
  | some e =>
    let et := if e.etype = 0 then 0x88B5 else e.etype
    (s.ethSend m.port (ethHeader m.mac e.mac m.untagged m.tci et ++ leBytes 1 1 ++ leBytes 1 kind ++ leBytes 2 s.deviceId ++ leBytes 2 d
      ++ leBytes 1 cls ++ leBytes 1 frag ++ leBytes 4 seq ++ leBytes 4 (s.peerTx (d * 4 + cls)).rxNext ++ units)).modClu fun c => { c with
        members := c.members.upd d fun m => { m with sent := s.time.frc } }

/-- A packet cut into the payloads of its frames, each after its FRAG byte. -/
def fragments (per : Nat) : (fuel : Nat) → (first : Bool) → List Byte → List (List Byte)
  | 0, _, _ => []
  | fuel + 1, first, us =>
    let now := us.take (66 * per)
    let rest := us.drop (66 * per)
    if rest.isEmpty then [leBytes 1 (if first then 0 else 3) ++ now]
    else (leBytes 1 (if first then 1 else 2) ++ now) :: fragments per fuel false rest

/-- Send the data frames of a (peer, class) from a position in its list of frames without acknowledgement, within the window. -/
def State.peerPush (s : State) (d : Nat) (m : Member) (cls skip : Nat) : State :=
  (((s.peerTx (d * 4 + cls)).unacked.take 256).drop skip).foldl (fun s f => s.peerFrame d m 0 cls (fld f.2 0 1) (f.1 % 2 ^ 32) (f.2.drop 1)) s

/-- Send a mesh packet to a member over Ethernet. -/
def State.peerSend (s : State) (d : Nat) (m : Member) (cls : Nat) (units : List Byte) : State :=
  match s.line.ports.find? m.port with
  | none => s
  | some e =>
    let k := d * 4 + cls
    let x := s.peerTx k
    let fs := fragments (unitsPerFrame e m.untagged) (units.length / 66 + 1) true units
    let new := (List.range fs.length).map fun i => (x.nextSeq + i, fs.getD i [])
    let s := s.modPeerTx k fun x => { x with
      nextSeq := x.nextSeq + fs.length, unacked := x.unacked ++ new, progress := if x.unacked.isEmpty then s.time.frc else x.progress }
    s.peerPush d m cls x.unacked.length

/-- Even parity of 8 bytes. -/
def parity8 (bs : List Byte) : Nat := (bs.foldl (fun x b => x ^^^ b.toNat) 0 |> fun v => (List.range 8).foldl (fun n i => n + b2n (v.testBit i)) 0) % 2

/-- A unit with its sideband (Table 14-1). -/
def meshUnit (d : List Byte) (poison last head : Bool) : List Byte :=
  let d := fit 64 d
  let par := (List.range 8).foldl (fun n i => n + parity8 ((d.drop (8 * i)).take 8) * 2 ^ i) 0
  d ++ leBytes 2 (b2n poison + 2 * b2n last + 4 * b2n head + 256 * par)

/-- A response packet (Tables 14-2, 14-3). -/
def responsePacket (write : Bool) (cls init tag len addr st dev : Nat) (units : List (List Byte × Bool)) : List Byte :=
  let h := zeros 4 ++ leBytes 1 (if write then 0x82 else 0x81) ++ leBytes 1 (cls + 4) ++ leBytes 2 init ++ leBytes 2 tag
    ++ leBytes 2 ((len - 1) % 4096) ++ leBytes 6 addr ++ leBytes 2 st ++ zeros 8 ++ leBytes 2 dev
  meshUnit h false units.isEmpty true
    ++ ((List.range units.length).flatMap fun i => let u := units.getD i ([], false); meshUnit u.1 u.2 (i + 1 == units.length) false)

/-! ## eCPRI (R358 to R360) -/

/-- The eCPRI common header: revision 1, C 0. -/
def ecpriHeader (type size : Nat) : List Byte := [0x10] ++ beBytes 1 type ++ beBytes 2 size

/-- The width field of udCompHdr. -/
def compHdr (w : Nat) : Nat := if w = 16 then 0 else w * 16 + 1

/-- Subframe and slot in it of a slot of a radio frame. -/
def subSlot (num slot : Nat) : Nat × Nat :=
  let per := slotsPer num
  if per < 10 then (slot * 10 / per, 0) else (slot / (per / 10), slot % (per / 10))

/-- The application header bytes that tell direction, filter and symbol (R360). -/
def symHeader (dl : Bool) (filter num point : Nat) : List Byte :=
  let (sub, sl) := subSlot num (tpSlot point)
  beBytes 1 (128 * b2n dl + 16 + filter) ++ beBytes 1 (tpSfn point % 256) ++ beBytes 2 (sub * 4096 + sl * 64 + tpSym point)

end Sys2Proof.Machine
end

