-- ==== Sys2Proof/Machine/NocOps.lean ====
section
/-! DEFINITION. Shared operations of the on-chip network (chapter 14): what a target does with a request that reaches it,
slots, held requests, and the Photometer's sets. -/

namespace Sys2Proof.Machine

/-! ## Photometer (R421, R422) -/

/-- The key of a counter set: PEER, initiator, class, in the order of PHOTOMETER_READ. -/
def photoKey (peer : Bool) (init cls : Nat) : Nat := (4096 * b2n peer + init) * 4 + cls

/-- The key of the set that counts a request: peer traffic counts under 0x3B0 + class (R377). -/
def MeshFl.photo (f : MeshFl) : Nat :=
  if f.peer.isSome then photoKey true (0x3B0 + f.req.cls) f.req.cls else photoKey false f.req.init f.req.cls

/-- Count in a set while the Photometer is enabled. -/
def State.photo (s : State) (k : Nat) (f : PhotoSet → PhotoSet) : State :=
  if s.noc.enable && s.noc.since ≤ s.time.frc then s.modNoc fun n => { n with sets := n.sets.mod PhotoSet.reset k f } else s

/-- The bin of a latency (R422). -/
def latencyBin (ns : Nat) : Nat := min 15 (Nat.log2 (max 1 ns) - 3)

/-- Saturating at 64 bits. -/
def sat64 (n : Nat) : Nat := min (2 ^ 64 - 1) n

/-- Count the sending of a request. -/
def PhotoSet.sent (p : PhotoSet) (wr : Bool) : PhotoSet :=
  if wr then { p with writes := sat32 (p.writes + 1) } else { p with reads := sat32 (p.reads + 1) }

/-- Count a request's answer by its status. -/
def PhotoSet.ended (p : PhotoSet) (st : Status) : PhotoSet := match st with
  | .routeRefused => { p with refused := sat32 (p.refused + 1) }
  | .domainAsleep => { p with asleep := sat32 (p.asleep + 1) }
  | .busError | .notPermitted => { p with errors := sat32 (p.errors + 1) }
  | _ => p

/-- Count a request's answer: status, bytes moved, latency. -/
def PhotoSet.answered (p : PhotoSet) (wr : Bool) (len : Nat) (st : Status) (ns : Nat) : PhotoSet :=
  let p := { p with maxNs := max p.maxNs (min (2 ^ 32 - 1) ns), hist := p.hist.put 0 (latencyBin ns) (sat32 (p.hist.get 0 (latencyBin ns) + 1)) }
  if st != .success then p.ended st
  else if wr then { p with writeBytes := sat64 (p.writeBytes + len) } else { p with readBytes := sat64 (p.readBytes + len) }

/-! ## Targets -/

/-- The target of an address: a region, or 16 for the always-on domain (R402). -/
def meshTarget (a : Nat) : Nat :=
  if a < hbmEnd then 14
  else if 0x100000000000 ≤ a && a < 0x101000000000 then (a - 0x100000000000) / 0x100000000
  else if 0x200000000000 ≤ a && a < 0x200004000000 then 16
  else if peerBase ≤ a && a < hostBase then 13
  else 15

/-- The block that serves an address of a region: its own, the stack's of H0 (R22), or block 0 for what the region holds in common. -/
def servingBlock (a : Nat) : Nat :=
  match (spanAt a).place with
  | .hbm => 14 * 4 + a / 4096 % 2
  | .blkMem r b | .blkCsr r b => r * 4 + b
  | .xram e | .yram e | .pram e | .engCsr e => engBlk e
  | _ => meshTarget a * 4

/-- Stacks that a byte range of HBM touches (R22). -/
def stacksOf (a n : Nat) : List Nat :=
  if hbmEnd ≤ a then [] else [a / 4096 % 2, (a + n - 1) / 4096 % 2].dedup

/-- Same request. -/
def MeshFl.same (f : MeshFl) (blk init cls tag : Nat) : Bool :=
  f.req.blk == blk && f.req.init == init && f.req.cls == cls && f.req.tag == tag && f.peer.isNone

/-- A request as its block port knows it. -/
def State.meshFind (s : State) (blk init cls tag : Nat) : Option MeshFl := s.noc.flights.find? fun f => f.same blk init cls tag

/-- Replace or drop a request. -/
def State.meshSet (s : State) (f : MeshFl) : State :=
  s.modNoc fun n => { n with flights := n.flights.map fun g => if g.same f.req.blk f.req.init f.req.cls f.req.tag then f else g }
def State.meshDrop (s : State) (f : MeshFl) : State :=
  s.modNoc fun n => { n with flights := n.flights.filter fun g => !g.same f.req.blk f.req.init f.req.cls f.req.tag }

/-! ## Slots (R406 to R409) -/

/-- Same block, target and class. -/
def Slots.same (x : Slots) (blk target cls : Nat) : Bool := x.blk == blk && x.target == target && x.cls == cls

/-- Slots that a block holds. -/
def State.slotsHeld (s : State) (blk target cls : Nat) : Nat :=
  ((s.noc.slots.find? fun x => x.same blk target cls).map Slots.n).getD 0

/-- Set what a block holds. -/
def State.setSlots (s : State) (blk target cls n : Nat) : State :=
  let rest := s.noc.slots.filter fun x => !x.same blk target cls
  s.modNoc fun c => { c with slots := if n = 0 then rest else ⟨blk, target, cls, n, s.time.frc⟩ :: rest }

/-- Serve the slot requests of a class that wait at a target, first come, first served, while slots are free (R408). Each class has a
buffer of its own, so no class waits for another's. -/
def State.serveRsvs (s : State) (target cls : Nat) : (fuel : Nat) → State
  | 0 => s
  | fuel + 1 =>
    let key := target * 4 + cls
    let free := Config.meshSlots target cls - s.noc.given.get 0 key
    match s.noc.rsvs.find? fun x => x.target == target && x.cls == cls with
    | none => s
    | some x =>
      if free = 0 then s
      else
        let n := min free x.n
        let s := s.modNoc fun c => { c with
          rsvs := c.rsvs.erase x
          grants := c.grants ++ [{ x with n := n }]
          given := c.given.put 0 key (c.given.get 0 key + n) }
        (s.emit (.grant x.blk target cls n .success)).serveRsvs target cls fuel

/-- Slots come back to a target. -/
def State.slotsBack (s : State) (target cls n : Nat) : State :=
  let s := s.modNoc fun c => { c with given := c.given.put 0 (target * 4 + cls) (c.given.get 0 (target * 4 + cls) - n) }
  s.serveRsvs target cls (s.noc.rsvs.length + 1)

/-- A region that goes to sleep answers the slot requests that wait at it: DOMAIN_ASLEEP, no slots (R408, R416). -/
def State.refuseRsvs (s : State) (r : Nat) : State :=
  let out := s.noc.rsvs.filter fun x => x.target == r
  out.foldl (fun s x => s.emit (.grant x.blk r x.cls 0 .domainAsleep)) (s.modNoc fun n => { n with rsvs := n.rsvs.filter fun x => x.target != r })

/-! ## Serving (R399, R400, R411) -/

/-- Who a request comes from: its task, or the owner of its BDMA channel. -/
def State.meshWho (s : State) (f : MeshFl) : Who :=
  let u := f.req.init % 64
  let fn := match f.req.task.bind s.task? with
    | some t => some (s.taskFn t)
    | none =>
      if 16 ≤ u && u < 48 then
        let o := (s.bdma.get DmaChan.reset (f.req.init / 64 * 32 + (u - 16))).owner
        if o < 8 then some o else none
      else none
  ⟨f.req.init, fn, f.peer.isSome, f.req.task⟩

/-- Write the data units of a request, in order; the first status that stops it. -/
def State.writeUnits (s : State) (f : MeshFl) (w : Who) : (fuel i : Nat) → State × Status
  | 0, _ => (s, .success)
  | fuel + 1, i =>
    if f.req.len ≤ 64 * i then (s, .success)
    else
      let bs := ((fit f.req.len f.req.data).drop (64 * i)).take 64
      let pois := f.req.poison.contains i
      match f.req.task, f.req.task.bind s.task? with
      | some id, some _ =>
        match s.taskWrite id w.init (f.req.addr + 64 * i) bs pois with
        | (s, .success) => s.writeUnits f w fuel (i + 1)
        | (s, st) => (s, st)
      | _, _ => (s.write w (f.req.addr + 64 * i) bs pois).writeUnits f w fuel (i + 1)

/-- What a read of a request delivers, in units. -/
def State.readFor (s : State) (f : MeshFl) : List (List Byte × Bool) :=
  match f.req.task.bind s.task? with
  | some t => (List.range ((f.req.len + 63) / 64)).map fun i =>
      let n := min 64 (f.req.len - 64 * i)
      (s.taskBytes t (f.req.addr + 64 * i) n, s.taskPoison t (f.req.addr + 64 * i) n)
  | none => s.unitsAt 64 (f.req.len / 64 + 1) f.req.addr f.req.len

/-- A target's slot that a request has used is free again: a standing slot stays with its block, a granted one goes back (R406 to
R408). -/
def State.slotFreed (s : State) (blk target cls : Nat) : State :=
  if cls = 0 then
    s.modNoc fun n => { n with standing := n.standing.put 0 (target * 64 + blk) (n.standing.get 0 (target * 64 + blk) + 1) }
  else s.slotsBack target cls 1

/-- Answer a request: its response leaves, and its slot is free again. A data unit of a read's response in which a router finds a parity
error is poisoned (R412). What answers a request that has timed out is discarded (R413). -/
def State.meshReply (s : State) (f : MeshFl) (st : Status) (units : List (List Byte × Bool)) : State :=
  match f.peer with
  | some d =>
    let s := s.photo f.photo fun p => p.answered f.req.write f.req.len st f.lat
    match s.clu.members.find? d with
    | some m =>
      if m.path = 2 then
        s.peerSend d m f.req.cls (responsePacket f.req.write f.req.cls f.req.init f.req.tag f.req.len f.req.addr st.code d units)
      else s.emit (.peerMsg d (.answer f.req.tag st.code units))
    | none => s.emit (.peerMsg d (.answer f.req.tag st.code units))
  | none =>
    if f.late then s
    else
      let units := units.zipIdx.map fun x => (x.1.1, x.1.2 || (!f.req.write && f.req.poison.contains x.2))
      let s := (s.emit (.meshResponse f.req.blk f.req.init f.req.cls f.req.tag st units)).meshSet { f with arrived := true, ans := some st }
      s.slotFreed f.req.blk (meshTarget (s.real f.req.addr)) f.req.cls

/-- The member whose peer window a request of this device names (R27). -/
def State.peerOf (s : State) (f : MeshFl) : Option Nat :=
  match (spanAt (s.real f.req.addr)).place with
  | .peer d => if f.peer.isNone then some d else none
  | _ => none

/-- A place of registers that the mesh reaches (R25, R26). -/
def State.csrReq (s : State) (f : MeshFl) : Bool := (spanAt (s.real f.req.addr)).place.isCsr

/-- A target serves a request, or answers it with the status that refuses it, without side effect. A request for another member
leaves through L0, and waits for that member's answer. One for registers reads or writes them (R25). -/
def State.meshServe (s : State) (f : MeshFl) : State :=
  let w := s.meshWho f
  match s.access w f.req.addr f.req.len f.req.write with
  | .success =>
    if (s.peerOf f).isSome then (if f.req.write then (s.writeUnits f w 65 0).1 else s)
    else if s.csrReq f then
      if f.req.write then
        let bs := fit f.req.len f.req.data
        let clean (i : Nat) : Bool := !f.req.poison.contains (i / 64)
        (s.csrWriteBytes clean (s.real f.req.addr) bs).meshReply f .success []
      else
        let (bs, s) := s.csrReadBytes (s.real f.req.addr) f.req.len
        s.meshReply f .success ((List.range ((f.req.len + 63) / 64)).map fun i => ((bs.drop (64 * i)).take 64, false))
    else if f.req.write then
      let (s, st) := s.writeUnits f w 65 0
      s.meshReply f st []
    else
      let s := s.logRead w f.req.addr f.req.len
      s.meshReply f .success (s.readFor f)
  | st => (if s.retiredIn f.req.addr f.req.len then s.logRetired w f.req.addr else s).meshReply f st []

/-- What another member answers is its own affair (R376): a free choice among the answers of a target. -/
def peerStatus (v : Nat) : Status := match v % 4 with
  | 0 => .success
  | 1 => .notPermitted
  | 2 => .busError
  | _ => .domainAsleep

/-- The answer of another member arrives: its status, and its data, are free values (log entry 15). -/
def State.meshPeerAnswer (s : State) (f : MeshFl) : State × Status :=
  let (v, s) := s.draw
  let st := peerStatus v
  (s.meshReply f st (if st == .success && !f.req.write then s.readFor f else []), st)

/-- Every request in flight to a lost member is answered BUS_ERROR, and its slot is free again (R384). -/
def State.cutMesh (s : State) (p : Nat → Bool) : State :=
  (s.noc.flights.filter fun f => f.arrived && f.ans.isNone && (s.peerOf f).any p).foldl (fun s f =>
    let s := ((s.meshDrop f).emit (.portAnswer f.req.blk f.req.init f.req.cls f.req.tag .busError)).photo f.photo fun p =>
      { p with errors := sat32 (p.errors + 1) }
    s.slotFreed f.req.blk (meshTarget (s.real f.req.addr)) f.req.cls) s

/-- The VDE whose RAMs an address lies in, while they are being zeroed (R153). -/
def State.zeroingAt (s : State) (a : Nat) : Option Nat :=
  match (spanAt a).place with
  | .xram e | .yram e | .pram e => if (s.eng e).zMain || (s.eng e).zAlt then some e else none
  | _ => none

/-- A request reaches its target (R153, R414 to R416, R455): it waits for a retraining stack, for the zeroing of a VDE's RAMs, or, in
class 1 to 3, for a sleep decision; a class-0 request in PREPARE makes its block refuse, though it may have agreed; an IDLE region's clock starts. -/
def State.meshArrive (s : State) (f : MeshFl) : State :=
  let a := s.real f.req.addr
  let r := meshTarget a
  let hold (h : HeldFor) : State := s.modNoc fun n => { n with held := n.held ++ [(f, h)] }
  match (stacksOf a f.req.len).find? fun k => s.mem.retraining.has k with
  | some k => hold (.retrain k)
  | none =>
    if (s.region r).prepare && f.req.cls != 0 then hold (.sleep r)
    else
      let b := servingBlock a
      let mark (o : SleepOp) : SleepOp := if o.regions.testBit r then
        { o with touched := b :: o.touched, pendBlocks := if o.pendBlocks.contains b then o.pendBlocks else o.pendBlocks ++ [b] } else o
      let s := if (s.region r).prepare then { s with pow := { s.pow with sleeps := s.pow.sleeps.map mark } } else s
      match s.zeroingAt a with
      | some e => s.modNoc fun n => { n with held := n.held ++ [(f, .zeroing e)] }
      | none => (s.clockUp r).meshServe f

/-! ## Leaving a block port (R13, R401 to R409) -/

/-- The entry of a route table that a request takes: its target, or the port to the member it is for (R402). -/
def State.meshDest (s : State) (a : Nat) : Nat :=
  match (spanAt a).place with
  | .peer d =>
    match s.clu.members.find? d with
    | some m => if m.path = 1 then 17 + m.port else 25 + m.port
    | none => 13
  | _ => meshTarget a

/-- The route in use from a block to a destination: the alternate once the primary was refused (R419). -/
def State.routeOf (s : State) (blk dest : Nat) : List Nat :=
  match s.noc.routes.find? fun e => e.blk == blk && e.dest == dest with
  | some e => if s.noc.alts.contains (blk, dest) then e.alternate else e.primary
  | none => []

/-- What happens to a header that leaves a block on the route in use. -/
def State.walkTo (s : State) (blk dest : Nat) : Walk :=
  routeFrom (fun r => s.noc.draining.has r) (blk / 4) (s.routeOf blk dest)

/-- Log a parity error on a link (R412) or a time-out (R413). -/
def State.logMesh (s : State) (region kind : Nat) (r : MeshReq) : State :=
  let fn := ((r.task.bind s.task?).map s.taskFn)
  (s.logError region ⟨0, kind, 0x20, initId region 0 0, r.addr, 1, 0, r.init, (Who.mk r.init fn false r.task).taskField, s.time.frc⟩).1

/-- Units of a request's whole response: a header and its data (R399). -/
def MeshReq.respUnits (r : MeshReq) : Nat := if r.write then 1 else 1 + (r.len + 63) / 64

/-- Units of a block port's response buffer that its outstanding requests hold (R409). -/
def State.respUsed (s : State) (blk : Nat) : Nat :=
  ((s.noc.flights.filter fun f => f.req.blk == blk && f.peer.isNone).map fun f => f.req.respUnits).sum

/-- A block holds a slot for a request at its target (R406, R407). -/
def State.slotFor (s : State) (r : MeshReq) : Bool :=
  let target := meshTarget (s.real r.addr)
  if r.cls = 0 then s.noc.standing.get 0 (target * 64 + r.blk) != 0 else s.slotsHeld r.blk target r.cls != 0

/-- A waiting request may leave: a slot, and space for the whole response (R406). -/
def State.mayLeave (s : State) (r : MeshReq) : Bool :=
  s.slotFor r && s.respUsed r.blk + r.respUnits ≤ Config.meshRespExtra r.blk + 65

/-- A slot is taken, or comes back to its block unused. -/
def State.slotTaken (s : State) (r : MeshReq) : State :=
  let target := meshTarget (s.real r.addr)
  let k := target * 64 + r.blk
  if r.cls = 0 then s.modNoc fun n => { n with standing := n.standing.put 0 k (n.standing.get 0 k - 1) }
  else s.setSlots r.blk target r.cls (s.slotsHeld r.blk target r.cls - 1)
def State.slotKept (s : State) (r : MeshReq) : State :=
  let target := meshTarget (s.real r.addr)
  let k := target * 64 + r.blk
  if r.cls = 0 then s.modNoc fun n => { n with standing := n.standing.put 0 k (n.standing.get 0 k + 1) }
  else s.setSlots r.blk target r.cls (s.slotsHeld r.blk target r.cls + 1)

/-- A header crosses the mesh on the route in use: a router discards it for a parity error, or refuses it; or it arrives, with the data
units in which a router found a parity error poisoned (R401, R412, R418). -/
def State.meshCross (s : State) (f : MeshFl) (hdrLost : Option Nat) (parity : List (Nat × Nat)) : State :=
  let dest := s.meshDest (s.real f.req.addr)
  let w := s.walkTo f.req.blk dest
  let f : MeshFl := { f with path := w.path, back := w.back, refused := false, onAlt := s.noc.alts.contains (f.req.blk, dest) }
  match hdrLost.filter fun r => w.path.contains r with
  | some r => (s.meshSet f).logMesh r 3 f.req
  | none =>
    if w.done.isNone then s.meshSet { f with refused := true }
    else
      let bad := parity.filter fun x => w.path.contains x.2
      let s := bad.foldl (fun s x => s.logMesh x.2 3 f.req) s
      let f : MeshFl := { f with arrived := true, req := { f.req with poison := f.req.poison ++ bad.map Prod.fst } }
      (s.meshSet f).meshArrive f

/-- A request leaves its block port: its slot is used, its response space held, and it is counted. -/
def State.meshLeave (s : State) (w : MeshWait) : State :=
  let s := s.slotTaken w.req
  let f : MeshFl := { req := w.req, peer := none, arrived := false, ans := none, lat := 0, sent := s.time.frc }
  let s := (s.modNoc fun n => { n with flights := n.flights ++ [f] }).photo f.photo fun p => p.sent w.req.write
  s.meshCross f w.hdrLost w.parity

/-- The requests of a block that may leave: of each initiator and class the oldest to each target (R410). -/
def State.readyAt (s : State) (blk : Nat) : (l : List MeshWait) → (seen : List (Nat × Nat × Nat)) → List MeshWait
  | [], _ => []
  | w :: rest, seen =>
    let k := (w.req.init, w.req.cls, s.meshDest (s.real w.req.addr))
    let more := s.readyAt blk rest (k :: seen)
    if w.req.blk = blk && !seen.contains k && s.mayLeave w.req then w :: more else more

/-- The request that a block port forwards next, and its arbiter's state after that (R13, R404). -/
def State.portPick (s : State) (blk : Nat) : Option (MeshWait × State) :=
  let ready := s.readyAt blk s.noc.waiting []
  match pickClass (s.noc.weights.get (4, 2, 1) blk) fun c => ready.any fun w => w.req.cls == c with
  | none => none
  | some (c, wt) =>
    let inits := (ready.filter fun w => w.req.cls == c).map fun w => w.req.init
    match (nextAfter (s.noc.lastInit.get 0 (blk * 4 + c)) inits).bind fun i => ready.find? fun w => w.req.cls == c && w.req.init == i with
    | none => none
    | some w => some (w, s.modNoc fun n => { n with
        waiting := n.waiting.erase w
        weights := n.weights.put (4, 2, 1) blk wt
        lastInit := n.lastInit.put 0 (blk * 4 + c) w.req.init })

/-- A block port forwards every waiting request that may leave. -/
def State.servePort (s : State) (blk : Nat) : (fuel : Nat) → State
  | 0 => s
  | fuel + 1 =>
    match s.portPick blk with
    | none => s
    | some (w, s) => (s.meshLeave w).servePort blk fuel

/-- The port of a block, as long as requests wait there. -/
def State.meshRuns (s : State) (blk : Nat) : State := s.servePort blk s.noc.waiting.length

/-- The ports of every block. -/
def State.meshAllRun (s : State) : State := (s.noc.waiting.map fun w => w.req.blk).dedup.foldl (fun s b => s.meshRuns b) s

/-- Requests held for a reason reach their targets again, in the order they came; slots that this frees let others leave. -/
def State.releaseMesh (s : State) (p : HeldFor → Bool) : State :=
  let go := s.noc.held.filter fun x => p x.2
  let s := s.modNoc fun n => { n with held := n.held.filter fun x => !p x.2 }
  (go.foldl (fun s x => s.meshArrive x.1) s).meshAllRun

/-- A request as its block port injects it: INIT names the port's block (R398), its class is the issuing task's (R120), and a read has
no data units to be poisoned (R399). -/
def State.injected (s : State) (r : MeshReq) : MeshReq :=
  { r with
    init := r.blk * 64 + r.init % 64
    cls := ((r.task.bind s.task?).map Task.cls).getD r.cls
    poison := if r.write then r.poison else [] }

/-- A header can hold the request (Table 14-2): 1 to 4,096 bytes, a 48-bit address, a 16-bit tag. -/
def MeshReq.fits (r : MeshReq) : Bool := 1 ≤ r.len && r.len ≤ 4096 && r.addr < 2 ^ 48 && r.tag < 65536

/-- Melvi loads the route tables of every block, around the routers to avoid (R402, R418); primaries are usable again (R419). -/
def State.loadRoutes (s : State) : State :=
  s.modNoc fun n => { n with routes := allRoutes (fun r => n.avoided.has r) s.time.frc, alts := [] }

/-- Melvi divides every target's class-0 slots among the blocks (R407). -/
def State.divideSlots (s : State) : State :=
  s.modNoc fun n => { n with standing := ((List.range 17).map fun t => allBlocks.map fun b => (t * 64 + b, slotShare t b)).flatten }

end Sys2Proof.Machine
end

