-- ==== Sys2Proof/Machine/MemEcc.lean ====
section
/-! DEFINITION. Memory commands and the error logs (chapter 16): REGION_TABLE_SET, PAGE_RETIRE, MEM_READ, MEM_WRITE, the
copy of the region logs, and HBM retraining. -/

namespace Sys2Proof.Machine

/-! ## REGION_TABLE_SET (R468, R469) -/

/-- A range lies where R468 permits one. -/
def State.rangePlace (s : State) (fn base len : Nat) : Bool :=
  let sp := spanAt base
  base + len ≤ sp.hi &&
  match sp.place with
  | .hbm => s.ownsHbm fn base len
  | .regMem r => r = 13 || fn = 0
  | _ => false

/-- The memory of a held HARQ shadow: the entries the task wrote and the slots they name (R266). -/
def State.shadowSpans (s : State) (t : Task) : List (Nat × Nat) :=
  if !t.shadow then [] else t.harqEntries.flatMap fun e =>
    let b := s.bytesAt e.1 32
    let sh := if bit (fld b 0 1) 0 then fld b 8 8 else fld b 16 8
    [(e.1, 32), (sh, fld b 4 4)]

/-- A range still holds buffered lines or a held shadow of the tenant's tasks (R469). -/
def State.rangeInUse (s : State) (fn base len : Nat) : Bool :=
  s.car.tasks.some? fun _ t => s.taskFn t == fn
    && ((t.lines.some? fun a _ => base ≤ a && a < base + len)
      || (s.shadowSpans t).any fun x => overlaps x.1 x.2 base len)

/-- Every task writes its block's lines and shadow of its own tenant. -/
def layRegionTableSet : Layout := ⟨0x0B02, 24, false, fun _ => [.rng 0 1 0 1, .rsv 1 7], fun _ => []⟩

def bodyRegionTableSet (i : CmdIn) (s : State) : Ans :=
  let p := i.p
  let act := fld p 0 1
  let base := fld p 8 8
  let len := fld p 16 8
  let mine := s.mem.ranges.filter fun r => r.fn == i.fn
  let res (s : State) : List Byte :=
    leBytes 2 (s.mem.ranges.filter fun r => r.fn == i.fn).length ++ leBytes 2 (1024 - s.mem.ranges.length)
  let put (rs : List PersRange) : State := { s with mem := { s.mem with ranges := rs } }
  if !s.rangePlace i.fn base len then refuse s .notPermitted
  else if base % 65536 != 0 || len % 65536 != 0 || len < 65536 || 17179869184 < len
      || (act = 1 && mine.any fun r => overlaps base len r.base r.len)
      || (act = 0 && !(mine.any fun r => r.base == base && r.len == len)) then refuse s .badParam
  else if act = 1 then
    if (s.mem.ranges.any fun r => overlaps base len r.base r.len) || 1024 ≤ s.mem.ranges.length then refuse s .noResource
    else
      let s' := put (⟨i.fn, base, len⟩ :: s.mem.ranges)
      ok s' (res s')
  else if s.rangeInUse i.fn base len then refuse s .noResource
  else
    let s' := put (s.mem.ranges.filter fun r => !(r.fn == i.fn && r.base == base && r.len == len))
    ok s' (res s')

def execRegionTableSet (c : CmdRef) (s : State) : Host.Outcome State Fault Refusal :=
  .next (runCmd layRegionTableSet c bodyRegionTableSet s)

/-! ## PAGE_RETIRE (R470, R471) -/

/-- An address is the base of a page (KIND 0) or bank (KIND 1). -/
def retireBase (kind a : Nat) : Bool :=
  if kind = 0 then a < hbmEnd && a % 65536 == 0
  else match (spanAt a).place with
    | .regMem _ | .blkMem _ _ => (a - (spanAt a).lo) % 262144 == 0
    | _ => false

/-- A page or bank that PAGE_RETIRE may not take. -/
def retireBarred (kind a : Nat) : Bool :=
  if kind = 0 then hbmCarillon ≤ a else (spanAt a).place == .regMem 15

def layPageRetire : Layout := ⟨0x0A02, 24, false, fun p =>
  [.rng 0 1 0 2, .rng 1 1 0 1, .rsv 2 2,
   .cond (if fld p 0 1 = 2 then 8 ≤ fld p 4 4 && fld p 16 8 != 0 else fld p 4 4 == 0 && fld p 16 8 == 0)],
  fun p => if fld p 0 1 = 2 then [(fld p 16 8, fld p 4 4)] else []⟩

def bodyPageRetire (i : CmdIn) (s : State) : Ans :=
  let p := i.p
  let act := fld p 0 1
  let kind := fld p 1 1
  let a := fld p 8 8
  let tab (s : State) : Tab Unit := if kind = 0 then s.mem.retPages else s.mem.retBanks
  let put (t : Tab Unit) : State := { s with mem := if kind = 0 then { s.mem with retPages := t } else { s.mem with retBanks := t } }
  let res (s : State) (n : Nat) : List Byte := leBytes 2 s.mem.retPages.length ++ leBytes 2 s.mem.retBanks.length ++ leBytes 4 n
  if act = 2 then
    let l := (tab s).keys.take (fld p 4 4 / 8)
    ok (s.emit (.hostWrite i.fn (fld p 16 8) (l.flatMap (leBytes 8)) false)) (res s l.length)
  else if !retireBase kind a then refuse s .badParam
  else if retireBarred kind a then refuse s .notPermitted
  else if act = 1 then
    if (tab s).has a then ok s (res s 0)
    else if (if kind = 0 then 4096 else 64) ≤ (tab s).length then refuse s .noResource
    else
      let s' := put ((tab s).set a ())
      ok s' (res s' 0)
  else if (tab s).has a then
    let s' := (put ((tab s).del a)).zeroMem a (if kind = 0 then 65536 else 262144)
    ok s' (res s' 0)
  else ok s (res s 0)

def execPageRetire (c : CmdRef) (s : State) : Host.Outcome State Fault Refusal :=
  .next (runCmd layPageRetire c bodyPageRetire s)

/-! ## MEM_READ and MEM_WRITE (R472, R473) -/

def layMemRead : Layout := ⟨0x0B03, 24, false, fun _ => [.rng 8 4 1 16777216, .rsv 12 4], fun p => [(fld p 16 8, fld p 8 4)]⟩

/-- The command engine's requests for a function; the reads of function 0 also reach the Carillon and dump areas. -/
def cmdWho (fn : Nat) (areas : Bool) : Who := ⟨initCmd, if areas && fn = 0 then none else some fn, false, none⟩

def bodyMemRead (i : CmdIn) (s : State) : Ans :=
  let a := fld i.p 0 8
  let n := fld i.p 8 4
  let done (s : State) (us : List (List Byte × Bool)) : Ans :=
    let k := (us.filter fun u => u.2).length
    let s := s.hostRuns i.fn (fld i.p 16 8) us
    (s, .done ⟨if k = 0 then .success else .poisoned, leBytes 4 n ++ leBytes 4 k, none⟩)
  if !s.mayName i.fn a n false true then refuse s .notPermitted
  else if (spanAt a).place == .host then
    done s ((List.range ((n + 63) / 64)).map fun k => (((fit n i.env).drop (64 * k)).take 64, i.envPoison))
  else
    let w := cmdWho i.fn true
    match s.access w a n false with
    | .success =>
      let r := (s.clockFor a).readUnits w a n
      done r.2 r.1
    | st => refuse (if s.retiredIn a n then s.logRetired w a else s) st

def execMemRead (c : CmdRef) (s : State) : Host.Outcome State Fault Refusal := .next (runCmd layMemRead c bodyMemRead s)

/-- The parameters are long enough for DATA unless POISON is set. -/
def layMemWrite : Layout := ⟨0x0B04, 16, true, fun p =>
  [.rng 8 4 1 16777200, .bits 12 1 0xF8, .rsv 13 3, .cond (bit (fld p 12 1) 0 || 16 + fld p 8 4 ≤ p.length)], fun _ => []⟩

/-- Store the poison pattern in, or mark with an injected error, every word of a range. -/
def State.injectWords (s : State) (a n fl : Nat) : State :=
  (wordsOf a n).foldl (fun s w =>
    if bit fl 0 then s.poisonWord w
    else { s with mem := { s.mem with marks := s.mem.marks.set w (if bit fl 1 then .ce else .ue) } }) s

def bodyMemWrite (i : CmdIn) (s : State) : Ans :=
  let p := i.p
  let a := fld p 0 8
  let n := fld p 8 4
  let fl := fld p 12 1
  let data := (p.drop 16).take n
  let w := cmdWho i.fn false
  if fl != 0 && ((maskBits fl 3).length != 1 || a % wordSize a != 0 || n % wordSize a != 0 || (spanAt a).place == .host) then
    refuse s .badParam
  else if !s.mayName i.fn a n true false || (fl != 0 && i.fn != 0) then refuse s .notPermitted
  else if (spanAt a).place == .host then ok (s.emit (.hostWrite i.fn (a - 0x800000000000) data false)) []
  else match s.access w a n true with
    | .success =>
      let s := s.clockFor a
      let s := if bit fl 0 then s else s.write w a data false
      ok (if fl = 0 then s else s.injectWords a n fl) []
    | st => refuse (if s.retiredIn a n then s.logRetired w a else s) st

def execMemWrite (c : CmdRef) (s : State) : Host.Outcome State Fault Refusal := .next (runCmd layMemWrite c bodyMemWrite s)

/-! ## Error logs and retraining -/

/-- The 32 bytes of a log entry (Table 16-4). -/
def State.logBytes (s : State) (e : LogEntry) : List Byte :=
  leBytes 4 e.seq ++ leBytes 1 e.kind ++ leBytes 1 e.memory ++ leBytes 2 e.source ++ leBytes 6 e.addr ++ leBytes 2 e.count
    ++ leBytes 2 e.syndrome ++ leBytes 2 e.init ++ leBytes 4 e.task ++ s.ts32 e.frc

/-- The device log's header (R466). -/
def State.logHeader (s : State) : List Byte :=
  leBytes 8 s.mem.written ++ leBytes 8 s.mem.overflow ++ leBytes 4 1 ++ leBytes 4 65536

/-- Put one entry into the device log (R466). -/
def State.copyEntry (s : State) (e : LogEntry) : State :=
  let w : Who := ⟨initMelvi, none, false, none⟩
  let s := s.write w (hbmDump + 64 + 32 * (s.mem.written % 65536)) (s.logBytes e) false
  let s := { s with mem := { s.mem with written := s.mem.written + 1 } }
  s.write w hbmDump s.logHeader false

/-- ERRLOG_COPY: Melvi copies a region's new log entries into the device log, oldest first (R463). -/
def doErrlogCopy (t r : Nat) (s : State) : State :=
  let s := s.advance t
  let l := s.log r
  if s.host.server != .melvi then s
  else
    let new := (l.entries.take (l.entries.length - l.copied)).reverse
    let s := new.foldl (fun s e => s.copyEntry e) s
    { s with mem := { s.mem with logs := s.mem.logs.upd r fun l => { l with copied := l.entries.length } } }

def execErrlogCopy (t r : Nat) (s : State) : Host.Outcome State Fault Refusal := .next (doErrlogCopy t r s)

/-- A stack's temperature has moved 15 °C from that of its last training, or it has none that the model knows (R455). -/
def State.retrainDue (s : State) (stack temp : Nat) : Bool :=
  match s.mem.trained.find? stack with
  | some old => 15 ≤ (sgn 8 temp - old).natAbs
  | none => true

/-- HBM_RETRAIN: a stack whose temperature has moved stops for retraining and the event is posted (R455, Table 16-5). -/
def doHbmRetrain (t stack temp : Nat) (s : State) : State :=
  let s := s.advance t
  if 2 ≤ stack || s.dark || !s.retrainDue stack temp then s
  else
    let s := { s with mem := { s.mem with
      retraining := s.mem.retraining.set stack (), trained := s.mem.trained.set stack (sgn 8 temp) } }
    s.postAll 0x0B05 0 (stack + 256 * (temp % 256))

def execHbmRetrain (t stack temp : Nat) (s : State) : Host.Outcome State Fault Refusal := .next (doHbmRetrain t stack temp s)

/-- HBM_RETRAIN_DONE: the stack serves requests again (R455). -/
def doHbmRetrainDone (t stack : Nat) (s : State) : State :=
  let s := s.advance t
  let s := { s with mem := { s.mem with retraining := s.mem.retraining.del stack } }
  s.releaseMesh fun h => h == .retrain stack

def execHbmRetrainDone (t stack : Nat) (s : State) : Host.Outcome State Fault Refusal := .next (doHbmRetrainDone t stack s)

end Sys2Proof.Machine
end

