-- ==== Sys2Proof/Machine/Lane.lean ====
section
/-! DEFINITION. Serial lanes and peer ports (chapter 10): bring-up, losses, tests, LANE_CONFIG, LANE_STATUS, LOOPBACK_SET. -/

namespace Sys2Proof.Machine

/-! ## Stages (R289 to R294) -/

/-- A peer port's data lanes have all completed stage 5. -/
def Lane.subDone (l : Lane) : Bool := l.sub.all fun x => 6 ≤ x
/-- The stage a lane or port reports: the least advanced of a port's lanes. -/
def Lane.report (peer : Bool) (l : Lane) : Nat :=
  if l.stage = 0 || l.stage = 14 || !peer || l.subDone then l.stage else l.sub.foldl min 6
/-- The stage of one physical lane. -/
def Lane.stageOf (peer : Bool) (k : Nat) (l : Lane) : Nat := if peer && l.stage = 6 then l.sub.getD k 0 else l.stage
/-- Put one physical lane into a stage (of 1 to 6 on a peer port). -/
def Lane.toStage (peer : Bool) (k v : Nat) (l : Lane) : Lane :=
  let l := if v = 3 then { l with good := l.cfg.eqiGood, floor := l.cfg.eqiFloor } else l
  if peer && v ≤ 6 then { l with sub := l.sub.set k v, stage := 6 } else { l with stage := v }

/-- No LOS on any receive lane. -/
def Lane.signal (peer : Bool) (l : Lane) : Bool := if peer then l.los == 0 else !l.los.testBit 0

/-- The lane is a member of a multi-lane Ethernet port. -/
def State.multiLane (s : State) (n : Nat) : Bool := (s.lanePort n).any fun p => 1 < portLanes p.2.ptype

/-- PAM4 rates. -/
def pam4 (rate : Nat) : Bool := rate == 3 || rate == 0x13

/-- Polarity detection applies to a lane: TLF, NRZ Ethernet, peer ports, with POL_MODE automatic (R289, R291). -/
def Lane.detects (l : Lane) : Bool := l.cfg.polMode == 0 && l.cfg.mode != 3 && !pam4 l.cfg.rate

/-- Pass the stages that are satisfied or do not apply: 1 with signal, 5, 6 and 7 as they apply, 8 in test-only mode. -/
def Lane.pass (peer multi : Bool) : (fuel : Nat) → Lane → Lane
  | 0, l => l
  | fuel + 1, l =>
    if l.holding || l.stage = 0 || l.stage = 14 then l
    else if peer then
      let sub := l.sub.map fun x => if x = 1 && l.los = 0 then 2 else if x = 5 && !l.detects then 6 else x
      { l with sub := sub }
    else if l.stage = 1 && l.signal false then Lane.pass peer multi fuel { l with stage := 2 }
    else if l.stage = 5 && !l.detects then Lane.pass peer multi fuel { l with stage := 6 }
    else if (l.stage = 6 || l.stage = 7) && !multi then Lane.pass peer multi fuel { l with stage := l.stage + 1 }
    else if l.stage = 8 && l.cfg.mode = 3 then { l with stage := 9 }
    else l

/-! ## The transmitter (R287, R288, R294, R298, R299) -/

/-- The NOT of the XOR of bytes (CHECK of R287, R311, R315, R316). -/
def checkOf (bs : List Byte) : Nat := 255 - bs.foldl (fun x c => x ^^^ c.toNat) 0

/-- A training block that the device sends on logical lane `k` (Table 10-2). -/
def State.trainingBlock (s : State) (n k seq : Nat) (ready : Bool) : List Byte :=
  let b := [0xB4] ++ leBytes 1 k ++ leBytes 1 (b2n ready + 2 * b2n (isPeer n)) ++ leBytes 1 seq ++ leBytes 2 (s.deviceId % 1024)
    ++ leBytes 1 (if isPeer n then n - 256 else n)
  b ++ leBytes 1 (checkOf b)

/-- Delays of the polynomial of a PRBS (Table 10-6). -/
def prbsTaps (code : Nat) : Nat × Nat :=
  match code with
  | 1 => (7, 6) | 2 => (15, 14) | 3 => (23, 18) | _ => (31, 28)

/-- Bits of a PRBS from its last bits, newest first. -/
def prbsBits (code : Nat) : (n : Nat) → List Bool → List Bool
  | 0, _ => []
  | n + 1, st =>
    let t := prbsTaps code
    let b := st.getD (t.1 - 1) false != st.getD (t.2 - 1) false
    b :: prbsBits code n (b :: st.take (t.1 - 1))

/-- Bytes of bits, the first bit lowest. -/
def bitBytes (bs : List Bool) : List Byte :=
  (List.range (bs.length / 8)).flatMap fun i => leBytes 1 (maskOf ((List.range 8).filter fun j => bs.getD (8 * i + j) false))

/-- L0 drives the pads of a lane: powered, not held (R307, R491), no EXTEST (R615). -/
def State.padsOn (s : State) (n : Nat) : Bool :=
  let l := s.lane n
  (s.laneLive n || (s.pow.mode == .fault && !s.asleep 13)) && !s.pins.extest
    && (l.cfg.listen || !(if isPeer n then s.pow.heldPeer.testBit (n - 256) else s.pow.heldQuads.testBit (n / 4)))

/-- What a lane's transmitter sends. RX_READY is set once the receiver has completed every stage before the last. -/
def State.laneTx (s : State) (n : Nat) : LaneTx :=
  let l := s.lane n
  if l.cfg.mode = 0 || !l.cfg.txEn || l.cfg.listen || !s.padsOn n then .idle
  else if l.loop = 3 then .echo
  else if l.loop != 0 && !l.txKeep then .idle
  else if l.gen != 0 then .prbs l.gen l.invert
  else if (l.cfg.mode == 1 || l.cfg.mode == 4) && !l.traffic then .training ((l.stage == 8 || l.stage == 9) && !l.holding)
  else .traffic

/-- What a transmitter begins with: training blocks of equal SEQ on every lane, the first bits of a PRBS; SEQ and the generators' start
are free values. -/
def State.txFirst (s : State) (n : Nat) (x : LaneTx) : List (List Byte) × State :=
  let ks := List.range (if isPeer n then 16 else 1)
  match x with
  | .training ready => let (q, s) := s.draw; (ks.map fun k => s.trainingBlock n k (q % 256) ready, s)
  | .prbs code inv =>
    let (q, s) := s.draw
    (ks.map fun k => bitBytes ((prbsBits code 64 ((List.range 31).map fun i => (2 * (q + k) + 1).testBit i)).map fun b => b != inv), s)
  | _ => ([], s)

/-- The transmitter follows the lane's state. -/
def State.settleTx (s : State) (n : Nat) : State :=
  let x := s.laneTx n
  if x = (s.lane n).txNow then s
  else
    let (first, s) := (s.modLane n fun l => { l with txNow := x }).txFirst n x
    s.emit (.laneTx n x (s.lane n).cfg.txInv first)

/-- Every transmitter follows. -/
def State.settleAllTx (s : State) : State := s.line.lanes.keys.foldl (fun s n => s.settleTx n) s

/-- A lane that has just completed its last stage: up, LANE_UP posted. -/
def State.laneUp (s : State) (n : Nat) : State :=
  (s.modLane n fun l => { l with stage := 9, everUp := true, upAt := some s.time.frc }).postLane n 0x0401 0 n

/-- The PCS of an Ethernet lane is up: with a port whose lanes have all reached stage 8, the port and its lanes (R289). -/
def State.portUp (s : State) (n : Nat) : State :=
  match s.lanePort n with
  | none => if (s.lane n).stage == 8 && (s.lane n).cfg.mode == 2 then s.laneUp n else s
  | some (p, e) =>
    if !e.up && e.lanes.all fun m => (s.lane m).stage == 8 || (s.lane m).stage == 9 then
      let s := e.lanes.foldl (fun s m => if (s.lane m).stage == 8 then s.laneUp m else s) s
      (s.modPort p fun e => { e with up := true }).post (s.macOwner p) 0x0420 1 (p + 256)
    else s

/-- Go on from the present stage as far as it goes. -/
def State.laneSettle (s : State) (n : Nat) : State :=
  let was := (s.lane n).stage
  let s := s.modLane n (Lane.pass (isPeer n) (s.multiLane n) 8)
  let l := s.lane n
  let s := if l.stage = 9 && was != 9 then s.laneUp n else s
  (s.noteLane n).settleTx n

/-- A lane leaves Up: LANE_DOWN with a cause; its port is down (R294). -/
def State.laneDown (s : State) (n cause : Nat) : State :=
  if (s.lane n).stage != 9 then s
  else
    let s := s.modLane n fun l => { l with upAt := none, traffic := l.traffic && !isPeer n }
    let s := s.postLane n 0x0402 2 (n + 4096 * cause)
    match s.lanePort n with
    | some (p, e) => if e.up then (s.modPort p fun e => { e with up := false }).post (s.macOwner p) 0x0420 1 p else s
    | none => s

/-- Restart a receiver from stage 1; the inversion is forgotten (R291). -/
def State.restart1 (s : State) (n cause : Nat) : State :=
  let s := s.laneDown n cause
  let s := s.modLane n fun l =>
    if l.cfg.mode = 0 || !l.cfg.rxEn then { l with stage := 0, holding := false }
    else { l with
      stage := if isPeer n then 6 else 1, sub := List.replicate 16 1, holding := false, farReady := false
      inverted := if l.cfg.polMode = 2 then (if isPeer n then 65535 else 1) else 0
      map := List.range 16, skew := List.replicate 16 0 }
  (s.losesFrame n).laneSettle n

/-- Restart from stage 2 or 4 after an event on a physical lane; the forwarded clock takes every lane with it. -/
def State.restartFrom (s : State) (n k v cause : Nat) : State :=
  let s := s.laneDown n cause
  let s := s.modLane n fun l =>
    if isPeer n then { l with stage := 6, sub := if k < 16 then l.sub.set k (min v (l.sub.getD k 0)) else l.sub.map (min v) }
    else { l with stage := v }
  (s.losesFrame n).laneSettle n

/-- PCS_UP: alignment markers have locked on an Ethernet lane. -/
def execPcsUp (t n : Nat) (s : State) : Host.Outcome State Fault Refusal := .next ((s.advance t).portUp n)

/-! ## Signal and lock (R296, R297, Table 10-4) -/

/-- A receiver is past a stage, at one physical lane; for the forwarded clock at any data lane. -/
def Lane.past (peer : Bool) (k v : Nat) (l : Lane) : Bool :=
  l.stage != 14 && !l.holding && (if k < 16 then v < l.stageOf peer k else (List.range 16).any fun i => v < l.stageOf peer i)

/-- LOS_SET: the amplitude has stayed below LOS_MV for more than 1 µs. -/
def doLosSet (t n : Nat) (v : LevelEv) (s : State) : State :=
  let s := s.advance t
  let k := v.k
  if !s.laneLive n || (s.lane n).los.testBit k || (s.lane n).cfg.losMv ≤ v.mv || v.ns ≤ 1000 then s
  else
    let past := (s.lane n).past (isPeer n) k 2
    let s := s.modLane n fun l => { l with los := l.los ||| 1 <<< k, losCount := sat32 (l.losCount + 1) }
    let s := s.noteLane n
    if past then s.restart1 n 1 else s

def execLosSet (t n : Nat) (k : LevelEv) (s : State) : Host.Outcome State Fault Refusal := .next (doLosSet t n k s)

/-- LOS_CLEAR: the amplitude has stayed above LOS_MV + 20 mV for 1 µs. -/
def doLosClear (t n : Nat) (v : LevelEv) (s : State) : State :=
  let s := s.advance t
  let k := v.k
  if !s.laneLive n || !(s.lane n).los.testBit k || v.mv ≤ (s.lane n).cfg.losMv + 20 || v.ns < 1000 then s
  else (s.modLane n fun l => { l with los := l.los - 1 <<< k }).laneSettle n

def execLosClear (t n : Nat) (k : LevelEv) (s : State) : Host.Outcome State Fault Refusal := .next (doLosClear t n k s)

/-- LOL holds of what a CDR or DLL has seen: more than 300 ppm off over 10 µs, or its detector saturated for 1 µs. -/
def ClockEv.lost (v : ClockEv) : Bool := (30000 < v.off.natAbs && 10000 ≤ v.ns) || 1000 ≤ v.satNs
/-- LOL clears: within 200 ppm for 10 µs, the detector unsaturated. -/
def ClockEv.good (v : ClockEv) : Bool := v.off.natAbs ≤ 20000 && 10000 ≤ v.ns && v.satNs == 0

/-- LOL_SET. -/
def doLolSet (t n : Nat) (v : ClockEv) (s : State) : State :=
  let s := s.advance t
  let k := v.k
  if !s.laneLive n || (s.lane n).lol.testBit k || !v.lost then s
  else
    let past := (s.lane n).past (isPeer n) k 2
    let s := s.modLane n fun l => { l with lol := l.lol ||| 1 <<< k, lolCount := sat32 (l.lolCount + 1) }
    if past then s.restartFrom n k 2 2 else s

def execLolSet (t n : Nat) (k : ClockEv) (s : State) : Host.Outcome State Fault Refusal := .next (doLolSet t n k s)

/-- LOL_CLEAR. -/
def doLolClear (t n : Nat) (v : ClockEv) (s : State) : State :=
  let s := s.advance t
  let k := v.k
  if !s.laneLive n || !(s.lane n).lol.testBit k || !v.good then s
  else s.modLane n fun l => { l with lol := l.lol - 1 <<< k }

def execLolClear (t n : Nat) (k : ClockEv) (s : State) : Host.Outcome State Fault Refusal := .next (doLolClear t n k s)

/-! ## Bring-up (R289 to R293) -/

/-- A receiver waits in a stage at one physical lane. -/
def State.inStage (s : State) (n k v : Nat) : Bool :=
  let l := s.lane n
  s.laneLive n && !l.holding && l.stage != 14 && l.stageOf (isPeer n) k == v

/-- Lock holds: on a long-reach lane LOL has been clear for 10 µs; on a peer port the DLL and the forwarded clock are locked (Table 10-3). -/
def Lane.locked (peer : Bool) (k frc : Nat) (l : Lane) : Bool :=
  !l.lol.testBit k && (if peer then !l.lol.testBit 16 else l.lolOff.getD k 0 + usToFrc 10 ≤ frc)

/-- LOCK_COMPLETE: lock holds; the received frequency offset in 0.01 ppm. -/
def doLockComplete (t n k : Nat) (freq : Int) (s : State) : State :=
  let s := s.advance t
  let l := s.lane n
  if s.inStage n k 2 && l.locked (isPeer n) k s.time.frc then
    (s.modLane n fun l => { l.toStage (isPeer n) k 3 with freq := unsgn 16 freq }).laneSettle n
  else s

def execLockComplete (t n k : Nat) (freq : Int) (s : State) : Host.Outcome State Fault Refusal := .next (doLockComplete t n k freq s)

/-- A stage did not complete in time (R290): hold for 1 ms; LANE_BRINGUP_FAIL at most once per second. -/
def State.bringupFail (s : State) (n stage : Nat) : State :=
  let l := s.lane n
  let post := match l.failAt with
    | none => true
    | some f => f + 983040000 ≤ s.time.frc
  let s := s.modLane n fun l => { l with
    holding := true, restarts := sat32 (l.restarts + 1), failAt := if post then some s.time.frc else l.failAt }
  (if post then s.postLane n 0x0404 1 (n + 4096 * stage) else s).settleTx n

/-- A physical lane goes on to stage 4 with the taps that stage 3 has left (R535, R539). -/
def State.adapted (s : State) (n k : Nat) (taps : List Int) : State :=
  let s := s.modLane n fun l => l.toStage (isPeer n) k 4
  let c := s.cal.lanes.get LaneCal.reset (n * 16 + k)
  let c := { c with base := taps, taps := taps }
  { s with cal := { s.cal with lanes := s.cal.lanes.set (n * 16 + k) c } }

/-- The FRC at which the stage of a physical lane began. -/
def Lane.began (peer : Bool) (k : Nat) (l : Lane) : Nat := if peer && l.stage = 6 then l.subAt.getD k 0 else l.since

/-- The time-out of a stage in FRC counts (Table 10-3). -/
def stageLimit (peer : Bool) (stage : Nat) : Nat :=
  if stage = 3 then msToFrc (if peer then 5 else 20) else if stage = 8 then msToFrc 10 else msToFrc 1

/-- ADAPTATION_COMPLETE: EQI good without a break for 1 ms, or the time-out of stage 3; `taps` are the receive taps it leaves. -/
def doAdaptationComplete (t n k : Nat) (timeout : Bool) (taps : List Int) (s : State) : State :=
  let s := s.advance t
  let l := s.lane n
  let q := l.eqis.getD k 0
  if !(s.inStage n k 3) then s
  else if l.good ≤ q && l.goodAt.getD k 0 + msToFrc 1 ≤ s.time.frc then (s.adapted n k taps).laneSettle n
  else if !timeout || s.time.frc < l.began (isPeer n) k + stageLimit (isPeer n) 3 then s
  else if l.floor ≤ q then
    let s := s.adapted n k taps
    (if q < l.good then s.postLane n 0x0403 1 (n + 65536 * q) else s).laneSettle n
  else s.bringupFail n 3

def execAdaptationComplete (t n k : Nat) (timeout : Bool) (taps : List Int) (s : State) : Host.Outcome State Fault Refusal :=
  .next (doAdaptationComplete t n k timeout taps s)

/-- Mark a physical lane inverted or not. -/
def Lane.setInv (l : Lane) (k : Nat) (inv : Bool) : Lane :=
  { l with inverted := if inv then l.inverted ||| 1 <<< k else l.inverted - (l.inverted &&& 1 <<< k) }

/-- BLOCK_LOCK: 64 valid sync headers; on a PAM4 lane under the polarity setting that locks. -/
def doBlockLock (t n k : Nat) (inv : Bool) (s : State) : State :=
  let s := s.advance t
  if s.inStage n k 4 then
    (s.modLane n fun l =>
      let l := l.toStage (isPeer n) k 5
      if pam4 l.cfg.rate && l.cfg.polMode = 0 then l.setInv k inv else l).laneSettle n
  else s

def execBlockLock (t n k : Nat) (inv : Bool) (s : State) : Host.Outcome State Fault Refusal := .next (doBlockLock t n k inv s)

/-- A block is a training block: a control block with TYPE 0xB4 and CHECK (R287). -/
def trainingOk (ctl : Bool) (b : List Byte) : Bool :=
  ctl && fld b 0 1 == 0xB4 && b.length == 8 && fld b 7 1 == 255 - ((b.take 7).foldl (fun x c => x ^^^ c.toNat) 0)

/-- What 64 blocks show of a lane's polarity (R291): inverted when every one is a data block whose inverse is a training block, or on
Ethernet an idle block; as received when every one is such a block; else nothing. -/
def polarityOf (eth : Bool) (bs : List (Bool × List Byte)) : Option Bool :=
  let fits (ctl : Bool) (b : List Byte) : Bool := if eth then ctl && b.length == 8 && fld b 0 1 == 0x1E else trainingOk ctl b
  if bs.length != 64 then none
  else if bs.all fun b => !b.1 && fits true (b.2.map fun x => ~~~x) then some true
  else if bs.all fun b => fits b.1 b.2 then some false
  else none

/-- POLARITY_DETECT: 64 blocks decide. -/
def doPolarityDetect (t n k : Nat) (bs : List (Bool × List Byte)) (s : State) : State :=
  let s := s.advance t
  match polarityOf ((s.lane n).cfg.mode == 2) bs with
  | some inv => if s.inStage n k 5 then (s.modLane n fun l => (l.toStage (isPeer n) k 6).setInv k inv).laneSettle n else s
  | none => s

def execPolarityDetect (t n k : Nat) (inv : List (Bool × List Byte)) (s : State) : Host.Outcome State Fault Refusal := .next (doPolarityDetect t n k inv s)

/-- Each number 0 to 15 exactly once. -/
def isPerm16 (l : List Nat) : Bool := l.length == 16 && (List.range 16).all fun i => l.contains i

/-- LANE_ORDER: the logical lane number that each physical lane carries; in multi-lane Ethernet the alignment markers. -/
def doLaneOrder (t n : Nat) (nums : List Nat) (s : State) : State :=
  let s := s.advance t
  let l := s.lane n
  if isPeer n then
    if s.laneLive n && !l.holding && l.stage == 6 && l.subDone && isPerm16 nums then
      (s.modLane n fun l => { l with stage := 7, map := (List.range 16).map fun i => nums.findIdx (· == i) }).laneSettle n
    else s
  else if s.inStage n 0 6 && s.multiLane n then (s.modLane n fun l => { l with stage := 7 }).laneSettle n
  else s

def execLaneOrder (t n : Nat) (nums : List Nat) (s : State) : Host.Outcome State Fault Refusal := .next (doLaneOrder t n nums s)

/-- DESKEW: the arrival times of equal SEQ on the physical lanes, in UI. -/
def doDeskew (t n : Nat) (arr : List Nat) (s : State) : State :=
  let s := s.advance t
  let hi := arr.foldl max 0
  let lo := arr.foldl min hi
  if isPeer n then
    if s.inStage n 0 7 && arr.length == 16 && hi - lo ≤ 128 then
      (s.modLane n fun l => { l with stage := 8, skew := arr.map fun a => hi - a }).laneSettle n
    else s
  else if s.inStage n 0 7 && s.multiLane n then (s.modLane n fun l => { l with stage := 8 }).laneSettle n
  else s

def execDeskew (t n : Nat) (arr : List Nat) (s : State) : Host.Outcome State Fault Refusal := .next (doDeskew t n arr s)

/-- HANDSHAKE: the own receiver has completed every stage before the last and the far end is ready: traffic (R288). -/
def doHandshake (t n : Nat) (s : State) : State :=
  let s := s.advance t
  let l := s.lane n
  if !s.laneLive n || l.holding || !l.cfg.txEn || !l.farReady || !(l.cfg.mode == 1 || l.cfg.mode == 4)
      || !(l.stage == 8 || l.stage == 9) then s
  else
    let s := s.modLane n fun l => { l with traffic := true }
    (if isPeer n && l.stage == 8 then s.laneUp n else s).settleTx n

def execHandshake (t n : Nat) (s : State) : Host.Outcome State Fault Refusal := .next (doHandshake t n s)

/-- TRAINING_BLOCK_RX: a received block's header and 8 bytes; on a peer port it is a lane marker, and timestamped (R84). -/
def doTrainingBlockRx (t n : Nat) (ctl : Bool) (b : List Byte) (s : State) : State :=
  let s := s.advance t
  let l := s.lane n
  if !s.laneLive n || !trainingOk ctl b || l.cfg.noHs || !(l.cfg.mode == 1 || l.cfg.mode == 4) || l.report (isPeer n) < 5
      || l.stage == 14 then s
  else
    let ready := bit (fld b 2 1) 0
    let s := s.modLane n fun l => { l with
      farReady := ready, farDevice := fld b 4 2 % 1024, farPort := fld b 6 1
      marker := if isPeer n then some s.time.frc else l.marker }
    if ready then s
    else if isPeer n then
      if l.stage = 9 then ((s.laneDown n 4).modLane n fun l => { l with stage := 8, traffic := false }).settleTx n else s
    else (s.modLane n fun l => { l with traffic := l.traffic && !l.everUp }).settleTx n

def execTrainingBlockRx (t n : Nat) (ctl : Bool) (b : List Byte) (s : State) : Host.Outcome State Fault Refusal :=
  .next (doTrainingBlockRx t n ctl b s)

/-- SYNC_HEADER_LOSS: invalid sync headers within 64 blocks of a lane in block lock: counted, and 16 or more restart it. -/
def doSyncHeaderLoss (t n k count : Nat) (s : State) : State :=
  let s := s.advance t
  if !s.laneLive n || !((s.lane n).past (isPeer n) k 4) then s
  else
    let s := s.modLane n fun l => { l with hdrErr := sat32 (l.hdrErr + count) }
    if count < 16 then s else s.restartFrom n k 4 3

def execSyncHeaderLoss (t n k count : Nat) (s : State) : Host.Outcome State Fault Refusal := .next (doSyncHeaderLoss t n k count s)

/-- Stages that have a time-out (Table 10-3). -/
def hasTimeout (peer : Bool) (stage : Nat) : Bool := (2 ≤ stage && stage ≤ 7) || (peer && stage == 8)

/-- Every physical lane that waits in stage 3 has an EQI of at least EQI_FLOOR: the time-out then passes it on (Table 10-3). -/
def Lane.aboveFloor (peer : Bool) (l : Lane) : Bool :=
  (List.range (if peer then 16 else 1)).all fun k => l.stageOf peer k != 3 || l.floor ≤ l.eqis.getD k 0

/-- A reported stage has lasted its time-out: of a peer port's stages up to 5 on some lane, stage 6 since the last lane reached it. -/
def Lane.overdue (peer : Bool) (stage frc : Nat) (l : Lane) : Bool :=
  let late (k : Nat) : Bool := l.began peer k + stageLimit peer stage ≤ frc
  let ks := List.range (if peer then 16 else 1)
  if stage = 6 then ks.all late else ks.any fun k => l.stageOf peer k == stage && late k

/-- BRINGUP_TIMEOUT: a stage misses its time-out; stage 3 only below EQI_FLOOR (R290). -/
def doBringupTimeout (t n : Nat) (s : State) : State :=
  let s := s.advance t
  let l := s.lane n
  let st := l.report (isPeer n)
  if !s.laneLive n || l.holding || l.stage == 14 || !(hasTimeout (isPeer n) st)
      || !(l.overdue (isPeer n) st s.time.frc) || (st == 3 && l.aboveFloor (isPeer n)) then s
  else s.bringupFail n st

def execBringupTimeout (t n : Nat) (s : State) : Host.Outcome State Fault Refusal := .next (doBringupTimeout t n s)

/-- BRINGUP_RESTART: the hold of 1 ms ends. -/
def doBringupRestart (t n : Nat) (s : State) : State :=
  let s := s.advance t
  if s.laneLive n && (s.lane n).holding && (s.lane n).holdAt + msToFrc 1 ≤ s.time.frc then s.restart1 n 5 else s

def execBringupRestart (t n : Nat) (s : State) : Host.Outcome State Fault Refusal := .next (doBringupRestart t n s)

/-- EQI of a millisecond's samples (R295): the largest n from 0 to 255 with 10^(n / 80) ≤ d² / mean(e²); no error at all gives 255. -/
def eqiOf (v : EyeEv) : Nat :=
  let num := v.d.natAbs ^ 2 * v.e.length
  let den := (v.e.map fun x => x.natAbs ^ 2).sum
  if den = 0 then 255
  else ((List.range 256).filter fun n => 10 ^ n * den ^ 80 ≤ num ^ 80).foldl max 0

/-- EQI_UPDATE: a millisecond of a physical lane has ended (R295). -/
def doEqiUpdate (t n k : Nat) (v : EyeEv) (s : State) : State :=
  let s := s.advance t
  let at_ := (s.lane n).eqiAt.getD k 0
  if !s.laneLive n || (s.lane n).cfg.mode = 0 || (at_ != 0 && s.time.frc < at_ + msToFrc 1) then s
  else
    let q := eqiOf v
    s.modLane n fun l => { l with
      eqis := l.eqis.set k q, eqiAt := l.eqiAt.set k s.time.frc
      goodAt := if l.good ≤ q && l.eqis.getD k 0 < l.good then l.goodAt.set k s.time.frc else l.goodAt }

def execEqiUpdate (t n k : Nat) (v : EyeEv) (s : State) : Host.Outcome State Fault Refusal := .next (doEqiUpdate t n k v s)

/-! ## LANE_CONFIG (R302, R303) -/

/-- The function may name a lane; peer ports are function 0's (R280). -/
def State.mayLane (s : State) (fn n : Nat) : Bool := if isPeer n then fn = 0 else s.ownsLane fn n

def laneCfgOf (p : List Byte) : LaneCfg :=
  let f := fld p 4 1
  ⟨fld p 2 1, fld p 3 1, bit f 0, bit f 1, bit f 2, bit f 3, bit f 4, fld p 5 1, fld p 6 1, fld p 7 1, fld p 8 2, fld p 10 1,
    fld p 11 1, fld p 12 1⟩

/-- RATE belongs to MODE. -/
def laneRateOk (mode rate : Nat) : Bool :=
  match mode with
  | 0 => rate == 0
  | 1 => 1 ≤ rate && rate ≤ 3
  | 2 => 0x11 ≤ rate && rate ≤ 0x13
  | 3 => (1 ≤ rate && rate ≤ 3) || (0x11 ≤ rate && rate ≤ 0x13)
  | _ => rate == 0x20

def layLaneConfig : Layout := ⟨0x0401, 16, false, fun p =>
  let c := laneCfgOf p
  let n := fld p 0 2
  [.cond (laneOk n), .rng 2 1 0 4, .bits 4 1 0xE0, .rng 5 1 0 2, .rng 6 1 1 255, .rng 8 2 20 200, .rng 10 1 40 120, .rng 11 1 0 15,
    .rng 12 1 0 31, .rsv 13 3, .cond (laneRateOk c.mode c.rate),
    .cond ((c.mode == 4) == isPeer n),
    .cond (!c.listen || ((n == 0 || n == 64) && c.mode == 1 && c.rate == 1 && !c.txEn)),
    .cond (!c.noHs || (c.mode == 1 && c.polMode != 0)), .cond (c.eqiFloor ≤ c.eqiGood)], fun _ => []⟩

/-- PLL_E family of a rate: 1 for A, 2 for B (R282). -/
def pllFamily (rate : Nat) : Nat := if rate = 0x11 || rate = 0x12 then 1 else if rate = 0x13 then 2 else 0

/-- A lane of a rate would need both families in its quad. -/
def State.pllClash (s : State) (n rate : Nat) : Bool :=
  pllFamily rate != 0 && (List.range 4).any fun i =>
    let m := n / 4 * 4 + i
    let f := pllFamily (s.lane m).cfg.rate
    m != n && (s.lane m).cfg.mode != 0 && f != 0 && f != pllFamily rate

def bodyLaneConfig (i : CmdIn) (s : State) : Ans :=
  let n := fld i.p 0 2
  let c := laneCfgOf i.p
  let o := (s.lane n).cfg
  let touches := o.mode != c.mode || o.rate != c.rate || (o.txEn && !c.txEn) || (o.rxEn && !c.rxEn)
  if !s.mayLane i.fn n || (touches && (if isPeer n then s.portEnabled (n - 256) else s.laneServes n)) then refuse s .notPermitted
  else if !isPeer n && s.pllClash n c.rate then refuse s .noResource
  else
    let again := o.mode != c.mode || o.rate != c.rate || o.rxEn != c.rxEn
    let fresh := o.mode != c.mode || o.rate != c.rate
    let s := s.modLane n fun l => { l with
      cfg := c
      traffic := if fresh then c.noHs && c.txEn else if c.noHs then c.txEn else l.traffic && c.txEn
      everUp := l.everUp && !fresh }
    let s := if fresh && !isPeer n then s.modTlf n fun t => { t with tx := none, rxSlots := [], farAps := none } else s
    let s := if again && (s.lane n).stage != 14 then s.restart1 n 5 else s.settleTx n
    ok s []

/-- LANE_CONFIG. -/
def execLaneConfig (c : CmdRef) (s : State) : Host.Outcome State Fault Refusal := .next (runCmd layLaneConfig c bodyLaneConfig s)

/-! ## LANE_STATUS (R304) -/

/-- The inline result (Table 10-8). -/
def Lane.inline_ (peer : Bool) (l : Lane) : List Byte :=
  let eqi := if peer then l.eqis.foldl min 255 else l.eqis.getD 0 0
  let st := l.report peer
  let lock := 5 ≤ st && st ≤ 9
  let los := if peer then l.los != 0 else l.los.testBit 0
  let lol := if peer then l.lol != 0 else l.lol.testBit 0
  let flags := b2n (l.cfg.mode != 0 && los) + 2 * b2n (l.cfg.mode != 0 && lol) + 4 * b2n lock + 8 * b2n (l.inverted != 0)
    + 16 * b2n (peer && l.map != List.range 16) + 32 * b2n l.farReady + 64 * b2n (l.loop != 0) + 128 * b2n (l.gen != 0 || l.chk != 0)
  leBytes 1 st ++ leBytes 1 flags ++ leBytes 1 eqi ++ zeros 1 ++ leBytes 2 l.eyeW ++ leBytes 2 l.eyeH ++ leBytes 4 l.restarts
    ++ leBytes 2 l.freq ++ zeros 2

/-- The 128-byte buffer. -/
def Lane.buffer (peer : Bool) (frc : Nat) (l : Lane) : List Byte :=
  let up := (l.upAt.map fun u => sat32 ((frc - u) / 983040)).getD 0
  let nib (i : Nat) : Nat := l.map.getD i 0
  let map := if peer then (List.range 8).flatMap fun i => leBytes 1 (nib (2 * i) + 16 * nib (2 * i + 1)) else zeros 8
  l.inline_ peer ++ leBytes 4 up ++ leBytes 4 l.hdrErr ++ leBytes 4 l.losCount ++ leBytes 4 l.lolCount
    ++ (if peer then l.eqis.flatMap fun e => leBytes 1 e else zeros 16) ++ map
    ++ leBytes 2 (if peer then l.inverted else 0) ++ leBytes 2 l.farDevice ++ leBytes 1 l.farPort ++ zeros 3
    ++ (if peer then l.skew.flatMap fun k => leBytes 2 k else zeros 32)
    ++ leBytes 1 (b2n (l.chk != 0 && l.prbsLock == if peer then 65535 else 1)) ++ leBytes 1 l.chk ++ zeros 6 ++ leBytes 8 l.prbsBits ++ leBytes 8 l.prbsErrors ++ zeros 8

/-- What a locked PRBS checker has counted since it was last read: open values, as the received bits are the environment's (log
entry 14). An unlocked checker counts nothing (R299). -/
def State.readPrbs (s : State) (n : Nat) : State :=
  if (s.lane n).prbsLock = 0 then s
  else
    let (b, s) := s.draw
    let (c, s) := s.draw
    let top (x : Nat) : Nat := min x (2 ^ 64 - 1)
    s.modLane n fun l => { l with prbsBits := top (l.prbsBits + b), prbsErrors := top (l.prbsErrors + min b c) }

/-- A checker's instance runs. -/
def State.checks (s : State) (v : PrbsEv) : Bool :=
  (s.lane v.lane).chk != 0 && (s.lane v.lane).stage == 14 && v.inst < (if isPeer v.lane then 16 else 1)

/-- At least 64 bits that each follow from those before them in the sequence, inverted with INVERT. -/
def prbsClean (code : Nat) (inv : Bool) (bs : List Bool) : Bool :=
  let (a, b) := prbsTaps code
  let x (i : Nat) : Bool := bs.getD i false != inv
  64 + a ≤ bs.length && (List.range (bs.length - a)).all fun i => x (a + i) == (x i != x (a + i - b))

/-- PRBS_CHECKER_LOCK: a running checker has seen 64 error-free bits; it locks and counts (R299). -/
def doPrbsCheckerLock (t : Nat) (v : PrbsEv) (s : State) : State :=
  let s := s.advance t
  let l := s.lane v.lane
  if !s.checks v || !prbsClean l.chk l.invert v.bits then s
  else (s.readPrbs v.lane).modLane v.lane fun l => { l with prbsLock := l.prbsLock ||| 1 <<< v.inst }

def execPrbsCheckerLock (t : Nat) (n : PrbsEv) (s : State) : Host.Outcome State Fault Refusal := .next (doPrbsCheckerLock t n s)

/-- PRBS_CHECKER_RELOCK: a locked checker has seen 64 errors within 1,024 bits; it loses lock and hunts again (R299). -/
def doPrbsCheckerRelock (t : Nat) (v : PrbsEv) (s : State) : State :=
  let s := s.advance t
  if !s.checks v || !(s.lane v.lane).prbsLock.testBit v.inst || 1024 < v.bits.length || (v.bits.filter id).length < 64 then s
  else (s.readPrbs v.lane).modLane v.lane fun l => { l with prbsLock := l.prbsLock - 1 <<< v.inst }

def execPrbsCheckerRelock (t : Nat) (n : PrbsEv) (s : State) : Host.Outcome State Fault Refusal := .next (doPrbsCheckerRelock t n s)

/-- Zero the counters that LANE_STATUS reads. -/
def Lane.cleared (l : Lane) : Lane :=
  { l with restarts := 0, hdrErr := 0, losCount := 0, lolCount := 0, prbsBits := 0, prbsErrors := 0 }

def layLaneStatus : Layout := ⟨0x0402, 16, false, fun p =>
  [.cond (laneOk (fld p 0 2)), .bits 2 1 0xFE, .rsv 3 1, optBuf (fld p 8 8) (fld p 4 4) 128],
  fun p => if fld p 8 8 = 0 then [] else [(fld p 8 8, fld p 4 4)]⟩

def bodyLaneStatus (i : CmdIn) (s : State) : Ans :=
  let n := fld i.p 0 2
  if !s.mayLane i.fn n then refuse s .notPermitted
  else
    let s := s.readPrbs n
    let l := s.lane n
    let inl := l.inline_ (isPeer n)
    let s' := if bit (fld i.p 2 1) 0 then s.modLane n Lane.cleared else s
    if fld i.p 8 8 = 0 then ok s' inl
    else (s', .done (.okBuf (fld i.p 8 8) (l.buffer (isPeer n) s.time.frc)))

/-- LANE_STATUS. -/
def execLaneStatus (c : CmdRef) (s : State) : Host.Outcome State Fault Refusal := .next (runCmd layLaneStatus c bodyLaneStatus s)

/-! ## LOOPBACK_SET (R298 to R301, R305) -/

def layLoopbackSet : Layout := ⟨0x0A08, 8, false, fun p =>
  let n := fld p 0 2
  let keep := bit (fld p 5 1) 1
  [.cond (laneOk n), .rng 2 1 0 3, .rng 3 1 0 4, .rng 4 1 0 4, .bits 5 1 0xF0, .rsv 6 2,
    .cond (!(isPeer n && fld p 2 1 == 1)), .cond (!(fld p 2 1 == 3 && fld p 3 1 != 0)),
    .cond (!keep || fld p 2 1 == 1 || fld p 2 1 == 2)], fun _ => []⟩

/-- The standby member of a pair whose selector is on the other (R300). -/
def State.standbyMember (s : State) (n : Nat) : Bool :=
  (s.laneGroup n).any fun g => if g.2.sel = 0 then g.2.prot == n else g.2.work == n

/-- A test may not run on the lane. -/
def State.testBarred (s : State) (n : Nat) : Bool :=
  (s.lane n).cfg.listen || (isPeer n && s.portEnabled (n - 256))
    || ((s.tsiUses n || !(s.streamsOn n).isEmpty) && !s.standbyMember n)

/-- A test begins or ends on a lane: while it lasts, the pair treats a standby member as failed (R300). -/
def State.testMember (s : State) (n : Nat) (on : Bool) : State :=
  if on then (if s.standbyMember n then s.sfRequest n true else s) else if (s.tlf n).sf then s else s.sfRequest n false

def bodyLoopbackSet (i : CmdIn) (s : State) : Ans :=
  let p := i.p
  let n := fld p 0 2
  let l := s.lane n
  let f := fld p 5 1
  let any := fld p 2 1 != 0 || fld p 3 1 != 0 || fld p 4 1 != 0
  if !s.mayLane i.fn n || (any && s.testBarred n) then refuse s .notPermitted
  else
    let s := s.readPrbs n
    let running := l.stage == 14
    let same := l.loop == fld p 2 1 && l.gen == fld p 3 1 && l.chk == fld p 4 1 && l.invert == bit f 0 && l.txKeep == bit f 1
    let s := if same then s
      else
        let s := if any then s.laneDown n 5 else s
        let s := s.modLane n fun l => { l with
          loop := fld p 2 1, gen := fld p 3 1, chk := fld p 4 1, invert := bit f 0, txKeep := bit f 1
          stage := if any then 14 else if running then 0 else l.stage, holding := false, prbsLock := 0 }
        if any then (s.losesFrame n).testMember n true else if running then (s.testMember n false).restart1 n 5 else s
    let s := if bit f 2 then s.modLane n fun l => { l with prbsBits := 0, prbsErrors := 0 } else s
    let s := s.settleTx n
    let s := if bit f 3 && fld p 3 1 != 0 then s.emit (.inject n) else s
    ok s ((s.lane n).inline_ (isPeer n))

/-- LOOPBACK_SET. -/
def execLoopbackSet (c : CmdRef) (s : State) : Host.Outcome State Fault Refusal := .next (runCmd layLoopbackSet c bodyLoopbackSet s)

/-! ## Resets and power of L0 (R307) -/

/-- L0 loses power or is reset: every lane but the listening ones goes down. -/
def State.linesDown (s : State) (all : Bool) : State :=
  s.line.lanes.keys.foldl (fun s n =>
    let l := s.lane n
    if l.cfg.listen && !all then s
    else
      let s := s.laneDown n 5
      let s := s.modLane n fun l => { l with
        stage := if l.cfg.mode = 0 || !l.cfg.rxEn then 0 else if isPeer n then 6 else 1, sub := List.replicate 16 1, holding := false
        inverted := if l.cfg.polMode = 2 then (if isPeer n then 65535 else 1) else 0
        map := List.range 16, skew := List.replicate 16 0, los := 131071, lol := 131071, farReady := false, traffic := l.cfg.noHs && l.cfg.txEn, everUp := false, loop := 0, gen := 0, chk := 0 }
      let s := s.modTlf n fun t => { t with tx := none, rxSlots := [], farAps := none }
      (s.losesFrame n).settleTx n) s

/-- L0 wakes: the stages of the lanes that slept begin anew (R307). -/
def State.linesWake (s : State) : State :=
  s.line.lanes.keys.foldl (fun s n =>
    (s.modLane n fun l => if l.cfg.listen then l else { l with since := s.time.frc, subAt := List.replicate 16 s.time.frc }).settleTx n) s

end Sys2Proof.Machine
end

