-- ==== Sys2Proof/Machine/Cells.lean ====
section
/-! DEFINITION. Cells (R141 to R143, R488): creation, change, hibernation, waking, deletion. -/

namespace Sys2Proof.Machine

/-- The checks of a CELL_CREATE layout at an offset, for the fields that a mask names (Table 4-14); the CELL field apart. -/
def cellChecks (o mask : Nat) : List Chk :=
  let f (k : Nat) (c : Chk) : List Chk := if bit mask k then [c] else []
  f 0 (.rng (o + 2) 1 0 4) ++ f 1 (.rng (o + 3) 1 0 1) ++ f 2 (.rng (o + 4) 2 1 275) ++ f 3 (.rng (o + 6) 2 1 256)
    ++ f 4 (.rng (o + 8) 2 1 256) ++ f 5 (.rng (o + 10) 1 1 32) ++ f 6 (.rng (o + 11) 1 1 16)
    ++ [.bits (o + 12) 2 0xFFE0, .rsv (o + 15) 1]

/-- ACS of all cells but one, downlink and uplink (R143). -/
def State.acsUsed (s : State) (but : Nat) : Nat × Nat :=
  (((s.cells.keep fun c _ => c != but).map fun e => e.2.acsDl).sum, ((s.cells.keep fun c _ => c != but).map fun e => e.2.acsUl).sum)

/-- More ACS than the device carries in a direction (R143). -/
def State.acsOver (s : State) (c dl ul : Nat) : Bool := 4096 < (s.acsUsed c).1 + dl || 4096 < (s.acsUsed c).2 + ul

def layCellCreate : Layout := ⟨0x0301, 16, false, fun _ => .rng 0 2 0 383 :: cellChecks 0 0x1FF, fun _ => []⟩

def bodyCellCreate (i : CmdIn) (s : State) : Ans :=
  let p := i.p
  let c := fld p 0 2
  if !s.ownsCell i.fn c || !(s.pow.mode == .service || s.pow.mode == .maint) || s.cells.has c then refuse s .notPermitted
  else if 384 ≤ s.cells.length || s.acsOver c (fld p 6 2) (fld p 8 2) then refuse s .noResource
  else match s.anchor? c with
    | none => refuse s .notReady
    | some tl =>
      let cell : Cell := ⟨.service, fld p 2 1, fld p 3 1, fld p 4 2, fld p 6 2, fld p 8 2, fld p 10 1, fld p 11 1, fld p 12 2,
        fld p 14 1, tl.num, false, false⟩
      ok { s with cells := s.cells.set c cell } []

def execCellCreate (c : CmdRef) (s : State) : Host.Outcome State Fault Refusal :=
  .next (runCmd layCellCreate c bodyCellCreate s)

def layCellModify : Layout := ⟨0x0302, 20, false, fun p =>
  .rng 0 2 0 383 :: .bits 2 2 0xFE00 :: cellChecks 4 (fld p 2 2), fun _ => []⟩

/-- A cell with the fields of a mask changed (Table 4-14). -/
def modCell (p : List Byte) (c : Cell) : Cell :=
  let m := fld p 2 2
  let n (o w : Nat) := fld p (4 + o) w
  { c with
    rat := if bit m 0 then n 2 1 else c.rat
    duplex := if bit m 1 then n 3 1 else c.duplex
    prb := if bit m 2 then n 4 2 else c.prb
    acsDl := if bit m 3 then n 6 2 else c.acsDl
    acsUl := if bit m 4 then n 8 2 else c.acsUl
    layersDl := if bit m 5 then n 10 1 else c.layersDl
    layersUl := if bit m 6 then n 11 1 else c.layersUl
    home := if bit m 7 then n 12 2 else c.home
    carrier := if bit m 8 then n 14 1 else c.carrier }

def bodyCellModify (i : CmdIn) (s : State) : Ans :=
  let c := fld i.p 0 2
  match s.cells.find? c with
  | none => refuse s .notPermitted
  | some cell =>
    let cell' := modCell i.p cell
    if !s.ownsCell i.fn c || cell.st == .hibernating || (cell.st == .service && fld i.p 2 2 &&& 0xFF7F != 0)
    then refuse s .notPermitted
    else if s.acsOver c cell'.acsDl cell'.acsUl then refuse s .noResource
    else ok { s with cells := s.cells.set c cell' } []

def execCellModify (c : CmdRef) (s : State) : Host.Outcome State Fault Refusal :=
  .next (runCmd layCellModify c bodyCellModify s)

def layCellDelete : Layout := ⟨0x0303, 4, false, fun _ => [.rng 0 2 0 383, .rsv 2 2], fun _ => []⟩

/-- Some task of a cell is instantiated. -/
def State.cellTasks (s : State) (c : Nat) : Bool := s.car.tasks.some? fun _ t => t.cell == c && t.origin.isNone

def bodyCellDelete (i : CmdIn) (s : State) : Ans :=
  let c := fld i.p 0 2
  match s.cells.find? c with
  | none => refuse s .notPermitted
  | some cell =>
    if !s.ownsCell i.fn c || cell.st == .hibernating then refuse s .notPermitted
    else if s.cellTasks c then refuse s .noResource
    else ok { s with cells := s.cells.del c, cal := { s.cal with arrays := s.cal.arrays.del c } } []

def execCellDelete (c : CmdRef) (s : State) : Host.Outcome State Fault Refusal :=
  .next (runCmd layCellDelete c bodyCellDelete s)

def layCellHibernate : Layout := ⟨0x0304, 4, false, fun _ => [.rng 0 2 0 383, .bits 2 1 0xFE, .rsv 3 1], fun _ => []⟩

def bodyCellHibernate (i : CmdIn) (s : State) : Ans :=
  let c := fld i.p 0 2
  match s.cells.find? c with
  | none => refuse s .notPermitted
  | some cell =>
    if !s.ownsCell i.fn c || cell.st != .service then refuse s .notPermitted
    else
      let s := { s with cells := s.cells.set c { cell with st := .hibernating, watchPrach := bit (fld i.p 2 1) 0 } }
      let s := s.settleCell c
      if (s.cells.find? c).any fun x => x.st == .hibernating then (s, .later (.cellIdle c)) else ok s []

def execCellHibernate (c : CmdRef) (s : State) : Host.Outcome State Fault Refusal :=
  .next (runCmd layCellHibernate c bodyCellHibernate s)

def layCellWake : Layout := ⟨0x0305, 4, false, fun _ => [.rng 0 2 0 383, .rsv 2 2], fun _ => []⟩

/-- Raise the clock of an IDLE region, start the wake of a sleeping one (R480, R488). -/
def State.rouse (s : State) (r : Nat) : State := (s.clockUp r).startWake r

def bodyCellWake (i : CmdIn) (s : State) : Ans :=
  let c := fld i.p 0 2
  match s.cells.find? c with
  | none => refuse s .notPermitted
  | some cell =>
    if !s.ownsCell i.fn c || cell.st != .hibernated then refuse s .notPermitted
    else
      let s := (homeRegions cell.home).foldl (fun s r => s.rouse r) s
      if s.wakeReady c cell then
        ok { s with cells := s.cells.set c { cell with st := .service, failed := false } } (leBytes 4 (s.firstSlot c))
      else (s, .later (.cellWake c))

def execCellWake (c : CmdRef) (s : State) : Host.Outcome State Fault Refusal :=
  .next (runCmd layCellWake c bodyCellWake s)

end Sys2Proof.Machine
end

