-- ==== Sys2Proof/Machine/Iq.lean ====
section
/-! DEFINITION. IQ compression on the line (R247 to R249): the compressed PRB, its exact decompression, and compression. -/

namespace Sys2Proof.Machine

/-- Bytes of a compressed PRB of mantissa width W: 25, 28, 37, 43 or 48 (R247). -/
def prbBytes (w : Nat) : Nat := if w = 16 then 48 else 3 * w + 1

/-- A bit string's bits, the most significant of the first byte first (R247, R254). -/
def msbBits (bs : List Byte) : List Bool := bs.flatMap fun b => (List.range 8).map fun i => b.getLsbD (7 - i)

/-- The number that bits spell, most significant first. -/
def natOfBits (bs : List Bool) : Nat := bs.foldl (fun n b => 2 * n + b2n b) 0

/-- The bits of a number, most significant first. -/
def bitsOfNat (n v : Nat) : List Bool := (List.range n).map fun i => v.testBit (n - 1 - i)

/-- Bits packed into bytes, the unused low bits of the last byte 0. -/
def packBits (bs : List Bool) : List Byte :=
  (List.range ((bs.length + 7) / 8)).map fun i =>
    BitVec.ofNat 8 (natOfBits ((List.range 8).map fun k => bs.getD (8 * i + k) false))

/-- The exponent and the 24 mantissa parts of a compressed PRB. -/
def prbParts (w : Nat) (line : List Byte) : Nat × List Int :=
  let field := if w = 16 then line.take 48 else (line.drop 1).take (3 * w)
  let bs := msbBits field
  (if w = 16 then 0 else fld line 0 1 % 16, (List.range 24).map fun i => sgn w (natOfBits ((bs.drop (w * i)).take w)))

/-- The line bytes of an exponent and 24 parts. -/
def prbLine (w e : Nat) (ms : List Int) : List Byte :=
  (if w = 16 then [] else leBytes 1 e) ++ packBits (ms.flatMap fun m => bitsOfNat w (unsgn w m))

/-- The 64-byte PRB record of parts and an exponent (Table 7-9). -/
def prbRecord (ms : List Int) (e : Int) : List Byte :=
  fit 48 (ms.flatMap fun m => leBytes 2 (unsgn 16 m)) ++ leBytes 1 (unsgn 5 e) ++ zeros 15

/-- Decompression (R248). -/
def decompress (w : Nat) (line : List Byte) : List Byte :=
  let (e, ms) := prbParts w line
  prbRecord (ms.map fun m => m * 2 ^ (16 - w)) ((e : Int) - (16 - w : Nat))

/-- The parts of a record brought to exponent 0, and how many sat() changed (R249). -/
def recordParts (record : List Byte) : List Int × Nat :=
  let e := sgn 5 (fld record 48 1)
  let xs := (List.range 24).map fun i => sfld record (2 * i) 2
  if 0 ≤ e then
    let ys := xs.map fun x => x * 2 ^ e.toNat
    (ys.map sat16, (ys.filter sats16).length)
  else (xs.map fun x => asr x (-e).toNat, 0)

/-- The smallest e for which every part fits W bits. -/
def lineExp (w : Nat) (ts : List Int) : Nat :=
  ((List.range 16).find? fun e => ts.all fun t => -(2 ^ (w - 1)) ≤ asr t e && asr t e < 2 ^ (w - 1)).getD 15

/-- Compression: the line bytes and the parts that saturated (R249). -/
def compress (w : Nat) (record : List Byte) : List Byte × Nat :=
  let (ts, n) := recordParts record
  let e := lineExp w ts
  (prbLine w e (ts.map fun t => asr t e), n)

end Sys2Proof.Machine
end

