-- ==== Sys2Proof/Machine/TlfOps.lean ====
section
/-! DEFINITION. Tvednas line format operations (chapter 11): blocks and scrambling, overhead fields, performance monitoring,
defects and protection requests, trails' payload. -/

namespace Sys2Proof.Machine

/-- L0's own accesses to memory. -/
def whoL0 : Who := ⟨initId 13 0 0, none, false, none⟩

/-! ## Blocks (R286, R308, R312)

A block is 66 bits: bits [63:0] its bytes 0 to 7, little-endian, bit 64 set for a control block. -/

def blkBytes (b : Nat) : List Byte := leBytes 8 b
def blkCtl (b : Nat) : Bool := b.testBit 64
def blkOf (ctl : Bool) (bs : List Byte) : Nat := leNat (fit 8 bs) + 2 ^ 64 * b2n ctl

/-- The scrambler x⁵⁸ + x³⁹ + 1 over one block, lowest bit first; the state holds the last 58 line bits, newest lowest. -/
def scrBits (down : Bool) : (fuel i : Nat) → (d st out : Nat) → Nat × Nat
  | 0, _, _, st, out => (out, st)
  | fuel + 1, i, d, st, out =>
    let x := d.testBit i
    let y := (x != st.testBit 38) != st.testBit 57
    let line := if down then x else y
    scrBits down fuel (i + 1) d ((st * 2 + b2n line) % 2 ^ 58) (if y then out + 2 ^ i else out)

/-- Scramble (`down` clear) or descramble a run of blocks. -/
def scrBlocks (down : Bool) : List Nat → Nat → List Nat × Nat
  | [], st => ([], st)
  | b :: bs, st =>
    let (o, st) := scrBits down 64 0 b st 0
    let (os, st) := scrBlocks down bs st
    ((o + 2 ^ 64 * b2n (blkCtl b)) :: os, st)

/-- BIP16 over a frame's blocks as sent (R312). -/
def bip16 (line : List Nat) : Nat :=
  let v := line.foldl (fun x b => x ^^^ (b % 2 ^ 64)) 0
  (v % 65536) ^^^ (v / 2 ^ 16 % 65536) ^^^ (v / 2 ^ 32 % 65536) ^^^ (v / 2 ^ 48 % 65536)

/-- A block with its CHECK in byte 7 holds. -/
def blkOk (b : Nat) : Bool := !blkCtl b && fld (blkBytes b) 7 1 == checkOf ((blkBytes b).take 7)
/-- A data block of seven bytes and their CHECK. -/
def chkBlk (bs : List Byte) : Nat := let b := fit 7 bs; blkOf false (b ++ leBytes 1 (checkOf b))

/-- PATTERN of the FAW (Table 11-2). -/
def fawPattern : List Byte := [0x6E, 0x3B, 0xA5, 0xC1, 0x47, 0x9D, 0x12]
def fawBlk : Nat := blkOf true (0xD2 :: fawPattern)

/-- Field block `i` of a received overhead, or its copy at TLF-48G (R313). -/
def overBlk (ovh : List Nat) (i : Nat) : Option (List Byte) :=
  let a := ovh.getD i 0
  let b := ovh.getD (64 + i) 0
  if blkOk a then some (blkBytes a) else if 64 + i < ovh.length && blkOk b then some (blkBytes b) else none

/-! ## Reference timeline (R96, R310) -/

/-- The nominal departure of a FAW in 2⁻³² ns of Θ: radio frame, frame number in the multiframe, TX_OFFSET_NS. -/
def fawNominal (off k : Int) (fn : Nat) : Int := (k * 10000000 + off + fn * 125000) * nsUnit

/-- The FRC of a Θ in thirds of a count, nearest, under the newest conversion. -/
def State.thirds (s : State) (nominal : Int) : Nat :=
  let f := s.time.frc
  let x := sgn 96 (unsgn 96 (nominal + s.time.resid - s.conv.timeAt f)) + ((f * s.conv.rate / 4096 : Nat) : Int)
  ((x * 12288 + s.conv.rate / 2) / s.conv.rate).toNat

/-- The next FAW at or after Θ: radio frame and FN. -/
def fawFrom (off theta : Int) : Int × Nat :=
  let i := -((-(theta - off * nsUnit)) / (125000 * nsUnit))
  (i / 80, (i % 80).toNat)

/-- The next occurrence of a reference SFN that starts at or after Θ. -/
def sfnFrom (theta : Int) (mfn : Nat) : Int :=
  let k := frameFrom 0 theta
  k + ((mfn : Int) - k) % 1024

/-! ## Performance monitoring (R336 to R338) -/

/-- The second of T at an FRC. -/
def State.secAt (s : State) (f : Nat) : Nat := s.timeAt f / 2 ^ 32 / 1000000000

/-- Change the counts of the second, the quarter hour and the day in progress. -/
def Pm.bump (p : Pm) (f : PmBin → PmBin) : Pm := { p with cur := f p.cur, quarter := f p.quarter, day := f p.day }

/-- One frame of the object: errored or not. -/
def Pm.frame (p : Pm) (err : Bool) : Pm :=
  let p := { p with frames := p.frames + 1, bad := p.bad || err }
  if err then p.bump fun b => { b with eframes := sat32 (b.eframes + 1) } else p

/-- Change the counts of the bins in which a classified second lies. -/
def Pm.at_ (p : Pm) (sec : Nat) (f : PmBin → PmBin) : Pm :=
  let p := if sec / 900 = p.quarter.start / 900 then { p with quarter := f p.quarter }
    else { p with past := p.past.modify (p.quarter.start / 900 - sec / 900 - 1) f }
  if sec / 86400 = p.day.start / 86400 then { p with day := f p.day } else { p with prevDay := f p.prevDay }

def PmBin.addEs (b : PmBin) (x : PmSec) (d : Int) : PmBin :=
  let add (n : Nat) (c : Bool) : Nat := if c then ((n : Int) + d).toNat else n
  { b with es := add b.es (x.es || x.ses), ses := add b.ses x.ses }
def PmBin.addUas (b : PmBin) (d : Int) : PmBin := { b with uas := ((b.uas : Int) + d).toNat }

/-- Count a classified second, reclassifying ten when availability changes (R337). -/
def Pm.classify (p : Pm) (x : PmSec) : Pm :=
  let h := (x :: p.hist).take 10
  let turn := h.length == 10 && h.all fun y => y.ses != p.unavail
  let p := { p with hist := h }
  if turn then
    let p := h.tail.foldl (fun p y => p.at_ y.sec fun b =>
      if p.unavail then (b.addUas (-1)).addEs y 1 else (b.addEs y (-1)).addUas 1) p
    let p := p.at_ x.sec fun b => if p.unavail then b.addEs x 1 else b.addUas 1
    { p with unavail := !p.unavail }
  else p.at_ x.sec fun b => if p.unavail then b.addUas 1 else b.addEs x 1

/-- Thresholds newly reached in the current quarter hour: ES, SES, UAS by index (R338). -/
def Pm.crossed (p : Pm) : List Nat :=
  (List.range 3).filter fun i =>
    let v := if i = 0 then p.quarter.es else if i = 1 then p.quarter.ses else p.quarter.uas
    p.th.getD i 0 != 0 && p.th.getD i 0 ≤ v && !p.posted.getD i true

/-- An empty bin that starts at a second. -/
def PmBin.fresh (start : Nat) : PmBin := { PmBin.reset with start := start, suspect := false }

/-- Monitoring of an object starts at a second of T. -/
def Pm.startAt (p : Pm) (sec : Nat) : Pm :=
  { p with
    cur := { p.cur with start := sec }, quarter := { p.quarter with start := sec / 900 * 900 }
    day := { p.day with start := sec / 86400 * 86400 } }

/-- Mark the bins in progress SUSPECT. -/
def Pm.suspect (p : Pm) : Pm := p.bump fun b => { b with suspect := true }

/-- Seconds passed in which the object was not monitored (it slept, or T was set): the bins that hold none of it or only a
part of it are SUSPECT, and the bins in progress are those of the present second. -/
def Pm.catchUp (p : Pm) (sec : Nat) : Pm :=
  if p.cur.start = sec then p
  else
    let p := { p.suspect with hist := [] }
    let q := sec / 900
    let o := p.quarter.start / 900
    let p := if q = o then p else { p with
      past := ((List.range (min 96 (q - o - 1))).map (fun i => { PmBin.reset with start := 900 * (q - 1 - i) }) ++ p.quarter :: p.past).take 96
      quarter := { PmBin.reset with start := 900 * q }, posted := [false, false, false] }
    let d := sec / 86400
    let e := p.day.start / 86400
    let p := if d = e then p else { p with
      prevDay := if d = e + 1 then p.day else { PmBin.reset with start := 86400 * (d - 1) }, day := { PmBin.reset with start := 86400 * d } }
    { p with cur := { p.cur with start := sec } }

/-- A second ends: classify it, then go on to the next second, quarter hour and day. `es` and `ses` hold on in it. -/
def Pm.second (p : Pm) (sec : Nat) (es ses : Bool) : Pm × List Nat :=
  let severe := p.severe || (0 < p.frames && 3 * p.frames ≤ 10 * p.cur.eframes)
  let p := (p.catchUp sec).classify ⟨sec, p.bad || severe, severe⟩
  let hits := p.crossed
  let p := { p with posted := (List.range 3).map fun i => p.posted.getD i true || hits.contains i }
  let next := sec + 1
  let p := { p with frames := 0, bad := es, severe := ses, cur := PmBin.fresh next }
  let p := if next % 900 = 0 then
      { p with past := (p.quarter :: p.past).take 96, quarter := PmBin.fresh next, posted := [false, false, false] } else p
  let p := if next % 86400 = 0 then { p with prevDay := p.day, day := PmBin.fresh next } else p
  (p, hits)

/-! ## Byte rings (R318) -/

/-- Append bytes to a ring in L0 region memory; those that do not fit are lost and counted. -/
def State.ringPut (s : State) (ring : Nat) (bs : List Byte) : State :=
  let wr := leNat (s.bytesAt ring 4)
  let rd := leNat (s.bytesAt (ring + 4) 4)
  let room := 65536 - (wr + 2 ^ 32 - rd) % 2 ^ 32
  let put := bs.take room
  let s := (List.range put.length).foldl (fun s i =>
    s.write whoL0 (ring + 64 + (wr + i) % 65536) [put.getD i 0] false) s
  let s := s.write whoL0 ring (leBytes 4 (wr + put.length)) false
  if put.length < bs.length then
    s.write whoL0 (ring + 8) (leBytes 4 (leNat (s.bytesAt (ring + 8) 4) + (bs.length - put.length))) false
  else s

/-- Take up to `n` bytes from a ring; bytes of a poisoned word go as 0x00, and count for the trail (Table 16-3). -/
def State.ringTake (s : State) (ring n : Nat) (trail : Option Nat) : List Byte × State :=
  let wr := leNat (s.bytesAt ring 4)
  let rd := leNat (s.bytesAt (ring + 4) 4)
  let k := min n ((wr + 2 ^ 32 - rd) % 2 ^ 32)
  let at_ (i : Nat) : Nat := ring + 64 + (rd + i) % 65536
  let bs := (List.range k).flatMap fun i => if s.poisonIn (at_ i) 1 then zeros 1 else s.bytesAt (at_ i) 1
  let bad := (((List.range k).map fun i => at_ i - at_ i % 8).dedup.filter fun a => s.poisonIn a 8).length
  let s := match trail with
    | some id => s.poisonEgress (s.trailOwner id) 0 id bad
    | none => s
  if k = 0 then ([], s) else (bs, s.write whoL0 (ring + 4) (leBytes 4 (rd + k)) false)

/-! ## Trails (R314 to R319) -/

/-- Mantissa width of an IQ label. -/
def labelWidth (l : Nat) : Nat := match l with
  | 1 => 9 | 2 => 12 | 3 => 14 | _ => 16
/-- An IQ label. -/
def isIq (l : Nat) : Bool := 1 ≤ l && l ≤ 4
/-- Samples per frame of a time-domain trail. -/
def Trail.spf (t : Trail) : Nat := (if t.label = 6 then 1 else t.fsMult) * 240
/-- Payload bytes of a trail per frame. -/
def Trail.bytes (t : Trail) : Nat := 512 * t.count

/-- The address of PRB `prb` of a symbol of a slot in a record area (R316). -/
def recordAddr (area ring stride slot sym prb : Nat) : Nat :=
  area + slot % ring * (64 * 14 * stride) + 64 * (sym * stride + prb)

/-- The 8-byte header of an IQ record (R316). -/
def iqHeader (point prb0 nprb : Nat) : List Byte :=
  let b := leBytes 1 0xA7 ++ leBytes 3 (point / 256) ++ leBytes 3 (prb0 + 512 * nprb)
  b ++ leBytes 1 (checkOf b)

/-- A trail frame header (Table 11-4). -/
def tfh (ptr first : Nat) (idle : Bool) (tbip : Nat) : List Byte :=
  let b := leBytes 2 ptr ++ leBytes 3 first ++ leBytes 1 (b2n idle)
  b ++ leBytes 1 tbip ++ leBytes 1 (checkOf b)

/-- XOR of the bytes of a payload. -/
def xorBytes (bs : List Byte) : Nat := bs.foldl (fun x b => x ^^^ b.toNat) 0

/-- A trail's payload taken from its slots: row by row, slots ascending (R314). -/
def slotPayload (slots : List (List Nat)) : List Byte :=
  (List.range 64).flatMap fun r => slots.flatMap fun sl => blkBytes (sl.getD r 0)

/-- Block `r` of the `i`-th of `n` slots of a payload. -/
def payloadBlk (p : List Byte) (n i r : Nat) : Nat := blkOf false ((p.drop (8 * (r * n + i))).take 8)

/-- Record errors of a trail. -/
def Trail.recErr (t : Trail) : Trail := { t with pm := t.pm.bump fun b => { b with events := b.events + 1 } }

/-- The Damper has passed a time-domain sample of radio frame `k` (R577). -/
def Trail.passes (t : Trail) (k : Int) (sample : Nat) : Bool :=
  t.passed.any fun x => x.1 == k && x.2.1 * t.fsMult ≤ sample * 512 && sample * 512 < x.2.2 * t.fsMult

/-- A record header whose MARK or CHECK fails, or whose PRBs lie outside the trail's (R316). -/
def Trail.recBad (t : Trail) (r : List Byte) : Bool :=
  let prb := fld r 4 3
  fld r 0 1 != 0xA7 || fld r 7 1 != checkOf (r.take 7) || bits prb 8 0 < t.prbFirst
    || t.prbFirst + t.prbCount < bits prb 8 0 + bits prb 17 9

/-- Write one received IQ record, whole, into the trail's area. -/
def State.rxRecord (s : State) (id : Nat) (t : Trail) (r : List Byte) : State :=
  let point := fld r 1 3 * 256
  let prb := fld r 4 3
  let prb0 := bits prb 8 0
  let n := bits prb 17 9
  let w := labelWidth t.label
  let s := (List.range n).foldl (fun s i =>
    s.write whoL0 (recordAddr t.area t.ring t.prbStride (tpSlot point) (tpSym point) (prb0 + i))
      (decompress w ((r.drop (8 + i * prbBytes w)).take (prbBytes w))) false) s
  s.modTrail id fun t => { t with lastTp := point }

/-- Length of the record that starts with these bytes; none while its header is not complete. -/
def recordLen (label : Nat) (bs : List Byte) : Option Nat :=
  if bs.length < 8 then none else some (8 + bits (fld bs 4 3) 17 9 * prbBytes (labelWidth label))

/-- Take records from received bytes: the record in progress stays as the trail's part. A bad record is discarded and counted, with
what follows it up to the next PTR (R316). -/
def State.rxRecords (s : State) (id : Nat) (t : Trail) : (fuel : Nat) → List Byte → State
  | 0, _ => s
  | fuel + 1, bs =>
    let bs := bs.dropWhile (· == 0)
    let keep (p : List Byte) : State := s.modTrail id fun t => { t with part := p }
    if bs.isEmpty then keep []
    else if fld bs 0 1 != 0xA7 || (8 ≤ bs.length && t.recBad bs) then (s.modTrail id Trail.recErr).modTrail id fun t => { t with part := [] }
    else match recordLen t.label bs with
      | none => keep bs
      | some n =>
        if bs.length < n then keep bs
        else (s.rxRecord id t (bs.take n)).rxRecords id t fuel (bs.drop n)

/-- The IQ bytes of one frame after its TFH: the record in progress goes on, the next begins at PTR. -/
def State.rxIq (s : State) (id : Nat) (t : Trail) (ptr : Nat) (data : List Byte) : State :=
  let need := match recordLen t.label (t.part ++ data) with
    | some n => n - t.part.length
    | none => data.length
  let go (s : State) (rest : List Byte) : State := s.rxRecords id t (rest.length + 1) rest
  let clear (s : State) : State := s.modTrail id fun t => { t with part := [] }
  let s := if t.part.isEmpty then s
    else if t.recBad (t.part ++ data) then clear (s.modTrail id Trail.recErr)
    else if ptr != 0xFFFF && ptr < need then clear (s.modTrail id Trail.recErr)
    else if data.length < need then s.modTrail id fun t => { t with part := t.part ++ data }
    else clear (s.rxRecord id t (t.part ++ data.take need))
  if ptr = 0xFFFF then s else go s (data.drop ptr)

/-- Time-domain samples of one frame into the ring (R317). -/
def State.rxSamples (s : State) (id : Nat) (t : Trail) (first : Nat) (data : List Byte) : State :=
  let n := bits first 16 10 * t.spf
  let ring := t.ring * (t.fsMult * 960)
  let s := (List.range t.spf).foldl (fun s i =>
    s.write whoL0 (t.area + 4 * ((n + i) % ring)) ((data.drop (4 * i)).take 4) false) s
  let num := ((s.anchor? t.cell).map Timeline.num).getD 0
  s.modTrail id fun t => { t with lastTp := tpMake (bits first 9 0) (bits first 16 10 * slotsPer num / 80) 0 }

/-- The status word of a receive trail (R325). -/
def State.trailStatus (s : State) (t : Trail) : List Byte :=
  let l := s.tlf (s.member? t.lane)
  let ais := l.sf || setAt t.defects 0 || setAt t.defects 1
  leBytes 4 t.lastTp ++ leBytes 1 (b2n ais + 2 * b2n (setAt l.defects 0) + 4 * b2n (setAt l.defects 1) + 8 * b2n (setAt l.defects 2)
    + 16 * b2n (setAt t.defects 0) + 32 * b2n (setAt t.defects 1)) ++ zeros 3

/-- Write a receive trail's status word, when it has one. -/
def State.putStatus (s : State) (id : Nat) : State :=
  match s.line.trails.find? id with
  | some t => if t.tx || t.status = 0 then s else s.write whoL0 t.status (s.trailStatus t) false
  | none => s

/-- Receive trails that take their data from a lane now. -/
def State.trailsOf (s : State) (lane : Nat) : List Nat :=
  (s.line.trails.keep fun _ t => !t.tx && s.member? t.lane == lane).keys

/-- One frame of a receive trail (R315 to R319, R323 to R325). -/
def State.rxTrail (s : State) (id fn : Nat) (lane : Nat) (slots : List (List Nat)) : State :=
  match s.line.trails.find? id with
  | none => s
  | some t =>
    let p := slotPayload ((slots.drop t.first).take t.count)
    let h := p.take 8
    let data := p.drop 8
    let ais := h.all fun b => b == 0xFF
    let ok := !ais && fld h 7 1 == checkOf (h.take 6)
    let lab := (s.tlf lane).labels.get 0 id
    let err := ok && t.xor.any fun x => x != fld h 6 1
    let plm := if fn % 16 = id / 256 then lab != t.label && lab != 0xFF else (t.defects.getD 1 Defect.none_).raw
    let s := s.modTrail id fun t => { t with
      xor := some (xorBytes p)
      defects := if (s.tlf lane).blind then t.defects else
        (t.defects.modify 0 fun d => d.note ais s.time.frc).modify 1 fun d => d.note plm s.time.frc
      pm := t.pm.frame err }
    let s := if !ok && !ais then s.modTrail id Trail.recErr else s
    let mute := (s.tlf lane).sf || setAt t.defects 0 || setAt t.defects 1
    let s := if !ok || mute || bit (fld h 5 1) 0 then s
      else if isIq t.label then s.rxIq id t (fld h 0 2) data
      else if t.label = 5 then s.rxSamples id t (fld h 2 3) data
      else if t.label = 7 || t.label = 8 then s.ringPut t.area (data.take (fld h 0 2))
      else s
    s.putStatus id

end Sys2Proof.Machine
end

