-- ==== Sys2Proof/Machine/Power.lean ====
section
/-! DEFINITION. Regions and power (chapter 17): levels, throttling, IDLE, two-phase sleep, wake, retention, pad hold, and the
entry to WATCH. -/

namespace Sys2Proof.Machine

/-! ## Masks and reports -/

/-- State code of REGION_STATE (Table 17-8). -/
def RegState.code : RegState → Nat
  | .active => 0 | .idle => 1 | .nap => 2 | .off => 3

/-- Post REGION_STATE for a region (R500). -/
def State.postRegion (s : State) (r : Nat) : State :=
  s.postAll 0x0601 0 (r + 16 * (s.region r).st.code + 256 * (s.region r).level)

/-- Regions of a mask. -/
def maskRegions (m : Nat) : List Nat := maskBits m 16

/-- A region that has performance levels (R481). -/
def hasLevels (r : Nat) : Bool := r ≤ 12

/-! ## Retention (R490) -/

/-- Banks of a region that a retention map can name: their number (Table 1-2). -/
def retBanks (r : Nat) : Nat := regMemSize r / 262144 + (if regKind r = .D then 64 else 0)

/-- Base address of the bank of one map bit. -/
def retBankBase (r b : Nat) : Nat :=
  if regKind r = .D && 32 ≤ b then blkMemBase r ((b - 32) / 16) + (b - 32) % 16 * 262144 else regBase r + b * 262144

/-- Banks that NAP keeps: mapped and not retired. -/
def State.keptBanks (s : State) (r : Nat) : List Nat :=
  (maskBits (s.region r).retention (retBanks r)).filter fun b => !s.mem.retBanks.has (retBankBase r b)

/-- Zero a region's SRAM but the banks of a list and, when `pram` is false, P-RAM (R456, R487, R499). -/
def State.zeroRegion (s : State) (r : Nat) (keep : List Nat) (pram : Bool) : State :=
  let s := ((List.range (retBanks r)).filter fun b => !keep.contains b).foldl (fun s b => s.zeroMem (retBankBase r b) 262144) s
  (enginesOf r 1).foldl (fun s e =>
    let b := engBase e
    let s := (s.zeroMem b 0x20000).zeroMem (b + 0x100000) 0x20000
    if pram then s.zeroMem (b + 0x200000) 0x10000 else s) s

/-- Write a resident kernel into one VDE's P-RAM (R200). -/
def State.placeKernel (s : State) (e : Nat) (k : Kernel) : State :=
  s.write ⟨initMelvi, none, false, none⟩ (engBase e + k.codeBase) k.body false

/-- Write every resident kernel into one VDE's P-RAM. -/
def State.reloadEngine (s : State) (e : Nat) : State := s.kernels.foldl (fun s k => s.placeKernel e k.2) s

/-- Write every resident kernel into every VDE of a region. -/
def State.reloadRegion (s : State) (r : Nat) : State := (enginesOf r 1).foldl (fun s e => s.reloadEngine e) s

/-! ## Waiting wakes -/

/-- Every region of a mask is ACTIVE and settled. -/
def State.allUp (s : State) (m : Nat) : Bool :=
  (maskRegions m).all fun r => (s.region r).st == .active && !(s.region r).prepare && (s.region r).waking.isNone

/-- Complete the REGION_WAKE and CELL_WAKE commands whose regions are up (R487, R488, R498). -/
def State.settleRegions (s : State) : State :=
  let s := s.completeWaits fun w => match w with
    | .regionWake m => if s.allUp m then some (.bare .success) else none
    | _ => none
  s.settleWakes

/-- The home regions of a cell that exists. -/
def State.cellHome (s : State) (c : Nat) : List Nat := ((s.cells.find? c).map fun x => homeRegions x.home).getD []

/-- Regions that a waiting wake names, of a command or of a Finderscope rule. -/
def State.wantedUp (s : State) : List Nat :=
  (s.host.flights.flatMap fun f => match f.wait with
    | some (.regionWake m) => maskRegions m
    | some (.cellWake c) => s.cellHome c
    | _ => []) ++ s.fsc.wakeCells.flatMap s.cellHome ++ maskRegions s.fsc.wakeRegions

/-- After a sleep decision, waiting wakes take effect (R486). -/
def State.resumeWakes (s : State) : State :=
  let s := s.wantedUp.foldl (fun s r => s.rouse r) s
  ({ s with fsc := { s.fsc with wakeRegions := 0 } }).settleRegions

/-! ## Sleep (R483 to R486) -/

/-- L0 loses power or is reset: its lanes but the listening ones go down; their PM bins and those of their trails are SUSPECT
(R307, R346). -/
def State.linesSleep (s : State) (all : Bool) : State :=
  let keep (n : Nat) : Bool := !all && (s.lane n).cfg.listen
  let mark (l : LineSt) : LineSt := { l with
    tlf := l.tlf.each fun n x => if keep n then x else { x with pm := x.pm.suspect }
    trails := l.trails.each fun _ t => if keep t.lane then t else { t with pm := t.pm.suspect } }
  (s.modLine mark).linesDown all

/-- A region goes to NAP or OFF: its engines and DMA channels lose power, the READY tasks of its list move to C0, the pads of
L0 are latched (R478, R485, R491). -/
def State.sleepRegion (s : State) (r : Nat) (st : RegState) (auto : Bool) : State :=
  let s := s.modRegion r fun g => { g with
    st := st, prepare := false, idleHold := none, autoWake := auto, changing := false, waking := none }
  let s := { s with
    vdes := s.vdes.keep fun e _ => engRegion e != r
    bdma := s.bdma.keep fun k _ => k / 128 != r
    bdmaEng := s.bdmaEng.keep fun k _ => k / 4 != r }
  let s := s.modCar fun c => { c with tasks := c.tasks.each fun _ t => if t.region == some r then { t with region := none } else t }
  let s := if r = 13 then s.linesSleep false else s
  let s := s.refuseRsvs r
  let s := if r = 13 then { s with pow := { s.pow with heldQuads := 4294967295, heldPeer := 255 } } else s
  s.postRegion r

/-- REFUSER and the sleep commands' replies. -/
def refuserBytes (n : Nat) : List Byte := leBytes 2 n

/-- Complete the command of a sleep. -/
def State.sleepReply (s : State) (op : SleepOp) (st : Status) (refuser : Nat) : State :=
  match s.flight? op.cmd with
  | some fl => s.complete fl (fld fl.cmd 0 2) ⟨st, refuserBytes refuser, none⟩
  | none => s

/-- Take a sleep out of the list of sleeps in progress. -/
def State.dropSleep (s : State) (op : SleepOp) : State :=
  { s with pow := { s.pow with sleeps := s.pow.sleeps.filter fun o => o.cmd != op.cmd } }

/-- The requests that waited for a sleep decision are served, or answered DOMAIN_ASLEEP (R415). -/
def State.sleepDecided (s : State) (op : SleepOp) : State := s.releaseMesh fun h => match h with
  | .sleep r => op.regions.testBit r
  | _ => false

/-- ABORT: every block resumes, dispatch resumes, the command completes with SLEEP_REFUSED (R484, R495). -/
def State.abortSleep (s : State) (op : SleepOp) (refuser : Nat) : State :=
  let s := (maskRegions op.regions).foldl (fun s r => s.modRegion r fun g => { g with prepare := false }) s
  let s := s.dropSleep op
  let s := if op.target = .watch then s.enterMode op.prevMode else s
  ((s.sleepReply op .sleepRefused refuser).sleepDecided op).resumeWakes

/-- Enter WATCH (R493, R495): SUCCESS is posted and written, every function has the effect of R65, power goes; pads are held. -/
def State.enterWatch (s : State) (op : SleepOp) : State :=
  let s := s.sleepReply op .success 0xFFFF
  let s := ((List.range 8).foldl (fun s fn => s.resetFunction fn) s).linesSleep false
  ({ s with
    host := { s.host with server := .nobody }
    vdes := []
    bdma := []
    bdmaEng := []
    pow := { s.pow with
      mode := .watch
      regions := s.pow.regions.each fun _ g => { g with prepare := false, changing := false, waking := none }
      watch := some ⟨op.hbmRetain, none⟩
      heldQuads := 4294967295, heldPeer := 255, heldGpio := 65535, heldCtrl := true } } : State).settleAllTx

/-- COMMIT: the regions enter their new state together (R484). -/
def State.commitSleep (s : State) (op : SleepOp) : State :=
  let s := s.dropSleep op
  let low (st : RegState) (s : State) : State :=
    (((maskRegions op.regions).foldl (fun s r => s.sleepRegion r st op.autoWake) s |>.sleepReply op .success 0xFFFF).sleepDecided op).resumeWakes
  match op.target with
  | .watch => s.enterWatch op
  | .nap => low .nap s
  | .off => low .off s

/-- An engine of a block holds a task in either bank. -/
def State.blockBusy (s : State) (blk : Nat) : Bool :=
  s.car.engines.some? fun e r => engBlk e == blk && (r.task.isSome || r.suspended.isSome)

/-- A BDMA channel of a block is busy or armed (R445). -/
def State.bdmaBusy (s : State) (blk : Nat) : Bool := s.bdma.some? fun k ch => k / 32 == blk && (ch.busy || ch.arm)

/-- The commit buffer of a block holds a line. -/
def State.commitHeld (s : State) (blk : Nat) : Bool :=
  s.car.tasks.some? fun _ t => t.commitBlk == some blk && !t.lines.isEmpty

/-- What a block answers to PREPARE as soon as R483 decides it: true AGREE, false REFUSE, none not decided yet. -/
def State.sleepAnswer (s : State) (op : SleepOp) (blk : Nat) : Option Bool :=
  if s.blkFenced blk then some true
  else if op.touched.contains blk || s.bdmaBusy blk then some false
  else if s.blockBusy blk then (if op.stuck.contains blk then some false else none)
  else if s.commitHeld blk then some false
  else if s.meshQuiet blk then some true else none

/-- REFUSER of a block: region [5:2], block [1:0]. -/
def refuserOf (blk : Nat) : Nat := blk

/-- BLOCK_SLEEP_ANSWER: a block answers; the first REFUSE aborts, the last AGREE commits. -/
def doBlockSleepAnswer (t blk : Nat) (s : State) : State :=
  let s := s.advance t
  if s.stopped then s else
  match s.pow.sleeps.find? fun o => o.pendBlocks.contains blk with
  | none => s
  | some op =>
    match s.sleepAnswer op blk with
    | none => s
    | some false => s.abortSleep op (refuserOf blk)
    | some true =>
      let op' := { op with pendBlocks := op.pendBlocks.filter (· != blk) }
      if op'.pendBlocks.isEmpty then s.commitSleep op'
      else { s with pow := { s.pow with sleeps := s.pow.sleeps.map fun o => if o.cmd = op.cmd then op' else o } }

def execBlockSleepAnswer (t blk : Nat) (s : State) : Host.Outcome State Fault Refusal := .next (doBlockSleepAnswer t blk s)

/-- SLEEP_ANSWER_TIMEOUT: a block without an answer 100 µs after PREPARE counts as refusing (R484). -/
def doSleepAnswerTimeout (t : Nat) (s : State) : State :=
  let s := s.advance t
  if s.stopped then s else
  match s.pow.sleeps.find? fun o => o.start + usToFrc 100 ≤ s.time.frc with
  | none => s
  | some op => s.abortSleep op (refuserOf (op.pendBlocks.headD 0))

def execSleepAnswerTimeout (t : Nat) (s : State) : Host.Outcome State Fault Refusal := .next (doSleepAnswerTimeout t s)

/-- PREPARE goes to every block of the regions that are awake (R484). -/
def State.prepareSleep (s : State) (op : SleepOp) : State :=
  let rs := (maskRegions op.regions).filter fun r => !s.asleep r
  let op := { op with pendBlocks := rs.flatMap fun r => (List.range (regBlocks r)).map fun b => r * 4 + b }
  if op.pendBlocks.isEmpty then s.commitSleep op
  else
    let s := rs.foldl (fun s r => (s.clockUp r).modRegion r fun g => { g with prepare := true }) s
    { s with pow := { s.pow with sleeps := s.pow.sleeps ++ [op] } }

/-! ## REGION_SLEEP and REGION_WAKE (R497, R498) -/

def layRegionSleep : Layout := ⟨0x0602, 8, false, fun p =>
  [.bits 0 2 0xC000, .rng 2 1 1 3, .bits 3 1 0xFE, .cond (if fld p 2 1 = 1 then 1 ≤ fld p 4 2 && fld p 4 2 ≤ 10000 else fld p 4 2 == 0),
   .rsv 6 2], fun _ => []⟩

/-- A region is in a two-phase sleep in progress. -/
def State.inSleep (s : State) (r : Nat) : Bool := s.pow.sleeps.any fun o => o.regions.testBit r

def bodyRegionSleep (i : CmdIn) (s : State) : Ans :=
  let m := fld i.p 0 2
  let rs := maskRegions m
  let st := fld i.p 2 1
  let busyCells := s.cells.some? fun _ c => c.st != .hibernated
  if (m.testBit 13 && (busyCells || s.peerEnabled || s.member))
      || (st = 2 && rs.any fun r => s.asleep r) || (st = 3 && rs.any fun r => (s.region r).st == .off) then refuse s .notPermitted
  else if rs.any s.inSleep then refuse s .noResource
  else if st = 1 then
    ok (rs.foldl (fun s r => s.modRegion r fun g => { g with idleHold := some (fld i.p 4 2) }) s) (refuserBytes 0xFFFF)
  else
    let target := if st = 2 then SleepFor.nap else .off
    let auto := bit (fld i.p 3 1) 0
    if rs.all s.asleep then
      ok (rs.foldl (fun s r => s.sleepRegion r .off auto) s) (refuserBytes 0xFFFF)
    else (s.prepareSleep ⟨m, target, auto, s.time.frc, i.id, [], [], [], false, s.pow.mode⟩, .later .sleep)

def execRegionSleep (c : CmdRef) (s : State) : Host.Outcome State Fault Refusal :=
  .next (runCmd layRegionSleep c bodyRegionSleep s)

def layRegionWake : Layout := ⟨0x0603, 4, false, fun _ => [.bits 0 2 0xC000, .rsv 2 2], fun _ => []⟩

def bodyRegionWake (i : CmdIn) (s : State) : Ans :=
  let m := fld i.p 0 2
  let s := (maskRegions m).foldl (fun s r =>
    if s.inSleep r then s else (s.rouse r).modRegion r fun g => { g with idleHold := none }) s
  if s.allUp m then ok s [] else (s, .later (.regionWake m))

def execRegionWake (c : CmdRef) (s : State) : Host.Outcome State Fault Refusal :=
  .next (runCmd layRegionWake c bodyRegionWake s)

/-- The held READY tasks of a region's engine types move into its list (R485). -/
def State.takeHeld (s : State) (r : Nat) : State :=
  s.modCar fun c => { c with tasks := c.tasks.each fun _ t =>
    if t.st == .ready && t.region.isNone && (typeRegions t.type).contains r then { t with region := some r } else t }

/-- Bring a region up from NAP or OFF (R456, R487): memories zeroed but what NAP kept, kernels reloaded, ACTIVE at its ceiling. -/
def State.regionUp (s : State) (r : Nat) : State :=
  let nap := (s.region r).st == .nap
  let s := s.zeroRegion r (if nap then s.keptBanks r else []) (!nap)
  let s := s.reloadRegion r
  let s := s.modRegion r fun g => { g with st := .active, waking := none, level := g.ceiling, changing := false }
  if r = 13 then s.linesWake else s

/-- REGION_ACTIVE: a waking region finishes its wake. -/
def doRegionActive (t r : Nat) (s : State) : State :=
  let s := s.advance t
  if s.stopped then s else
  if (s.region r).waking.isNone || !s.asleep r then s
  else (((s.regionUp r).postRegion r).takeHeld r).settleRegions

def execRegionActive (t r : Nat) (s : State) : Host.Outcome State Fault Refusal := .next (doRegionActive t r s)

/-- IDLE_ENTRY: a region under an IDLE policy, every block of which meets R483, enters IDLE (R480). -/
def doIdleEntry (t r : Nat) (s : State) : State :=
  let s := s.advance t
  if s.stopped then s else
  let g := s.region r
  let quiet (b : Nat) : Bool :=
    let k := r * 4 + b
    !s.blockBusy k && !s.bdmaBusy k && !s.commitHeld k && s.meshQuiet k
  if g.idleHold.isSome && g.st == .active && !g.prepare && ((List.range (regBlocks r)).all quiet)
      && !(s.car.tasks.some? fun _ t => t.st == .ready && t.region == some r) then
    s.modRegion r fun g => { g with st := .idle }
  else s

def execIdleEntry (t r : Nat) (s : State) : Host.Outcome State Fault Refusal := .next (doIdleEntry t r s)

/-! ## Levels (R481, R482) -/

/-- LEVELS (Table 17-6). -/
def State.levelsWord (s : State) : List Byte :=
  leBytes 8 ((List.range 16).foldl (fun n r => n + (if hasLevels r then (s.region r).level else 15) * 16 ^ r) 0)

def layPerfLevelSet : Layout := ⟨0x0601, 8, false, fun p =>
  [.bits 0 2 0xE000, .rng 2 1 0 7, .cond (fld p 3 1 == 0 || (85 ≤ fld p 3 1 && fld p 3 1 ≤ 105)), .rsv 4 4], fun _ => []⟩

/-- A region takes a new ceiling: it runs at it, or stays lower while throttled (R481). -/
def Region.toCeiling (g : Region) (c tc : Nat) (awake : Bool) : Region :=
  let lv := if g.ceiling < g.level && c ≤ g.level then g.level else c
  { g with ceiling := c, throttleC := if tc = 0 then g.throttleC else tc
           level := if awake then lv else g.level, changing := g.changing || (awake && lv != g.level) }

/-- No region of a mask is changing its level. -/
def State.levelsSet (s : State) (m : Nat) : Bool := (maskRegions m).all fun r => !(s.region r).changing

def bodyPerfLevelSet (i : CmdIn) (s : State) : Ans :=
  let m := fld i.p 0 2
  let s := (maskRegions m).foldl (fun s r =>
    s.modRegion r fun g => g.toCeiling (fld i.p 2 1) (fld i.p 3 1) (g.st == .active || g.st == .idle)) s
  if s.levelsSet m then ok s s.levelsWord else (s, .later (.perfLevel m))

def execPerfLevelSet (c : CmdRef) (s : State) : Host.Outcome State Fault Refusal :=
  .next (runCmd layPerfLevelSet c bodyPerfLevelSet s)

/-- LEVEL_CHANGE_DONE: a region's voltage and frequency change finishes; a waiting PERF_LEVEL_SET completes (R482, R498). -/
def doLevelChangeDone (t r : Nat) (s : State) : State :=
  let s := (s.advance t).modRegion r fun g => { g with changing := false }
  s.completeWaits fun w => match w with
    | .perfLevel m => if s.levelsSet m then some (.ok s.levelsWord) else none
    | _ => none

def execLevelChangeDone (t r : Nat) (s : State) : Host.Outcome State Fault Refusal := .next (doLevelChangeDone t r s)

/-- The die thermal sensor of a region (Table 18-5); L0 has a second one. -/
def sensorOf (r : Nat) : Nat := if r < 8 then r / 2 else if r < 14 then r - 4 else 11

/-- A thermal code in sixteenths of a °C (Table 18-5). -/
def thermSixteenths (code : Nat) : Int := (code : Int) - 1024

/-- THROTTLE_STEP: after an urgent burst (R518) the region steps down one level at most every 100 µs while its sensor reads above
THROTTLE_C, and up at most every 1 ms to its ceiling when it has read 3 °C below (R482). -/
def doThrottleStep (t r : Nat) (s : State) : State :=
  let s := s.advance t
  let g := s.region r
  let v := thermSixteenths (s.fsc.adc.therm.getD (sensorOf r) 0)
  let d := 256 * unsgn 8 (v / 16)
  if !hasLevels r || s.asleep r || s.dark then s
  else if 16 * (g.throttleC : Int) < v then
    if g.level < 7 && g.lastStep + usToFrc 100 ≤ s.time.frc then
      (s.modRegion r fun g => { g with level := g.level + 1, lastStep := s.time.frc, changing := true }).postAll 0x0602 1
        (r + 16 * (g.level + 1) + d)
    else s
  else if v + 48 ≤ 16 * (g.throttleC : Int) then
    if g.ceiling < g.level && g.lastStep + msToFrc 1 ≤ s.time.frc && g.coolAt.any (fun f => f + msToFrc 1 ≤ s.time.frc) then
      (s.modRegion r fun g => { g with level := g.level - 1, lastStep := s.time.frc, changing := true }).postAll 0x0602 1
        (r + 16 * (g.level - 1) + d + 65536)
    else s
  else s

def execThrottleStep (t r : Nat) (s : State) : Host.Outcome State Fault Refusal := .next (doThrottleStep t r s)

/-! ## Retention and pads (R490 to R492) -/

def layRetentionMap : Layout := ⟨0x0604, 24, false, fun p =>
  [.rng 0 1 0 13, .rsv 1 7, .cond (fld p 8 16 < 2 ^ retBanks (fld p 0 1))], fun _ => []⟩

def bodyRetentionMap (i : CmdIn) (s : State) : Ans :=
  let r := fld i.p 0 1
  if (s.region r).st == .nap then refuse s .notPermitted
  else
    let s := s.modRegion r fun g => { g with retention := fld i.p 8 16 }
    let all := (maskBits (fld i.p 8 16) (retBanks r)).length
    let kept := (s.keptBanks r).length
    ok s (leBytes 2 kept ++ leBytes 2 (all - kept))

def execRetentionMap (c : CmdRef) (s : State) : Host.Outcome State Fault Refusal :=
  .next (runCmd layRetentionMap c bodyRetentionMap s)

def layPadRelease : Layout := ⟨0x0605, 16, false, fun _ => [.bits 5 1 0xFE, .rsv 8 8], fun _ => []⟩

/-- A mask without the bits of another. -/
def maskMinus (a b : Nat) : Nat := a - (a &&& b)

def bodyPadRelease (i : CmdIn) (s : State) : Ans :=
  let q := fld i.p 0 4
  let pp := fld i.p 4 1
  if s.asleep 13 && (q != 0 || pp != 0) then refuse s .notPermitted
  else
    let s := { s with pow := { s.pow with
      heldQuads := maskMinus s.pow.heldQuads q
      heldPeer := maskMinus s.pow.heldPeer pp
      heldCtrl := s.pow.heldCtrl && !bit (fld i.p 5 1) 0
      heldGpio := maskMinus s.pow.heldGpio (fld i.p 6 2) } }
    ok s.settleAllTx (leBytes 4 s.pow.heldQuads ++ leBytes 1 s.pow.heldPeer ++ leBytes 1 (b2n s.pow.heldCtrl) ++ leBytes 2 s.pow.heldGpio)

def execPadRelease (c : CmdRef) (s : State) : Host.Outcome State Fault Refusal :=
  .next (runCmd layPadRelease c bodyPadRelease s)

/-! ## WATCH_ENTER (R494, R495) -/

def layWatchEnter : Layout := ⟨0x0606, 4, false, fun _ => [.bits 0 1 0xFE, .rsv 1 3], fun _ => []⟩

def bodyWatchEnter (i : CmdIn) (s : State) : Ans :=
  let retain := bit (fld i.p 0 1) 0
  if !(s.pow.mode == .ready || s.pow.mode == .service) || (s.cells.some? fun _ c => c.st != .hibernated) || s.migrating
      || s.member || (!retain && !s.cells.isEmpty) then refuse s .notPermitted
  else if !s.pow.sleeps.isEmpty then refuse s .noResource
  else
    let op : SleepOp := ⟨65535, .watch, false, s.time.frc, i.id, [], [], [], retain, s.pow.mode⟩
    ((s.enterMode .drain).prepareSleep op, .later .sleep)

def execWatchEnter (c : CmdRef) (s : State) : Host.Outcome State Fault Refusal :=
  .next (runCmd layWatchEnter c bodyWatchEnter s)

end Sys2Proof.Machine
end

