-- ==== Sys2Proof/Machine/Resets.lean ====
section
/-! DEFINITION. Engine and region resets (R72, R174, R446, R499): what a reset target is, what its reset does, RESET_SCOPE, and
the return to service, with the removal of a fence that UNFENCE waits for. -/

namespace Sys2Proof.Machine

/-- Change the fences and recoveries. -/
def State.modFault (s : State) (f : FaultSt → FaultSt) : State := { s with fault := f s.fault }

/-! ## Targets: KIND 0 an engine, 1 a block, 2 a region (Table 21-11) -/

/-- The populated engines of a target. -/
def targetEngines (kind target : Nat) : List Nat :=
  let sp := fenceSpan kind target
  ((List.range sp.2).map fun i => sp.1 + i).filter engPop

/-- The blocks that lie whole in a target. -/
def targetBlocks (kind target : Nat) : List Nat :=
  match kind with
  | 0 => []
  | 1 => [target]
  | _ => (List.range (regBlocks target)).map fun b => target * 4 + b

/-- The region of a target. -/
def targetRegion (kind target : Nat) : Nat := (fenceSpan kind target).1 / 32

/-- A target exists. -/
def targetPop (kind target : Nat) : Bool :=
  match kind with
  | 0 => target < 512 && engPop target
  | 1 => target < 64 && target % 4 < regBlocks (target / 4)
  | _ => target < 16

/-- A target lies inside another. -/
def targetIn (k t k' t' : Nat) : Bool := within (fenceSpan k t).1 (fenceSpan k t).2 (fenceSpan k' t').1 (fenceSpan k' t').2

/-- The key of a target in the tables of `FaultSt`. -/
def targetKey (kind target : Nat) : Nat := kind * 4096 + target

/-- The unit and the window of a target, as a log entry names them (Table 16-4). -/
def targetUnit (kind target : Nat) : Nat × Nat :=
  match kind with
  | 0 => (initEng target, engBase target)
  | 1 => (initId (target / 4) (target % 4) 0, blkBase (target / 4) (target % 4))
  | _ => (initId target 0 0, regBase target)

/-! ## Resets -/

/-- A task leaves without its engine: revoked if it was to be, else failed with a status. -/
def State.failOut (s : State) (id : Nat) (st : Status) : State :=
  match s.task? id with
  | none => s
  | some t => if t.leave == .revoked then s.dropRevoked id t else s.failTask id t st

/-- An unreleased task fails with a status wherever it is: one that has finished fails as it is held, one on an engine leaves it, one
sent to a peer is recalled. -/
def State.abortTask (s : State) (id : Nat) (st : Status) : State :=
  match s.task? id with
  | none => s
  | some t =>
    if t.st == .doneHeld then
      (if t.fail.isSome then s else s.modTask id fun t => { t with fail := some st, lines := [], linePois := [] })
    else
      let s := match t.engine, t.peer with
        | some x, _ => if t.suspended then s.dropSuspended x else s.vacate x
        | none, some d => s.emit (.peerMsg d (.revoke id st.code))
        | none, none => s
      s.failOut id st

/-- The tasks that hold commit-buffer lines in some blocks. -/
def State.lineTasks (s : State) (p : Nat → Bool) : List Nat :=
  (s.car.tasks.keep fun _ t => t.commitBlk.any p && !t.lines.isEmpty && t.fail.isNone).keys

/-- Tasks lose the commit-buffer lines that they hold in some blocks (R129). -/
def State.loseLines (s : State) (p : Nat → Bool) : State := (s.lineTasks p).foldl (fun s id => s.abortTask id .internal) s

/-- A task on an engine that is reset fails, whatever waits for its next yield (R174). -/
def State.failOn (s : State) (id : Nat) (st : Status) : State :=
  match s.task? id with
  | none => s
  | some t => s.failTask id t st

/-- An engine stops and loses everything it holds; its tasks fail with INTERNAL; it is out of service. A suspended task that has
already left is not on the engine. -/
def State.dropEngine (s : State) (e : Nat) : State :=
  let r := s.eng e
  let s := s.modEng e fun _ => { EngineRun.idle with down := true }
  let s := { s with vdes := s.vdes.del e }
  (r.task.toList ++ if r.dropSusp then [] else r.suspended.toList).foldl (fun s id => s.failOn id .internal) s

/-- Zero the RAMs of a VDE, P-RAM with `pram`. -/
def State.zeroEngine (s : State) (e : Nat) (pram : Bool) : State :=
  let b := engBase e
  let s := if engType e = some 1 then (s.zeroMem b 0x20000).zeroMem (b + 0x100000) 0x20000 else s
  if engType e = some 1 && pram then s.zeroMem (b + 0x200000) 0x10000 else s

/-- Reset one engine (R174). P-RAM stays in a region reset (R499). -/
def State.resetEngine (s : State) (e : Nat) (pram : Bool) : State := (s.dropEngine e).zeroEngine e pram

/-- The network of a region's block ports after their reset (R425): nothing outstanding, slots handed back, counter sets cleared. -/
def State.resetPorts (s : State) (r : Nat) : State :=
  let held := (s.noc.slots ++ s.noc.grants).filter fun x => x.blk / 4 == r
  let out := s.noc.flights.filter fun f => f.req.blk / 4 == r && f.peer.isNone && f.ans.isNone
  let s := s.modNoc fun n => { n with
    waiting := n.waiting.filter fun w => w.req.blk / 4 != r
    flights := n.flights.filter fun f => f.req.blk / 4 != r
    held := n.held.filter fun h => h.1.req.blk / 4 != r
    slots := n.slots.filter fun x => x.blk / 4 != r
    rsvs := n.rsvs.filter fun x => x.blk / 4 != r
    grants := n.grants.filter fun x => x.blk / 4 != r
    sets := n.sets.keep fun k _ => if 16384 ≤ k then r != 13 else k / 1024 != r }
  let s := out.foldl (fun s f => s.slotFreed f.req.blk (meshTarget (s.real f.req.addr)) f.req.cls) s
  held.foldl (fun s x => s.slotsBack x.target x.cls x.n) s

/-- Reset one block: its engines, its BDMA, its commit buffer, its memory. -/
def State.resetBlock (s : State) (blk : Nat) : State :=
  let s := (targetEngines 1 blk).foldl (fun s e => s.resetEngine e true) s
  let s := (s.resetBdma blk (some .busError)).loseLines fun b => b == blk
  if regKind (blk / 4) = .D then s.zeroMem (blkMemBase (blk / 4) (blk % 4)) 0x400000 else s

/-- Reset one region (R499, R307, R346, R425, R446): ACTIVE at its ceiling, SRAM zeroed but P-RAM. -/
def State.resetRegion (s : State) (r : Nat) : State :=
  let s := (targetEngines 2 r).foldl (fun s e => s.resetEngine e false) s
  let s := (targetBlocks 2 r).foldl (fun s b => s.resetBdma b (some .busError)) s
  let s := (s.loseLines fun b => b / 4 == r).zeroRegion r [] false
  let s := s.modRegion r fun g => { g with st := .active, waking := none, idleHold := none, changing := false, level := g.ceiling }
  let s := s.resetPorts r
  if r = 13 then
    let s := s.linesSleep true
    let s := s.modLine fun l => { l with recs := [], held := [] }
    s.line.lanes.keys.foldl (fun s n => s.restart1 n 5) s
  else s

/-- Reset a target; it is out of service until RETURN_TO_SERVICE. -/
def State.startReset (s : State) (kind target : Nat) : State :=
  let s := match kind with
    | 0 => s.resetEngine target true
    | 1 => s.resetBlock target
    | _ => s.resetRegion target
  s.modFault fun f => { f with
    resetAt := f.resetAt.set (targetKey kind target) s.time.frc
    lost := f.lost.keep fun k _ => !targetIn (k / 4096) (k % 4096) kind target }

/-! ## RESET_SCOPE (R72, R499) -/

def layResetScope : Layout := ⟨0x0007, 4, false, fun p =>
  [.rng 0 1 0 2, .rsv 1 1, .cond (if fld p 0 1 = 0 then fld p 2 2 < 512 else if fld p 0 1 = 1 then fld p 2 2 < 16 else fld p 2 2 == 0)],
  fun _ => []⟩

/-- A BIST_RUN on a target that overlaps another is in progress. -/
def State.bistOn (s : State) (kind target : Nat) : Bool :=
  s.fault.bists.any fun b => spansMeet (fenceSpan b.kind b.target) (fenceSpan kind target)

def bodyResetScope (i : CmdIn) (s : State) : Ans :=
  let scope := fld i.p 0 1
  let x := fld i.p 2 2
  if scope = 2 then ok (s.modHost fun h => { h with warmAt := some (h.warmAt.getD (s.time.frc + msToFrc 1)) }) []
  else
    let kind := 2 * scope
    let r := targetRegion kind x
    if !targetPop kind x then refuse s .badParam
    else if 14 ≤ r then refuse s .notPermitted
    else if (s.region r).prepare || s.bistOn kind x then refuse s .noResource
    else if s.asleep r then refuse s .domainAsleep
    else ((s.logMelvi r (targetUnit kind x).1 (targetUnit kind x).2).startReset kind x, .later (.reset kind x))

/-- RESET_SCOPE. -/
def execResetScope (c : CmdRef) (s : State) : Host.Outcome State Fault Refusal := .next (runCmd layResetScope c bodyResetScope s)

/-! ## Return to service (R174, R584, R600) -/

/-- The fence of exactly a target: none, or its mark. -/
def State.fenceOf (s : State) (kind target : Nat) : Option Bool :=
  match kind with
  | 0 => s.fault.fencedEng.find? target
  | 1 => s.fault.fencedBlk.find? target
  | _ => s.fault.fencedReg.find? target

/-- DATA of FENCED (Table 21-12). -/
def fencedData (kind target : Nat) : Nat := kind + 16 * target

/-- Remove a fence; the READY tasks held in C0 for a region enter its list; FENCED with bit 17. -/
def State.liftFence (s : State) (kind target : Nat) : State :=
  let s := s.modFault fun f => { f with
    fencedEng := if kind = 0 then f.fencedEng.del target else f.fencedEng
    fencedBlk := if kind = 1 then f.fencedBlk.del target else f.fencedBlk
    fencedReg := if kind = 2 then f.fencedReg.del target else f.fencedReg
    fatal := if kind = 2 then f.fatal.del target else f.fatal
    tested := f.tested.del (targetKey kind target) }
  let s := if kind = 2 then s.takeHeld target else s
  s.postAll 0x0A02 1 (fencedData kind target + 131072)

/-- Some command waits for the unfencing of a target. -/
def State.unfencing (s : State) (kind target : Nat) : Bool := s.host.flights.any fun f => f.wait == some (.unfence kind target)

/-- RETURN_TO_SERVICE: a reset target's kernels stand in P-RAM again and its engines can take work; RESET_SCOPE of it, or of what
lies in it, completes; UNFENCE of it removes the fence and completes. -/
def doReturnToService (t kind target : Nat) (s : State) : State :=
  let s := s.advance t
  if s.stopped || !s.fault.resetAt.has (targetKey kind target) then s
  else
    let s := (targetEngines kind target).foldl (fun s e =>
      (if engType e = some 1 then s.reloadEngine e else s).modEng e fun r => { r with down := false }) s
    let s := s.modFault fun f => { f with resetAt := f.resetAt.keep fun k _ => !targetIn (k / 4096) (k % 4096) kind target }
    let s := s.completeWaits fun w => match w with
      | .reset k x => if targetIn k x kind target then some (.bare .success) else none
      | _ => none
    if s.unfencing kind target then
      (s.liftFence kind target).completeWaits fun w => if w = .unfence kind target then some (.bare .success) else none
    else s

/-- RETURN_TO_SERVICE. -/
def execReturnToService (t kind target : Nat) (s : State) : Host.Outcome State Fault Refusal :=
  .next (doReturnToService t kind target s)

end Sys2Proof.Machine
end

