-- ==== Sys2Proof/Machine/Fence.lean ====
section
/-! DEFINITION. Fencing and in-service test (R584, R597 to R601): FENCE, UNFENCE and BIST_RUN with what ends them, engine faults
and automatic fences. -/

namespace Sys2Proof.Machine

/-! ## Fences -/

/-- TARGET keeps to Table 21-11: its reserved bits are 0. -/
def targetForm (kind target : Nat) : Bool := target < (if kind = 0 then 512 else if kind = 1 then 64 else 16)

/-- Put a fence on a target; a pass of a self-test counts from here (R600). -/
def State.setFence (s : State) (kind target : Nat) (auto : Bool) : State :=
  let s := s.modFault fun f => { f with
    fencedEng := if kind = 0 then f.fencedEng.set target auto else f.fencedEng
    fencedBlk := if kind = 1 then f.fencedBlk.set target auto else f.fencedBlk
    fencedReg := if kind = 2 then f.fencedReg.set target auto else f.fencedReg
    tested := f.tested.del (targetKey kind target) }
  s.postAll 0x0A02 (if auto then 2 else 1) (fencedData kind target + 65536 * b2n auto)

/-- A fence covers a target. -/
def State.coveredBy (s : State) (kind target : Nat) : Bool :=
  (s.fault.fencedReg.some? fun r _ => targetIn kind target 2 r) || (s.fault.fencedBlk.some? fun b _ => targetIn kind target 1 b)
    || (s.fault.fencedEng.some? fun e _ => targetIn kind target 0 e)

/-- No engine of the target holds a task, no BDMA channel is busy or armed, its commit buffers are empty (R597). -/
def State.targetEmpty (s : State) (kind target : Nat) : Bool :=
  (targetEngines kind target).all (fun e => (s.eng e).task.isNone && (s.eng e).suspended.isNone)
    && (targetBlocks kind target).all fun b => !s.bdmaBusy b && !s.commitHeld b

/-- Take a FENCE out of those in progress. -/
def State.dropFence (s : State) (op : FenceOp) : State :=
  s.modFault fun f => { f with fences := f.fences.filter fun o => !(o.kind == op.kind && o.target == op.target) }

/-- Complete the command of a FENCE. -/
def State.fenceReply (s : State) (op : FenceOp) (st : Status) (res : List Byte) : State :=
  match op.cmd.bind s.flight? with
  | some fl => s.complete fl 0x0A03 ⟨st, res, none⟩
  | none => s

/-- A FENCE whose target is empty takes effect. -/
def State.settleFence (s : State) (op : FenceOp) : State :=
  if s.targetEmpty op.kind op.target then
    ((s.dropFence op).setFence op.kind op.target op.cmd.isNone).fenceReply op .success (leBytes 4 op.failed)
  else s

/-- Force a target empty: the tasks on its engines leave at their next yield, those that have finished with lines there fail, with
NO_RESOURCE; its BDMA channels stop (R446, R597). How many tasks fail. -/
def State.forceTarget (s : State) (kind target : Nat) : State × Nat :=
  let on := (targetEngines kind target).flatMap fun e => (s.eng e).task.toList ++ (s.eng e).suspended.toList
  let held := (s.lineTasks fun b => (targetBlocks kind target).contains b).filter fun id => !on.contains id
  let leave := on.filter fun id => (s.task? id).any fun t => t.leave == .no
  let s := on.foldl (fun s id => match s.task? id with
    | some t => if t.leave == .no then s.pullTask id t .forced else s
    | none => s) s
  let s := held.foldl (fun s id => s.abortTask id .noResource) s
  let s := (targetBlocks kind target).foldl (fun s b => s.resetBdma b (some .busError)) s
  (s, leave.length + held.length)

/-- Engines of a type in a region that are in service: not fenced, nor the target of a FENCE. -/
def State.unfenced (s : State) (r ty : Nat) (but : Nat → Bool) : Nat :=
  ((enginesOf r ty).filter fun e => !s.withdrawn e && !but e).length

/-- A fence of the target would leave fewer engines of a type than CLASS_RESERVE asks for (R598). -/
def State.reserveBroken (s : State) (kind target : Nat) : Bool :=
  let es := targetEngines kind target
  let r := targetRegion kind target
  (es.filterMap engType).any fun ty =>
    (es.any fun e => engType e == some ty && !s.withdrawn e) && s.unfenced r ty es.contains < (s.reserve r ty).count

/-- An enabled lane or peer port of an L0 block (R17). -/
def State.blockServes (s : State) (b : Nat) : Bool :=
  s.line.lanes.some? fun n l => l.cfg.mode != 0 && (if 256 ≤ n then (n - 256) / 2 == b else n / 32 == b)

/-- FENCE refuses the target (R598, item 2). -/
def State.fenceBarred (s : State) (kind target : Nat) : Bool :=
  let r := targetRegion kind target
  !(s.pow.mode == .ready || s.pow.mode == .service || s.pow.mode == .maint) || 14 ≤ r
    || (kind == 1 && r == 13 && s.blockServes (target % 4))
    || (kind == 2 && r == 13 && ((s.cells.some? fun _ c => c.st != .hibernated) || s.peerEnabled || s.member))

def layFence : Layout := ⟨0x0A03, 8, false, fun p =>
  [.rng 0 1 0 2, .bits 1 1 0xFE, .cond (targetForm (fld p 0 1) (fld p 2 2)), .rng 4 4 1 10000], fun _ => []⟩

/-- The READY tasks of a region's list are held in C0 (R485). -/
def State.unlist (s : State) (r : Nat) : State :=
  s.modCar fun c => { c with tasks := c.tasks.each fun _ t => if t.region == some r then { t with region := none } else t }

def bodyFence (i : CmdIn) (s : State) : Ans :=
  let p := i.p
  let kind := fld p 0 1
  let x := fld p 2 2
  let r := targetRegion kind x
  if !targetPop kind x then refuse s .badParam
  else if s.fenceBarred kind x then refuse s .notPermitted
  else if s.asleep r then refuse s .domainAsleep
  else if (s.fault.fences.any fun f => spansMeet (fenceSpan f.kind f.target) (fenceSpan kind x)) || s.reserveBroken kind x then
    refuse s .noResource
  else if (s.fenceOf kind x).isSome then ok s (leBytes 4 0)
  else
    let s := s.clockUp r
    if s.targetEmpty kind x then
      let s := s.setFence kind x false
      ok (if kind = 2 then s.unlist x else s) (leBytes 4 0)
    else
      let op : FenceOp := ⟨kind, x, bit (fld p 1 1) 0, s.time.frc + msToFrc (fld p 4 4), false, some i.id, 0⟩
      let s := s.modFault fun f => { f with fences := f.fences ++ [op] }
      (if kind = 2 then s.unlist x else s, .later .fence)

/-- FENCE. -/
def execFence (c : CmdRef) (s : State) : Host.Outcome State Fault Refusal := .next (runCmd layFence c bodyFence s)

/-- A FENCE that is withdrawn: NO_RESOURCE; dispatch to the target goes on. -/
def State.withdrawFence (s : State) (op : FenceOp) : State :=
  let s := (s.dropFence op).fenceReply op .noResource []
  if op.kind = 2 then s.takeHeld op.target else s

/-- FENCE_WAIT_TIMEOUT: WAIT_MS of a FENCE is over: it has come to its end, is withdrawn, or with FORCE empties its target; an automatic
fence takes effect once its target is empty. -/
def doFenceWaitTimeout (t : Nat) (s : State) : State :=
  let s := s.advance t
  if s.stopped then s else
  match s.fault.fences.find? fun f => f.due ≤ s.time.frc && (!f.forced || s.targetEmpty f.kind f.target) with
  | none => s
  | some op =>
    if s.targetEmpty op.kind op.target then s.settleFence op
    else if !op.force then s.withdrawFence op
    else
      let (s, n) := s.forceTarget op.kind op.target
      let op' := { op with forced := true, failed := n }
      (s.modFault fun f => { f with fences := f.fences.map fun o => if o.kind == op.kind && o.target == op.target then op' else o }).settleFence op'

/-- FENCE_WAIT_TIMEOUT. -/
def execFenceWaitTimeout (t : Nat) (s : State) : Host.Outcome State Fault Refusal := .next (doFenceWaitTimeout t s)

/-! ## UNFENCE (R600) -/

def layUnfence : Layout := ⟨0x0A04, 4, false, fun p => [.rng 0 1 0 2, .rsv 1 1, .cond (targetForm (fld p 0 1) (fld p 2 2))], fun _ => []⟩

def bodyUnfence (i : CmdIn) (s : State) : Ans :=
  let kind := fld i.p 0 1
  let x := fld i.p 2 2
  if !targetPop kind x then refuse s .badParam
  else match s.fenceOf kind x with
    | none => ok s []
    | some auto =>
      if auto && !s.fault.tested.has (targetKey kind x) then refuse s .notPermitted
      else if s.bistOn kind x then refuse s .noResource
      else (s.startReset kind x, .later (.unfence kind x))

/-- UNFENCE. -/
def execUnfence (c : CmdRef) (s : State) : Host.Outcome State Fault Refusal := .next (runCmd layUnfence c bodyUnfence s)

/-! ## BIST_RUN (R599) -/

def layBistRun : Layout := ⟨0x0A05, 8, false, fun p =>
  [.rng 0 1 0 2, .rng 1 1 1 3, .cond (targetForm (fld p 0 1) (fld p 2 2)), .rsv 4 4], fun _ => []⟩

def bodyBistRun (i : CmdIn) (s : State) : Ans :=
  let kind := fld i.p 0 1
  let x := fld i.p 2 2
  if !targetPop kind x then refuse s .badParam
  else if s.pow.mode != .maint || !s.coveredBy kind x then refuse s .notPermitted
  else if s.bistOn kind x then refuse s .noResource
  else (s.modFault fun f => { f with bists := f.bists ++ [⟨kind, x, fld i.p 1 1, i.id⟩] }, .later .bist)

/-- BIST_RUN. -/
def execBistRun (c : CmdRef) (s : State) : Host.Outcome State Fault Refusal := .next (runCmd layBistRun c bodyBistRun s)

/-- Zero every memory of a target, P-RAM too. -/
def State.zeroTarget (s : State) (kind target : Nat) : State :=
  match kind with
  | 0 => s.zeroEngine target true
  | 1 =>
    let s := (targetEngines 1 target).foldl (fun s e => s.zeroEngine e true) s
    if regKind (target / 4) = .D then s.zeroMem (blkMemBase (target / 4) (target % 4)) 0x400000 else s
  | _ => s.zeroRegion target [] true

/-- An address lies in the memories of a target. -/
def inTarget (kind target a : Nat) : Bool :=
  let x := (spanAt a).place.span
  x.2 != 0 && within x.1 x.2 (fenceSpan kind target).1 (fenceSpan kind target).2

/-- The contents of a target's memories are lost: what they then read as is open, until a write or the target's reset. -/
def State.loseTarget (s : State) (kind target : Nat) : State :=
  let s := (s.zeroTarget kind target).modFault fun f => { f with lost := f.lost.set (targetKey kind target) s.time.frc }
  { s with mem := { s.mem with rewritten := s.mem.rewritten.keep fun a _ => !inTarget kind target a } }

/-- BIST_DONE: a self-test ends. `words` are its failing words, all in the target, as (MEMORY code, detecting unit, device address), `logic` the units whose
logic test failed, in the order found. -/
def doBistDone (t kind target : Nat) (words : List (Nat × Nat × Nat)) (logic : List Nat) (s : State) : State :=
  let s := s.advance t
  if s.stopped then s else
  match s.fault.bists.find? fun b => b.kind == kind && b.target == target with
  | none => s
  | some b =>
    let words := if b.tests.testBit 0 then words.filter fun w => inTarget kind target w.2.2 else []
    let logic := if b.tests.testBit 1 then logic else []
    let r := targetRegion kind target
    let s := words.foldl (fun s w => (s.logError r ⟨0, 2, w.1, w.2.1, w.2.2, 1, 0, initMelvi, 0, s.time.frc⟩).1) s
    let s := logic.foldl (fun s u => s.logMelvi r u 0) s
    let pass := words.isEmpty && logic.isEmpty
    let failed := min 65535 ((words.map fun w => (w.1, w.2.1)).dedup.length)
    let first := (words.head?.map fun w => w.2.2).getD 0
    let s := s.modFault fun f => { f with bists := f.bists.filter fun o => !(o.kind == kind && o.target == target) }
    let s := if !pass || b.tests != 3 then s
      else
        let keys := (s.fault.fencedEng.keys.map fun e => (0, e)) ++ (s.fault.fencedBlk.keys.map fun e => (1, e))
          ++ (s.fault.fencedReg.keys.map fun e => (2, e))
        (keys.filter fun k => targetIn k.1 k.2 kind target).foldl (fun s k =>
          s.modFault fun f => { f with tested := f.tested.set (targetKey k.1 k.2) () }) s
    let s := (s.loseTarget kind target).postAll 0x0A05 (if pass then 0 else 2) (fencedData kind target + 65536 * failed)
    match s.flight? b.cmd with
    | some fl => s.complete fl 0x0A05 (.ok (leBytes 1 (b2n pass) ++ zeros 1 ++ leBytes 2 failed ++ zeros 4 ++ leBytes 8 first))
    | none => s

/-- BIST_DONE. -/
def execBistDone (t kind target : Nat) (words : List (Nat × Nat × Nat)) (logic : List Nat) (s : State) : Host.Outcome State Fault Refusal :=
  .next (doBistDone t kind target words logic s)

/-! ## Engine faults (R584) -/

/-- FRC counts of 60 s. -/
def minute : Nat := 58982400000

/-- An engine is fenced automatically, unless it is fenced already. -/
def State.autoFence (s : State) (kind target : Nat) : State :=
  if (s.fenceOf kind target) == some true then s else s.setFence kind target true

/-- ENGINE_FAULT: an engine-internal fault; `ue` when it is a UE in a store of the engine, otherwise an abort that it did not leave. -/
def doEngineFault (t e : Nat) (ue : Bool) (s : State) : State :=
  let s := s.advance t
  if !engPop e || s.stopped || s.asleep (engRegion e) then s
  else
    let s := if ue then (s.logError (engRegion e) ⟨0, 2, 8, initEng e, engBase e, 1, 0, initEng e, 0, s.time.frc⟩).1
      else s.logMelvi (engRegion e) (initEng e) (engBase e)
    let times := ((s.fault.recov.get [] e).filter fun f => s.time.frc < f + minute) ++ [s.time.frc]
    let s := (s.startReset 0 e).modFault fun f => { f with recov := f.recov.set e times }
    let s := s.postAll 0x0A01 1 (e + 4096 * min 15 times.length)
    if 3 ≤ times.length then s.autoFence 0 e else s

/-- ENGINE_FAULT. -/
def execEngineFault (t e : Nat) (ue : Bool) (s : State) : Host.Outcome State Fault Refusal := .next (doEngineFault t e ue s)

/-- ENGINE_RECOVERY_TIMEOUT: an engine is not back in service 2 ms after the reset of its recovery. -/
def doEngineRecoveryTimeout (t e : Nat) (s : State) : State :=
  let s := s.advance t
  match s.fault.resetAt.find? (targetKey 0 e) with
  | none => s
  | some f =>
    if !s.stopped && (s.fault.recov.get [] e).contains f && f + msToFrc 2 ≤ s.time.frc then s.autoFence 0 e else s

/-- ENGINE_RECOVERY_TIMEOUT. -/
def execEngineRecoveryTimeout (t e : Nat) (s : State) : Host.Outcome State Fault Refusal := .next (doEngineRecoveryTimeout t e s)

/-- An automatic fence of a block, with FORCE (R585): what is still on its engines leaves at its next yield, and the fence takes effect
when the block is empty. -/
def State.fenceBlockAuto (s : State) (blk : Nat) : State :=
  let s := s.loseLines fun b => b == blk
  if s.fenceOf 1 blk == some true || (s.fault.fences.any fun f => f.kind == 1 && f.target == blk && f.cmd.isNone) then s
  else
    let (s, n) := s.forceTarget 1 blk
    let op : FenceOp := ⟨1, blk, true, s.time.frc, true, none, n⟩
    (s.modFault fun f => { f with fences := f.fences ++ [op] }).settleFence op

end Sys2Proof.Machine
end

