-- ==== Sys2Proof/Machine/Viterbi.lean ====
section
/-! DEFINITION. The tail-biting convolutional code of R274 and R509: rate 1/3, constraint length 7, generators 133, 171 and 165
octal, and the wrap-around Viterbi search of two passes over its circular trellis. -/

namespace Sys2Proof.Machine

/-- The generators as tap masks, the newest bit most significant. -/
def ccGens : List Nat := [0o133, 0o171, 0o165]

/-- Parity of the register's bits under a tap mask. -/
def ccParity (reg g : Nat) : Bool := ((List.range 7).filter fun i => (reg &&& g).testBit i).length % 2 == 1

/-- The three coded bits that a register of seven bits gives. -/
def ccOut (reg : Nat) : List Bool := ccGens.map (ccParity reg)

/-- A path of the search: the cost of its whole length, the cost at the start of the pass, its bits of this pass, newest
first. -/
structure CcPath where
  cost : Nat
  base : Nat
  bits : List Bool
  deriving DecidableEq, Repr

/-- What a step costs on a branch: the magnitudes of the soft values that contradict its coded bits (positive means 0, R253). -/
def ccBranch (reg : Nat) (llr : List Int) : Nat :=
  (((ccOut reg).zip llr).map fun x => if x.1 = decide (x.2 < 0) then 0 else x.2.natAbs).sum

/-- One step: each state keeps the cheaper of its two predecessors; the manual gives no rule for equal costs (log entry 32). -/
def ccStep (tie : Nat → Bool) (llr : List Int) (ps : List CcPath) : List CcPath :=
  (List.range 64).map fun s =>
    let b := s / 32
    let p (k : Nat) : CcPath :=
      let q := ps.getD (2 * (s % 32) + k) ⟨0, 0, []⟩
      ⟨q.cost + ccBranch (64 * b + 2 * (s % 32) + k) llr, q.base, (b == 1) :: q.bits⟩
    if (p 0).cost < (p 1).cost then p 0 else if (p 1).cost < (p 0).cost then p 1 else if tie s then p 1 else p 0

/-- One pass over the trellis, a triple of soft values for each step. -/
def ccPass (tie : Nat → Nat → Bool) : (k : Nat) → List (List Int) → List CcPath → List CcPath
  | _, [], ps => ps
  | k, l :: ls, ps => ccPass tie (k + 1) ls (ccStep (tie k) l ps)

/-- The search: the second pass starts from the first pass's costs; the cheapest path's bits of the second pass, and their
cost. -/
def ccSearch (llrs : List (List Int)) : List Bool × Nat :=
  let tie (pass k s : Nat) : Bool := Config.viterbiTie pass k s
  let first := ccPass (tie 0) 0 llrs (List.replicate 64 ⟨0, 0, []⟩)
  let second := ccPass (tie 1) 0 llrs (first.map fun p => ⟨p.cost, p.cost, []⟩)
  let best := (second.drop 1).foldl (fun b p => if p.cost < b.cost then p else b) (second.headD ⟨0, 0, []⟩)
  (best.bits.reverse, best.cost - best.base)

end Sys2Proof.Machine
end

