-- ==== Sys2Proof/Machine/CodingOps.lean ====
section
/-! DEFINITION. Channel coding operations (chapter 09): LLRs and bit strings, CRC, segmentation and rate matching of TS 38.212
and TS 36.212, the LDPC decoding procedure, and HARQ storage. -/

namespace Sys2Proof.Machine

/-! ## CRC (R255) -/

/-- Length and generator of a code of Table 9-2. -/
def crcCode (c : Nat) : Option (Nat × Nat) :=
  match c with
  | 1 => some (24, 0x864CFB) | 2 => some (24, 0x800063) | 3 => some (24, 0xB2B117) | 4 => some (16, 0x1021)
  | 5 => some (11, 0x621) | 6 => some (6, 0x21) | 7 => some (8, 0x9B) | _ => none

/-- The CRC register after a run of bits, from 0. -/
def crcReg (c : Nat × Nat) (bs : List Bool) : Nat :=
  bs.foldl (fun r b =>
    let fb := r.testBit (c.1 - 1) != b
    let r := r * 2 % 2 ^ c.1
    if fb then r ^^^ c.2 else r) 0

/-- The CRC bits of data. -/
def crcBits (c : Nat × Nat) (bs : List Bool) : List Bool := bitsOfNat c.1 (crcReg c bs)
/-- Data with its CRC checks. -/
def crcOk (c : Nat × Nat) (bs : List Bool) : Bool := crcReg c bs == 0

def crc24A : Nat × Nat := (24, 0x864CFB)
def crc24B : Nat × Nat := (24, 0x800063)
def crc16 : Nat × Nat := (16, 0x1021)

/-! ## Segmentation and rate matching

What both standards give a transport block: code blocks, and for each the circular buffer. -/

/-- One code block: coded bits, positions of the circular buffer that are filler, start position, received values. -/
structure CodeBlock where
  /-- Information bits K, of which the first `fill` (LTE) or the last (NR) are filler. -/
  k : Nat
  /-- Positions of the circular buffer. -/
  ncb : Nat
  filler : List Nat
  k0 : Nat
  e : Nat
  /-- It is present in this transmission (CBG). -/
  sent : Bool

/-- A derived transport block: the blocks, or none where the clause finds the combination invalid (R276). -/
abbrev Derived := Option (List CodeBlock)

/-- The buffer positions of the values of a code block in order (R258): the cycle from k0 over the positions that are not
filler. -/
def CodeBlock.cycle (b : CodeBlock) : List Nat :=
  ((List.range b.ncb).map fun i => (b.k0 + i) % b.ncb).filter fun p => !(b.filler.contains p)
def CodeBlock.pos (cyc : List Nat) (i : Nat) : Nat := cyc.getD (i % cyc.length) 0

/-- E of scheduled block `i` of `c` (TS 38.212 clause 5.4.2.1, TS 36.212 clause 5.1.4.1.2). -/
def blockE (g nl qm c i : Nat) : Nat :=
  let g' := g / (nl * qm)
  nl * qm * (if i + 1 ≤ c - g' % c then g' / c else (g' + c - 1) / c)

/-! ### TS 38.212 (PRESUMED, log entry 13) -/

/-- Lifting sizes with their set index. -/
def liftings : List (Nat × Nat) :=
  ((List.range 8).zip [2, 3, 5, 7, 9, 11, 13, 15]).flatMap fun x =>
    (List.range 8).filterMap fun i => if x.2 * 2 ^ i ≤ 384 then some (x.2 * 2 ^ i, x.1) else none

/-- The smallest lifting size at least `n`, with its set index. -/
def liftAtLeast (n : Nat) : Option (Nat × Nat) :=
  liftings.foldl (fun b z => if z.1 < n then b else match b with
    | none => some z
    | some y => if z.1 < y.1 then some z else some y) none

/-- An NR transport block's descriptor (Table 9-4). -/
structure NrTb where
  tbs : Nat
  bg : Nat
  qm : Nat
  nl : Nat
  rv : Nat
  g : Nat
  lbrm : Nat
  entry : Nat
  newData : Bool
  cbg : Bool
  cbgti : Nat
  cbgMax : Nat
  llr : Nat
  out : Nat
  clean : Bool

def nrTb (p : List Byte) : NrTb :=
  ⟨fld p 0 4, fld p 4 1, fld p 5 1, fld p 6 1, fld p 7 1, fld p 8 4, fld p 12 4, fld p 16 2, bit (fld p 18 1) 0,
    bit (fld p 18 1) 1, fld p 19 1, fld p 20 1, fld p 24 8, fld p 32 8,
    fld p 18 1 < 4 && allZero ((p.drop 21).take 3) && allZero ((p.drop 40).take 8)⟩

/-- The descriptor keeps Table 9-4. -/
def NrTb.ok (t : NrTb) : Bool :=
  24 ≤ t.tbs && t.tbs % 8 == 0 && (t.bg == 1 || t.bg == 2) && [1, 2, 4, 6, 8, 10].contains t.qm && 1 ≤ t.nl && t.nl ≤ 4
    && t.rv < 4 && 1 ≤ t.g && t.g ≤ 16777216 && t.entry < 1024 && t.clean
    && (if t.cbg then [2, 4, 6, 8].contains t.cbgMax else t.cbgMax == 0)

/-- The CRC of the transport block, the code blocks and their size K′ (clauses 6.2.1 and 5.2.2). -/
def NrTb.crc (t : NrTb) : Nat × Nat := if 3824 < t.tbs then crc24A else crc16
def NrTb.c (t : NrTb) : Nat :=
  let b := t.tbs + t.crc.1
  let cap := if t.bg = 1 then 8448 else 3840
  if b ≤ cap then 1 else (b + cap - 24 - 1) / (cap - 24)
def NrTb.kPrime (t : NrTb) : Nat :=
  let b := t.tbs + t.crc.1
  (if t.c = 1 then b else b + 24 * t.c) / t.c
/-- Every code block has the same whole number of bits. -/
def NrTb.even (t : NrTb) : Bool := (t.tbs + t.crc.1) % t.c == 0
/-- The lifting size and its set. -/
def NrTb.lift (t : NrTb) : Option (Nat × Nat) :=
  let b := t.tbs + t.crc.1
  let kb := if t.bg = 1 then 22 else if 640 < b then 10 else if 560 < b then 9 else if 192 < b then 8 else 6
  liftAtLeast ((t.kPrime + kb - 1) / kb)
/-- Columns of information bits, coded columns without the punctured two. -/
def NrTb.infoCols (t : NrTb) : Nat := if t.bg = 1 then 22 else 10
def NrTb.codeCols (t : NrTb) : Nat := if t.bg = 1 then 66 else 50

/-- The code block group of block `r` (TS 38.214 clause 5.1.7.1). -/
def NrTb.group (t : NrTb) (r : Nat) : Nat :=
  let m := min t.cbgMax t.c
  let m1 := t.c % m
  let k1 := (t.c + m - 1) / m
  let k2 := t.c / m
  if r < m1 * k1 then r / k1 else m1 + (r - m1 * k1) / k2
def NrTb.sent (t : NrTb) (r : Nat) : Bool := !t.cbg || t.cbgti.testBit (t.group r)
/-- C′, the code blocks present. -/
def NrTb.present (t : NrTb) : Nat := ((List.range t.c).filter t.sent).length

def NrTb.ncb (t : NrTb) (z : Nat) : Nat :=
  let n := t.codeCols * z
  if t.lbrm = 0 then n else min n (3 * t.lbrm / (2 * t.c))
def NrTb.k0 (t : NrTb) (z ncb : Nat) : Nat :=
  let num := if t.bg = 1 then [0, 17, 33, 56].getD t.rv 0 else [0, 13, 25, 43].getD t.rv 0
  num * ncb / (t.codeCols * z) * z

/-- The code blocks of an NR transport block (R257). -/
def NrTb.derive (t : NrTb) : Derived :=
  match t.lift with
  | none => none
  | some (z, _) =>
    let ncb := t.ncb z
    let k := t.infoCols * z
    let filler := (List.range (k - t.kPrime)).filterMap fun i =>
      if 2 * z ≤ t.kPrime + i && t.kPrime + i - 2 * z < ncb then some (t.kPrime + i - 2 * z) else none
    if !t.ok || !t.even || t.g % (t.nl * t.qm) != 0 || t.present = 0 || ncb ≤ filler.length then none
    else some ((List.range t.c).map fun r =>
      let i := ((List.range r).filter t.sent).length
      ⟨k, ncb, filler, t.k0 z ncb, if t.sent r then blockE t.g t.nl t.qm t.present i else 0, t.sent r⟩)

/-- The index in a block's received values of bit e_x: the bit interleaving reversed (clause 5.4.2.2). -/
def deinterleave (e qm x : Nat) : Nat := x / (e / qm) + x % (e / qm) * qm

/-! ### TS 36.212 (PRESUMED, log entry 13) -/

/-- An LTE transport block's descriptor (Table 9-9). -/
structure LteTb where
  tbs : Nat
  qm : Nat
  nl : Nat
  rv : Nat
  newData : Bool
  g : Nat
  nIr : Nat
  entry : Nat
  inp : Nat
  out : Nat
  clean : Bool

def lteTb (p : List Byte) : LteTb :=
  ⟨fld p 0 4, fld p 4 1, fld p 5 1, fld p 6 1, bit (fld p 7 1) 0, fld p 8 4, fld p 12 4, fld p 16 2, fld p 24 8, fld p 32 8,
    fld p 7 1 < 2 && allZero ((p.drop 18).take 6) && allZero ((p.drop 40).take 8)⟩

def LteTb.ok (t : LteTb) : Bool :=
  16 ≤ t.tbs && [2, 4, 6, 8, 10].contains t.qm && 1 ≤ t.nl && t.nl ≤ 4 && t.rv < 4 && t.clean && t.entry < 1024 && 1 ≤ t.g

/-- The block sizes of the turbo interleaver (TS 36.212 Table 5.1.3-3). -/
def turboSizes : List Nat :=
  ((List.range 60).map fun i => 40 + 8 * i) ++ ((List.range 32).map fun i => 528 + 16 * i)
    ++ ((List.range 32).map fun i => 1056 + 32 * i) ++ ((List.range 64).map fun i => 2112 + 64 * i)

/-- Sizes of the code blocks, and the filler bits at the start of the first (clause 5.1.2). -/
def LteTb.sizes (t : LteTb) : List Nat × Nat :=
  let b := t.tbs + 24
  let c := if b ≤ 6144 then 1 else (b + 6119) / 6120
  let b' := if c = 1 then b else b + 24 * c
  let kp := (turboSizes.find? fun k => b' ≤ c * k).getD 6144
  let km := ((turboSizes.filter fun k => k < kp).getLast?).getD 0
  let cm := if c = 1 then 0 else (c * kp - b') / (kp - km)
  (List.replicate cm km ++ List.replicate (c - cm) kp, (c - cm) * kp + cm * km - b')

/-- Column permutation of the sub-block interleaver (clause 5.1.4.1.1). -/
def subPerm : List Nat :=
  [0, 16, 8, 24, 4, 20, 12, 28, 2, 18, 10, 26, 6, 22, 14, 30, 1, 17, 9, 25, 5, 21, 13, 29, 3, 19, 11, 27, 7, 23, 15, 31]

/-- Where position `w` of the circular buffer of a block of K bits comes from: stream and index in it, none for a dummy
bit (clauses 5.1.4.1.1 and 5.1.4.1.2). -/
def lteSource (k w : Nat) : Option (Nat × Nat) :=
  let d := k + 4
  let r := (d + 31) / 32
  let kp := 32 * r
  let nd := kp - d
  let stream := if w < kp then 0 else 1 + (w - kp) % 2
  let i := if w < kp then w else (w - kp) / 2
  let src := if stream < 2 then subPerm.getD (i / r) 0 + 32 * (i % r) else (subPerm.getD (i / r) 0 + 32 * (i % r) + 1) % kp
  if src < nd then none else some (stream, src - nd)

/-- The code blocks of an LTE transport block (R273). -/
def LteTb.derive (t : LteTb) : Derived :=
  let (ks, f) := t.sizes
  let c := ks.length
  if !t.ok || t.g % (t.nl * t.qm) != 0 then none
  else some ((List.range c).map fun r =>
    let k := ks.getD r 0
    let rows := (k + 4 + 31) / 32
    let kw := 96 * rows
    let ncb := if t.nIr = 0 then kw else min (t.nIr / c) kw
    let filler := (List.range ncb).filter fun w => match lteSource k w with
      | none => true
      | some (st, i) => r == 0 && st < 2 && i < f
    ⟨k, ncb, filler, (rows * (2 * ((ncb + 8 * rows - 1) / (8 * rows)) * t.rv + 2)) % max 1 ncb,
      blockE t.g t.nl t.qm c r, true⟩)

/-! ## Soft values (R253, R258) -/

/-- An LLR as it is clipped on entry. -/
def llrOf (b : Byte) : Int := clampI (-31) 31 (sgn 8 b.toNat)

/-- Add received values to a soft buffer: value `x` of the sequence at the position it belongs to, every addition
saturating. -/
def combine (b : CodeBlock) (start : List Int) (val : Nat → Int) : List Int :=
  let cyc := b.cycle
  (List.range b.e).foldl (fun buf x => buf.modify (CodeBlock.pos cyc x) fun l => clampI (-31) 31 (l + val x)) start

/-! ## HARQ storage (R263 to R266) -/

/-- Bytes of a record of `n` positions. -/
def recBytes (n : Nat) : Nat := (8 + (n + 1) / 2 + 63) / 64 * 64

/-- The values of a stored record. -/
def recValues (bs : List Byte) (n : Nat) : List Int :=
  let sh := fld bs 4 1
  (List.range n).map fun i =>
    let v := fld bs (8 + i / 2) 1 / 16 ^ (i % 2) % 16
    (if v = 8 then 0 else sgn 4 v) * 2 ^ sh

/-- The record of a combined buffer (R265). -/
def recOf (b : CodeBlock) (buf : List Int) : List Byte :=
  let big (sh : Nat) : Bool := buf.all fun l => l.natAbs >>> sh ≤ 7
  let sh := if big 0 then 0 else if big 1 then 1 else 2
  let q (i : Nat) : Nat :=
    let l := buf.getD i 0
    if b.filler.contains i then 0 else unsgn 4 (l.sign * (min 7 (l.natAbs >>> sh) : Nat))
  let vals := (List.range ((b.ncb + 1) / 2)).map fun i => BitVec.ofNat 8 (q (2 * i) + 16 * (if 2 * i + 1 < b.ncb then q (2 * i + 1) else 0))
  fit (recBytes b.ncb) (leBytes 4 b.ncb ++ leBytes 1 sh ++ zeros 3 ++ vals)

/-- A record of zeros. -/
def recZero (b : CodeBlock) : List Byte := fit (recBytes b.ncb) (leBytes 4 b.ncb)

def harqEntry (addr : Nat) (b : List Byte) : HarqEntry :=
  let st := fld b 0 1
  let a := st % 2
  ⟨addr, bit st (1 + a), fld b 2 2, fld b 4 4, fld b (8 + 8 * a) 8, fld b (16 - 8 * a) 8⟩

/-- The fields of an entry keep Table 9-6 (R276). -/
def harqOk (b : List Byte) : Bool := fld b 0 1 < 8 && fld b 1 1 == 0 && fld b 4 4 % 64 == 0 && fld b 28 4 == 0

/-- Offset of record `r` of the active slot, found from the headers before it; a header that is poison, or past the slot, is taken
as this transmission's. -/
def Job.recAt (j : Job) (s : State) (h : HarqEntry) (bs : List CodeBlock) : Nat → Nat
  | 0 => 0
  | r + 1 =>
    let o := j.recAt s h bs r
    let n := if h.bytes < o + 8 || j.bad s (h.act + o) 8 then (bs.map CodeBlock.ncb).getD r 0 else leNat (j.bytes s (h.act + o) 4)
    o + recBytes n

/-- The stored record of code block `r`, when it may be used: the bytes (R266). -/
def Job.stored (j : Job) (s : State) (h : HarqEntry) (bs : List CodeBlock) (r : Nat) (b : CodeBlock) : Option (List Byte) :=
  if !h.valid || h.cbs < bs.length then none
  else
    let o := j.recAt s h bs r
    let n := recBytes b.ncb
    if h.bytes < o + n || j.bad s (h.act + o) n then none
    else
      let rec_ := j.bytes s (h.act + o) n
      if fld rec_ 0 4 != b.ncb then none else some rec_

/-- What HARQ combining depends on is absent: H0 is off, or the tenant has no persistent region (R33). -/
def Job.harqAbsent (j : Job) (s : State) : Bool :=
  (s.region 14).st == .off || !(s.mem.ranges.any fun r => some r.fn == j.who.fn)

/-- A range lies in persistent memory of the task's tenant (R263, R276). -/
def Job.keeps (j : Job) (s : State) (a n : Nat) : Bool :=
  let rs := (s.mem.ranges.filter fun r => some r.fn == j.who.fn).map fun r => (r.base, r.len)
  coveredBy rs (rs.length + 1) a n

/-! ## The LDPC decoder (R259) -/

/-- What an LDPC decoding works on: Zc and set index, base graph, rows used, filler bits, and the check of a CRC. -/
structure LdpcCtx where
  bg : Nat
  z : Nat
  rows : List (List (Nat × Nat))
  filler : List Nat
  kPrime : Nat
  crc : Nat × Nat

/-- Q of every code bit, R of every edge by check · 128 + column. -/
structure LdpcSt where
  q : List Int
  r : Tab Int

/-- The bits of check `z` of a row: column and code bit. -/
def LdpcCtx.bitsOf (x : LdpcCtx) (row : List (Nat × Nat)) (z : Nat) : List (Nat × Nat) :=
  row.map fun c => (c.1, c.1 * x.z + (z + c.2) % x.z)

/-- One check: the messages of all its edges from T = Q − R, min1, min2 and the signs. -/
def ldpcCheck (x : LdpcCtx) (key : Nat) (vs : List (Nat × Nat)) (s : LdpcSt) : LdpcSt :=
  let ts := vs.map fun v => (v, s.q.getD v.2 0 - s.r.get 0 (key * 128 + v.1))
  let min1 := (ts.map fun t => t.2.natAbs).foldl min 1000000
  let first := ((ts.filter fun t => t.2.natAbs == min1).map fun t => t.1.1).foldl min 1000000
  let min2 := ((ts.filter fun t => t.1.1 != first).map fun t => t.2.natAbs).foldl min 1000000
  let neg (t : Int) : Bool := t < 0
  let odd := (ts.filter fun t => neg t.2).length % 2 == 1
  ts.foldl (fun s t =>
    let mag : Int := max 0 (((if t.1.1 = first then min2 else min1) : Int) - 1)
    let r := clampI (-31) 31 (if odd != neg t.2 then -mag else mag)
    { r := s.r.put 0 (key * 128 + t.1.1) r
      q := if x.filler.contains t.1.2 then s.q else s.q.set t.1.2 (clampI (-511) 511 (t.2 + r)) }) s

/-- One iteration: every used row in order, every check of it. -/
def ldpcIter (x : LdpcCtx) (s : LdpcSt) : LdpcSt :=
  ((List.range x.rows.length).zip x.rows).foldl (fun s r =>
    (List.range x.z).foldl (fun s z => ldpcCheck x (r.1 * x.z + z) (x.bitsOf r.2 z) s) s) s

/-- Hard decisions. -/
def LdpcSt.hard (s : LdpcSt) : List Bool := s.q.map fun q => q < 0

/-- Every used check satisfied, and the code block's CRC. -/
def ldpcGood (x : LdpcCtx) (s : LdpcSt) : Bool :=
  let h := s.hard
  (x.rows.all fun r => (List.range x.z).all fun z =>
      ((x.bitsOf r z).filter fun v => h.getD v.2 false).length % 2 == 0)
    && crcOk x.crc (h.take x.kPrime)

/-- The iterations: the state, the iterations done, and whether the block is good at the end. -/
def ldpcRun (x : LdpcCtx) (early : Bool) : (left done : Nat) → LdpcSt → LdpcSt × Nat × Bool
  | 0, done, s => (s, done, ldpcGood x s)
  | left + 1, done, s =>
    let s := ldpcIter x s
    if early && ldpcGood x s then (s, done + 1, true) else ldpcRun x early left (done + 1) s

/-- The decoder's context for a code block: the layers in use need a column that received a value (R259). -/
def ldpcCtx (t : NrTb) (z set : Nat) (got : Nat → Bool) : LdpcCtx :=
  let rows := (List.range (if t.bg = 1 then 46 else 42)).filter fun r => r < 4 || got (r + t.infoCols)
  ⟨t.bg, z, rows.map fun r => Config.ldpcRow t.bg set r,
    (List.range (t.infoCols * z - t.kPrime)).map fun i => t.kPrime + i, t.kPrime, if t.c = 1 then t.crc else crc24B⟩

/-- Decode a combined buffer: hard decisions, iterations, good. -/
def ldpcDecode (t : NrTb) (b : CodeBlock) (stored buf : List Int) (early : Bool) (iters : Nat) : List Bool × Nat × Bool :=
  match t.lift with
  | none => ([], 0, false)
  | some (z, set) =>
    let cyc := b.cycle
    let hit := (List.range b.e).map fun x => CodeBlock.pos cyc x
    let got (col : Nat) : Bool := (List.range z).any fun i =>
      let p := (col - 2) * z + i
      p < b.ncb && (hit.contains p || stored.getD p 0 != 0)
    let x := ldpcCtx t z set got
    let q := (List.range ((t.codeCols + 2) * z)).map fun v =>
      if x.filler.contains v then 511 else if v < 2 * z || b.ncb ≤ v - 2 * z then 0 else buf.getD (v - 2 * z) 0
    let (s, n, good) := ldpcRun x early iters 0 ⟨q, []⟩
    (s.hard, n, good)

/-! ## LDPC encoding (TS 38.212 clause 5.3.2, R269)

From the same base graph as the decoder's; its structure, a double diagonal in the first four parity columns and one new column for
each later row, is the standard's (PRESUMED, log entry 13). -/

/-- The sum of the known bits of check `q` of a row. -/
def rowSum (z : Nat) (code : List Bool) (row : List (Nat × Nat)) (q : Nat) : Bool :=
  (row.filter fun c => code.getD (c.1 * z + (q + c.2) % z) false).length % 2 == 1

/-- The coded bits: information columns, the parity column that the sum of the first four rows gives, then one column for each other
row. -/
def ldpcEncode (bg z set : Nat) (info : List Bool) : List Bool :=
  let kc := if bg = 1 then 22 else 10
  let row (r : Nat) : List (Nat × Nat) := Config.ldpcRow bg set r
  let shifts := (List.range 4).flatMap fun r => ((row r).filter fun c => c.1 == kc).map fun c => c.2 % z
  let sh := (shifts.find? fun x => (shifts.filter (· == x)).length % 2 == 1).getD 0
  let lam (q : Nat) : Bool := ((List.range 4).filter fun r => rowSum z info ((row r).filter fun c => c.1 < kc) q).length % 2 == 1
  let first := info ++ (List.range z).map fun y => lam ((y + z - sh) % z)
  ((List.range (if bg = 1 then 46 else 42)).filter fun r => r != 3).foldl (fun code r =>
    let col := kc + (if r < 3 then r + 1 else r)
    let sh := (((row r).find? fun c => c.1 == col).map Prod.snd).getD 0 % z
    let known := (row r).filter fun c => c.1 < col
    code ++ (List.range z).map fun y => rowSum z code known ((y + z - sh) % z)) first

/-! ## Turbo encoding (TS 36.212 clause 5.1.3.2, PRESUMED, log entry 13) -/

/-- A constituent encoder's three delays. -/
abbrev Rsc := Bool × Bool × Bool

/-- One step on an input bit: the parity bit and the next delays. -/
def rscStep (c : Bool) (s : Rsc) : Bool × Rsc :=
  let a := c != (s.2.1 != s.2.2)
  (a != (s.1 != s.2.2), a, s.1, s.2.1)

/-- The parity bits of an input, and the final delays. -/
def rscRun : List Bool → Rsc → List Bool × Rsc
  | [], s => ([], s)
  | c :: cs, s =>
    let p := rscStep c s
    let r := rscRun cs p.2
    (p.1 :: r.1, r.2)

/-- The termination: three systematic bits, each the feedback, with their parities. -/
def rscTail : (n : Nat) → Rsc → List (Bool × Bool)
  | 0, _ => []
  | n + 1, s =>
    let c := s.2.1 != s.2.2
    let p := rscStep c s
    (c, p.1) :: rscTail n p.2

/-- The three output sequences d(0), d(1) and d(2) of K + 4 bits each, one after another. -/
def turboCode (info : List Bool) : List Bool :=
  let k := info.length
  let f := Config.qpp k
  let perm := (List.range k).map fun i => info.getD ((f.1 * i + f.2 * i * i) % k) false
  let a := rscRun info (false, false, false)
  let b := rscRun perm (false, false, false)
  let ta := rscTail 3 a.2
  let tb := rscTail 3 b.2
  let x (t : List (Bool × Bool)) (i : Nat) : Bool := (t.getD i (false, false)).1
  let z (t : List (Bool × Bool)) (i : Nat) : Bool := (t.getD i (false, false)).2
  info ++ [x ta 0, z ta 1, x tb 0, z tb 1] ++ a.1 ++ [z ta 0, x ta 2, z tb 0, x tb 2] ++ b.1 ++ [x ta 1, z ta 2, x tb 1, z tb 2]

/-! ## Tail-biting decoding (TS 36.212 clause 5.1.4.2, R274) -/

/-- Column permutation of the sub-block interleaver for convolutional codes (PRESUMED, log entry 13). -/
def ccPerm : List Nat :=
  [1, 17, 9, 25, 5, 21, 13, 29, 3, 19, 11, 27, 7, 23, 15, 31, 0, 16, 8, 24, 4, 20, 12, 28, 2, 18, 10, 26, 6, 22, 14, 30]

/-- Where position `w` of the circular buffer comes from: sequence and index, none for a dummy bit. -/
def ccSource (d w : Nat) : Option (Nat × Nat) :=
  let r := (d + 31) / 32
  let i := w % (32 * r)
  let src := ccPerm.getD (i / r) 0 + 32 * (i % r)
  if src < 32 * r - d then none else some (w / (32 * r), src - (32 * r - d))

/-- The soft values of the three sequences for each step, every received value added to its bit. -/
def ccDematch (d : Nat) (llrs : List Int) : List (List Int) :=
  let cyc := (List.range (96 * ((d + 31) / 32))).filterMap (ccSource d)
  let sums := ((List.range llrs.length).zip llrs).foldl (fun (m : Tab Int) x =>
    let p := cyc.getD (x.1 % cyc.length) (0, 0)
    m.put 0 (3 * p.2 + p.1) (m.get 0 (3 * p.2 + p.1) + x.2)) []
  (List.range d).map fun k => (List.range 3).map fun i => sums.get 0 (3 * k + i)

end Sys2Proof.Machine
end

