-- ==== Sys2Proof/Machine/Time.lean ====
section
/-! DEFINITION. Time, the Ephemeris and the slot timeline (chapter 03): the time commands and the time events. -/

namespace Sys2Proof.Machine

/-- An amount in units of 2⁻³² ns as whole ns, signed, rounded towards zero (log entry 10). -/
def wholeNs (d : Int) : Int := Int.tdiv d nsUnit

/-- Some cell is in SERVICE or HIBERNATING (R92, R494, R498). -/
def State.cellsBusy (s : State) : Bool := s.cells.some? fun _ c => c.st != .hibernated

/-! ## TIME_GET (R104) -/

def layTimeGet : Layout := ⟨0x0101, 12, false, fun p => [optBuf (fld p 0 8) (fld p 8 4) 64], fun p =>
  if fld p 0 8 = 0 then [] else [(fld p 0 8, fld p 8 4)]⟩

/-- The inline result of TIME_GET (Table 3-6). -/
def State.timeInline (s : State) : List Byte :=
  let f := s.time.frc
  let ns := s.timeAt f / 4294967296
  leBytes 6 (ns / 1000000000) ++ leBytes 2 (s.epochAt f) ++ leBytes 4 (ns % 1000000000) ++ leBytes 4 f

/-- ALIGNED (R103, R104): 1 in no cluster and on the root. -/
def State.alignedBit (s : State) : Bool := !s.underRoot || s.time.aligned

/-- SOURCES of TIME_GET (Table 3-6). -/
def State.timeSources (s : State) : Nat :=
  let pps := s.time.pps.last.any fun f => s.time.frc ≤ f + 1966080000
  b2n s.time.refLost.isNone + 2 * b2n pps + 4 * b2n s.alignedBit + 8 * b2n s.time.member
    + 16 * b2n s.time.pendAdj.isSome

/-- The 64-byte buffer of TIME_GET. -/
def State.timeBuffer (s : State) : List Byte :=
  let f := s.time.frc
  let c := convAt s.time.convs f
  s.timeInline ++ leBytes 8 f ++ leBytes 1 (s.timeAt f / 2 ^ 24) ++ leBytes 1 s.timeSources ++ zeros 2
    ++ leBytes 4 (unsgn 32 (wholeNs s.time.resid)) ++ leBytes 8 c.rate ++ leBytes 8 (c.offset / 2 ^ 32)
    ++ leBytes 4 c.offset ++ zeros 12

def bodyTimeGet (i : CmdIn) (s : State) : Ans :=
  if fld i.p 0 8 = 0 then ok s s.timeInline else (s, .done (.okBuf (fld i.p 0 8) s.timeBuffer))

def execTimeGet (c : CmdRef) (s : State) : Host.Outcome State Fault Refusal :=
  .next (runCmd layTimeGet c bodyTimeGet s)

/-! ## TIME_ADJUST (R80 to R82, R92) -/

def layTimeAdjust : Layout := ⟨0x0102, 40, false,
  fun _ => [.bits 0 1 0xF8, .rsv 2 6, .bits 16 8 0xFFFF000000000000, .rsv 36 4], fun _ => []⟩

/-- RATE lies within ±500 ppm of the nominal rate (R79). -/
def rateOk (r : Nat) : Bool :=
  let n := 0x1046AAAAAAAA
  (if r ≤ n then n - r else r - n) * 1000000 ≤ 500 * n

/-- The adjustment a TIME_ADJUST makes at F: what it leaves pending (R80, R81). -/
def State.adjustment (s : State) (p : List Byte) (f : Nat) : PendAdj :=
  let mode := fld p 0 1
  let c := s.conv
  let rate := if bit mode 0 then fld p 16 8 else c.rate
  let told := c.timeAt f
  let offset := if bit mode 1 then fld p 24 8 * 2 ^ 32 + fld p 32 4
    else if bit mode 2 then unsgn 96 ((told : Int) - (f * rate / 4096 : Nat))
    else c.offset
  let tnew := (Conv.mk f rate offset 0).timeAt f
  ⟨f, rate, offset, fld p 1 1, sgn 96 (unsgn 96 ((tnew : Int) - told))⟩

/-- R92 refuses an adjustment while a cell timeline is anchored or pending. -/
def State.r92Refuses (s : State) (a : PendAdj) : Bool :=
  1000000 * nsUnit < (s.time.resid + a.delta).natAbs
    || (a.slew == 0 && 1000 * nsUnit < a.delta.natAbs && s.cellsBusy)

/-- F of a TIME_ADJUST: AT_FRC, or the first count at least 1 µs ahead (Table 3-1). -/
def State.adjustF (s : State) (p : List Byte) : Nat := if fld p 8 8 = 0 then s.time.frc + 984 else fld p 8 8

/-- The BAD_PARAM cases of TIME_ADJUST (R81). -/
def State.adjustBad (s : State) (p : List Byte) : Bool :=
  let mode := fld p 0 1
  let f := fld p 8 8
  (f != 0 && (f < s.time.frc + 983 || s.time.frc + 4294967296 < f))
    || (bit mode 0 && !rateOk (fld p 16 8))
    || (bit mode 1 && bit mode 2)
    || (!bit mode 0 && !bit mode 1)

/-- The result of TIME_ADJUST (Table 3-1). -/
def State.adjustResult (s : State) (a : PendAdj) : List Byte :=
  leBytes 2 (s.conv.epoch + 1) ++ zeros 2
    ++ leBytes 4 (unsgn 32 (clampI (-2147483647) 2147483647 (wholeNs a.delta))) ++ leBytes 8 a.f

def bodyTimeAdjust (i : CmdIn) (s : State) : Ans :=
  let a := s.adjustment i.p (s.adjustF i.p)
  if s.underRoot then refuse s .notPermitted
  else if s.adjustBad i.p then refuse s .badParam
  else if s.time.pendAdj.isSome then refuse s .noResource
  else if s.anchored && s.r92Refuses a then refuse s .notPermitted
  else ({ s with time := { s.time with pendAdj := some a } }, .later (.timeAdjust (s.adjustResult a)))

def execTimeAdjust (c : CmdRef) (s : State) : Host.Outcome State Fault Refusal :=
  .next (runCmd layTimeAdjust c bodyTimeAdjust s)

/-- The first subframe strobe of the reference timeline at or after a time. -/
def refFrom (theta : Int) : Int × Nat :=
  let k := frameAt 0 theta
  match (List.range 10).find? fun j => theta ≤ nominal 0 k (j * subframeCounts) with
  | some j => (k, j * subframeCounts)
  | none => (k + 1, 0)

/-- S takes a new value from an FRC on. -/
def State.setResid (s : State) (f : Nat) (v : Int) : State :=
  if v = s.time.resid then s else { s with time := { s.time with resid := v, movedAt := f, residWas := s.time.resid } }

/-- Θ has moved past the next strobe of the reference timeline at an FRC (R95). -/
def State.refPassed (s : State) (f : Nat) : Bool := !posLe (refFrom (s.theta f)) (s.time.refTl.k, s.time.refTl.off)

/-- The reference timeline goes on from its next nominal time; the strobes that Θ passed are dropped (R95). -/
def State.skipRef (s : State) (f : Nat) : State :=
  let next := refFrom (s.theta f)
  { s with time := { s.time with refTl := { s.time.refTl with k := next.1, off := next.2 } } }

/-- A new conversion takes effect at F with a step Δ, a slew and a new epoch (R80, R91, R95). -/
def State.applyConv (s : State) (c : Conv) (delta : Int) (slew : Nat) : State :=
  let absorb := s.anchored
  let s := if absorb then s.setResid c.start (s.time.resid + delta) else s
  let s := { s with time := { s.time with convs := c :: s.time.convs, slew := slew, lastAdj := c.start } }
  let skip := !absorb && 0 < delta && s.refPassed c.start
  let s := if skip then s.skipRef c.start else s
  s.postAll 0x0103 0 (c.epoch + 65536 * b2n skip)

/-- TIME_ADJUST_APPLY: at F the pending adjustment takes effect and its command completes (R80, R82); on a cluster member
the root's adjustment, with its Δ and SLEW_NS, takes effect (R101). -/
def doTimeAdjustApply (t : Nat) (root : Option (Int × Nat)) (s : State) : State :=
  let s := s.advance t
  match s.time.pendAdj, root with
  | some a, _ =>
    if s.time.frc < a.f then s
    else
      let s := s.applyConv ⟨a.f, a.rate, a.offset, (s.conv.epoch + 1) % 65536⟩ a.delta a.slew
      let s := { s with time := { s.time with pendAdj := none } }
      s.completeWaits fun w => match w with
        | .timeAdjust res => some (.ok res)
        | _ => none
  | none, some (delta, slew) =>
    if !s.underRoot then s
    else
      let c := s.conv
      s.applyConv ⟨s.time.frc, c.rate, unsgn 96 (c.offset + delta), (c.epoch + 1) % 65536⟩ delta slew
  | none, none => s

def execTimeAdjustApply (t : Nat) (root : Option (Int × Nat)) (s : State) : Host.Outcome State Fault Refusal :=
  .next (doTimeAdjustApply t root s)

/-! ## TIMELINE_ANCHOR (R97, R98) -/

def layTimelineAnchor : Layout := ⟨0x0103, 12, false, fun _ =>
  [.rng 0 2 0 383, .rng 2 1 0 1, .oneOf 3 1 numerologies, .srng 4 4 (-4999999) 4999999, .rng 8 2 0 1023, .rsv 10 2],
  fun _ => []⟩

/-- S is 0 while no cell timeline is anchored or pending (R91). -/
def State.settleResid (s : State) : State :=
  if s.anchored || s.time.resid == 0 then s
  else
    let s := s.setResid s.time.frc 0
    if s.refPassed s.time.frc then s.skipRef s.time.frc else s

def bodyTimelineAnchor (i : CmdIn) (s : State) : Ans :=
  let cell := fld i.p 0 2
  let act := fld i.p 2 1
  let num := fld i.p 3 1
  let toff := sfld i.p 4 4
  let st := (s.cells.find? cell).map fun c => (c.st, c.num)
  if !s.ownsCell i.fn cell then refuse s .notPermitted
  else if st.any fun x => x.1 != .hibernated then refuse s .notPermitted
  else if st.any fun x => act == 0 || x.2 != num then refuse s .notPermitted
  else if s.time.pendAnchors.has cell then refuse s .noResource
  else if act = 1 && !s.anchored && s.time.pendAdj.any s.r92Refuses then refuse s .noResource
  else if act = 0 then
    ok ({ s with time := { s.time with anchors := s.time.anchors.del cell } }).settleResid (zeros 16)
  else
    let k := frameFrom toff (s.theta (s.time.frc + 983040))
    let a : PendAnchor := ⟨num, toff, fld i.p 8 2, k⟩
    ({ s with time := { s.time with pendAnchors := s.time.pendAnchors.set cell a } }, .later (.anchor cell))

def execTimelineAnchor (c : CmdRef) (s : State) : Host.Outcome State Fault Refusal :=
  .next (runCmd layTimelineAnchor c bodyTimelineAnchor s)

/-- SFN of a radio frame (R94). -/
def sfnOf (base : Nat) (k : Int) : Nat := ((k + base) % 1024).toNat

/-- ANCHOR_EFFECT: a pending anchor takes effect at its radio-frame start, and the command completes (R97). -/
def doAnchorEffect (t cell : Nat) (s : State) : State :=
  let s := s.advance t
  match s.time.pendAnchors.find? cell with
  | none => s
  | some a =>
    if s.thetaNow < nominal a.toff a.k 0 then s
    else
      let start := s.frcOfTheta (nominal a.toff a.k 0)
      let tl : Timeline := ⟨a.num, a.toff, a.sfnBase, start, a.k, 0⟩
      let s := { s with time := { s.time with
        anchors := s.time.anchors.set cell tl, pendAnchors := s.time.pendAnchors.del cell } }
      let res := leBytes 2 (sfnOf a.sfnBase a.k) ++ leBytes 2 (slotsPer a.num) ++ zeros 4 ++ leBytes 8 start
      (s.completeWaits fun w => if w = .anchor cell then some (.ok res) else none).settleWakes

def execAnchorEffect (t cell : Nat) (s : State) : Host.Outcome State Fault Refusal := .next (doAnchorEffect t cell s)

/-! ## PPS_IN (R87 to R89) -/

def layPpsConfig : Layout := ⟨0x0104, 8, false, fun _ =>
  [.bits 0 1 0xF8, .rsv 1 1, .rng 2 2 1 10000, .srng 4 4 (-100000) 100000], fun _ => []⟩

def bodyPpsConfig (i : CmdIn) (s : State) : Ans :=
  if s.underRoot then refuse s .notPermitted
  else
    let c := fld i.p 0 1
    let pps : Pps := { s.time.pps with
      enable := bit c 0, falling := bit c 1, events := bit c 2, windowUs := fld i.p 2 2, cableNs := sfld i.p 4 4
      last := none, due := 0, missing := 0 }
    ok { s with time := { s.time with pps := pps } } []

def execPpsConfig (c : CmdRef) (s : State) : Host.Outcome State Fault Refusal :=
  .next (runCmd layPpsConfig c bodyPpsConfig s)

/-- Post an event whose TS fields hold a given time T and epoch, to every subscriber (R87). -/
def State.postAllAt (s : State) (code sev data tm epoch : Nat) : State :=
  (List.range 8).foldl (fun s fn =>
    match (s.func fn).subs.find? (code / 256) with
    | none => s
    | some sub =>
      if s.pow.mode = .fault || sev < sub.minSev then s else
      match (s.func fn).qps.find? sub.qp with
      | none => s
      | some q =>
        if q.free = 0 then s.modFunc fn fun f => { f with eventsLost := sat32 (f.eventsLost + 1) }
        else s.cqWrite fn sub.qp none ⟨0xFFFFFFFF, 0, 0, 2, 16,
          leBytes 2 code ++ leBytes 1 sev ++ zeros 1 ++ leBytes 4 (tm / 2 ^ 32) ++ leBytes 1 (tm / 2 ^ 24) ++ zeros 1
            ++ leBytes 2 epoch ++ leBytes 4 data⟩ false) s

/-- PPS_CAPTURE: the selected edge of a pulse whose active level lasts `widthNs` (R87). -/
def doPpsCapture (t widthNs : Nat) (s : State) : State :=
  let s := s.advance t
  let p := s.time.pps
  if !p.enable || widthNs < 100 then s
  else
    let n := (p.edges + 1) % 2 ^ 32
    let s := { s with time := { s.time with
      pps := { p with edges := n, last := some s.time.frc, due := s.time.frc, missing := 0 } } }
    if p.events then
      s.postAllAt 0x0101 0 n (unsgn 96 ((s.timeAt s.time.frc : Int) - p.cableNs * nsUnit)) (s.epochAt s.time.frc)
    else s

def execPpsCapture (t widthNs : Nat) (s : State) : Host.Outcome State Fault Refusal := .next (doPpsCapture t widthNs s)

/-- PPS_MISSING: the window after the last edge, or a later second, has closed without an edge (R89). -/
def doPpsMissing (t : Nat) (s : State) : State :=
  let s := s.advance t
  let p := s.time.pps
  if !p.enable || p.last.isNone || s.time.frc < p.due + 983040000 + usToFrc p.windowUs then s
  else
    let s := { s with time := { s.time with pps := { p with due := p.due + 983040000, missing := p.missing + 1 } } }
    s.postAll 0x0102 1 (p.missing + 1)

def execPpsMissing (t : Nat) (s : State) : Host.Outcome State Fault Refusal := .next (doPpsMissing t s)

/-! ## REFCLK_TIM (R77) -/

/-- REFCLK_LOSS: no edge for 100 ns; the PLL holds and the FRC counts on. -/
def doRefclkLoss (t : Nat) (s : State) : State :=
  let s := s.advance t
  if s.time.refLost.isSome then s
  else ({ s with time := { s.time with refLost := some s.time.frc } }).postAll 0x0104 3 0

def execRefclkLoss (t : Nat) (s : State) : Host.Outcome State Fault Refusal := .next (doRefclkLoss t s)

/-- REFCLK_RESTORED: the PLL has relocked; DATA is the loss in µs, saturated. -/
def doRefclkRestored (t : Nat) (s : State) : State :=
  let s := s.advance t
  match s.time.refLost with
  | none => s
  | some f => ({ s with time := { s.time with refLost := none } }).postAll 0x0105 1
      (sat32 ((s.time.frc - f) * 100 / 98304))

def execRefclkRestored (t : Nat) (s : State) : Host.Outcome State Fault Refusal := .next (doRefclkRestored t s)

/-! ## Strobes (R91, R94, R95) -/

/-- S moves towards 0 by min(|S|, SLEW_NS); SLEW_NS 0 moves it by |S| (R91). -/
def slewStep (resid : Int) (slew : Nat) : Int :=
  let step : Int := slew * nsUnit
  if slew = 0 then 0
  else if 0 ≤ resid then (if resid ≤ step then 0 else resid - step)
  else (if -step ≤ resid then 0 else resid + step)

/-- TIMELINE_STROBE: the next strobe of the reference timeline (none) or of a cell's timeline is issued, at or after its
nominal time; the reference's radio frames slew S, and a move of S drops the reference's strobes that Θ passes; a cell's strobes open dispatch
windows and act deadlines, issued and dropped ones alike (R95). -/
def doTimelineStrobe (t : Nat) (cell : Option Nat) (s : State) : State :=
  let s := s.advance t
  match cell with
  | none =>
    let tl := s.time.refTl
    let nom := nominal 0 tl.k tl.off
    if s.thetaNow < nom then s
    else
      let f := s.frcOfTheta nom
      let nx := nextStrobe tl.num tl.k tl.off
      let s := { s with time := { s.time with refTl := { tl with k := nx.1, off := nx.2 } } }
      if tl.off = 0 && s.time.lastAdj < f then
        let s := s.setResid f (slewStep s.time.resid s.time.slew)
        if s.refPassed f then s.skipRef f else s
      else s
  | some c =>
    match s.anchor? c with
    | none => s
    | some tl =>
      if s.thetaNow < nominal tl.toff tl.k tl.off then s
      else
        let nx := nextStrobe tl.num tl.k tl.off
        let s := { s with time := { s.time with anchors := s.time.anchors.set c { tl with k := nx.1, off := nx.2 } } }
        (s.openWindows c tl.num (tl.k, tl.off)).deadlines c (tl.k, tl.off)

def execTimelineStrobe (t : Nat) (cell : Option Nat) (s : State) : Host.Outcome State Fault Refusal :=
  .next (doTimelineStrobe t cell s)

/-! ## Cluster servo (R100, R103) -/

/-- SERVO_RATE_UPDATE: a measurement of the offset from the root; within alignment the servo sets RATE, continuously and
at most once per ms; the tenth measurement beyond twice the bound clears ALIGNED. -/
def doServoRateUpdate (t rate : Nat) (offsetNs : Int) (viaEth : Bool) (s : State) : State :=
  let s := s.advance t
  if !s.time.member then s
  else
    let bound : Nat := if viaEth then 50 else 20
    let far := 2 * bound < offsetNs.natAbs
    let n := if far then s.time.misses + 1 else 0
    let s := { s with time := { s.time with misses := n, aligned := n < 10 } }
    if 10 ≤ n then
      (if n = 10 then s.postAll 0x0106 2 (unsgn 32 (clampI (-2147483648) 2147483647 offsetNs)) else s)
    else if s.time.frc < s.time.lastServo + 983040 || !rateOk rate then s
    else
      let f := s.time.frc
      let offset := unsgn 96 ((s.conv.timeAt f : Int) - (f * rate / 4096 : Nat))
      { s with time := { s.time with convs := ⟨f, rate, offset, s.conv.epoch⟩ :: s.time.convs, lastServo := f } }

def execServoRateUpdate (t rate : Nat) (offsetNs : Int) (viaEth : Bool) (s : State) :
    Host.Outcome State Fault Refusal :=
  .next (doServoRateUpdate t rate offsetNs viaEth s)

end Sys2Proof.Machine
end

