-- ==== Sys2Proof/Machine/FscOps.lean ====
section
/-! DEFINITION. The Finderscope (chapter 18): listening windows, levels, chime reception, and the rule engine with its actions. -/

namespace Sys2Proof.Machine

/-- Put a configured stream. -/
def State.putFsc (s : State) (n : Nat) (st : FscStream) : State := s.modFsc fun x => { x with streams := x.streams.set n st }

/-- Counters of a stream in the order of Table 18-13. -/
def fscZero : List Nat := List.replicate 9 0
/-- Where a counter of a stream saturates. -/
def fscTop (i : Nat) : Nat := if i = 6 || i = 7 then 65535 else 4294967295
/-- Count in a stream's counter `i`. -/
def State.fscCount (s : State) (n i : Nat) : State :=
  s.modFsc fun x => { x with counts := x.counts.mod fscZero n fun c => c.modify i fun v => min (fscTop i) (v + 1) }

/-! ## Fields of a stream (Table 18-10) -/

def FscStream.chime (x : FscStream) : Bool := bit (fld x.cfg 4 1) 0
def FscStream.prach (x : FscStream) : Bool := bit (fld x.cfg 4 1) 1
def FscStream.energyOn (x : FscStream) : Bool := bit (fld x.cfg 4 1) 2
def FscStream.trail (x : FscStream) : Nat := fld x.cfg 2 2
def FscStream.cell (x : FscStream) : Nat := fld x.cfg 26 2

def FscStream.decim (x : FscStream) : Nat := fld x.cfg 5 1

/-! ## The sample chain (R504, R506) -/

/-- The NCO's phase increment of an offset frequency. -/
def ncoIncrement (hz : Int) : Nat := (hz * 2 ^ 32 / 1920000 % 2 ^ 32).toNat

/-- FRC counts of an output sample: 1.92 Msps, every DECIM-th kept. -/
def FscStream.sampleCounts (x : FscStream) : Nat := 512 * x.decim

/-- `n` output samples from an FRC value on are invalid; overlapping spans do not add (R506). -/
def FscStream.invalid (x : FscStream) (f n : Nat) : FscStream := { x with validAt := max x.validAt (f + n * x.sampleCounts) }

/-- The chain restarts from zero state at a window opening: 96 invalid samples, NCO phase 0 (R503, R504, Table 18-1). -/
def FscStream.restart (x : FscStream) (f : Nat) : FscStream := { x with chainAt := f }.invalid f 96

/-- The chain of a stream that is set again while its window stays open (Table 18-1): a new channel 48 invalid samples, a new decimation
filter 96. -/
def FscStream.retuned (x old : FscStream) (f : Nat) : FscStream :=
  let x := { x with chainAt := old.chainAt, validAt := old.validAt, agc := old.agc }
  let x := if x.phi = old.phi then x else x.invalid f 48
  if x.decim = old.decim then x else x.invalid f 96

/-- The AGC stands at a gain: a step invalidates 4 samples (Table 18-1). -/
def FscStream.gainAt (x : FscStream) (f g : Nat) : FscStream := if x.agc = g then x else { x with agc := g }.invalid f 4

/-! ## Levels (R510) -/

/-- floor(20 × log₁₀(P / 2³⁰)), limited to −128…127, of the mean P of an energy sum over `n` samples. -/
def powerLevel (sum n : Nat) : Int :=
  let a := sum ^ 20
  let b := (n * 2 ^ 30) ^ 20
  let ok (k : Int) : Bool := if 0 ≤ k then 10 ^ k.toNat * b ≤ a else b ≤ a * 10 ^ (-k).toNat
  if n = 0 then -128 else (((List.range 255).map fun i => (127 : Int) - i).find? ok).getD (-128)

/-! ## Windows (R503, R513) -/

/-- The disciplined time in whole µs. -/
def State.usNow (s : State) : Nat := s.timeAt s.time.frc / 2 ^ 32 / 1000

/-- FRC counts of a PRACH preamble with its cyclic prefix (PRESUMED: TS 38.211 Table 6.3.3.1-1, TS 36.211 Table 5.7.1-1). -/
def prachCounts (f : Nat) : Nat :=
  32 * (if f = 0x01 || f = 0x23 then 21024 + 2 * 24576 else if f = 0x02 then 4688 + 4 * 24576 else if f = 0x21 then 21024 + 24576
    else if f = 0x22 then 6240 + 2 * 24576 else 3168 + 24576)

/-- The timeline of the cell whose PRACH a stream watches: the cell is HIBERNATED with WATCH_PRACH, its timeline anchored. -/
def State.watched (s : State) (x : FscStream) : Option Timeline :=
  if x.prach && (s.cells.find? x.cell).any (fun c => c.st == .hibernated && c.watchPrach) then s.anchor? x.cell else none

/-- The occasions of a stream in the radio frames about now: radio frame, subframe, the window's start and end in Θ. -/
def State.occasions (s : State) (x : FscStream) : List ((Int × Nat) × Int × Int) :=
  match s.watched x with
  | none => []
  | some tl =>
    let k0 := frameAt tl.toff s.thetaNow
    [k0 - 1, k0, k0 + 1].flatMap fun k =>
      if sfnOf tl.sfnBase k % (max 1 (fld x.cfg 33 1)) != fld x.cfg 34 1 then []
      else (maskBits (fld x.cfg 36 2) 10).map fun sub =>
        ((k, sub), nominal tl.toff k (sub * subframeCounts) - 100000 * nsUnit,
          nominal tl.toff k (sub * subframeCounts + prachCounts (fld x.cfg 25 1)) + 100000 * nsUnit)

/-- A window of the stream is open a number of µs from now. -/
def State.windowIn (s : State) (x : FscStream) (us : Nat) : Bool :=
  let th := s.thetaNow + (us * 1000 : Nat) * nsUnit
  bit (fld x.cfg 6 1) 0 || (fld x.cfg 16 4 != 0 && (s.usNow + us) % fld x.cfg 16 4 < fld x.cfg 12 4)
    || (s.occasions x).any (fun o => o.2.1 ≤ th && th < o.2.2)

/-- A window of the stream is open now. -/
def State.windowNow (s : State) (x : FscStream) : Bool := s.windowIn x 0

/-- The samples of a stream's trail are invalid (R502). -/
def State.deaf (s : State) (x : FscStream) : Bool :=
  match s.line.trails.find? x.trail with
  | none => true
  | some t => (s.tlf t.lane).sf || setAt t.defects 0

/-- The Finderscope has ended a use of the RC oscillator: it stops 10 µs later (R501). -/
def State.rcTail (s : State) : State := s.modFsc fun x => { x with rcUntil := s.time.frc + usToFrc 10 }
/-- A sequencer pass is due within 5 µs (R517). -/
def State.passSoon (s : State) : Bool :=
  let us := s.time.frc * 100 / 98304
  s.fsc.adc.num != 0 && s.fsc.adc.passUs != 0 && us / s.fsc.adc.passUs != (us + 5) / s.fsc.adc.passUs
/-- An urgent request is due within 5 µs, or its burst of 12 conversions runs: every 100 µs, in WATCH every 10 ms (R518). -/
def State.burstSoon (s : State) : Bool :=
  s.fsc.adc.burstAt.any fun f => f + usToFrc ((if s.pow.mode == .watch then 10000 else 100) - 17) ≤ s.time.frc
/-- The RC oscillator runs for the Finderscope: it starts 5 µs before a use and stops 10 µs after it (R501). -/
def State.rcRuns (s : State) : Bool :=
  s.fsc.adc.running.isSome || s.fsc.adc.calibrating || s.time.frc < s.fsc.rcUntil || s.passSoon || s.burstSoon
    || s.fsc.streams.some? fun _ x => x.opened || s.windowIn x 5

/-! ## Chime reception (R510) -/

/-- No reception; the AGC is released. -/
def FscStream.searching (x : FscStream) : FscStream := { x with rx := .search, gain := none }

/-- A reception begins on a detection. -/
def FscStream.detected (x : FscStream) (f : Nat) (lv : Int) (g : Nat) : FscStream :=
  { x with rx := .syncWait, detAt := f, latched := lv, gain := some (min g 60) }.gainAt f (min g 60)

/-- The reception ends, counted in counter `i`. -/
def State.endReception (s : State) (n i : Nat) (x : FscStream) : State := (s.fscCount n i).putFsc n x.searching

/-- FRC of the sample at which an event of the samples is seen. -/
def ChimeEv.frc : ChimeEv → Nat
  | .detect f _ _ _ _ => f
  | .sync f _ _ => f
  | .level f _ => f

/-- One event of a stream's samples; the correlator and the decoder ignore invalid samples (R506). -/
def State.chimeEv (s : State) (n : Nat) (ev : ChimeEv) : State :=
  match s.fsc.streams.find? n with
  | none => s
  | some x =>
    if !x.opened || !x.chime || ev.frc < x.validAt || s.time.frc < ev.frc then s else
    match ev with
    | .detect f num den sum g =>
      let lv := powerLevel sum 128
      if den = 0 || num * 256 < fld x.cfg 22 1 * den then s
      else if x.rx == .search then (s.fscCount n 0).putFsc n (x.detected f lv g)
      else if x.latched + fld x.cfg 7 1 ≤ lv then (s.fscCount n 3).putFsc n (x.detected f lv g)
      else s.fscCount n 4
    | .sync f word sum =>
      if x.rx != .syncWait || x.detAt + usToFrc 400 < f || 3 < (maskBits (word ^^^ 0xC35A1E6D) 32).length then s
      else
        let lv := powerLevel sum 256
        s.putFsc n { x with rx := .receive, syncAt := f, rssi := lv, latched := lv }
    | .level _ sum => if x.rx != .search && powerLevel sum 128 + 20 < x.latched then s.endReception n 2 x else s

/-- The events of a stream's samples, in their order. -/
def State.chimeEvs (s : State) (n : Nat) (evs : List ChimeEv) : State := evs.foldl (fun s e => s.chimeEv n e) s

/-- A reception in progress is lost: the window closes, the stream is reconfigured or invalid (R510). -/
def State.loseReception (s : State) (n : Nat) : State :=
  match s.fsc.streams.find? n with
  | some x => if x.rx == .search then s else s.endReception n 5 x
  | none => s

/-! ## Rules (R522 to R526) -/

/-- An event that rules act on. `kind` is EVENT of Table 18-8, 4 for any ADC result. -/
structure FscEv where
  kind : Nat
  source : Nat
  /-- What rate limits count by (R524). -/
  gapBy : Nat
  wakeType : Nat
  flags : Nat
  /-- The cell that the event carries. -/
  cell : Option Nat
  /-- A valid result of the ADC. -/
  value : Option Nat
  /-- The rule a TIMELINE event belongs to. -/
  rule : Option Nat
  data : Nat
  deriving DecidableEq, Repr

def FscRule.ctrl (r : FscRule) : Nat := fld r.raw 0 1
def FscRule.event (r : FscRule) : Nat := fld r.raw 1 1
def FscRule.source (r : FscRule) : Nat := fld r.raw 2 1
def FscRule.actions (r : FscRule) : Nat := fld r.raw 16 1

/-- Whether an event matches a rule, and the rule with its ADC condition brought up to date (Table 18-8). -/
def FscRule.meets (r : FscRule) (i : Nat) (ev : FscEv) : Bool × FscRule :=
  let src := r.source == ev.source || r.source == 0xFF
  match ev.kind with
  | 1 => (r.event == 1 && src && bit (fld r.raw 8 2) ev.wakeType && (ev.flags &&& fld r.raw 10 2) == fld r.raw 12 2, r)
  | 2 => (r.event == 2 && src, r)
  | 4 =>
    match ev.value with
    | none => (false, r)
    | some v =>
      let th := fld r.raw 20 2
      let hy := fld r.raw 22 2
      if r.source != ev.source then (false, r)
      else if r.event = 4 then
        if th ≤ v then (r.armed, { r with armed := false }) else (false, { r with armed := r.armed || v + hy < th })
      else if r.event = 5 then
        if v ≤ th then (r.armed, { r with armed := false }) else (false, { r with armed := r.armed || th + hy < v })
      else (false, r)
  | 7 => (r.event == 7 && ev.rule == some i, r)
  | k => (r.event == k && r.source == ev.source, r)

/-- Whether a rule's CTRL admits a mode (R522). -/
def FscRule.admits (r : FscRule) (m : ChipMode) : Bool :=
  match m with
  | .watch => bit r.ctrl 1
  | .drain => bit r.ctrl 1 || bit r.ctrl 2
  | .ready | .service | .maint => bit r.ctrl 2
  | .boot | .fault | .off => false

/-- What a rule makes of an event. -/
inductive RuleSays where
  | nothing | limited | fires
  deriving DecidableEq, Repr

/-- One rule meets one event at an FRC value in a mode (R522, R524). -/
def FscRule.take (r : FscRule) (i : Nat) (ev : FscEv) (f : Nat) (m : ChipMode) : FscRule × RuleSays :=
  if !bit r.ctrl 0 then (r, .nothing)
  else
    let (hit, r) := r.meets i ev
    if !hit then (r, .nothing)
    else if (r.gaps.find? ev.gapBy).any fun g => f < g + msToFrc (fld r.raw 6 2) then (r, .limited)
    else
      let w := fld r.raw 4 2
      let n := fld r.raw 3 1
      let ts := (r.times.filter fun g => w == 0 || f ≤ g + msToFrc w) ++ [f]
      if n ≤ ts.length && r.admits m then ({ r with times := [], gaps := r.gaps.set ev.gapBy f }, .fires)
      else ({ r with times := ts.drop (ts.length - n) }, .nothing)

/-- Every rule in ascending index order: the rules after the event, those that fired, matching events inside a gap. -/
def takeRules (ev : FscEv) (f : Nat) (m : ChipMode) : (i : Nat) → List FscRule → List FscRule × List (Nat × FscRule) × Nat
  | _, [] => ([], [], 0)
  | i, r :: rest =>
    let (r, said) := r.take i ev f m
    let (rs, fired, lim) := takeRules ev f m (i + 1) rest
    match said with
    | .nothing => (r :: rs, fired, lim)
    | .limited => (r :: rs, fired, lim + 1)
    | .fires => (r :: rs, (i, r) :: fired, lim)

/-- The cells that a rule's WAKE_CELL wakes for an event: those named that are HIBERNATED (R523). -/
def State.ruleCells (s : State) (ev : FscEv) (r : FscRule) : List Nat :=
  let asleep (c : Nat) : Bool := (s.cells.find? c).any fun x => x.st == .hibernated
  let c := ev.cell.getD (fld r.raw 14 2)
  if !bit r.actions 4 then [] else if c = 0x1FF then s.cells.keys.filter asleep else [c].filter asleep

/-- A watch sleep that has not been decided. -/
def State.watchSleep (s : State) : Option SleepOp := s.pow.sleeps.find? fun o => o.target == .watch

/-- The actions a firing performs (Table 18-9): bits of ACTIONS. -/
def State.performed (s : State) (ev : FscEv) (r : FscRule) : Nat :=
  let a := r.actions
  let cells := !(s.ruleCells ev r).isEmpty
  let log := bit a 0
  let host := bit a 1
  if s.pow.mode = .watch then
    b2n log + 2 * b2n host + 4 * b2n (bit a 2 || bit a 4) + 16 * b2n cells
  else b2n log + 2 * b2n host + 4 * b2n (bit a 2 && bit r.ctrl 1 && s.watchSleep.isSome) + 8 * b2n (bit a 3) + 16 * b2n cells

/-- The firing of a rule as it is logged (R526). -/
def State.firing (s : State) (ev : FscEv) (e : Nat × FscRule) : FscFiring :=
  let acts := s.performed ev e.2
  ⟨s.time.frc, e.1, e.2.event, ev.source, acts, ev.data + (if ev.kind = 1 && bit acts 4 then 2147483648 else 0)⟩

/-- DATA of FSC_RULE_FIRED and FSC_WAKE_CAUSE (Table 18-14). -/
def FscFiring.word (x : FscFiring) : Nat := x.rule + 256 * x.event + 65536 * x.source + 16777216 * x.acts

/-- Wake cells for rules: they enter SERVICE once their regions are up, as by CELL_WAKE. -/
def State.ruleWake (s : State) (cells : List Nat) : State :=
  s.modFsc fun x => { x with wakeCells := x.wakeCells ++ cells.filter fun c => !x.wakeCells.contains c }

/-- The actions of the rules that fired in WATCH (Table 18-9): a first SERVICE starts the wake; what fires while a wake is under
way waits for its end (R525). -/
def State.actAsleep (s : State) (ev : FscEv) (fired : List (Nat × FscRule)) : State :=
  let fs := fired.map fun e => s.firing ev e
  let busy := s.fsc.wakeReq || s.pow.watch.any fun w => w.waking.isSome
  let host := fs.any fun x => bit x.acts 1
  let s := s.ruleWake (fired.flatMap fun e => s.ruleCells ev e.2)
  if busy then s.modFsc fun x => { x with deferred := x.deferred ||| (2 * b2n host) }
  else
    let s := s.modFsc fun x => { x with pcieWake := x.pcieWake || host }
    match fs.find? fun x => bit x.acts 2 with
    | none => s
    | some x => s.modFsc fun y => { y with wakeReq := true, cause := some x, wakes := sat32 (y.wakes + 1) }

/-- REGION_WAKE of a mask, by a rule. -/
def State.ruleRegions (s : State) (m : Nat) : State :=
  (maskRegions m).foldl (fun s r =>
    if s.inSleep r then s.modFsc fun x => { x with wakeRegions := x.wakeRegions ||| (1 <<< r) }
    else (s.rouse r).modRegion r fun g => { g with idleHold := none }) s

/-- The actions of the rules that fired on an awake chip (Table 18-9). -/
def State.actAwake (s : State) (ev : FscEv) (fired : List (Nat × FscRule)) : State :=
  let fs := fired.map fun e => s.firing ev e
  let regions := fired.foldl (fun m e => if bit e.2.actions 3 then m ||| fld e.2.raw 18 2 else m) 0
  let cells := fired.flatMap fun e => s.ruleCells ev e.2
  let s := fs.foldl (fun s x => if x.acts % 4 = 0 then s else s.postAll 0x0701 (if bit x.acts 1 then 2 else 0) x.word) s
  let s := if fs.any fun x => bit x.acts 2 then
      (match s.watchSleep with
      | some op => s.abortSleep op 0xFFFE
      | none => s)
    else s
  let s := s.ruleRegions regions
  let s := cells.foldl (fun s c => (s.cellHome c).foldl (fun s r => s.rouse r) s) (s.ruleWake cells)
  s.settleRegions

/-- The rules act on one event (R524). -/
def State.fscEvent (s : State) (ev : FscEv) : State :=
  let (rs, fired, lim) := takeRules ev s.time.frc s.pow.mode 0 s.fsc.rules
  let s := s.modFsc fun x => { x with rules := rs, rateLimited := sat32 (x.rateLimited + lim) }
  let fs := fired.map fun e => s.firing ev e
  let s := s.modFsc fun x => { x with
    log := ((fs.filter fun y => bit y.acts 0).reverse ++ x.log).take 64
    lastFire := match fs.getLast? with
      | some y => some y
      | none => x.lastFire }
  if fired.isEmpty then s else if s.pow.mode = .watch then s.actAsleep ev fired else s.actAwake ev fired

end Sys2Proof.Machine
end

