-- ==== Sys2Proof/Machine/MatrixOps.lean ====
section
/-! DEFINITION. Matrix engine arithmetic (R207 to R212, R218): BFP16 vectors, exact sums, NORMALISE, solver numbers, and
matrices in memory. -/

namespace Sys2Proof.Machine

/-! ## Elements and sums (R207, R210, R211) -/

/-- A complex element: parts, exponent, and whether it was read as poison. -/
structure Elt where
  re : Int
  im : Int
  ex : Int
  bad : Bool
  deriving DecidableEq, Repr

/-- Conjugation inside an exact product (R210). -/
def Elt.conj (a : Elt) : Elt := { a with im := -a.im }

/-- The exact product of two elements. -/
def Elt.mul (a b : Elt) : Elt :=
  let p := cprod a.re a.im b.re b.im
  ⟨p.1, p.2, a.ex + b.ex, a.bad || b.bad⟩

/-- An accumulator part held at 2⁴⁷ − 1 (R211). -/
def capPart (x : Int) : Int × Bool := if 140737488355327 < x then (140737488355327, true) else (x, false)

/-- The sum of products that forms one output element, and whether a part was held (R210, R211). -/
def sumElts (l : List Elt) : Elt × Bool :=
  let emax := (l.map Elt.ex).foldl max (l.headD ⟨0, 0, 0, false⟩).ex
  l.foldl (fun a p =>
    let d := (emax - p.ex).toNat
    let r := capPart (a.1.re + asr p.re d)
    let i := capPart (a.1.im + asr p.im d)
    (⟨r.1, i.1, emax, a.1.bad || p.bad⟩, a.2 || r.2 || i.2)) (⟨0, 0, emax, false⟩, false)

/-! ## NORMALISE (R212) -/

/-- The counters of an ME report (Table 7-3). -/
structure MeReport where
  clamped : Nat
  sat : Nat
  under : Nat
  done : Nat
  deriving DecidableEq, Repr

/-- The report's 16 bytes. -/
def MeReport.bytes (r : MeReport) : List Byte :=
  leBytes 4 (sat32 r.clamped) ++ leBytes 4 (sat32 r.sat) ++ leBytes 4 (sat32 r.under) ++ leBytes 4 (sat32 r.done)

/-- A part of a normalisation group: an integer and its exponent. -/
abbrev Part := Int × Int

/-- Every shifted part fits 16 bits. -/
def partsFit (ys : List Int) (n : Nat) : Bool := ys.all fun y => !(sats16 (asr y n))

/-- NORMALISE: mantissas, exponent, SATURATED, UNDERFLOW. -/
def normalise (g : List Part) : List Int × Int × Bool × Bool :=
  let emax := (g.map Prod.snd).foldl max (g.headD (0, 0)).2
  let ys := g.map fun p => asr p.1 (emax - p.2).toNat
  let n := ((List.range 128).find? (partsFit ys)).getD 128
  let e := emax + n
  if e < -16 then (ys.map fun y => asr y (-16 - emax).toNat, -16, false, true)
  else if 15 < e then
    let m (y : Int) : Int := sat16 (if 15 ≤ emax then y * 2 ^ (emax - 15).toNat else asr y (15 - emax).toNat)
    (ys.map m, 15, true, false)
  else (ys.map fun y => asr y n, e, false, false)

/-- A normalised group: the element parts written, the exponent, poison, and the report's counts. -/
structure Group where
  ms : List Int
  ex : Int
  bad : Bool
  rep : MeReport

/-- Normalise a group of elements given part by part, with the report so far. -/
def group (parts : List Part) (bad held : Bool) (r : MeReport) : Group :=
  let n := normalise parts
  ⟨n.1, n.2.1, bad, { r with sat := r.sat + b2n (n.2.2.1 || held), under := r.under + b2n n.2.2.2 }⟩

/-- A group of sums. -/
def groupElts (l : List (Elt × Bool)) (r : MeReport) : Group :=
  group (l.flatMap fun x => [(x.1.re, x.1.ex), (x.1.im, x.1.ex)]) (l.any fun x => x.1.bad) (l.any Prod.snd) r

/-- The bytes of a group's mantissas, filled with zero padding to a length. -/
def Group.bytes (g : Group) (n : Nat) : List Byte := fit n (g.ms.flatMap fun m => leBytes 2 (unsgn 16 m))

/-- Element `k` of a normalised group. -/
def Group.elt (g : Group) (k : Nat) : Elt := ⟨g.ms.getD (2 * k) 0, g.ms.getD (2 * k + 1) 0, g.ex, g.bad⟩

/-- The exponent byte (R207). -/
def expByte (e : Int) : List Byte := leBytes 1 (unsgn 5 e)

/-! ## Matrices in memory (R208, R209) -/

/-- A matrix descriptor (Table 7-1). -/
structure MatDesc where
  mant : Nat
  exp : Nat
  rows : Nat
  cols : Nat
  orient : Nat
  rsv : Bool
  deriving DecidableEq, Repr

/-- Read a descriptor from a parameter block. -/
def matDesc (p : List Byte) (o : Nat) : MatDesc :=
  ⟨fld p o 8, fld p (o + 8) 8, fld p (o + 16) 4, fld p (o + 20) 4, fld p (o + 24) 1, allZero ((p.drop (o + 25)).take 7)⟩

/-- The descriptor keeps its table, with dimensions up to limits. -/
def MatDesc.ok (d : MatDesc) (mr mc : Nat) : Bool :=
  1 ≤ d.rows && d.rows ≤ mr && 1 ≤ d.cols && d.cols ≤ mc && d.orient < 2 && d.rsv

/-- Vectors in a row or column, and vectors in all. -/
def MatDesc.per (d : MatDesc) : Nat := ((if d.orient = 0 then d.cols else d.rows) + 15) / 16
def MatDesc.vecs (d : MatDesc) : Nat := (if d.orient = 0 then d.rows else d.cols) * d.per

/-- Vector and lane of element (i, j). -/
def MatDesc.at_ (d : MatDesc) (i j : Nat) : Nat × Nat :=
  if d.orient = 0 then (i * d.per + j / 16, j % 16) else (j * d.per + i / 16, i % 16)

/-- The elements of vector `v`, in lane order. -/
def MatDesc.lanes (d : MatDesc) (v : Nat) : List (Nat × Nat) :=
  let o := v / d.per
  let k := v % d.per * 16
  let n := if d.orient = 0 then d.cols else d.rows
  ((List.range 16).filter fun l => k + l < n).map fun l => if d.orient = 0 then (o, k + l) else (k + l, o)

/-- Element (i, j) as a state holds it. -/
def Job.elt (j : Job) (s : State) (d : MatDesc) (r c : Nat) : Elt :=
  let (v, k) := d.at_ r c
  let a := d.mant + 64 * v + 4 * k
  let b := j.bytes s a 4
  let x := fld (j.bytes s (d.exp + v) 1) 0 1
  ⟨sgn 16 (fld b 0 2), sgn 16 (fld b 2 2), sgn 5 x, j.bad s a 4 || j.bad s (d.exp + v) 1⟩

/-- The planes of a matrix as ranges. -/
def MatDesc.ranges (d : MatDesc) : List (Nat × Nat) := [(d.mant, 64 * d.vecs), (d.exp, d.vecs)]

/-- Read both planes of a matrix. -/
def Job.readMat (j : Job) (d : MatDesc) (x : Work) : Work := d.ranges.foldl (fun x r => j.read r.1 r.2 x) x

/-- An operation on a matrix engine in progress. -/
structure MeWork where
  w : Work
  rep : MeReport

/-- Write output vector `v`: mantissas with zero padding, then the exponent byte (R209, R230). -/
def Job.writeVec (j : Job) (d : MatDesc) (v : Nat) (g : Group) (x : MeWork) : MeWork :=
  let w := j.write (d.mant + 64 * v) (g.bytes 64) g.bad x.w
  let w := j.write (d.exp + v) (expByte g.ex) g.bad w
  ⟨w, if w.stop.isSome then g.rep else { g.rep with done := g.rep.done + 1 }⟩

/-- Form and write every vector of an output matrix from its elements' sums. -/
def Job.writeMat (j : Job) (d : MatDesc) (f : Nat → Nat → Elt × Bool) (x : MeWork) : MeWork :=
  (List.range d.vecs).foldl (fun x v =>
    let x := { x with w := x.w.unit }
    if x.w.stop.isSome then x else j.writeVec d v (groupElts ((d.lanes v).map fun p => f p.1 p.2) x.rep) x) x

/-! ## Solver numbers (R218) -/

/-- A solver number: value m × 2^e. -/
structure SNum where
  m : Int
  e : Int
  deriving DecidableEq, Repr

/-- Floor of x / 2^k, for k of either sign. -/
def shiftBy (x k : Int) : Int := if k < 0 then x * 2 ^ (-k).toNat else asr x k.toNat

/-- The smallest k such that floor(x / 2^k) fits 24 signed bits. -/
def snShift (x : Int) : Int :=
  if 0 < x then (Nat.log2 x.toNat : Int) + 1 - 23
  else if x = -1 then -23
  else (Nat.log2 ((-x).toNat - 1) : Int) + 1 - 23

/-- Normalisation of an exact integer. -/
def snNorm (x e : Int) : SNum := if x = 0 then ⟨0, 0⟩ else ⟨shiftBy x (snShift x), e + snShift x⟩

def SNum.mul (a b : SNum) : SNum := snNorm (a.m * b.m) (a.e + b.e)
def SNum.neg (a : SNum) : SNum := snNorm (-a.m) a.e
def SNum.add (a b : SNum) : SNum :=
  if a.m = 0 then b else if b.m = 0 then a
  else if a.e < b.e then snNorm (shiftBy a.m (b.e - a.e) + b.m) b.e
  else snNorm (a.m + shiftBy b.m (a.e - b.e)) a.e
def SNum.recip (d : SNum) : SNum := snNorm (2 ^ 46 / d.m) (-46 - d.e)

/-- a < b as values. -/
def SNum.less (a b : SNum) : Bool :=
  let e := min a.e b.e
  a.m * 2 ^ (a.e - e).toNat < b.m * 2 ^ (b.e - e).toNat

/-- A complex solver number. -/
structure SCpx where
  re : SNum
  im : SNum
  deriving DecidableEq, Repr

def SCpx.zero : SCpx := ⟨⟨0, 0⟩, ⟨0, 0⟩⟩
def SCpx.conj (a : SCpx) : SCpx := ⟨a.re, ⟨-a.im.m, a.im.e⟩⟩
def SCpx.cmul (a b : SCpx) : SCpx :=
  ⟨(a.re.mul b.re).add (a.im.mul b.im).neg, (a.re.mul b.im).add (a.im.mul b.re)⟩
def SCpx.cmulr (a : SCpx) (d : SNum) : SCpx := ⟨a.re.mul d, a.im.mul d⟩
def SCpx.csub (a b : SCpx) : SCpx := ⟨a.re.add b.re.neg, a.im.add b.im.neg⟩

/-- Conversion of a BFP16 element. -/
def Elt.toS (a : Elt) : SCpx := ⟨snNorm a.re a.ex, snNorm a.im a.ex⟩

/-! ## The solver (R219) -/

/-- The factor as it grows: l by 256 · row + column, d and r by index, pivots clamped. -/
structure Factor where
  l : Tab SCpx
  d : Tab SNum
  r : Tab SNum
  clamped : Nat

def Factor.lAt (f : Factor) (i k : Nat) : SCpx := f.l.get .zero (256 * i + k)
def Factor.dAt (f : Factor) (k : Nat) : SNum := f.d.get ⟨0, 0⟩ k
def Factor.rAt (f : Factor) (k : Nat) : SNum := f.r.get ⟨0, 0⟩ k

/-- Column j of the factorisation. -/
def factorCol (a : Nat → Nat → SCpx) (m : Nat) (delta dmin : SNum) (f : Factor) (j : Nat) : Factor :=
  let p := (List.range j).foldl (fun s k =>
    let l := f.lAt j k
    s.add ((((l.re.mul l.re).add (l.im.mul l.im)).mul (f.dAt k)).neg)) ((a j j).re.add delta)
  let low := p.less dmin
  let p := if low then dmin else p
  let r := p.recip
  let f := { f with d := f.d.set j p, r := f.r.set j r, clamped := f.clamped + b2n low }
  ((List.range m).filter fun i => j < i).foldl (fun f i =>
    let t := (List.range j).foldl (fun t k => t.csub (((f.lAt i k).cmulr (f.dAt k)).cmul (f.lAt j k).conj)) (a i j)
    { f with l := f.l.set (256 * i + j) (t.cmul ⟨r, ⟨0, 0⟩⟩) }) f

/-- The factorisation of an M × M matrix. -/
def factorise (a : Nat → Nat → SCpx) (m : Nat) (delta dmin : SNum) : Factor :=
  (List.range m).foldl (factorCol a m delta dmin) ⟨[], [], [], 0⟩

/-- One column of the solution, by row. -/
def solveCol (f : Factor) (m : Nat) (b : Nat → SCpx) : Tab SCpx :=
  let y := (List.range m).foldl (fun (y : Tab SCpx) i =>
    let z := (List.range i).foldl (fun z k => z.csub ((f.lAt i k).cmul (y.get .zero k))) (b i)
    y.set i (z.cmulr (f.rAt i))) []
  (List.range m).reverse.foldl (fun (x : Tab SCpx) i =>
    let z := ((List.range m).filter fun k => i < k).foldl (fun z k => z.csub ((f.lAt k i).conj.cmul (x.get .zero k))) (y.get .zero i)
    x.set i z) []

/-- The parts of a solver number for NORMALISE. -/
def SCpx.parts (z : SCpx) : List Part := [(z.re.m, z.re.e), (z.im.m, z.im.e)]

/-- A value M × 2^E of a parameter block. -/
def snParam (p : List Byte) (o : Nat) : SNum := snNorm (fld p o 2) (sfld p (o + 2) 1)

end Sys2Proof.Machine
end

