-- ==== Sys2Proof/Machine/Transforms.lean ====
section
/-! DEFINITION. Region T0 (chapter 08): FFT and IFFT against their exact reference with the tolerances of R238, and PRACH
detection. -/

namespace Sys2Proof.Machine

/-! ## The exact reference (R236 to R238)

Angles are fractions of a turn; values are fixed-point with 256 fraction bits, and a floor takes a value within 2⁻¹²⁸ below
an integer as that integer (log entry 11). -/

/-- π in units of 2⁻²⁵⁶. -/
def piFix : Int := 363771576891766324280234942777729862653393377328392429958772151117938894466185

/-- The series of e^(jx), term by term: x and the term in units of 2⁻²⁵⁶. -/
def expSeries (x : Int) : (fuel n : Nat) → (term : Int) → Int × Int
  | 0, _, _ => (0, 0)
  | fuel + 1, n, term =>
    let r := expSeries x fuel (n + 1) (asr (term * x) 256 / (n + 1))
    match n % 4 with
    | 0 => (r.1 + term, r.2)
    | 1 => (r.1, r.2 + term)
    | 2 => (r.1 - term, r.2)
    | _ => (r.1, r.2 - term)

/-- e^(j2π · num / den) in units of 2⁻²⁵⁶. -/
def turn (num : Int) (den : Nat) : Int × Int := expSeries (2 * piFix * (num % den) / den) 128 0 (2 ^ 256)

/-- Floor of v / 2^k. -/
def floorFix (v : Int) (k : Nat) : Int := asr (v + 2 ^ 128) k
/-- v / 2^k is an integer. -/
def exactFix (v : Int) (k : Nat) : Bool := (v + 2 ^ 128) % 2 ^ k ≤ 2 ^ 129

/-! ## FFT parameters (Table 8-1, R233 to R235, R239) -/

/-- The parameters of a transform. -/
structure Xf where
  n : Nat
  num : Nat
  symFirst : Nat
  symCount : Nat
  dcSkip : Bool
  winComp : Bool
  shiftEn : Bool
  winAdv : Nat
  prbs : Nat
  stride : Nat
  sc0 : Int
  shift : Int
  outShift : Nat
  slot : Nat
  td : Nat
  fd : Nat
  report : Nat

def xfOf (p : List Byte) : Xf :=
  ⟨fld p 0 2, fld p 2 1, fld p 3 1, fld p 4 1, bit (fld p 5 1) 0, bit (fld p 5 1) 1, bit (fld p 5 1) 2, fld p 6 2, fld p 8 2,
    fld p 10 2, sfld p 12 4, sfld p 16 4, fld p 20 1, fld p 22 2, fld p 24 8, fld p 32 8, fld p 40 8⟩

/-- FRC counts of a symbol without its prefix, 983.04 MHz / Δf. -/
def usefulCounts (num : Nat) : Nat :=
  if num < 7 then 65536 / 2 ^ num else if num = 0x12 then 16384 else if num = 0x22 then 262144 else 65536

/-- FRC counts of a symbol of a slot (Table 3-4). -/
def symCounts (num slot sym : Nat) : Nat :=
  if num ≠ 0x22 && (slot * symsPer num + sym) % symsPerHalf num = 0 then symLen num + symExtra num else symLen num

/-- Symbol `i` of the task holds a whole number of samples, and that number (R234). -/
def Xf.whole (x : Xf) (i : Nat) : Bool := symCounts x.num x.slot (x.symFirst + i) * x.n % usefulCounts x.num == 0
def Xf.samples (x : Xf) (i : Nat) : Nat := symCounts x.num x.slot (x.symFirst + i) * x.n / usefulCounts x.num
def Xf.ncp (x : Xf) (i : Nat) : Nat := x.samples i - x.n
/-- The first sample of symbol `i` in the time-domain buffer. -/
def Xf.start (x : Xf) (i : Nat) : Nat := ((List.range i).map x.samples).sum

/-- The bin of subcarrier j (R235). -/
def Xf.bin (x : Xf) (sub : Nat) : Int :=
  let k := x.sc0 + sub
  if x.dcSkip && 0 ≤ k then k + 1 else k

/-- The checks of R239 under BAD_PARAM. -/
def Xf.ok (x : Xf) (p : List Byte) (inverse : Bool) : Bool :=
  let sizes := [128, 256, 512, 1024, 2048, 4096, 8192, 1536, 3072, 6144]
  sizes.contains x.n && numerologies.contains x.num && 1 ≤ x.symCount && x.symFirst + x.symCount ≤ symsPer x.num
    && fld p 5 1 < 8 && (!inverse || x.winAdv == 0) && 1 ≤ x.prbs && x.prbs ≤ 275 && x.prbs ≤ x.stride
    && -32768 ≤ x.shift && x.shift ≤ 32767 && (if inverse then x.outShift < 16 else x.outShift == 0) && fld p 21 1 == 0
    && x.slot < slotsPer x.num && allZero ((p.drop 48).take 16)
    && ((List.range x.symCount).all fun i => x.whole i && x.winAdv ≤ x.ncp i)
    && -(x.n : Int) < 2 * x.bin 0 && 2 * x.bin (12 * x.prbs - 1) < x.n
    && x.prbs * 12 + b2n x.dcSkip + 1 ≤ x.n && x.report % 16 == 0

/-- The samples that symbol `i` reads or writes, as a byte range. -/
def Xf.tdRange (x : Xf) (inverse : Bool) (i : Nat) : Nat × Nat :=
  if inverse then (x.td + 4 * x.start i, 4 * x.samples i) else (x.td + 4 * (x.start i + x.ncp i - x.winAdv), 4 * x.n)
/-- The record of PRB `k` of symbol `i`. -/
def Xf.record (x : Xf) (i k : Nat) : Nat := x.fd + 64 * ((x.symFirst + i) * x.stride + k)

/-- The checks of R214 and R239 in order. -/
def xfCheck (j : Job) (inverse : Bool) (s : State) (p : List Byte) : Option Status :=
  let x := xfOf p
  if x.td % 64 != 0 || x.fd % 64 != 0 then some .busError
  else if j.task.arg != 0 || !x.ok p inverse then some .badParam
  else if !(j.mayRead j.task.param.addr 64) || !(x.report == 0 || j.mayWrite x.report 16)
      || !((List.range x.symCount).all fun i => j.mayStream s (x.tdRange inverse i).1 (x.tdRange inverse i).2 inverse true true
        && (List.range x.prbs).all fun k => j.mayStream s (x.record i k) 64 (!inverse) false inverse) then some .notPermitted
  else none

/-- A transform in progress: SATURATED, UNDERFLOW and symbols done. -/
structure XfWork where
  w : Work
  sat : Nat
  under : Nat
  done : Nat

def XfWork.bytes (x : XfWork) : List Byte := leBytes 4 (sat32 x.sat) ++ leBytes 4 (sat32 x.under) ++ zeros 4 ++ leBytes 4 x.done

/-- A free deviation of at most 2 either way (R238). -/
def dev (r : Nat) : Int := (r % 5 : Nat) - 2

/-! ## IFFT (R236) -/

/-- The exact value of an output sample, in units of 2⁻²⁷²: angles in units of 1 / (256 N) turn. -/
def ifftRef (x : Xf) (vals : List (Int × Elt)) (ncp i : Nat) : Int × Int :=
  let n : Int := (i : Int) - ncp
  vals.foldl (fun a v =>
    let c := turn (256 * v.1 * n + (if x.shiftEn then x.shift * n else 0)) (256 * x.n)
    let y := cprod v.2.re v.2.im c.1 c.2
    let e := (v.2.ex + 16).toNat
    (a.1 + y.1 * 2 ^ e, a.2 + y.2 * 2 ^ e)) (0, 0)

/-- One output part: the reference after floor and saturation, and a free deviation; counts a saturated part. -/
def ifftPart (v : Int) (outShift : Nat) (x : XfWork) : Int × XfWork :=
  let f := floorFix v (272 + outShift)
  let (r, s) := x.w.s.draw
  (sat16 (sat16 f + dev r), { x with w := { x.w with s := s }, sat := x.sat + b2n (sats16 f) })

/-- The samples of one symbol. -/
def ifftSamples (x : Xf) (vals : List (Int × Elt)) (ncp : Nat) : List Nat → XfWork → List Byte × XfWork
  | [], y => ([], y)
  | i :: rest, y =>
    let v := ifftRef x vals ncp i
    let (re, y) := ifftPart v.1 x.outShift y
    let (im, y) := ifftPart v.2 x.outShift y
    let (bs, y) := ifftSamples x vals ncp rest y
    (leBytes 2 (unsgn 16 re) ++ leBytes 2 (unsgn 16 im) ++ bs, y)

/-- Resource element `n` of a record in memory. -/
def Job.recordElt (j : Job) (s : State) (a n : Nat) : Elt :=
  let b := j.bytes s (a + 4 * n) 4
  ⟨sgn 16 (fld b 0 2), sgn 16 (fld b 2 2), sgn 5 (fld (j.bytes s (a + 48) 1) 0 1), j.bad s a 49⟩

/-- The whole symbol: its N samples, each saturated part counted, behind the prefix. The prefix is the last Ncp samples; with a
frequency shift its samples have their own factors (R237). -/
def ifftBytes (x : Xf) (vals : List (Int × Elt)) (ncp : Nat) (y : XfWork) : List Byte × XfWork :=
  let (bs, y) := ifftSamples x vals ncp ((List.range x.n).map fun i => ncp + i) y
  if x.shiftEn then
    let (pre, z) := ifftSamples x vals ncp (List.range ncp) y
    (pre ++ bs, { z with sat := y.sat })
  else (bs.drop (4 * (x.n - ncp)) ++ bs, y)

/-- One symbol of an IFFT. -/
def ifftSym (j : Job) (x : Xf) (y : XfWork) (i : Nat) : XfWork :=
  let y := { y with w := y.w.unit }
  if y.w.stop.isSome then y
  else
    let w := (List.range x.prbs).foldl (fun w k => j.read (x.record i k) 64 w) y.w
    let s := w.s
    let vals := (List.range (12 * x.prbs)).map fun sub => (x.bin sub, j.recordElt s (x.record i (sub / 12)) (sub % 12))
    let (bs, y) := ifftBytes x vals (x.ncp i) { y with w := w }
    let w := j.write (x.tdRange true i).1 bs (vals.any fun v => v.2.bad) y.w
    { y with w := w, done := y.done + b2n w.stop.isNone }

/-! ## FFT (R236, R238) -/

/-- The exact value of a bin, in units of 2⁻²⁵⁶. -/
def fftRef (x : Xf) (xs : List (Int × Int)) (k : Int) : Int × Int :=
  (List.range x.n).foldl (fun a n =>
    let v := xs.getD n (0, 0)
    let sh : Int := if x.shiftEn then x.shift * ((n : Int) - x.winAdv) else 0
    let wc : Int := if x.winComp then k * x.winAdv else 0
    let c := turn (-(256 * (k * n + wc) + sh)) (256 * x.n)
    let y := cprod v.1 v.2 c.1 c.2
    (a.1 + y.1, a.2 + y.2)) (0, 0)

/-- A mantissa part within ±2 of the reference scaled to the record's exponent. -/
def fftPart (v : Int) (e : Nat) (s : State) : Int × State :=
  let (r, s) := s.draw
  let d := if dev r = -2 && !exactFix v (256 + e) then -1 else dev r
  (sat16 (floorFix v (256 + e) + d), s)

/-- The mantissa parts of a record. -/
def fftParts (e : Nat) : List Int → State → List Byte × State
  | [], s => ([], s)
  | v :: rest, s =>
    let (m, s) := fftPart v e s
    let (bs, s) := fftParts e rest s
    (leBytes 2 (unsgn 16 m) ++ bs, s)

/-- One output record: the exponent that NORMALISE gives the reference, or larger by one. -/
def fftRecord (j : Job) (x : Xf) (xs : List (Int × Int)) (bad : Bool) (i : Nat) (y : XfWork) (k : Nat) : XfWork :=
  if y.w.stop.isSome then y
  else
    let vs := (List.range 12).flatMap fun r =>
      let v := fftRef x xs (x.bin (12 * k + r))
      [v.1, v.2]
    let nm := normalise (vs.map fun v => (floorFix v 256, 0))
    let (r, s) := y.w.s.draw
    let e := min 15 (nm.2.1.toNat + r % 2)
    let (bs, s) := fftParts e vs s
    let w := j.write (x.record i k) (bs ++ expByte e ++ zeros 15) bad { y.w with s := s }
    { y with w := w, sat := y.sat + b2n nm.2.2.1, under := y.under + b2n nm.2.2.2 }

/-- One symbol of an FFT. -/
def fftSym (j : Job) (x : Xf) (y : XfWork) (i : Nat) : XfWork :=
  let y := { y with w := y.w.unit }
  if y.w.stop.isSome then y
  else
    let a := (x.tdRange false i).1
    let w := j.read a (4 * x.n) y.w
    let b := j.bytes w.s a (4 * x.n)
    let xs := (List.range x.n).map fun n => (sfld b (4 * n) 2, sfld b (4 * n + 2) 2)
    let y := (List.range x.prbs).foldl (fun y k => fftRecord j x xs (j.bad w.s a (4 * x.n)) i y k) { y with w := w }
    { y with done := y.done + b2n y.w.stop.isNone }

/-- A transform task: every symbol in order, then the report (R241). -/
def xfOp (inverse : Bool) (j : Job) (s : State) : State × Status :=
  j.withBlock (fun _ => 64) (some (40, 16)) (xfCheck j inverse) (fun p w =>
    let x := xfOf p
    let y := (List.range x.symCount).foldl (if inverse then ifftSym j x else fftSym j x) ⟨w, 0, 0, 0⟩
    j.finish x.report y.bytes y.w) s

/-- FFT. -/
def execFft (t e : Nat) (s : State) : Host.Outcome State Fault Refusal := .next (s.engRow t e 10 1 (xfOp false))
/-- IFFT. -/
def execIfft (t e : Nat) (s : State) : Host.Outcome State Fault Refusal := .next (s.engRow t e 10 2 (xfOp true))

/-! ## DETECT (R243 to R246) -/

/-- Sequence length of a format (Table 8-3). -/
def prachLen (f : Nat) : Option Nat :=
  if f < 4 || (0x20 ≤ f && f < 0x24) then some 839
  else if (0x10 ≤ f && f ≤ 0x18) || f = 0x24 then some 139
  else none

/-- d_u of TS 38.211 clause 6.3.3.1: the cyclic shift of a Doppler shift of one subcarrier spacing. -/
def prachDu (l u : Nat) : Nat :=
  let q := ((List.range l).find? fun q => q * u % l == 1).getD 0
  if 2 * q < l then q else l - q

/-- The permitted cyclic shifts of restricted set type A (TS 38.211 clause 6.3.3.1, PRESUMED, log entry 12). -/
def prachTypeA (l u ncs : Nat) : List Nat :=
  let du := prachDu l u
  let give (ns start ng extra : Nat) : List Nat :=
    (List.range (ns * ng + extra)).map fun v => start * (v / ns) + v % ns * ncs
  if ncs ≤ du && 3 * du < l then
    let ns := du / ncs
    let start := 2 * du + ns * ncs
    let ng := l / start
    give ns start ng ((l - 2 * du - ng * start) / ncs)
  else if l ≤ 3 * du && 2 * du + ncs ≤ l then
    let ns := (l - 2 * du) / ncs
    let start := l - 2 * du + ns * ncs
    let ng := du / start
    give ns start ng (min ((du - ng * start) / ncs) ns)
  else []

/-- The cyclic shifts that one root gives, in ascending index (R244); those of restricted set type B are 3GPP's. -/
def prachShifts (l u ncs restrict : Nat) : List Nat :=
  if ncs = 0 then [0]
  else match restrict with
  | 0 => (List.range (l / ncs)).map fun v => v * ncs
  | 1 => prachTypeA l u ncs
  | _ => Config.prachShifts l u ncs

def prachRoots (j : Job) (s : State) (p : List Byte) : List Nat :=
  (List.range (fld p 5 1)).map fun i => leNat (j.bytes s (fld p 48 8 + 2 * i) 2)

/-- The preambles in order, until there are enough: root and cyclic shift. -/
def prachPlan (p : List Byte) (roots : List Nat) : List (Nat × Nat) :=
  (roots.flatMap fun u => (prachShifts ((prachLen (fld p 0 1)).getD 0) u (fld p 2 2) (fld p 1 1)).map fun c => (u, c)).take (fld p 4 1)

/-- The fields that Table 8-2 fixes. -/
def prachOk (j : Job) (p : List Byte) : Bool :=
  let d := matDesc p 16
  let l := prachLen (fld p 0 1)
  let nr := fld p 5 1
  j.task.arg == 0 && l.isSome && fld p 1 1 ≤ 2 && (fld p 1 1 != 2 || l == some 839) && fld p 2 2 ≤ 419
    && 1 ≤ fld p 4 1 && fld p 4 1 ≤ 64 && 1 ≤ nr && nr ≤ 64 && [1, 5, 15, 30, 60, 120].contains (fld p 8 2)
    && allZero ((p.drop 10).take 6) && 1 ≤ d.rows && d.rows ≤ 1024 && some d.cols == l && d.orient == 0 && d.rsv
    && fld p 56 8 % 64 == 0

/-- The root list lies in PARAM, with a count that its table permits. -/
def prachListed (j : Job) (p : List Byte) : Bool := 1 ≤ fld p 5 1 && fld p 5 1 ≤ 64 && j.task.param.covers (fld p 48 8) (2 * fld p 5 1)

/-- What the parameter block alone settles of R214: alignment, and with a root list that cannot be read, the rest. -/
def prachFirst (j : Job) (p : List Byte) : Option Status :=
  if (matDesc p 16).mant % 64 != 0 then some .busError
  else if prachListed j p then none
  else if !prachOk j p then some .badParam
  else some .notPermitted

/-- The checks once the roots are known: every field, root and the length of the list, then every access. -/
def prachCheck (j : Job) (p : List Byte) (roots : List Nat) : Option Status :=
  let l := (prachLen (fld p 0 1)).getD 0
  if !prachOk j p || !(roots.all fun u => 1 ≤ u && u < l) || (prachPlan p roots).length < fld p 4 1 then some .badParam
  else if !(j.mayRead j.task.param.addr 64) || !((matDesc p 16).ranges.all fun r => j.mayRead r.1 r.2)
      || !(j.mayWrite (fld p 56 8) (16 + 8 * fld p 4 1)) then some .notPermitted
  else none

/-! ### Correlation (R245)

Values in units of 2⁻²⁵⁶; the sequence and its transform are those of TS 38.211 clause 6.3.3.1 (PRESUMED, log entry 12). -/

/-- The product of two fixed-point values. -/
def fixMul (a b : Int × Int) : Int × Int := let p := cprod a.1 a.2 b.1 b.2; (asr p.1 256, asr p.2 256)
def fixSum (l : List (Int × Int)) : Int × Int := l.foldl (fun a b => (a.1 + b.1, a.2 + b.2)) (0, 0)

/-- The frequency-domain sequence of root `u` at index `k`. -/
def prachSeq (l u k : Nat) : Int × Int :=
  fixSum ((List.range l).map fun n => turn (-((u * n * (n + 1) + 2 * n * k : Nat) : Int)) (2 * l))

/-- The correlation of one row with a root at a lag. -/
def prachCorr (l u lag : Nat) (row : Nat → Elt) : Int × Int :=
  fixSum ((List.range l).map fun k =>
    let x := row k
    let m : Int := 2 ^ (x.ex + 16).toNat
    let w := prachSeq l u k
    fixMul (fixMul (x.re * m * 2 ^ 256, x.im * m * 2 ^ 256) (w.1, -w.2)) (turn (k * lag : Nat) l))

/-- The power at a lag, summed non-coherently over all rows. -/
def prachPower (l rows u lag : Nat) (y : Nat → Nat → Elt) : Nat :=
  ((List.range rows).map fun r => let c := prachCorr l u lag (y r); (c.1 * c.1 + c.2 * c.2).toNat).sum

/-- The peak of a preamble's zero-correlation window, as its place and power: a preamble of cyclic shift C delayed by d samples
stands at lag d − C. -/
def prachWindow (l ncs : Nat) (c : Nat) (power : Nat → Nat) : Nat × Nat :=
  (List.range (if ncs = 0 then l else ncs)).foldl (fun b d =>
    let p := power ((d + l - c % l) % l)
    if b.2 < p then (d, p) else b) (0, 0)

/-- A power over the mean of `n` powers that sum to `total`, in whole units of 0.125 dB. -/
def prachDb (p n total : Nat) : Nat := Nat.log 10 ((p * n) ^ 80 / total ^ 80)

/-- One preamble's entry: detected at THRESH, either way within 0.25 dB; the peak as near, the delay within half a sample. Without any
noise the manual states no ratio: it is free (R245, R246). -/
def prachEntry (p : List Byte) (l rows total nr : Nat) (y : Nat → Nat → Elt) (i : Nat) (uc : Nat × Nat) (s : State) : List Byte × State :=
  let w := prachWindow l (fld p 2 2) uc.2 fun lag => prachPower l rows uc.1 lag y
  let (f, s) := s.draw
  let pk := if total = 0 then f else prachDb w.2 (nr * l) total
  let (r, s) := s.draw
  let (m, s) := s.draw
  let (d, s) := s.draw
  let thresh := fld p 6 2
  let hit := if pk + 2 < thresh then false else if thresh + 2 < pk then true else r % 2 == 1
  let hz := l * (if fld p 8 2 = 1 then 1250 else 1000 * fld p 8 2)
  let half := 1000000000 / (2 * hz)
  let ns := w.1 * 1000000000 / hz + d % (2 * half + 1) - half
  (if hit then leBytes 1 i ++ zeros 1 ++ leBytes 2 (min (((pk : Int) + dev m).toNat) 65535) ++ leBytes 4 ns else [], s)

/-- The entries of the preambles from index `i` on. -/
def prachEntries (f : Nat → Nat × Nat → State → List Byte × State) : List (Nat × (Nat × Nat)) → State → List (List Byte) × State
  | [], s => ([], s)
  | (i, uc) :: rest, s =>
    let (b, s) := f i uc s
    let (es, s) := prachEntries f rest s
    (if b.isEmpty then es else b :: es, s)

/-- DETECT: one root is one unit of work; the result is written last. -/
def prachOp (j : Job) (s : State) : State × Status :=
  j.withBlock (fun _ => 64) none (fun _ p => prachFirst j p) (fun p x =>
    let d := matDesc p 16
    let ra := fld p 48 8
    let nr := fld p 5 1
    let x := j.read ra (2 * nr) x
    if x.stop.isSome then (x.s, x.status)
    else if j.bad x.s ra (2 * nr) then (x.s, .poisoned)
    else
      let roots := prachRoots j x.s p
      match prachCheck j p roots with
      | some st => (x.s, st)
      | none =>
        let x := roots.foldl (fun x _ => x.unit) (j.readMat d x)
        if x.stop.isSome then (x.s, x.status)
        else if d.ranges.any fun r => j.bad x.s r.1 r.2 then (x.s, .poisoned)
        else
          let l := d.cols
          let y (r k : Nat) : Elt := j.elt x.s d r k
          let total := (roots.map fun u => ((List.range l).map fun lag => prachPower l d.rows u lag y).sum).sum
          let plan := prachPlan p roots
          let (es, s) := prachEntries (prachEntry p l d.rows total nr y) ((List.range plan.length).zip plan) x.s
          let bs := leBytes 1 es.length ++ zeros 1 ++ leBytes 2 (Config.prachNoise total (nr * l)) ++ zeros 12 ++ es.flatten
          let x := j.write (fld p 56 8) bs false { x with s := s }
          (x.s, x.status)) s

/-- DETECT. -/
def execDetect (t e : Nat) (s : State) : Host.Outcome State Fault Refusal := .next (s.engRow t e 11 1 prachOp)

end Sys2Proof.Machine
end

