-- ==== Sys2Proof/Machine/Finderscope.lean ====
section
/-! DEFINITION. What happens in the Finderscope (chapter 18): windows, chimes, the PRACH watch, energy, the ADC, timers and
timeline events. -/

namespace Sys2Proof.Machine

/-! ## Windows (R503) -/

/-- LISTEN_WINDOW_OPEN: a window of the stream opens and its chain restarts from zero state. -/
def doListenWindowOpen (t n : Nat) (s : State) : State :=
  let s := s.advance t
  match s.fsc.streams.find? n with
  | none => s
  | some x =>
    if x.opened || !s.windowNow x then s
    else s.putFsc n ({ x.searching with opened := true, energyAt := s.time.frc }.restart s.time.frc)

def execListenWindowOpen (t n : Nat) (s : State) : Host.Outcome State Fault Refusal := .next (doListenWindowOpen t n s)

/-- LISTEN_WINDOW_CLOSE: the window closes; a reception in progress is lost. -/
def doListenWindowClose (t n : Nat) (seen : List ChimeEv) (s : State) : State :=
  let s := (s.advance t).chimeEvs n seen
  match s.fsc.streams.find? n with
  | none => s
  | some x =>
    if !x.opened || s.windowNow x then s
    else
      let s := (s.loseReception n).modFsc fun y => { y with streams := y.streams.upd n fun z =>
        { z with opened := false, energy := z.energy + (s.time.frc - z.energyAt) } }
      s.rcTail

def execListenWindowClose (t n : Nat) (seen : List ChimeEv) (s : State) : Host.Outcome State Fault Refusal :=
  .next (doListenWindowClose t n seen s)

/-! ## Chimes (R510, R511) -/

/-- CHIME_SYNC_TIMEOUT: 96 symbols since detection without a sync word. -/
def doChimeSyncTimeout (t n : Nat) (seen : List ChimeEv) (s : State) : State :=
  let s := (s.advance t).chimeEvs n seen
  match s.fsc.streams.find? n with
  | none => s
  | some x => if x.rx == .syncWait && x.detAt + usToFrc 400 ≤ s.time.frc then s.endReception n 2 x else s

def execChimeSyncTimeout (t n : Nat) (seen : List ChimeEv) (s : State) : Host.Outcome State Fault Refusal :=
  .next (doChimeSyncTimeout t n seen s)

/-- CHIME_LOST: 16 consecutive invalid samples end a reception. -/
def doChimeLost (t n : Nat) (seen : List ChimeEv) (s : State) : State :=
  let s := (s.advance t).chimeEvs n seen
  match s.fsc.streams.find? n with
  | none => s
  | some x => if s.deaf x then s.loseReception n else s

def execChimeLost (t n : Nat) (seen : List ChimeEv) (s : State) : Host.Outcome State Fault Refusal :=
  .next (doChimeLost t n seen s)

/-- Field of `n` chime bits from bit `i`, most significant first (Table 18-3). -/
def chimeFld (bs : List Bool) (i n : Nat) : Nat := natOfBits ((bs.drop i).take n)

/-- Deliver a chime whose CRC passes (R511). -/
def State.deliverChime (s : State) (n : Nat) (x : FscStream) (bs : List Bool) : State :=
  let dev := chimeFld bs 0 10
  let cell := chimeFld bs 10 9
  let ty := chimeFld bs 19 4
  let count := chimeFld bs 23 16
  if dev != fld x.cfg 20 2 && dev != 0x3FF then s.fscCount n 7
  else if x.last.any fun l => l.1 == cell && l.2.1 == count && s.time.frc ≤ l.2.2 + msToFrc 10000 then s.fscCount n 6
  else
    let s := (s.fscCount n 1).putFsc n { x with last := some (cell, count, s.time.frc) }
    let rec16 := s.ts32 s.time.frc ++ packBits (bs.take 48) ++ leBytes 1 (unsgn 8 x.rssi) ++ leBytes 1 n
    let s := s.modFsc fun y => { y with lastChime := rec16 }
    s.fscEvent ⟨1, n, n, ty, chimeFld bs 39 9, some cell, none, none, cell + 4096 * ty⟩

/-- CHIME_DECODE: 192 coded symbols have been received, which `llrs` stand for. -/
def doChimeDecode (t n : Nat) (seen : List ChimeEv) (llrs : List Int) (s : State) : State :=
  let s := (s.advance t).chimeEvs n seen
  match s.fsc.streams.find? n with
  | none => s
  | some x =>
    if x.rx != .receive || s.time.frc < x.syncAt + usToFrc 800 then s
    else
      let bs := (ccSearch ((List.range 64).map fun k => (List.range 3).map fun i => llrs.getD (3 * k + i) 0)).1
      if !crcOk crc16 bs then s.endReception n 2 x
      else (s.putFsc n x.searching).deliverChime n x.searching bs

def execChimeDecode (t n : Nat) (seen : List ChimeEv) (llrs : List Int) (s : State) : Host.Outcome State Fault Refusal :=
  .next (doChimeDecode t n seen llrs s)

/-! ## PRACH watch (R513, R514) -/

/-- The preambles of a stream: roots from PRACH_ROOT on, 838 followed by 1; root and cyclic shift. -/
def watchPlan (x : FscStream) : List (Nat × Nat) :=
  let roots := (List.range 64).map fun i => (fld x.cfg 28 2 - 1 + i) % 838 + 1
  (roots.flatMap fun u => (prachShifts 839 u (fld x.cfg 30 2) 0).map fun c => (u, c)).take (fld x.cfg 32 1)

/-- The samples of a window after the NCO, in units of 2⁻²⁵⁶, without the invalid ones at its opening (R504, R506); real and imaginary parts
alternate. -/
def FscStream.mixed (x : FscStream) (samples : List Int) : List Int :=
  ((List.range (samples.length / 2)).drop 96).flatMap fun n =>
    let c := turn (x.phi * n : Nat) (2 ^ 32)
    let y := cprod (samples.getD (2 * n) 0) (samples.getD (2 * n + 1) 0) c.1 c.2
    [y.1, y.2]

/-- The preambles detected among those of a plan, by index; a peak within 0.25 dB of the threshold goes either way (R245). The manual does not
give how the sequence is taken from the samples: the peak is free (log entry 12). -/
def watchHits (par : List Nat) (data : List Int) (th : Nat) : List (Nat × (Nat × Nat)) → State → List Nat × State
  | [], s => ([], s)
  | (i, uv) :: rest, s =>
    let pk := Config.watchPeak (par ++ [uv.1, uv.2]) data
    let (r, s) := s.draw
    let hit := if pk + 2 < th then false else if th + 2 < pk then true else r % 2 == 1
    let (is, s) := watchHits par data th rest s
    (if hit then i :: is else is, s)

/-- The occasions whose windows have closed and that have not been evaluated. -/
def State.closedOccasions (s : State) (x : FscStream) : List ((Int × Nat) × Int × Int) :=
  (s.occasions x).filter fun o => o.2.2 ≤ s.thetaNow && !(x.occ.any fun p => posLe o.1 p)

/-- PRACH_WATCH_DETECT: an occasion's window has closed; its samples, from the window opening on, are evaluated and each detected preamble
is an event; invalid samples give none (R506). -/
def doPrachWatchDetect (t n : Nat) (samples : List Int) (s : State) : State :=
  let s := s.advance t
  match s.fsc.streams.find? n with
  | none => s
  | some x =>
    match (s.closedOccasions x).getLast? with
    | none => s
    | some o =>
      let s := s.putFsc n { x with occ := some o.1 }
      let plan := watchPlan x
      let par := [fld x.cfg 25 1, 0, fld x.cfg 30 2, 1, fld x.cfg 28 2]
      let (hits, s) := if s.deaf x then ([], s) else watchHits par (x.mixed samples) (fld x.cfg 38 2) ((List.range plan.length).zip plan) s
      hits.foldl (fun s i =>
        (s.fscCount n 8).fscEvent ⟨2, n, n, 0, 0, some x.cell, none, none, x.cell + 65536 * i⟩) s

def execPrachWatchDetect (t n : Nat) (samples : List Int) (s : State) : Host.Outcome State Fault Refusal :=
  .next (doPrachWatchDetect t n samples s)

/-! ## Energy (Table 18-8) -/

/-- ENERGY_EVENT: ENERGY_MS of open window have passed; `cnt` valid samples had the energy `sum`. -/
def doEnergyEvent (t n sum cnt : Nat) (s : State) : State :=
  let s := s.advance t
  match s.fsc.streams.find? n with
  | none => s
  | some x =>
    let need := msToFrc (fld x.cfg 23 1)
    let have_ := x.energy + (s.time.frc - x.energyAt)
    if !x.energyOn || !x.opened || have_ < need then s
    else
      let s := s.putFsc n { x with energy := have_ - need, energyAt := s.time.frc }
      if cnt != 0 && x.validAt < s.time.frc && sfld x.cfg 24 1 ≤ powerLevel sum cnt then s.fscEvent ⟨3, n, n, 0, 0, none, none, none, 0⟩ else s

def execEnergyEvent (t n sum cnt : Nat) (s : State) : Host.Outcome State Fault Refusal := .next (doEnergyEvent t n sum cnt s)

/-! ## The ADC (R515 to R521) -/

/-- The calibrated code of a raw code (R515). -/
def AdcSt.cal (a : AdcSt) (raw : Nat) : Nat :=
  (min 4095 (max 0 (((raw % 4096 : Nat) - a.offset) * a.gain / 32768))).toNat

/-- A new result of an entry (R519, R521). -/
def AdcEntry.result (e : AdcEntry) (cal : Nat) : AdcEntry :=
  let acc : Int := if e.count = 0 then cal * 256 else e.acc + ((cal * 256 : Nat) - (e.acc : Int)) / 2 ^ e.filt
  { e with
    value := if e.filt = 0 then cal else acc.toNat / 256
    new := true, newSt := true
    invalid := e.filt != 0 && e.count < 2 ^ e.filt
    seq := (e.seq + 1) % 65536
    acc := if e.filt = 0 then 0 else acc.toNat
    count := min 255 (e.count + 1) }


/-- ADC_PASS_START: a pass begins, at once after the last with PASS_US 0, otherwise at a multiple of PASS_US of the FRC in µs; one
that is due while a pass runs is skipped (R517). -/
def doAdcPassStart (t : Nat) (s : State) : State :=
  let s := s.advance t
  let a := s.fsc.adc
  let us := s.time.frc * 100 / 98304
  if a.num = 0 || a.calibrating then s
  else if a.passUs = 0 then
    if a.running.isSome then s else s.modAdc fun a => { a with running := some 0, convAt := s.time.frc }
  else if us % a.passUs != 0 || a.lastPass == some (us / a.passUs) then s
  else s.modAdc fun a => { a with
    lastPass := some (us / a.passUs)
    running := if a.running.isSome then a.running else some 0
    convAt := if a.running.isSome then a.convAt else s.time.frc }

def execAdcPassStart (t : Nat) (s : State) : Host.Outcome State Fault Refusal := .next (doAdcPassStart t s)

/-- ADC_CONVERSION: the conversion in progress, 1 µs after its start, gives a raw code (R515). -/
def doAdcConversion (t raw : Nat) (s : State) : State :=
  let s := s.advance t
  match s.fsc.adc.running with
  | none => s
  | some e =>
    if s.fsc.adc.calibrating || s.time.frc < s.fsc.adc.convAt + usToFrc 1 then s
    else
      let x := (s.fsc.adc.entries.get AdcEntry.reset e).result (s.fsc.adc.cal raw)
      let last := s.fsc.adc.num ≤ e + 1
      let s := s.modAdc fun a => { a with entries := a.entries.set e x, running := if last then none else some (e + 1), convAt := s.time.frc }
      let s := if last then s.rcTail else s
      s.fscEvent ⟨4, e, e, 0, 0, none, if x.invalid then none else some x.value, none, x.value⟩

def execAdcConversion (t raw : Nat) (s : State) : Host.Outcome State Fault Refusal := .next (doAdcConversion t raw s)



/-- ADC_RESULT_READ: an initiator of C0 reads ADC_RESULT[e], which then clears NEW (R521). -/
def doAdcResultRead (t e : Nat) (s : State) : State :=
  let s := s.advance t
  if 32 ≤ e then s
  else
    let x := s.fsc.adc.entries.get AdcEntry.reset e
    let s := s.emit (.csrRead (fscBase + 0x100 + 4 * e) (x.word x.new))
    s.modAdc fun a => { a with entries := a.entries.upd e fun x => { x with new := false } }

def execAdcResultRead (t e : Nat) (s : State) : Host.Outcome State Fault Refusal := .next (doAdcResultRead t e s)

/-- ADC_CALIBRATION_DONE: after 1.2 ms offset and gain are written; ADC_SELFCAL completes; the sequencer goes on (R520, R530). -/
def doAdcCalibrationDone (t : Nat) (offset : Int) (gain : Nat) (s : State) : State :=
  let s := s.advance t
  if !s.fsc.adc.calibrating || s.time.frc < s.fsc.adc.calAt + usToFrc 1200 then s
  else
    let off := sgn 12 (unsgn 12 offset)
    let s := s.modAdc fun a => { a with offset := off, gain := gain % 65536, calibrated := true, calibrating := false, convAt := s.time.frc }
    s.rcTail.completeWaits fun w => if w = .adcCal then some (.ok (leBytes 2 (unsgn 16 off) ++ leBytes 2 (gain % 65536))) else none

def execAdcCalibrationDone (t : Nat) (offset : Int) (gain : Nat) (s : State) : Host.Outcome State Fault Refusal :=
  .next (doAdcCalibrationDone t offset gain s)

/-! ## Timers and timeline events (Table 18-8) -/

/-- FSC_TIMER_EXPIRY: a running timer's PERIOD_MS is over; a PERIODIC one goes on. -/
def doFscTimerExpiry (t i : Nat) (s : State) : State :=
  let s := s.advance t
  match s.fsc.timers[i]? with
  | none => s
  | some x =>
    let due := x.start + msToFrc (bits x.cfg 23 0)
    if !x.on || s.time.frc < due then s
    else
      let s := s.modFsc fun y => { y with timers := y.timers.set i { x with start := due, on := bit x.cfg 30 } }
      s.fscEvent ⟨6, i, i, 0, 0, none, none, none, 0⟩

def execFscTimerExpiry (t i : Nat) (s : State) : Host.Outcome State Fault Refusal := .next (doFscTimerExpiry t i s)

/-- TIMELINE_EVENT: LEAD_US before the strobe of a rule's point on its cell's timeline, in the radio frames it names. -/
def doTimelineEvent (t i : Nat) (s : State) : State :=
  let s := s.advance t
  match s.fsc.rules[i]? with
  | none => s
  | some r =>
    let cell := fld r.raw 14 2
    match s.anchor? cell with
    | none => s
    | some tl =>
      let p := fld r.raw 24 4
      let off := symOff tl.num (tpSlot p) (tpSym p)
      let ahead := s.thetaNow + (fld r.raw 30 2 * 1000 : Nat) * nsUnit
      let k0 := frameAt tl.toff ahead
      let k := if nominal tl.toff k0 off ≤ ahead then k0 else k0 - 1
      let per := max 1 (fld r.raw 28 2)
      if r.event != 7 || !tpValid tl.num p || sfnOf tl.sfnBase k % per != tpSfn p % per || r.lastK == some k
          || nominal tl.toff k off < s.thetaNow then s
      else
        let s := s.modFsc fun y => { y with rules := y.rules.set i { r with lastK := some k } }
        s.fscEvent ⟨7, 0, cell, 0, 0, none, none, some i, 0⟩

def execTimelineEvent (t i : Nat) (s : State) : Host.Outcome State Fault Refusal := .next (doTimelineEvent t i s)

/-- PCIE_PERST_N_RELEASE: after a wake the device stops asserting PCIE_WAKE_N (Table 18-9). -/
def doPciePerstNRelease (t : Nat) (s : State) : State :=
  let s := s.advance t
  if s.pow.watch.any fun w => w.waking.isNone then s else s.modFsc fun x => { x with pcieWake := false }

def execPciePerstNRelease (t : Nat) (s : State) : Host.Outcome State Fault Refusal := .next (doPciePerstNRelease t s)

end Sys2Proof.Machine
end

