-- ==== Sys2Proof/Machine/Fatal.lean ====
section
/-! DEFINITION. Fatal errors (chapter 21): region and chip, FAULT, the dump and the last-gasp records, the Dome's takeover,
DUMP_READ and ERRLOG_READ, and the urgent thermal bursts (R518). -/

namespace Sys2Proof.Machine

/-! ## Where the dump lies (R591) -/

def lastGaspBase : Nat := 0xBF0400000
def dumpBase : Nat := 0xBF0410000
def sectionTable : Nat := 0xBF0410040
def sectionBase : Nat := 0xBF0420000

/-- Melvi and the Dome as initiators of their own writes. -/
def melviWho : Who := ⟨initMelvi, none, false, none⟩
def domeWho : Who := ⟨initDome, none, false, none⟩

/-- STATE, LENGTH and other fields of the dump header. -/
def State.dumpFld (s : State) (off n : Nat) : Nat := fld (s.bytesAt (dumpBase + off) n) 0 n
def State.dumpState (s : State) : Nat := s.dumpFld 6 1
def State.dumpLength (s : State) : Nat := s.dumpFld 36 4
/-- Melvi writes STATE. -/
def State.setDumpState (s : State) (v : Nat) : State := s.write melviWho (dumpBase + 6) (leBytes 1 v) false
/-- A new dump begins: STATE 1, no second fault yet. -/
def State.beginDump (s : State) : State := (s.setDumpState 1).write melviWho (dumpBase + 33) (zeros 3) false

/-! ## Region status records (Table 21-8) -/

/-- Voltage of a performance level in mV (Table 17-5). -/
def levelMv (l : Nat) : Nat := [850, 800, 760, 700, 650, 600, 570, 550].getD l 0

/-- The hottest sensor of a region in sixteenths of a °C. -/
def State.hottest (s : State) (r : Nat) : Int :=
  let v (i : Nat) : Int := thermSixteenths (s.fsc.adc.therm.getD i 0)
  if r = 13 then max (v 9) (v 10) else v (sensorOf r)

/-- A region's voltage in mV: its level's with TRIM (R549), 0 without power; that of a region without levels is not stated (log entry
1). -/
def State.regionMv (s : State) (r : Nat) : Nat × State :=
  if s.asleep r then (0, s)
  else if hasLevels r then (levelMv (s.region r).level + 5 * (s.cal.ageing.get Ageing.reset r).trim, s)
  else
    let (v, s) := s.draw
    (v % 65536, s)

/-- The status record of a region. -/
def State.statusRecord (s : State) (r : Nat) : List Byte × State :=
  let g := s.region r
  let blks := (List.range 4).filter fun b => s.fault.fencedBlk.has (r * 4 + b)
  let auto := s.fault.fencedReg.find? r == some true || blks.any fun b => s.fault.fencedBlk.find? (r * 4 + b) == some true
  let engs := (List.range 32).filter fun i => s.fault.fencedEng.has (r * 32 + i)
  let newest := (s.log r).entries.head?
  let (mv, s') := s.regionMv r
  (leBytes 1 (g.st.code + 16 * g.level) ++ leBytes 1 (maskOf blks + 16 * b2n (s.fault.fencedReg.has r) + 32 * b2n auto)
    ++ leBytes 2 (s.fault.fatal.get 0 r) ++ leBytes 4 (maskOf engs) ++ leBytes 4 ((newest.map LogEntry.seq).getD 0)
    ++ leBytes 2 (unsgn 16 (s.hottest r * 10 / 16)) ++ leBytes 2 mv ++ fit 32 ((newest.map s.logBytes).getD []) ++ zeros 16, s')

/-- The status records of a list of regions. -/
def State.statusRecords (s : State) : List Nat → List Byte × State
  | [] => ([], s)
  | r :: rest =>
    let (a, s) := s.statusRecord r
    let (b, s) := s.statusRecords rest
    (a ++ b, s)

/-! ## Last-gasp records (R594) -/

/-- The Dome writes a last-gasp record into slot SEQ mod 16. -/
def State.lastGasp (s : State) (x : FatalSt) : State :=
  let (recs, s) := s.statusRecords (List.range 16)
  let head := leBytes 4 0x50534147 ++ leBytes 2 1 ++ leBytes 2 x.cause ++ leBytes 4 s.fault.seq ++ leBytes 2 x.source ++ zeros 2
    ++ leBytes 8 x.frc ++ s.ts32 x.frc ++ leBytes 1 x.prior.code ++ zeros 31
  s.write domeWho (lastGaspBase + 4096 * (s.fault.seq % 16)) (fit 4096 (head ++ recs)) false

/-! ## Entry into FAULT (R588, R589, R593) -/

/-- The commands fetched and not completed, as section 0x03 lists them; 0xFF stands for the mailbox. -/
def State.openCommands (s : State) : List Byte :=
  s.host.flights.flatMap fun f =>
    leBytes 1 f.fn ++ leBytes 1 (match f.src with
      | .sq q => q
      | .mbox => 255) ++ zeros 6 ++ f.cmd

/-- Step 4 of Table 21-4: Melvi completes every command with INTERNAL and sets the dump's STATE to 1; a dump that is complete and not
released is kept, and the Dome writes a last-gasp record instead. -/
def State.serveFault (s : State) (x : FatalSt) : State :=
  let s := s.host.flights.foldl (fun s fl => s.complete fl fl.op (.bare .internal)) s
  let keep := s.dumpState = 2
  let s := s.modFault fun f => { f with chip := some { x with served := true, dumping := !keep } }
  if keep then s.lastGasp x else s.beginDump

/-- A sleep in progress ends as an ABORT (R486). -/
def State.endSleeps (s : State) : State := s.pow.sleeps.foldl (fun s op => s.abortSleep op 0xFFFF) s

/-- FATAL-CHIP. `serves`: Melvi runs and makes step 4. -/
def State.fatalChip (s : State) (cause source : Nat) (serves : Bool) : State :=
  if s.pow.mode = .off then s
  else
    let s := s.modFault fun f => { f with seq := f.seq + 1 }
    match s.fault.chip with
    | some x =>
      if s.pow.mode = .fault && x.dumping && s.host.server == .melvi then
        let fl := s.dumpFld 33 1
        (s.write melviWho (dumpBase + 33) (leBytes 1 (fl ||| 2)) false).write melviWho (dumpBase + 34) (leBytes 2 cause) false
      else
        let y : FatalSt := ⟨s.time.frc, cause, source, .fault, false, false, []⟩
        if s.host.server == .melvi && serves && x.served && s.dumpState != 2 then
          (s.modFault fun f => { f with chip := some { y with served := true, dumping := true } }).beginDump
        else s.lastGasp y
    | none =>
      let x : FatalSt := ⟨s.time.frc, cause, source, s.pow.mode, false, false, s.openCommands⟩
      let s := s.endSleeps
      let s := { s with pow := { s.pow with mode := .fault }, pins := { s.pins with tocsin := true } }
      let s := s.modFault fun f => { f with chip := some x }
      if serves && s.host.server == .melvi then s.serveFault x else s

/-- FATAL_CHIP: the error logic raises the fatal signal with a cause of Table 21-3. -/
def doFatalChip (t cause source : Nat) (serves : Bool) (s : State) : State :=
  let s := s.advance t
  if 1 ≤ cause && cause ≤ 9 then s.fatalChip cause (source % 4096) serves else s

/-- FATAL_CHIP. -/
def execFatalChip (t cause source : Nat) (serves : Bool) (s : State) : Host.Outcome State Fault Refusal :=
  .next (doFatalChip t cause source serves s)

/-- DOME_TAKEOVER: Melvi has not set STATE to 1 within 10 ms, or with `watchdog` its watchdog has expired before STATE 2 (R590). The
commands in progress are lost; the mailbox of function 0 takes commands again. -/
def doDomeTakeover (t : Nat) (watchdog : Bool) (s : State) : State :=
  let s := s.advance t
  match s.fault.chip with
  | none => s
  | some x =>
    if s.pow.mode != .fault || s.host.server == .domeFault
        || !((!x.served && x.frc + msToFrc 10 ≤ s.time.frc) || (x.dumping && watchdog)) then s
    else
      let s := s.lastGasp x
      let s := s.modFault fun f => { f with chip := some { x with dumping := false } }
      let s := s.modHost fun h => { h with server := .domeFault, flights := [] }
      s.modFunc 0 fun f => { f with mbox := { f.mbox with st := if f.mbox.st == .busy then .idle else f.mbox.st } }

/-- DOME_TAKEOVER. -/
def execDomeTakeover (t : Nat) (watchdog : Bool) (s : State) : Host.Outcome State Fault Refusal := .next (doDomeTakeover t watchdog s)

/-! ## The dump (R591, R592) -/

/-- A section as it is written: type, what it holds, flags. -/
inductive DumpSrc where
  | bytes (bs : List Byte) (len : Nat)
  | copy (addr len : Nat)
  deriving DecidableEq, Repr

/-- The bytes of the gates in use, by address (log entry 33). -/
def State.gateBytes (s : State) : List (Nat × Byte) :=
  s.car.gates.flatMap fun e => (List.range 4).map fun i => (hbmGates + 4 * e.1 + i, (s.gateByte? (hbmGates + 4 * e.1 + i)).getD 0)

/-- Copy device memory, poison with it (R444): bytes and marks move together. -/
def State.copyMem (s : State) (src dst len : Nat) : State × Bool :=
  let bs := (s.mem.mem ++ s.gateBytes).filter fun e => src ≤ e.1 && e.1 < src + len
  let ps := (s.marksIn src len).filter fun e => e.2 != .ce
  let s := s.zeroMem dst len
  let s := { s with mem := { s.mem with mem := bs.foldl (fun m e => m.put 0 (e.1 - src + dst) e.2) s.mem.mem } }
  (ps.foldl (fun s e => s.poisonWord (wordBase (e.1 - src + dst))) s, !ps.isEmpty)

/-- Write one section at an offset from the header; FLAGS of its entry as far as poison is concerned. -/
def State.putSection (s : State) (off : Nat) : DumpSrc → State × Nat
  | .bytes bs len => ((s.zeroMem (dumpBase + off) len).write melviWho (dumpBase + off) bs false, 0)
  | .copy a len =>
    let (s, p) := s.copyMem a (dumpBase + off) len
    (s, 2 * b2n p)

def DumpSrc.len : DumpSrc → Nat
  | .bytes _ n => n
  | .copy _ n => n

/-- The entries of one region's log by position SEQ mod 256. -/
def State.logSlots (s : State) (r : Nat) : List Byte :=
  (List.range 256).flatMap fun i =>
    match (s.log r).entries.find? fun e => e.seq % 256 == i with
    | some e => s.logBytes e
    | none => zeros 32

/-- The runs of the Observing Log that section 0x08 holds: its header, then the records from the oldest on, at most 4,194,304. -/
def State.ologRuns (s : State) : List (Nat × Nat) :=
  let o := s.car.olog
  let n := min o.written (min o.entries 4194304)
  let first := (o.written - n) % o.entries
  let n1 := min n (o.entries - first)
  [(o.ring, 64), (o.ring + 64 + 32 * first, 32 * n1), (o.ring + 64, 32 * (n - n1))]

/-- Copy runs one after the other. -/
def State.copyRuns (s : State) : (dst : Nat) → List (Nat × Nat) → State × Bool
  | _, [] => (s, false)
  | dst, (a, n) :: rest =>
    let (s, p) := s.copyMem a dst n
    let (s, q) := s.copyRuns (dst + n) rest
    (s, p || q)

/-- What the manual does not lay out of a dump: the contents of the sections 0x06 and 0x0A (log entry 15). -/
abbrev DumpEnv := List (Nat × List Byte)

/-- The dump under way: state, offset of the next section, entries so far. -/
structure DumpRun where
  s : State
  next : Nat
  entries : List Byte
  count : Nat
  last : Nat

/-- Add a section of a type with flags. -/
def DumpRun.add (x : DumpRun) (type flags len : Nat) (put : Nat → State → State × Nat) : DumpRun :=
  let (s, fl) := put x.next x.s
  { s := s, next := x.next + (len + 4095) / 4096 * 4096
    entries := x.entries ++ leBytes 2 type ++ leBytes 2 (flags + fl) ++ zeros 4 ++ leBytes 4 x.next ++ leBytes 4 len ++ zeros 16
    count := x.count + 1, last := x.next + len }

/-- Add a section from bytes or from memory. -/
def DumpRun.put (x : DumpRun) (type flags : Nat) (src : DumpSrc) : DumpRun :=
  x.add type flags src.len fun off s => s.putSection off src

/-- The ten sections in type order (Table 21-7). -/
def State.dumpSections (s : State) (x : FatalSt) (env : DumpEnv) : DumpRun :=
  let outside (type : Nat) : List Byte := ((env.find? fun e => e.1 == type).map Prod.snd).getD []
  let fixed (type len : Nat) : DumpSrc := .bytes ((outside type).take len) len
  let (recs, s) := s.statusRecords (List.range 16)
  let logs := (List.range 16).flatMap fun r => s.logSlots r
  let lanes := (List.range 128).flatMap (fun n => (s.lane n).buffer false s.time.frc)
    ++ (List.range 8).flatMap fun p => (s.lane (256 + p)).buffer true s.time.frc
  let melvi := (outside 10).take 16777216
  let o := s.car.olog
  let ring := 64 + 32 * min o.written (min o.entries 4194304)
  let d : DumpRun := ⟨s, sectionBase - dumpBase, [], 0, 0⟩
  let d := d.put 1 0 (.bytes logs 131072)
  let d := d.put 2 0 (.bytes recs 1024)
  let d := d.put 3 0 (.bytes x.cmds x.cmds.length)
  let d := d.put 4 0 (.bytes s.timeBuffer 64)
  let d := d.put 5 0 (.bytes lanes 17408)
  let d := d.put 6 0 (fixed 6 131072)
  let d := d.put 7 0 (.copy hbmCarillon 20971520)
  let d := if o.enable then
      d.add 8 (b2n (4194304 < o.entries)) ring fun off s =>
        let (s, p) := s.copyRuns (dumpBase + off) s.ologRuns
        (s, 2 * b2n p)
    else d.put 8 4 (.bytes [] 0)
  let d := d.put 9 0 (.copy (regBase 15) 8388608)
  d.put 10 0 (.bytes melvi melvi.length)

/-- DUMP_COMPLETE: Melvi has written the sections, the section table and the header; a dump window receives the copy (step 5). -/
def doDumpComplete (t : Nat) (env : DumpEnv) (s : State) : State :=
  let s := s.advance t
  match s.fault.chip with
  | none => s
  | some x =>
    if s.pow.mode != .fault || s.host.server != .melvi || !x.dumping then s
    else
      let second := if s.dumpState = 1 then (s.dumpFld 33 1 &&& 2, s.dumpFld 34 2) else (0, 0)
      let d := s.dumpSections x env
      let copied := d.s.fault.dumpWin.isSome
      let head := leBytes 4 0x504D5544 ++ leBytes 2 1 ++ leBytes 1 2 ++ leBytes 1 d.count ++ leBytes 4 s.fault.seq ++ leBytes 2 x.cause
        ++ leBytes 2 x.source ++ leBytes 8 x.frc ++ s.ts32 x.frc ++ leBytes 1 x.prior.code ++ leBytes 1 (b2n copied + second.1)
        ++ leBytes 2 (if second.1 = 0 then 0 else second.2) ++ leBytes 4 d.last ++ fit 8 s.dome.measure ++ zeros 16
      let s := d.s.write melviWho dumpBase (head ++ fit 2048 d.entries) false
      let s := s.modFault fun f => { f with chip := some { x with dumping := false } }
      match s.fault.dumpWin with
      | some w => s.emit (.dumpCopy w.1 (min w.2 d.last))
      | none => s

/-- DUMP_COMPLETE. -/
def execDumpComplete (t : Nat) (env : DumpEnv) (s : State) : Host.Outcome State Fault Refusal := .next (doDumpComplete t env s)

/-! ## DUMP_READ (R595) -/

def layDumpRead : Layout := ⟨0x0A06, 32, false, fun p =>
  let a := fld p 0 1
  let addr := fld p 16 8
  let len := fld p 24 4
  [.rng 0 1 0 4, .cond (if a = 4 then fld p 1 1 < 16 else fld p 1 1 == 0), .rsv 2 2, .rsv 28 4,
   .cond (a != 1 || (1 ≤ fld p 4 4 && fld p 4 4 ≤ (if addr = 0 then 16 else 16777216))),
   .cond (if a = 1 then (if addr = 0 then len == 0 else fld p 4 4 ≤ len)
     else if a = 4 then (if addr = 0 then len == 0 else 4096 ≤ len) else if a = 2 then 65536 ≤ len else true)],
  fun p => if (fld p 0 1 = 1 || fld p 0 1 = 4) && fld p 16 8 != 0 then [(fld p 16 8, fld p 24 4)] else []⟩

/-- A last-gasp slot holds a record. -/
def State.gaspValid (s : State) (k : Nat) : Bool := fld (s.bytesAt (lastGaspBase + 4096 * k) 4) 0 4 == 0x50534147
def State.gaspSeq (s : State) (k : Nat) : Nat := fld (s.bytesAt (lastGaspBase + 4096 * k + 8) 4) 0 4

/-- The slot of the highest SEQ. -/
def State.gaspNewest (s : State) : Nat :=
  ((List.range 16).filter s.gaspValid).foldl (fun b k => if s.gaspValid b && s.gaspSeq k ≤ s.gaspSeq b then b else k) 0

/-- The result of ACTION 0. -/
def State.dumpInfo (s : State) : List Byte :=
  s.bytesAt (dumpBase + 6) 2 ++ s.bytesAt (dumpBase + 12) 2 ++ s.bytesAt (dumpBase + 8) 4 ++ s.bytesAt (dumpBase + 36) 4
    ++ leBytes 2 (maskOf ((List.range 16).filter s.gaspValid)) ++ leBytes 2 s.gaspNewest

/-- Read device memory for a command: into its buffer with its poison, or its first bytes inline. -/
def State.giveMem (s : State) (addr len buf : Nat) : Ans :=
  if buf = 0 then
    (if s.poisonIn addr len then refuse (s.logRead (⟨initCmd, none, false, none⟩ : Who) addr len) .poisoned
      else ok s (s.bytesAt addr len))
  else
    let (us, s) := s.readUnits ⟨initCmd, none, false, none⟩ addr len
    (s, .done ⟨.success, [], some (buf, us)⟩)

def bodyDumpRead (i : CmdIn) (s : State) : Ans :=
  let p := i.p
  let a := fld p 0 1
  let buf := fld p 16 8
  if s.host.server == .domeFault && (a = 2 || a = 3) then refuse s .notReady
  else if a = 0 then ok s s.dumpInfo
  else if a = 1 then
    if s.dumpLength < fld p 8 8 + fld p 4 4 then refuse s .badParam else s.giveMem (dumpBase + fld p 8 8) (fld p 4 4) buf
  else if a = 2 then
    if !s.hostOk 0 buf (fld p 24 4) true then refuse s .badParam
    else ok (s.modFault fun f => { f with dumpWin := some (buf, fld p 24 4) }) []
  else if a = 3 then
    if s.dumpState = 1 then refuse s .notPermitted else ok (s.setDumpState 3) []
  else if !s.gaspValid (fld p 1 1) then refuse s .notReady
  else s.giveMem (lastGaspBase + 4096 * fld p 1 1) (if buf = 0 then 16 else 4096) buf

/-- DUMP_READ. -/
def execDumpRead (c : CmdRef) (s : State) : Host.Outcome State Fault Refusal := .next (runCmd layDumpRead c bodyDumpRead s)

/-! ## ERRLOG_READ (R596) -/

def layErrlogRead : Layout := ⟨0x0A01, 24, false, fun p =>
  [.rng 8 4 1 65536, optBuf (fld p 16 8) (fld p 12 4) (16 + 32 * fld p 8 4)],
  fun p => if fld p 16 8 = 0 then [] else [(fld p 16 8, fld p 12 4)]⟩

/-- The device address of entry n of the device log (R466). -/
def logAddr (n : Nat) : Nat := hbmDump + 64 + 32 * (n % 65536)

/-- A function receives an entry: function 0 all, another those of its tasks and of its HBM extent. -/
def State.logSeen (s : State) (fn : Nat) (e : List Byte) : Bool :=
  let task := fld e 20 4
  let a := fld e 8 6
  fn == 0 || (task.testBit 31 && bits task 20 18 == fn)
    || (a < hbmEnd && within a 1 (s.hbmExtent fn).1 (s.hbmExtent fn).2)

/-- Examine entries from `n` on until COUNT are received: those received, and the number after the last examined. -/
def State.scanLog (s : State) (fn want : Nat) : (fuel n : Nat) → List Nat × Nat
  | 0, n => ([], n)
  | fuel + 1, n =>
    if s.mem.written ≤ n || want = 0 then ([], n)
    else if s.logSeen fn (s.bytesAt (logAddr n) 32) then
      let r := s.scanLog fn (want - 1) fuel (n + 1)
      (n :: r.1, r.2)
    else s.scanLog fn want fuel (n + 1)

def bodyErrlogRead (i : CmdIn) (s : State) : Ans :=
  let p := i.p
  let first := fld p 0 8
  let from_ := max first (s.mem.written - 65536)
  let inl (n : Nat) : List Byte := leBytes 8 s.mem.written ++ leBytes 4 n ++ leBytes 4 s.mem.overflow
  if fld p 16 8 = 0 then ok s (inl 0)
  else
    let (ns, next) := s.scanLog i.fn (fld p 8 4) 65536 from_
    let w : Who := ⟨initCmd, none, false, none⟩
    let runs := (leBytes 8 next ++ zeros 8, false) :: ns.map fun n => (s.bytesAt (logAddr n) 32, s.poisonIn (logAddr n) 32)
    let s := ns.foldl (fun s n => s.logRead w (logAddr n) 32) s
    ok (s.hostRuns i.fn (fld p 16 8) runs) (inl ns.length)

/-- ERRLOG_READ. -/
def execErrlogRead (c : CmdRef) (s : State) : Host.Outcome State Fault Refusal := .next (runCmd layErrlogRead c bodyErrlogRead s)

/-! ## FATAL-REGION (R586, R587) -/

/-- A cell fails (R587): HIBERNATED without WATCH_PRACH, its unreleased tasks fail with INTERNAL, CELL_FAILED. -/
def State.failCell (s : State) (c r : Nat) : State :=
  match s.cells.find? c with
  | none => s
  | some cell =>
    let s := { s with cells := s.cells.set c { cell with st := .hibernated, watchPrach := false, failed := true } }
    let s := (s.car.tasks.keep fun _ t => t.cell == c && t.origin.isNone).keys.foldl (fun s id => s.abortTask id .internal) s
    let s := s.completeWaits fun w => if w = .cellIdle c then some (.bare .success) else none
    s.post (s.cellOwner c) 0x0A04 3 (c + 4096 * r)

/-- HOME with region `x` in place of its region of the same kind (Table 4-14). -/
def rehome (home r x : Nat) : Nat :=
  match regKind r with
  | .D => home - home % 8 + x % 8
  | .M => home - 8 * bits home 3 3 + 8 * (x - 8)
  | .F => home - 16 * bits home 4 4 + 16 * (x - 10)
  | _ => home

/-- The region of a cell's HOME of the kind of `r`. -/
def homeOfKind (home r : Nat) : Nat :=
  match regKind r with
  | .D => home % 8
  | .M => 8 + bits home 3 3
  | .F => 10 + bits home 4 4
  | _ => r

/-- A cell's graphs, those of its tenant, name an engine type of a region. -/
def State.cellNames (s : State) (c r : Nat) : Bool :=
  let types := (targetEngines 2 r).filterMap engType
  s.car.graphs.some? fun _ g => g.fn == s.cellOwner c && g.nodes.any fun n => types.contains (fld n 2 1)

/-- Step 3 of R586: the region's READY tasks, its home cells. -/
def State.moveWork (s : State) (r : Nat) : State :=
  let mine := (s.car.tasks.keep fun _ t => t.st == .ready && t.region == some r)
  let order := mine.mergeSort fun a b => a.2.readyNo ≤ b.2.readyNo
  let s := order.foldl (fun s e => match s.task? e.1 with
    | some t => s.enlist e.1 t
    | none => s) s
  let kin := (byDistance r ((List.range 16).filter fun q => regKind q == regKind r && q != r)).filter fun q =>
    !s.regWithdrawn q && (s.region q).st == .active
  match kin.head? with
  | some x => { s with cells := s.cells.each fun _ c => if homeOfKind c.home r = r then { c with home := rehome c.home r x } else c }
  | none => s.cells.keys.foldl (fun s c => if s.cellNames c r then s.failCell c r else s) s

/-- FATAL-REGION: in C0, H0 and L0 it is FATAL-CHIP with cause 7; in a fenced region it is only logged. -/
def State.fatalRegion (s : State) (r cause : Nat) (serves : Bool) : State :=
  let s := s.logMelvi r (initId r 0 0) (regBase r)
  if 13 ≤ r then s.fatalChip 7 (initId r 0 0) serves
  else if s.fault.fencedReg.has r then s
  else
    let s := (targetEngines 2 r).foldl (fun s e => s.dropEngine e) s
    let s := (targetBlocks 2 r).foldl (fun s b => s.resetBdma b (some .busError)) s
    let s := s.loseLines fun b => b / 4 == r
    let s := s.modFault fun f => { f with
      fencedReg := f.fencedReg.set r true, tested := f.tested.del (targetKey 2 r), fatal := f.fatal.set r cause
      fences := f.fences.filter fun o => !(targetIn o.kind o.target 2 r && o.cmd.isNone) }
    let s := if cause = 0x0101 then s.modNoc fun n => { n with draining := n.draining.set r s.time.frc } else s
    ((s.moveWork r).loseTarget 2 r).postAll 0x0A03 3 (r + 65536 * cause)

/-- FATAL_REGION: a cause of Table 21-2 arises in a region; the loss of its PLL is one while the region is ACTIVE. -/
def doFatalRegion (t r cause : Nat) (serves : Bool) (s : State) : State :=
  let s := s.advance t
  if s.stopped || 16 ≤ r || cause < 0x0101 || 0x0105 < cause || (cause == 0x0103 && (s.region r).st != .active) then s
  else s.fatalRegion r cause serves

/-- FATAL_REGION. -/
def execFatalRegion (t r cause : Nat) (serves : Bool) (s : State) : Host.Outcome State Fault Refusal :=
  .next (doFatalRegion t r cause serves s)

/-- BLOCK_FAULT: a fault in the control logic of a block (R585). -/
def doBlockFault (t blk : Nat) (serves : Bool) (s : State) : State :=
  let s := s.advance t
  if s.stopped || !targetPop 1 blk then s
  else
    let r := blk / 4
    let s := (s.logMelvi r (initId r (blk % 4) 0) (blkBase r (blk % 4))).fenceBlockAuto blk
    let times := ((s.fault.blkFences.get [] r).filter fun f => s.time.frc < f + minute) ++ [s.time.frc]
    let s := s.modFault fun f => { f with blkFences := f.blkFences.set r times }
    if 2 ≤ times.length then s.fatalRegion r 0x0105 serves else s

/-- BLOCK_FAULT. -/
def execBlockFault (t blk : Nat) (serves : Bool) (s : State) : Host.Outcome State Fault Refusal := .next (doBlockFault t blk serves s)

/-! ## The urgent thermal burst (R518, R482) -/

/-- The code of 110 °C (Table 18-5). -/
def tripCode : Nat := 2784

/-- Since when a region's sensor has read at least 3 °C below THROTTLE_C. -/
def State.coolRegions (s : State) : State :=
  (List.range 13).foldl (fun s r => s.modRegion r fun g =>
    if s.hottest r + 48 ≤ 16 * (g.throttleC : Int) then { g with coolAt := some (g.coolAt.getD s.time.frc) } else { g with coolAt := none }) s

/-- URGENT_BURST: the 12 die thermal sensors are converted to raw codes; 110 °C or more is THERMAL_TRIP. -/
def doUrgentBurst (t : Nat) (codes : List Nat) (serves : Bool) (s : State) : State :=
  let s := s.advance t
  if s.pow.mode = .off then s
  else
    let cal := (List.range 12).map fun i => s.fsc.adc.cal (codes.getD i 0)
    let s := (s.modAdc fun a => { a with therm := cal, burstAt := some s.time.frc, convAt := s.time.frc }).rcTail.coolRegions
    match (List.range 12).find? fun i => tripCode ≤ cal.getD i 0 with
    | some i =>
      let r := ((List.range 16).find? fun r => sensorOf r = i).getD (if i = 10 then 13 else 15)
      s.fatalChip 1 (initId r 0 0) serves
    | none => s

/-- URGENT_BURST. -/
def execUrgentBurst (t : Nat) (codes : List Nat) (serves : Bool) (s : State) : Host.Outcome State Fault Refusal :=
  .next (doUrgentBurst t codes serves s)

end Sys2Proof.Machine
end

