-- ==== Sys2Proof/Machine/Boot.lean ====
section
/-! DEFINITION. Power-up, resets of the whole device, boot, and the wake from WATCH (chapters 17, 20, 22). -/

namespace Sys2Proof.Machine

/-! ## Rails (R616, R618, R619) -/

/-- A rail monitor's code lies within a tolerance of a nominal value: mV, percent (Tables 18-5, 22-5). -/
def railOk (mv pct code : Nat) : Bool := ((code * 3600 : Nat) - (mv * 4096 : Nat) : Int).natAbs * 100 ≤ pct * mv * 4096

/-- All four monitored rails, VDD_AON, VIN_CORE, VDDA_SD and VDD_HBM, read in tolerance. -/
def railsOk (codes : List Nat) : Bool :=
  railOk 1800 5 (codes.getD 0 0) && railOk 1800 5 (codes.getD 1 0) && railOk 900 3 (codes.getD 2 0) && railOk 1100 3 (codes.getD 3 0)

/-- The codes that raw conversions give (R515). -/
def State.railCodes (s : State) (raw : List Nat) : List Nat := raw.map s.fsc.adc.cal

/-! ## OFF and POR (R79, R106, R618, Table 17-7) -/

/-- The device without power or held in POR: every state as after POR, mode OFF. What stands in OTP and flash, what the device has emitted and
the commands that wait are not its state to lose. -/
def State.off (s : State) : State :=
  { State.reset with
    pow := { PowerSt.reset with mode := .off }
    dome := { DomeSt.reset with otp := s.dome.otp, flash := s.dome.flash }
    pins := s.pins, outs := s.outs, freeCtr := s.freeCtr, pending := s.pending }

/-- Enter BOOT from OFF: TOCSIN_N is released, and the FRC starts from 0 (R75; Table 17-3, step 1). In OFF the FRC does not run: the
field then holds the time that the rail monitors are watched by. -/
def State.enterBoot (s : State) : State :=
  { s with time := { s.time with frc := 0 }, pow := { s.pow with mode := .boot }, pins := { s.pins with tocsin := false, okSince := none, badSince := none } }

/-- POR: POR_N is released and the rail monitors are read (R618): BOOT, or OFF with TOCSIN_N low until they are in tolerance. -/
def doPor (raw : List Nat) (s : State) : State :=
  if s.pins.porN || !s.pins.vddAon then s
  else
    let s := s.off
    let s := { s with pins := ⟨true, true, true, none, none, false⟩ }
    if railsOk (s.railCodes raw) then s.enterBoot else s

/-- POR. The FRC is 0 after it, whatever the FRC of the row. -/
def execPor (_t : Nat) (raw : List Nat) (s : State) : Host.Outcome State Fault Refusal := .next (doPor raw s)

/-- POR_N_LOW: it takes precedence over every other reset (R619); OFF, TOCSIN_N low while VDD_AON is in tolerance (R618). -/
def doPorNLow (t : Nat) (s : State) : State :=
  let s := (s.advance t).off
  { s with pins := ⟨s.pins.vddAon, false, s.pins.vddAon, none, none, false⟩ }

/-- POR_N_LOW. -/
def execPorNLow (t : Nat) (s : State) : Host.Outcome State Fault Refusal := .next (doPorNLow t s)

/-- AON_UNDERVOLTAGE: VDD_AON below 1.62 V for 1 µs takes the device to OFF at once, in any mode (R619). -/
def doAonUndervoltage (t : Nat) (s : State) : State :=
  let s := (s.advance t).off
  { s with pins := ⟨false, s.pins.porN, false, none, none, false⟩ }

/-- AON_UNDERVOLTAGE. -/
def execAonUndervoltage (t : Nat) (s : State) : Host.Outcome State Fault Refusal := .next (doAonUndervoltage t s)

/-- VDD_AON_IN_TOLERANCE: domain A starts; TOCSIN_N is driven low while POR_N is low (R618). -/
def doVddAonInTolerance (t : Nat) (s : State) : State :=
  let s := s.advance t
  if s.pins.vddAon then s else { s with pins := { s.pins with vddAon := true, tocsin := !s.pins.porN } }

/-- VDD_AON_IN_TOLERANCE. -/
def execVddAonInTolerance (t : Nat) (s : State) : Host.Outcome State Fault Refusal := .next (doVddAonInTolerance t s)

/-- RAIL_MONITOR_POLL: in OFF after the release of POR_N the device enters BOOT 2 ms after the monitors first all read in tolerance
(R618); otherwise a monitored rail out of tolerance for 1 ms is RAIL_FAULT (R619). -/
def doRailMonitorPoll (t : Nat) (raw : List Nat) (serves : Bool) (s : State) : State :=
  let s := s.advance t
  let good := railsOk (s.railCodes raw)
  let pin (s : State) (f : PinSt → PinSt) : State := { s with pins := f s.pins }
  if !s.pins.vddAon || !s.pins.porN then s
  else if s.pow.mode = .off then
    if !good then pin s fun p => { p with okSince := none }
    else match s.pins.okSince with
      | none => pin s fun p => { p with okSince := some s.time.frc }
      | some f => if f + msToFrc 2 ≤ s.time.frc then s.enterBoot else s
  else if good then pin s fun p => { p with badSince := none }
  else match s.pins.badSince with
    | none => pin s fun p => { p with badSince := some s.time.frc }
    | some f =>
      if f + msToFrc 1 ≤ s.time.frc then (pin s fun p => { p with badSince := none }).fatalChip 2 (initId 15 0 0) serves else s

/-- RAIL_MONITOR_POLL. -/
def execRailMonitorPoll (t : Nat) (raw : List Nat) (serves : Bool) (s : State) : Host.Outcome State Fault Refusal :=
  .next (doRailMonitorPoll t raw serves s)

/-! ## WARM reset (R41, R106, R396, R425, R474, R499, R533, R554, R601, Table 17-7) -/

/-- The dump and log area keeps its contents; every other memory is zeroed (R456). -/
def MemSt.warm (m : MemSt) : MemSt :=
  let kept (a : Nat) : Bool := hbmDump ≤ a && a < hbmEnd
  { m with
    mem := m.mem.keep fun a _ => kept a
    marks := m.marks.keep fun a _ => kept a
    ranges := [], egress := [], retraining := [] }

/-- The Ephemeris after a WARM reset (Table 3-8). -/
def TimeSt.warm (t : TimeSt) : TimeSt :=
  { t with resid := 0, movedAt := t.frc, residWas := t.resid, pendAdj := none, pps := Pps.reset, anchors := [], pendAnchors := [], aligned := true, member := false, misses := 0 }

/-- The Dome: its stores and profiles are kept, debug is locked, Melvi does not run. -/
def DomeSt.warm (d : DomeSt) : DomeSt :=
  { d with slot := none, measure := List.replicate 64 0, debug := false, chain := List.replicate 64 0, loads := 0, streams := [], octal := false }

/-- The Finderscope keeps all but its streams (R533). -/
def FscSt.warm (f : FscSt) : FscSt :=
  { f with streams := [], wakeReq := false, cause := none, deferred := 0, wakeCells := [], wakeRegions := 0, pcieWake := false }

/-- The device after a WARM reset, in BOOT. -/
def State.warm (s : State) : State :=
  { s with
    host := { HostIf.reset with nextFlight := s.host.nextFlight }
    time := s.time.warm
    car := Carillon.reset
    cells := []
    mem := s.mem.warm
    pow := { PowerSt.reset with
      heldQuads := s.pow.heldQuads, heldPeer := s.pow.heldPeer, heldGpio := s.pow.heldGpio, heldCtrl := s.pow.heldCtrl }
    vdes := []
    kernels := []
    fault := { FaultSt.reset with seq := s.fault.seq }
    bdma := []
    bdmaEng := []
    line := LineSt.reset
    dome := s.dome.warm
    clu := Cluster.reset
    noc := Noc.reset
    fsc := s.fsc.warm
    cal := { CalSt.reset with policy := s.cal.policy, ageing := s.cal.ageing }
    pins := { s.pins with tocsin := false, okSince := none, badSince := none } }

/-- WARM_RESET: RESET_N has been low for 1 µs (`pin`), or a RESET_SCOPE with SCOPE 2 is due (R72, R499). -/
def doWarmReset (t : Nat) (pin : Bool) (s : State) : State :=
  let s := s.advance t
  if s.pow.mode != .off && (pin || s.host.warmAt.any fun f => f ≤ s.time.frc) then s.warm else s

/-- WARM_RESET. -/
def execWarmReset (t : Nat) (pin : Bool) (s : State) : Host.Outcome State Fault Refusal := .next (doWarmReset t pin s)

/-! ## Boot (R477, R520, R561, R562) -/

/-- Melvi runs ADC_SELFCAL once in BOOT after each POR (R520). -/
def State.bootCal (s : State) : State :=
  if s.host.server == .melvi && !s.fsc.adc.calibrated then s.startCal else s

/-- Melvi loads its boot tables of routes (R402, R425). -/
def State.bootRoutes (s : State) : State := if s.host.server == .melvi then s.loadRoutes else s

/-- The Dome boots, in the mode that the flash announces, and the kernel chain starts from zero (R561, R615, Table 20-7). -/
def State.bootMelvi (s : State) : State := ((s.modDome fun d => { d with chain := zeros 64, loads := 0, octal := Config.flashOctal }).domeBoot).bootCal.bootRoutes

/-- DOME_BOOT: in BOOT with nothing running yet. -/
def doDomeBoot (t : Nat) (s : State) : State :=
  let s := s.advance t
  if s.pow.mode = .boot && s.host.server == .nobody then s.bootMelvi else s

/-- DOME_BOOT. -/
def execDomeBoot (t : Nat) (s : State) : Host.Outcome State Fault Refusal := .next (doDomeBoot t s)

/-- BOOT_FALLBACK: Melvi of an unconfirmed slot has not reached READY within 2 s and the other slot is valid: the Dome erases the failed
header and boots again (R562). -/
def doBootFallback (t : Nat) (s : State) : State :=
  let s := s.advance t
  match s.dome.slot with
  | none => s
  | some x =>
    if s.pow.mode = .boot && s.host.server == .melvi && !headerConfirmed (s.slotHeader x) && s.dome.startAt + msToFrc 2000 ≤ s.time.frc
        && s.slotOk (1 - x) then (s.erase (slotBase x) 4096).bootMelvi
    else s

/-- BOOT_FALLBACK. -/
def execBootFallback (t : Nat) (s : State) : Host.Outcome State Fault Refusal := .next (doBootFallback t s)

/-- BOOT_COMPLETE: start-up is complete; Melvi has divided the class-0 slots (R407); the device log's header stands (R466); READY. -/
def doBootComplete (t : Nat) (s : State) : State :=
  let s := s.advance t
  if s.pow.mode = .boot && s.host.server == .melvi then
    let s := if fld (s.bytesAt (hbmDump + 16) 4) 0 4 = 1 then s else s.write melviWho hbmDump s.logHeader false
    s.divideSlots.enterMode .ready
  else s

/-- BOOT_COMPLETE. -/
def execBootComplete (t : Nat) (s : State) : Host.Outcome State Fault Refusal := .next (doBootComplete t s)

/-! ## The wake from WATCH (R456, R487, R496, R525) -/

/-- What WATCH has lost when HBM was not retained: everything but domain A, the listening lanes with their trails, the retention of
the retained banks being of no use without Melvi's state (R493, R496). -/
def State.wakeToBoot (s : State) : State :=
  let listens (n : Nat) : Bool := (s.lane n).cfg.listen
  { s with
    host := { s.host with server := .nobody, flights := [] }
    car := Carillon.reset
    mem := { s.mem with mem := [], marks := [], ranges := [], egress := [], retraining := [], trained := [], written := 0, overflow := 0 }
    pow := { s.pow with
      mode := .boot, watch := none, sleeps := []
      regions := s.pow.regions.each fun _ g => { g with
        st := .active, prepare := false, waking := none, level := g.ceiling, changing := false, idleHold := none } }
    vdes := []
    kernels := []
    bdma := []
    bdmaEng := []
    line := { LineSt.reset with
      lanes := s.line.lanes.keep fun n _ => listens n
      tlf := s.line.tlf.keep fun n _ => listens n
      trails := s.line.trails.keep fun _ t => listens t.lane }
    dome := { s.dome with slot := none }
    clu := Cluster.reset
    noc := Noc.reset
    fsc := { s.fsc with wakeReq := false, deferred := 0, wakeCells := [], pcieWake := s.fsc.pcieWake || bit s.fsc.deferred 1 }
    cal := { s.cal with lanes := s.cal.lanes.keep fun k _ => listens (k / 16) } }

/-- WATCH_WAKE: a wake rule has asked for it, or PCIE_PERST_N is asserted: with HBM retained the wake begins, otherwise BOOT. -/
def doWatchWake (t : Nat) (perst : Bool) (s : State) : State :=
  let s := s.advance t
  match s.pow.watch with
  | none => s
  | some w =>
    if s.pow.mode != .watch || w.waking.isSome || !(perst || s.fsc.wakeReq) then s
    else if w.hbmRetain then { s with pow := { s.pow with watch := some { w with waking := some s.time.frc } } }
    else s.wakeToBoot

/-- WATCH_WAKE. -/
def execWatchWake (t : Nat) (perst : Bool) (s : State) : Host.Outcome State Fault Refusal := .next (doWatchWake t perst s)

/-- A region comes back from WATCH: zeroed but the banks it kept, its kernels reloaded, ACTIVE at its ceiling. -/
def State.regionFromWatch (s : State) (r : Nat) : State :=
  let s := s.zeroRegion r (if (s.region r).st == .off then [] else s.keptBanks r) true
  let s := (s.reloadRegion r).modRegion r fun g => { g with st := .active, waking := none, level := g.ceiling, changing := false, idleHold := none }
  if r = 13 then s.linesWake else s

/-- WATCH_WAKE_COMPLETE: Melvi's state is restored, HBM retrained, every region powered: SERVICE, or READY when no cell exists; the
waiting actions of rules are performed and their cells wake. -/
def doWatchWakeComplete (t : Nat) (s : State) : State :=
  let s := s.advance t
  match s.pow.watch with
  | none => s
  | some w =>
    if s.pow.mode != .watch || w.waking.isNone then s
    else
      let s := (List.range 14).foldl (fun s r => s.regionFromWatch r) s
      let s := { s with pow := { s.pow with watch := none } }
      let s := s.modHost fun h => { h with server := .melvi }
      let s := s.enterMode (if s.cells.isEmpty then .ready else .service)
      let s := s.modFsc fun f => { f with wakeReq := false, deferred := 0, pcieWake := f.pcieWake || bit f.deferred 1 }
      s.settleWakes

/-- WATCH_WAKE_COMPLETE. -/
def execWatchWakeComplete (t : Nat) (s : State) : Host.Outcome State Fault Refusal := .next (doWatchWakeComplete t s)

end Sys2Proof.Machine
end

