-- ==== Sys2Proof/Machine/Sched.lean ====
section
/-! DEFINITION. The Carillon task scheduler (chapter 04): scheduler commands and scheduler events. -/

namespace Sys2Proof.Machine

/-! ## GRAPH_DEFINE (R108 to R113, R203, R213, R233, R252) -/

def layGraphDefine : Layout := ⟨0x0201, 16, true, fun p =>
  [.rng 0 2 0 1023, .rng 2 2 0 4096, .rng 4 2 0 1024, .rsv 6 10,
   .cond (16 + 4 * fld p 4 2 + 64 * fld p 2 2 ≤ p.length)], fun _ => []⟩

/-- Gate template fields (Table 4-4). -/
def gtCount (g : Nat) : Nat := bits g 15 0
def gtSym (g : Nat) : Nat := bits g 19 16
def gtTimed (g : Nat) : Bool := bit g 20
def gtDelay (g : Nat) : Nat := bits g 31 21

/-- A gate template is well formed (R112, R113). -/
def gateTemplOk (g : Nat) : Bool := gtCount g != 0 && (!gtTimed g || (gtCount g == 1 && gtSym g ≤ 13))

/-- A gate field of a template: reserved bits 0; with VALID, a local index below the graph's gates (Table 4-1). -/
def gateRefOk (gates v : Nat) : Bool := bits v 30 10 == 0 && (!bit v 31 || bits v 9 0 < gates)

/-- Operation codes that an engine type lists (Table 7-2, R233, R243, Table 9-1); a VDE's KERNEL is a kernel's id. -/
def opListed (ty k : Nat) : Bool :=
  if ty = 2 then 1 ≤ k && k ≤ 5
  else if ty = 7 || ty = 9 || ty = 10 then k == 1 || k == 2
  else if (3 ≤ ty && ty ≤ 8) || ty = 11 then k == 1
  else true

/-- A node template is well formed for a function (Table 4-1, R110, R113, R203, R252). -/
def State.nodeOk (s : State) (fn gates : Nat) (n : List Byte) : Bool :=
  let ty := fld n 2 1
  let aff := fld n 28 1
  1 ≤ ty && ty ≤ 11
  && chkAll n [.bits 3 1 0xC0, .bits 4 2 0xFFFC, .rsv 6 6, .bits 12 4 0xFFC000FF, .bits 28 1 0xE0, .rng 29 1 0 64,
      .bits 30 1 0xF0, .rsv 31 1, .bits 60 2 0xFFE0, .rsv 62 2]
  && gateRefOk gates (fld n 16 4) && gateRefOk gates (fld n 20 4) && gateRefOk gates (fld n 24 4)
  && (!bit aff 4 || (typeRegions ty).contains (aff % 16))
  && opListed ty (fld n 0 2)
  && (!(3 ≤ ty && ty ≤ 9) || fld n 56 4 == 0)
  && (ty != 1 || (s.kernels.find? (fld n 0 2)).any fun k => k.fn == fn)

/-- Consecutive pieces of `w` bytes. -/
def pieces (w : Nat) : (n : Nat) → List Byte → List (List Byte)
  | 0, _ => []
  | n + 1, bs => bs.take w :: pieces w n (bs.drop w)

/-- Some task instantiated from a graph is not FREE. -/
def State.graphBusy (s : State) (g : Nat) : Bool := s.car.plans.some? fun _ p => p.graph == g

/-- Nodes of all graphs together (R112). -/
def State.nodeCount (s : State) : Nat := (s.car.graphs.map fun e => e.2.nodes.length).sum

def bodyGraphDefine (i : CmdIn) (s : State) : Ans :=
  let g := fld i.p 0 2
  let n := fld i.p 2 2
  let m := fld i.p 4 2
  let gates := (pieces 4 m (i.p.drop 16)).map leNat
  let nodes := pieces 64 n (i.p.drop (16 + 4 * m))
  let old := ((s.car.graphs.find? g).map fun x => x.nodes.length).getD 0
  if !gates.all gateTemplOk || !nodes.all (s.nodeOk i.fn m) then refuse s .badParam
  else if s.graphBusy g then refuse s .noResource
  else if n = 0 then ok (s.modCar fun c => { c with graphs := c.graphs.del g }) []
  else if (!s.car.graphs.has g && 1024 ≤ s.car.graphs.length) || 65536 < s.nodeCount - old + n then refuse s .noResource
  else ok (s.modCar fun c => { c with graphs := c.graphs.set g ⟨i.fn, gates, nodes⟩ }) []

def execGraphDefine (c : CmdRef) (s : State) : Host.Outcome State Fault Refusal :=
  .next (runCmd layGraphDefine c bodyGraphDefine s)

/-! ## SLOT_PLAN_SUBMIT (R109, R114 to R116) -/

def laySlotPlan : Layout := ⟨0x0202, 48, false, fun _ =>
  [.rng 0 2 0 1023, .rng 2 2 0 383, .bits 4 4 0xFFF, .rng 10 1 0 63, .rsv 11 1], fun _ => []⟩

/-- A buffer reference of a template, rebased by the plan (R109). -/
def rebase (p : List Byte) (ref : Nat) : BufRef :=
  let a := ref % 2 ^ 48
  let sel := bits ref 63 62
  ⟨if sel = 0 then a else (a + fld p (8 + 8 * sel) 8) % 2 ^ 48, bits ref 61 48 * 256⟩

/-- A buffer lies in the tenant (R40, R115 item 1), also where it is named through the device's own peer window (R28). -/
def State.bufInTenant (s : State) (fn : Nat) (b : BufRef) : Bool :=
  let a := s.real b.addr
  if b.len = 0 then true
  else match (spanAt a).place with
    | .hbm => s.ownsHbm fn a b.len
    | .host => s.hostOk fn (a - 0x800000000000) b.len true || s.hostOk fn (a - 0x800000000000) b.len false
    | _ => true

/-- The local flows that a graph's nodes use. -/
def usedFlows (nodes : List (List Byte)) : List Nat := (nodes.map fun n => fld n 4 2 % 4).dedup

/-- The flow a plan maps a local flow to. -/
def mappedFlow (p : List Byte) (l : Nat) : Nat := fld p (40 + 2 * l) 2

/-- The `n` lowest numbers from `lo` on that a rising list does not hold. -/
def freeIds : (fuel : Nat) → List Nat → (lo n : Nat) → List Nat
  | 0, _, _, _ => []
  | _, _, _, 0 => []
  | fuel + 1, [], lo, n + 1 => lo :: freeIds fuel [] (lo + 1) n
  | fuel + 1, k :: ks, lo, n + 1 =>
    if k < lo then freeIds fuel ks lo (n + 1)
    else if k = lo then freeIds fuel ks (lo + 1) (n + 1)
    else lo :: freeIds fuel (k :: ks) (lo + 1) n

/-- A gate field of a template resolved to the plan's gate. -/
def gateOf (gids : List Nat) (v : Nat) : Option Nat := if bit v 31 then gids[bits v 9 0]? else none

/-- A node template as a task of a plan. -/
def mkTask (p : List Byte) (plan cell epoch : Nat) (num sfnBase : Nat) (k : Int) (slot : Nat) (gids : List Nat) (node seq : Nat)
    (n : List Byte) : Task :=
  let d := fld n 12 4
  let at_ := slotAfter num k slot (bits d 21 12)
  let fl := fld n 30 1
  let aff := fld n 28 1
  { kernel := fld n 0 2, type := fld n 2 1, prio := fld n 3 1 % 16, cls := bits (fld n 3 1) 5 4
    flow := mappedFlow p (fld n 4 2 % 4), seq := seq, epoch := epoch, cell := cell
    deadline := tpMake (((at_.1 + sfnBase) % 1024).toNat) at_.2 (bits d 11 8)
    waitGate := gateOf gids (fld n 16 4), doneGate := gateOf gids (fld n 20 4), outGate := gateOf gids (fld n 24 4)
    affinity := if bit aff 4 then some (aff % 16) else none
    commitKib := fld n 29 1, notify := bit fl 0, runOnFail := bit fl 1, remoteOk := bit fl 2, harq := bit fl 3
    inBuf := rebase p (fld n 32 8), outBuf := rebase p (fld n 40 8), param := rebase p (fld n 48 8), arg := fld n 56 4
    harqPid := fld n 60 2, node := node, plan := plan, st := .waiting, fail := none, gateMark := none, engine := none
    ranOn := none, suspended := false, leave := .no, late := false, readyNo := 0, readyAt := 0, region := none, peer := none
    lines := [], linePois := [], commitBlk := none, shadow := false, harqEntries := []
    deadK := at_.1, deadOff := symOff num at_.2 (bits d 11 8), origin := none, calRx := none, calTx := none }

/-- Sequence numbers of the nodes, in node order, from each flow's next counter (R116). -/
def assignSeqs (p : List Byte) : (next : Nat → Nat) → List (List Byte) → List Nat
  | _, [] => []
  | next, n :: rest =>
    let f := mappedFlow p (fld n 4 2 % 4)
    next f :: assignSeqs p (fun g => if g = f then (next g + 1) % 65536 else next g) rest

/-- The bytes of a task descriptor (Table 4-1), as the Carillon area holds it (R107). -/
def Task.bytes (t : Task) : List Byte :=
  let gate (g : Option Nat) : List Byte := match g with
    | some g => leBytes 4 (g + 2147483648)
    | none => zeros 4
  let ref (b : BufRef) : List Byte := leBytes 8 (b.addr + b.len / 256 * 2 ^ 48)
  leBytes 2 t.kernel ++ leBytes 1 t.type ++ leBytes 1 t.pcByte ++ leBytes 2 t.flow ++ leBytes 2 t.seq ++ leBytes 2 t.epoch
    ++ leBytes 2 t.cell ++ leBytes 4 t.deadline ++ gate t.waitGate ++ gate t.doneGate ++ gate t.outGate
    ++ leBytes 1 ((t.affinity.map fun r => r + 16).getD 0) ++ leBytes 1 t.commitKib
    ++ leBytes 1 (b2n t.notify + 2 * b2n t.runOnFail + 4 * b2n t.remoteOk + 8 * b2n t.harq) ++ zeros 1
    ++ ref t.inBuf ++ ref t.outBuf ++ ref t.param ++ leBytes 4 t.arg ++ leBytes 2 t.harqPid ++ leBytes 2 t.node

/-- List the tasks of a plan, and write their descriptors into the Carillon area. -/
def State.putTasks (s : State) : List (Nat × Task) → State
  | [] => s
  | (id, t) :: rest =>
    let s := s.modCar fun c => { c with
      tasks := c.tasks.set id t
      flows := c.flows.upd t.flow fun f => { f with next := (f.next + 1) % 65536, unreleased := f.unreleased + 1 } }
    (s.write ⟨initId 15 3 0, none, false, some id⟩ (taskAddr id) t.bytes false).putTasks rest

/-- A plan may name the cell: it is in SERVICE, or it is a migration's target and the slot lies at or after the switch
(R115 item 1, R391). -/
def State.planCellOk (s : State) (cell pt : Nat) : Bool :=
  let st := (s.cells.find? cell).map Cell.st
  match s.clu.migs.first fun _ m => m.cell == cell with
  | none => st == some .service
  | some m =>
    match s.anchor? cell with
    | none => st == some .service
    | some tl =>
      let after := m.2.k ≤ tpFrame tl s.thetaNow pt
      if m.2.source then st == some .service && !after else after && (st == some .service || st == some .hibernated)

/-- The failing status of SLOT_PLAN_SUBMIT, in the order of R115. -/
def State.planCheck (s : State) (fn : Nat) (p : List Byte) : Option Status :=
  let cell := fld p 2 2
  let g? := s.car.graphs.find? (fld p 0 2)
  let nodes := (g?.map Graph.nodes).getD []
  let gates := (g?.map Graph.gates).getD []
  let flows := (usedFlows nodes).map (mappedFlow p)
  let bufs := nodes.flatMap fun n => [rebase p (fld n 32 8), rebase p (fld n 40 8), rebase p (fld n 48 8)]
  let epoch := fld p 8 2
  let ep := s.car.epochs.find? (epochKey fn epoch)
  let notify := (nodes.filter fun n => bit (fld n 30 1) 0).length
  if !s.ownsCell fn cell || !(flows.all (s.ownsFlow fn)) || !(bufs.all (s.bufInTenant fn)) || !s.planCellOk cell (fld p 4 4)
  then some .notPermitted
  else match s.anchor? cell with
  | none => some .notReady
  | some tl =>
    let pt := fld p 4 4
    let theta := s.thetaNow
    let k := tpFrame tl theta pt
    let start := nominal tl.toff k (symOff tl.num (tpSlot pt) 0)
    let (nk, ns) := slotNow tl theta
    let ahead := (k - nk) * slotsPer tl.num + ((tpSlot pt : Int) - ns)
    if g?.isNone || !tpValid tl.num pt || start < theta || 16 < ahead
      || !(flows.all fun f => (s.car.flows.find? f).any Flow.enabled)
      || ((List.range nodes.length).any fun j => fld p 12 4 + j == 0xFFFFFFFF)
      || (gates.any fun g => gtTimed g && symsPer tl.num ≤ gtSym g)
      || (nodes.any fun n => symsPer tl.num ≤ bits (fld n 12 4) 11 8) then some .badParam
    else if ep.any fun e => e.st == .revoked then some .notPermitted
    else if s.taskQuota fn < (s.tenantTasks fn).length + nodes.length
      || 262144 < s.car.tasks.length + nodes.length
      || 1048576 < s.car.gates.length + gates.length
      || (epoch != 0 && ep.isNone && 4096 ≤ s.car.epochs.count fun _ e => e.st == .opened)
      || (flows.any fun f => 256 < ((s.car.flows.find? f).map Flow.unreleased).getD 0
            + (nodes.filter fun n => mappedFlow p (fld n 4 2 % 4) == f).length)
      || (0 < notify && ((((s.func fn).qps.find? (fld p 10 1)).map QueuePair.free).getD 0) < notify) then some .noResource
    else none

/-- Instantiate a plan that has passed its checks; its result (R114, R116). -/
def State.instantiate (s : State) (fn : Nat) (p : List Byte) (g : Graph) (tl : Timeline) : State × List Byte :=
  let cell := fld p 2 2
  let pt := fld p 4 4
  let epoch := fld p 8 2
  let k := tpFrame tl s.thetaNow pt
  let slot := tpSlot pt
  let n := g.nodes.length
  let pid := s.car.nextPlan
  let ids := freeIds (n + s.car.tasks.length) s.car.tasks.keys 0 n
  let gids := freeIds (g.gates.length + s.car.gates.length) s.car.gates.keys 0 g.gates.length
  let seqs := assignSeqs p (fun f => ((s.car.flows.find? f).map Flow.next).getD 0) g.nodes
  let tasks := ((List.range n).zip (seqs.zip g.nodes)).map fun x =>
    mkTask p pid cell epoch tl.num tl.sfnBase k slot gids x.1 x.2.1 x.2.2
  let pl : Plan := ⟨fld p 0 2, cell, k, slot, fn, epoch, fld p 10 1, fld p 12 4, false, false⟩
  let opened := !posLe (tl.k, tl.off) (windowPos tl.num pl)
  let notify := (g.nodes.filter fun n => bit (fld n 30 1) 0).length
  let gs : List (Nat × Gate) := (gids.zip g.gates).map fun x =>
    (x.1, ⟨gtCount x.2, none, false, pid, if gtTimed x.2 then some (gtSym x.2, gtDelay x.2) else none⟩)
  let s := s.modCar fun c => { c with
    plans := c.plans.set pid { pl with windowOpen := opened }
    nextPlan := pid + 1
    gates := gs.foldl (fun t x => t.set x.1 x.2) c.gates
    epochs := if epoch = 0 then c.epochs else
      match c.epochs.find? (epochKey fn epoch) with
      | some e => c.epochs.set (epochKey fn epoch) { e with live := e.live + n }
      | none => c.epochs.set (epochKey fn epoch) ⟨.opened, n, 0⟩ }
  let s := s.modFunc fn fun f => { f with qps := f.qps.upd (fld p 10 1) fun q => { q with reserved := q.reserved + notify } }
  let s := s.putTasks (ids.zip tasks)
  let past := gs.filter fun x => match x.2.timed with
    | some (sym, us) => s.frcOfPos tl k (symOff tl.num slot sym) + usToFrc us ≤ s.time.frc
    | none => false
  let s := s.signalGates (past.map fun x => (x.1, none))
  let (s, sg) := s.considerAll ids
  let s := s.signalGates sg
  let seq0 := ((seqs.zip g.nodes).find? fun x => fld x.2 4 2 % 4 == 0).map Prod.fst
  (s, leBytes 4 (ids.headD 0) ++ leBytes 2 n ++ leBytes 2 (seq0.getD 0) ++ leBytes 8 (s.frcOfPos tl k (symOff tl.num slot 0)))

def bodySlotPlan (i : CmdIn) (s : State) : Ans :=
  match s.planCheck i.fn i.p, s.car.graphs.find? (fld i.p 0 2), s.anchor? (fld i.p 2 2) with
  | some st, _, _ => refuse s st
  | none, some g, some tl =>
    let r := s.instantiate i.fn i.p g tl
    ok r.1 r.2
  | none, _, _ => refuse s .notReady

def execSlotPlanSubmit (c : CmdRef) (s : State) : Host.Outcome State Fault Refusal :=
  .next (runCmd laySlotPlan c bodySlotPlan s)

/-! ## Epochs (R132 to R134) -/

def layEpochCommit : Layout := ⟨0x0203, 4, false, fun _ => [.rng 0 2 1 65535, .rsv 2 2], fun _ => []⟩

def bodyEpochCommit (i : CmdIn) (s : State) : Ans :=
  let ep := fld i.p 0 2
  match s.car.epochs.find? (epochKey i.fn ep) with
  | none => refuse s .notReady
  | some e =>
    if e.st != .opened then refuse s .notPermitted
    else
      let s := s.modCar fun c => { c with epochs := c.epochs.set (epochKey i.fn ep) { e with st := .committed } }
      ok (s.settleEpoch i.fn ep) (leBytes 4 e.live ++ leBytes 4 e.released)

def execEpochCommit (c : CmdRef) (s : State) : Host.Outcome State Fault Refusal :=
  .next (runCmd layEpochCommit c bodyEpochCommit s)

def layEpochRevoke : Layout := ⟨0x0204, 4, false, fun _ => [.rng 0 2 1 65535, .rsv 2 2], fun _ => []⟩

/-- The tasks of a tenant's epoch. -/
def State.epochTasks (s : State) (fn ep : Nat) : List Nat :=
  (s.car.tasks.keep fun _ t => t.origin.isNone && t.epoch == ep && s.planFn t.plan == fn).keys

def bodyEpochRevoke (i : CmdIn) (s : State) : Ans :=
  let ep := fld i.p 0 2
  match s.car.epochs.find? (epochKey i.fn ep) with
  | none => refuse s .notReady
  | some e =>
    if e.st != .opened then refuse s .notPermitted
    else
      let res := leBytes 4 e.live ++ leBytes 4 e.released
      let ids := s.epochTasks i.fn ep
      let s := s.modCar fun c => { c with epochs := c.epochs.set (epochKey i.fn ep) { e with st := .revoked } }
      let s := (s.revokeAll ids).settleEpoch i.fn ep
      if s.car.epochs.has (epochKey i.fn ep) then (s, .later (.epochRevoke i.fn ep res)) else ok s res

def execEpochRevoke (c : CmdRef) (s : State) : Host.Outcome State Fault Refusal :=
  .next (runCmd layEpochRevoke c bodyEpochRevoke s)

/-! ## FLOW_CONFIG (R124) -/

def layFlowConfig : Layout := ⟨0x0205, 8, false, fun _ => [.rng 2 1 0 1, .rng 3 1 0 1, .rsv 6 2], fun _ => []⟩

def bodyFlowConfig (i : CmdIn) (s : State) : Ans :=
  let f := fld i.p 0 2
  let start := fld i.p 4 2
  let cur := s.car.flows.find? f
  if !s.ownsFlow i.fn f then refuse s .notPermitted
  else if cur.any fun x => x.unreleased != 0 then refuse s .noResource
  else
    let fl : Flow := if fld i.p 2 1 = 1 then ⟨true, fld i.p 3 1 == 1, start, start, 0, []⟩
      else
        let h := (cur.map Flow.head).getD 0
        ⟨false, fld i.p 3 1 == 1, h, h, 0, []⟩
    ok (s.modCar fun c => { c with flows := c.flows.set f fl }) (leBytes 2 fl.head ++ leBytes 2 0)

def execFlowConfig (c : CmdRef) (s : State) : Host.Outcome State Fault Refusal :=
  .next (runCmd layFlowConfig c bodyFlowConfig s)

/-! ## CLASS_RESERVE (R121) -/

def layClassReserve : Layout := ⟨0x0206, 8, false, fun p =>
  [.rng 0 1 0 15, .rng 1 1 1 11, .bits 3 1 0xFE, .rsv 4 4,
   .cond (!(enginesOf (fld p 0 1) (fld p 1 1)).isEmpty),
   .cond (fld p 2 1 ≤ (enginesOf (fld p 0 1) (fld p 1 1)).length)], fun _ => []⟩

def bodyClassReserve (i : CmdIn) (s : State) : Ans :=
  let r := fld i.p 0 1
  let ty := fld i.p 1 1
  let s := s.modCar fun c => { c with
    reserves := c.reserves.put ⟨0, false⟩ (r * 16 + ty) ⟨fld i.p 2 1, bit (fld i.p 3 1) 0⟩ }
  ok s (leBytes 1 (s.inForce r ty))

def execClassReserve (c : CmdRef) (s : State) : Host.Outcome State Fault Refusal :=
  .next (runCmd layClassReserve c bodyClassReserve s)

/-! ## OLOG_CONFIG (R137) -/

/-- Bytes of a ring of n entries, its header included. -/
def ringBytes (n : Nat) : Nat := 64 + 32 * n

def layOlogConfig : Layout := ⟨0x0207, 32, false, fun p =>
  [.cond (fld p 0 8 % 4096 == 0),
   .cond (((List.range 15).map fun i => 1024 * 2 ^ i).contains (fld p 8 4)),
   .cond (fld p 0 8 + ringBytes (fld p 8 4) ≤ hbmCarillon),
   .bits 12 1 0xFC, .bits 13 1 0xF0, .bits 20 2 0xFF00, .rsv 22 10], fun _ => []⟩

def bodyOlogConfig (i : CmdIn) (s : State) : Ans :=
  let ring := fld i.p 0 8
  let n := fld i.p 8 4
  let en := bit (fld i.p 12 1) 0
  if en && s.heldByOther fun t => overlaps ring (ringBytes n) t.hbmBase t.hbmSize then refuse s .notPermitted
  else
    let o : Olog := ⟨ring, n, en, bit (fld i.p 12 1) 1, fld i.p 13 1, fld i.p 14 2, fld i.p 16 2, fld i.p 18 2,
      fld i.p 20 2, 0, 0⟩
    let s := s.modCar fun c => { c with olog := o }
    ok (if en then s.write ⟨initMelvi, none, false, none⟩ ring (zeros 12) false else s) []

def execOlogConfig (c : CmdRef) (s : State) : Host.Outcome State Fault Refusal :=
  .next (runCmd layOlogConfig c bodyOlogConfig s)

/-! ## Scheduler events -/

/-- TIMED_GATE_EXPIRY: the strobe of a TIMED gate's symbol plus its delay has come (R113). -/
def doTimedGateExpiry (t g : Nat) (s : State) : State :=
  let s := s.advance t
  if s.stopped then s else
  match s.car.gates.find? g with
  | none => s
  | some gt =>
    match gt.timed, s.car.plans.find? gt.plan with
    | some (sym, us), some p =>
      match s.anchor? p.cell with
      | none => s
      | some tl =>
        if gt.fired || s.time.frc < s.frcOfPos tl p.k (symOff tl.num p.slot sym) + usToFrc us then s
        else s.signalGates [(g, none)]
    | _, _ => s

def execTimedGateExpiry (t g : Nat) (s : State) : Host.Outcome State Fault Refusal := .next (doTimedGateExpiry t g s)

/-- DISPATCH: the dispatcher of an engine able to take work gives it the task it picks (R119). -/
def doDispatch (t e : Nat) (s : State) : State :=
  let s := s.advance t
  if !s.ableEngine e then s
  else match s.pickTask e with
    | some x => s.dispatchTo e x.1 x.2
    | none => s

def execDispatch (t e : Nat) (s : State) : Host.Outcome State Fault Refusal := .next (doDispatch t e s)

/-- The engine's EDMA channels of the running bank are quiet (R172, R189). -/
def State.edmaQuiet (s : State) (e : Nat) : Bool :=
  engType e != some 1 ||
    (bankChans (s.vde e).inAlt).all fun c => !((s.vde e).chans.get DmaChan.reset c).busy

/-- TASK_FINISH: the work of the task on an engine has ended; it moves to DONE_HELD and signals its DONE_GATE (R111). -/
def doTaskFinish (t e : Nat) (s : State) : State :=
  let s := s.advance t
  if s.stopped then s else
  match (s.eng e).ended, (s.eng e).task with
  | some st, some id =>
    match s.task? id with
    | some tk =>
      let st := if st = .success then ((s.vde e).bank.lateErr).getD st else st
      if s.edmaQuiet e then s.finishTask e id tk st else s
    | none => s
  | _, _ => s

def execTaskFinish (t e : Nat) (s : State) : Host.Outcome State Fault Refusal := .next (doTaskFinish t e s)

/-- RELEASE: a held task whose turn has come releases (R126). -/
def doRelease (t id : Nat) (s : State) : State :=
  let s := s.advance t
  if s.stopped then s else
  match s.task? id with
  | none => s
  | some tk => if s.releasable tk then s.release id tk else s

def execRelease (t id : Nat) (s : State) : Host.Outcome State Fault Refusal := .next (doRelease t id s)

/-- A VDE has zeroed what a leaving task used; it is idle, or the main bank resumes the suspended task, or its dropped context is
zeroed in turn (R153, R169, R123). -/
def State.zeroingDone (s : State) (e : Nat) : State :=
  let r := s.eng e
  if r.zAlt then
    let s := s.modVde e fun v => { v with inAlt := false }
    match r.suspended with
    | none => s.modEng e fun r => { r with zAlt := false }
    | some id =>
      if r.dropSusp then
        let s := s.modEng e fun r => { r with zAlt := false, zMain := true, suspended := none, dropSusp := false }
        let s := s.modVde e fun v => { v with main := { v.main with task := none, trap := none, loops := [], cache := [] } }
        (s.stopEdma e false).zeroPart e false
      else
        let s := s.modEng e fun r => { r with zAlt := false, suspended := none, task := some id, lastYield := s.time.frc, trapAt := none }
        let s := s.modVde e fun v => { v with main := { v.main with timerEnd := s.time.frc + yieldCounts } }
        s.modTask id fun t => { t with suspended := false }
  else if r.zMain then s.modEng e fun r => { r with zMain := false }
  else s

/-- ENGINE_ZEROING_DONE: the mesh requests to its RAMs that the zeroing held are served (R153). -/
def doEngineZeroingDone (t e : Nat) (s : State) : State :=
  let s := s.advance t
  if s.stopped then s else (s.zeroingDone e).releaseMesh fun h => h == .zeroing e

def execEngineZeroingDone (t e : Nat) (s : State) : Host.Outcome State Fault Refusal := .next (doEngineZeroingDone t e s)

end Sys2Proof.Machine
end

