-- ==== Sys2Proof/Machine/Tlf.lean ====
section
/-! DEFINITION. Tvednas line format rows (chapter 11): framing, frames received and sent, defects, protection, page switches,
the monitoring second. -/

namespace Sys2Proof.Machine

/-! ## Framing (R320, R321) -/

/-- Consider a block position in HUNT: the exact FAW or not, the block after it (FN, J, CHECK holds). -/
def Framer.hunt (f : Framer) (len pos : Nat) (exact : Bool) (fn : Nat) (just : Int) (chk : Bool) : Framer :=
  let next := ((pos : Int) + len + just).toNat
  match f.cands.find? fun c => c.pos == pos with
  | some c =>
    let rest := f.cands.filter fun d => d.pos != pos
    if exact && chk && fn = (c.fn + 1) % 80 then
      if c.sightings + 1 = 3 then ⟨true, [], next, fn, just, 0⟩
      else { f with cands := rest ++ [⟨next, fn, c.sightings + 1⟩] }
    else { f with cands := rest }
  | none =>
    if exact && chk && f.cands.length < 4 then { f with cands := f.cands ++ [⟨next, fn, 1⟩] } else f

/-- The expected FAW position in SYNC (Table 11-5). -/
def Framer.expect (f : Framer) (len pos : Nat) (exact : Bool) (fn : Nat) (just : Int) (chk : Bool) : Framer :=
  let j := if chk then just else f.just
  let next := ((pos : Int) + len + j).toNat
  if exact then { f with pos := next, fn := if chk then fn else (f.fn + 1) % 80, just := j, errs := 0 }
  else if f.errs + 1 = 4 then { Framer.reset with just := j }
  else { f with pos := next, fn := if chk then fn else (f.fn + 1) % 80, just := j, errs := f.errs + 1 }

/-- FAW_RX: block position on the lane, whether the block is exactly the FAW, FN, J and CHECK of the block after it. -/
def doFawRx (t n pos : Nat) (exact : Bool) (fn : Nat) (just : Int) (chk : Bool) (s : State) : State :=
  let s := s.advance t
  let l := s.lane n
  if !s.laneLive n || !s.isTlf n || !(l.stage == 8 || l.stage == 9) then s
  else
    let f := (s.tlf n).framer
    let len := tlfBlocks l.cfg.rate
    if f.sync && f.pos != pos then s
    else
      let f' := if f.sync then f.expect len pos exact fn just chk else f.hunt len pos exact fn just chk
      let s := s.modTlf n fun x => { x with framer := f', bip := if f'.sync && f.sync then x.bip else none }
      let s := s.noteLane n
      if f'.sync && l.stage = 8 then s.laneUp n
      else if !f'.sync && l.stage = 9 then (s.laneDown n 0).modLane n fun l => { l with stage := 8 }
      else s

def execFawRx (t n pos : Nat) (exact : Bool) (fn : Nat) (just : Int) (chk : Bool) (s : State) : Host.Outcome State Fault Refusal :=
  .next (doFawRx t n pos exact fn just chk s)

/-! ## Frames received (R309 to R319) -/

/-- Number of set bits of a 16-bit number. -/
def ones16 (v : Nat) : Nat := ((List.range 16).filter fun i => v.testBit i).length

/-- The round-trip delay from the far end's stamps, when both stamps of each pair carry one epoch (R313): the own departure of the frame
that RXFN names is paired with the own arrival of the frame that TXFN names; each frame number is looked up where it last occurred. -/
def State.roundTrip (s : State) (n : Nat) (b48 ttx trx : List Byte) : Option Nat :=
  let x := s.tlf n
  match x.sent.find? (fld b48 1 1), x.came.find? (fld b48 0 1) with
  | some d, some a4 =>
    if !bit (fld b48 2 1) 0 || !(x.tx.any fun y => y.prev.isSome) || x.rxAt.isNone || fld ttx 6 2 != fld trx 6 2
        || s.epochAt d != s.epochAt a4 then none
    else
      let m (v : List Byte) : Nat := fld v 0 4
      let loc := (leNat ((s.ts32 a4).take 4) + 2 ^ 32 - leNat ((s.ts32 d).take 4)) % 2 ^ 32
      some ((loc + 2 ^ 32 - (m ttx + 2 ^ 32 - m trx) % 2 ^ 32) % 2 ^ 32)
  | _, _ => none

/-- The MC bytes of a channel whose first block is `b` (Table 11-2). -/
def mcBytes (ovh : List Nat) (b : Nat) : List Byte :=
  let h := blkBytes (ovh.getD b 0)
  (((h.drop 2) ++ (List.range 9).flatMap fun i => blkBytes (ovh.getD (b + 1 + i) 0))).take (min 78 (fld h 0 1))

/-- The time slots of a frame's payload: 64 blocks each, after the overhead and its fill (R308, R309). -/
def frameSlots (rate : Nat) (just : Int) (bs : List Nat) : List (List Nat) :=
  let pay := bs.drop ((tlfOver rate : Int) + just).toNat
  let ns := tlfSlots rate
  (List.range ns).map fun i => (List.range 64).map fun r => pay.getD (r * ns + i) 0

/-- What a lane takes from the overhead and the slots of a received frame (R311 to R313, R319, R322): `line` as received, `bs`
descrambled, `scr` the descrambler after it. -/
def State.rxOverhead (s : State) (t n : Nat) (line bs : List Nat) (scr : Nat) : State :=
  let x := s.tlf n
  let rate := (s.lane n).cfg.rate
  let ovh := bs.take (tlfOver rate)
  let f1 := overBlk ovh 1
  let just := (f1.map fun b => sfld b 3 1).getD x.framer.just
  let fn := (f1.map fun b => fld b 0 1).getD x.framer.fn
  let b2 := fld (blkBytes (ovh.getD 2 0)) 0 2
  let bad := (x.bip.map fun b => ones16 (b ^^^ b2)).getD 0
  let labels := (List.range 256).foldl (fun m k => m.put 0 (256 * (fn % 16) + k) (fld (blkBytes (ovh.getD (6 + k / 8) 0)) (k % 8) 1)) x.labels
  let d4 := if x.blind then none else (overBlk ovh 4).map fun b => fld b 0 1
  let ds := match d4 with
    | some v => (x.defects.modify 2 fun d => d.note (bit v 0) s.time.frc).modify 3 fun d => d.note (bit v 1) s.time.frc
    | none => x.defects
  let rtd := s.roundTrip n (blkBytes (ovh.getD 48 0)) (blkBytes (ovh.getD 49 0)) (blkBytes (ovh.getD 50 0))
  let pm := x.pm.frame (bad != 0)
  let pm := match rtd with
    | some r => pm.bump fun b => { b with
        rtdMin := some (min r (b.rtdMin.getD r)), rtdMax := some (max r (b.rtdMax.getD r)) }
    | none => pm
  s.modTlf n fun y => { y with
    rxScr := scr, bip := some (bip16 line), rei := bad, rxFn := fn, labels := labels, defects := ds, pm := pm
    rxMfn := (f1.map fun b => fld b 1 2 % 1024).getD x.rxMfn
    farAps := match overBlk ovh 5 with
      | some b => some (fld b 0 1 / 16, fld b 0 1 % 16, fld b 2 1)
      | none => x.farAps
    rxAt := some (t, fn), came := x.came.set fn t, rtd := if rtd.isSome then rtd else x.rtd
    rxSlots := frameSlots rate just bs, rxCount := x.rxCount + 1 }

/-- The bytes of the management channels of a received frame (R318). -/
def mcOf (rate : Nat) (bs : List Nat) : List Byte :=
  let ovh := bs.take (tlfOver rate)
  mcBytes ovh 38 ++ (if rate = 3 then mcBytes ovh 102 else [])

/-- A frame's APS_MODE is compared with the group's own, and the request received is weighed (R328, R329). -/
def State.rxGroup (s : State) (n : Nat) : State :=
  match s.laneGroup n with
  | none => s
  | some (g, grp) =>
    let own := b2n grp.bidir + 2 * b2n grp.revertive + 4
    let diff := (s.farReq grp).any fun a => a.2.2 % 8 != own
    let s := s.modLine fun q => { q with groups := q.groups.upd g fun y =>
      if diff then { y with mismatch := some (y.mismatch.getD s.time.frc) } else { y with mismatch := none, uni := false } }
    s.apsUpdate g

/-- TLF_FRAME_RX: a frame's blocks in line order, scrambled as received; its FAW arrived at `t`. -/
def doTlfFrameRx (t n : Nat) (line : List Nat) (s : State) : State :=
  let s := s.advance t
  let l := s.lane n
  let x := s.tlf n
  if !s.laneLive n || !s.isTlf n || !x.framer.sync || !(l.stage == 9) then s
  else
    let (bs, scr) := scrBlocks true line x.rxScr
    let s := s.rxOverhead t n line bs scr
    let s := if x.mc then s.ringPut x.mcRx (mcOf l.cfg.rate bs) else s
    let s := (s.trailsOf n).foldl (fun s id => s.rxTrail id (s.tlf n).rxFn n (s.tlf n).rxSlots) s
    s.rxGroup n

def execTlfFrameRx (t n : Nat) (line : List Nat) (s : State) : Host.Outcome State Fault Refusal := .next (doTlfFrameRx t n line s)

/-! ## Frames sent (R309 to R319, R331, R332) -/

/-- The bytes of one frame of a transmit trail, TFH included. -/
def State.txTrail (s : State) (id dep : Nat) : List Byte × State :=
  match s.line.trails.find? id with
  | none => ([], s)
  | some t =>
    let cap := t.bytes - 8
    let tb := t.xor.getD 0
    if isIq t.label then
      let start := t.left.length
      let queued := t.queue.flatMap TxRec.bytes
      let body := (t.left ++ queued).take cap
      let begins := start < cap && !t.queue.isEmpty
      let point := ((t.queue.head?).map TxRec.point).getD 0
      let h := tfh (if begins then start else 0xFFFF) (if begins then point / 256 else 0) body.isEmpty tb
      let rest := (t.left ++ queued).drop cap
      -- records wholly begun leave the queue; what is left of the last one goes on in the next frame
      let begun := ((List.range t.queue.length).filter fun i =>
        start + ((t.queue.take i).map fun r => r.bytes.length).sum < cap).length
      let left := rest.take (((t.left ++ (t.queue.take begun).flatMap TxRec.bytes).length) - cap)
      let p := fit t.bytes (h ++ body)
      (p, s.modTrail id fun t => { t with xor := some (xorBytes p), left := left, queue := t.queue.drop begun })
    else if t.label = 5 then
      match s.anchor? t.cell with
      | none =>
        let p := fit t.bytes (tfh 0 0 true tb)
        (p, s.modTrail id fun t => { t with xor := some (xorBytes p) })
      | some tl =>
        let th := s.theta dep + t.advance * nsUnit
        let k := frameAt tl.toff th
        let per := ((th - nominal tl.toff k 0) / (125000 * nsUnit)).toNat % 80
        let sfn := sfnOf tl.sfnBase k
        let ring := t.ring * (t.fsMult * 960)
        let addr (i : Nat) : Nat := t.area + 4 * ((per * t.spf + i) % ring)
        let ready (i : Nat) : Bool :=
          s.line.recs.find? (addr i - addr i % 64) == some none && t.passes k (per * t.spf + i) && s.pow.mode != .fault
        let bytes := (List.range t.spf).flatMap fun i => if ready i && !s.poisonIn (addr i) 4 then s.bytesAt (addr i) 4 else zeros 4
        let bad := ((List.range t.spf).filter fun i => ready i && s.poisonIn (addr i) 4).length
        let lines := ((List.range t.spf).map fun i => addr i - addr i % 64).dedup
        let p := fit t.bytes (tfh 0 (sfn + 1024 * per) false tb ++ bytes)
        let s := (s.modLine fun l => { l with recs := l.recs.filter fun e => !lines.contains e.1 }).modTrail id fun t =>
          { t with xor := some (xorBytes p) }
        (p, s.poisonEgress (s.trailOwner id) 0 id bad)
    else if t.label = 7 || t.label = 8 then
      let (bs, s) := s.ringTake t.area cap (some id)
      let p := fit t.bytes (tfh bs.length 0 bs.isEmpty tb ++ bs)
      (p, s.modTrail id fun t => { t with xor := some (xorBytes p) })
    else
      let p := if t.label = 0xFF then List.replicate t.bytes 0xFF else if t.label = 0 then zeros t.bytes else fit t.bytes (tfh 0 0 true tb)
      (p, s.modTrail id fun t => { t with xor := some (xorBytes p) })

/-- The trails that entries of a page name, rising. -/
def pageTrails (page : Tab Nat) : List Nat := ((page.filter fun e => entSrc e.2 == 3).map fun e => entIx e.2).dedup

/-- Form the payload of every trail that a page names. -/
def State.txTrails (s : State) (dep : Nat) : List Nat → List (Nat × List Byte) × State
  | [] => ([], s)
  | id :: rest =>
    let (p, s) := s.txTrail id dep
    let (ps, s) := s.txTrails dep rest
    ((id, p) :: ps, s)

/-- The content of one slot of an output frame (R331, R332). -/
def State.txSlot (s : State) (page : Tab Nat) (pays : List (Nat × List Byte)) (slot : Nat) : List Nat :=
  let e := page.get 0 slot
  let data (v : Nat) : List Nat := List.replicate 64 v
  if s.pow.mode == .fault then data (2 ^ 64 - 1) else
  match entSrc e with
  | 0 => data 0
  | 1 => data (2 ^ 64 - 1)
  | 2 =>
    let m := s.member? (entLane e)
    if (s.tlf m).sf || (s.tlf m).rxSlots.isEmpty then data (2 ^ 64 - 1) else (s.tlf m).rxSlots.getD (entIx e) (data (2 ^ 64 - 1))
  | _ =>
    match pays.find? fun p => p.1 == entIx e with
    | none => data 0
    | some p =>
      let mine := ((page.filter fun x => entSrc x.2 == 3 && entIx x.2 == entIx e).map Prod.fst)
      (List.range 64).map fun r => payloadBlk p.2 mine.length (mine.findIdx (· == slot)) r

/-- Blocks 2 to 4 of a lane's frames, which each member of a group forms for itself: the BIP16 of its last frame, REI, defects. -/
def State.ownBlocks (s : State) (n bip : Nat) : List Nat :=
  let x := s.tlf n
  let cause := if (s.lane n).stage = 14 then 4 else if setAt x.defects 0 then 1 else if setAt x.defects 1 then 2 else if setAt x.defects 2 then 3 else 0
  [blkOf false (leBytes 2 bip), blkOf false (leBytes 1 x.rei),
    chkBlk (leBytes 1 (b2n (s.pow.mode == .fault) + 2 * b2n x.sf) ++ leBytes 1 (if x.sf then cause else 0))]

/-- A frame's blocks with another lane's blocks 2 to 4, and their copies at TLF-48G (R326). -/
def withOwn (rate : Nat) (own blocks : List Nat) : List Nat :=
  let b := blocks.take 2 ++ own ++ blocks.drop 5
  if rate = 3 then b.take 66 ++ own ++ b.drop 69 else b

/-- The overhead of a frame (Table 11-2), `page` the connections whose trails and labels it carries. -/
def State.txOverhead (s : State) (n : Nat) (page : Tab Nat) (tx : TlfTx) (just : Int) (mcs : List (List Byte)) : List Nat :=
  let x := s.tlf n
  let rate := (s.lane n).cfg.rate
  let z := blkOf false []
  let aps := match s.laneGroup n with
    | some (_, g) => leBytes 1 (g.localReq * 16 + g.localSig) ++ leBytes 1 g.sel ++ leBytes 1 (b2n g.bidir + 2 * b2n g.revertive + 4)
    | none => []
  let carried := pageTrails page
  let label (k : Nat) : Nat :=
    let id := 256 * (tx.fn % 16) + k
    if carried.contains id then ((s.line.trails.find? id).map Trail.label).getD 0 else 0
  let labels := (List.range 32).map fun i => blkOf false ((List.range 8).flatMap fun b => leBytes 1 (label (8 * i + b)))
  let mc (i : Nat) : List Nat :=
    let bs := mcs.getD i []
    let b := fit 80 (leBytes 1 bs.length ++ zeros 1 ++ bs)
    (List.range 10).map fun q => blkOf false ((b.drop (8 * q)).take 8)
  let valid := tx.prev.isSome && x.rxAt.isSome
  let d := (tx.prev.map fun p => p.1 / 3).getD 0
  let tt := s.timeAt d
  let b48 := blkOf false (leBytes 1 ((tx.prev.map Prod.snd).getD 0) ++ leBytes 1 ((x.rxAt.map Prod.snd).getD 0) ++ leBytes 1 (b2n valid))
  let b49 := blkOf false (s.ts32 d)
  let b50 := blkOf false ((x.rxAt.map fun a => s.ts32 a.1).getD [])
  let b51 := blkOf false (leBytes 6 (tt / 2 ^ 32 / 1000000000) ++ leBytes 2 (s.epochAt d))
  let b52 := blkOf false (leBytes 4 (tt / 2 ^ 32 % 1000000000) ++ leBytes 1 (tt / 2 ^ 24) ++ leBytes 1 (s.timeSources % 32))
  let phase := (s.theta (tx.zero3 / 3) - tx.k * 10000000 * nsUnit) / nsUnit
  let b53 := blkOf false (leBytes 4 (unsgn 32 phase))
  let base := [fawBlk, chkBlk (leBytes 1 tx.fn ++ leBytes 2 (sfnOf 0 tx.k) ++ leBytes 1 (unsgn 8 just) ++ leBytes 2 s.deviceId ++ leBytes 1 n)]
      ++ s.ownBlocks n tx.bip ++ [chkBlk aps] ++ labels ++ mc 0 ++ [b48, b49, b50, b51, b52, b53] ++ List.replicate 10 z
  let all := if rate = 3 then
      base ++ blkOf true (0xD4 :: fawPattern) :: ((base.drop 1).take 37) ++ mc 1 ++ (base.drop 48)
    else base
  if just < 0 then all.take ((all.length : Int) + just).toNat
  else all ++ List.replicate just.toNat (blkOf true [0x1E])

/-- Note the input frames taken for a lane's output frame; drops and repeats are slips (R332). A source in SF gives AIS fill and
neither drops nor repeats. -/
def State.takeInputs (s : State) (n : Nat) (page : Tab Nat) : State :=
  let srcs := ((page.filter fun e => entSrc e.2 == 2).map fun e => s.member? (entLane e.2)).dedup
  let x := s.tlf n
  let slips := (srcs.map fun m =>
    match x.taken.find? m with
    | none => 0
    | some c => if (s.tlf m).sf then 0 else let d := (s.tlf m).rxCount - c; if d = 0 then 1 else d - 1).sum
  let s := s.modTlf n fun x => { x with
    taken := srcs.map (fun m => (m, (s.tlf m).rxCount))
    pm := if slips = 0 then x.pm else x.pm.bump fun b => { b with slips := sat32 (b.slips + slips) } }
  let due := slips != 0 && (match x.slipAt with
    | none => true
    | some f => f + 983040000 ≤ s.time.frc)
  if due then (s.modTlf n fun x => { x with slipAt := some s.time.frc }).postLane n 0x0417 1 n else s

/-- Where the transmitter of a lane stands before its next frame. -/
def State.txStart (s : State) (n : Nat) : TlfTx :=
  match (s.tlf n).tx with
  | some tx => tx
  | none =>
    let off := (s.tlf n).txOffset
    let (k, fn) := fawFrom off s.thetaNow
    let d := s.thirds (fawNominal off k fn)
    ⟨d, fn, k, none, s.thirds (fawNominal off k 0), 0, 0⟩

/-- The transmitter sends TLF frames: its own stream in traffic, also in a test that leaves the stream on its pads (Table 10-5). -/
def State.txRuns (s : State) (n : Nat) : Bool := s.isTlf n && s.laneTx n == .traffic

/-- A lane carries what its connections name: not in TEST (R300: the bridge to a member in test stops). -/
def State.bridged (s : State) (n : Nat) : Bool := s.txRuns n && (s.lane n).stage != 14

/-- Header and bits of a block in the order in which they are sent (R286). -/
def blockBits (b : Nat) : List Bool := [blkCtl b, !blkCtl b] ++ (List.range 64).map fun i => b.testBit i

/-- Pairs of bits as Gray-coded symbols, the first bit more significant (R286). -/
def graySymbols : List Bool → List Nat
  | a :: b :: rest => (if a then (if b then 2 else 3) else b2n b) :: graySymbols rest
  | _ => []

/-- A block with every bit inverted, header included (TX_INVERT). -/
def invertBlk (b : Nat) : Nat := blkOf (!blkCtl b) ((blkBytes b).map fun x => ~~~x)

/-- What leaves for a line's blocks: inverted with TX_INVERT, and on a PAM4 lane its symbols. -/
def State.outFrame (s : State) (n : Nat) (line : List Nat) : Out :=
  let c := (s.lane n).cfg
  let line := if c.txInv then line.map invertBlk else line
  .tlfFrame n line (if pam4 c.rate then graySymbols (line.flatMap blockBits) else [])

/-- The justification of a lane's next frame, where its transmitter stands after it (but for BIP16 and scrambler), and whether the
limit leaves the next FAW more than one block from its nominal time (R310). -/
def State.nextTx (s : State) (n : Nat) : Int × TlfTx × Bool :=
  let tx := s.txStart n
  let len := tlfBlocks (s.lane n).cfg.rate
  let b3 := 368640 / len
  let off := (s.tlf n).txOffset
  let fn' := (tx.fn + 1) % 80
  let k' := if fn' = 0 then tx.k + 1 else tx.k
  let want := (s.thirds (fawNominal off k' fn') : Int)
  let just := clampI (-8) 8 ((want - tx.next3 + b3 / 2) / b3 - len)
  let next3 := ((tx.next3 : Int) + (len + just) * b3).toNat
  (just, ⟨next3, fn', k', some (tx.next3, tx.fn), if fn' = 0 then next3 else tx.zero3, tx.bip, tx.scr⟩, b3 < (want - next3).natAbs)

/-- The blocks of a lane's next frame, before scrambling, with a page, payload and management bytes. -/
def State.frameBlocks (s : State) (n : Nat) (page : Tab Nat) (pays : List (Nat × List Byte)) (mcs : List (List Byte)) : List Nat :=
  let slots := (List.range (s.slotsOf n)).map fun i => s.txSlot page pays i
  s.txOverhead n page (s.txStart n) (s.nextTx n).1 mcs ++ (List.range 64).flatMap fun r => slots.map fun sl => sl.getD r 0

/-- A frame leaves on a lane, scrambled from where the lane's scrambler stands: its first and its next departure are given. -/
def State.putFrame (s : State) (n : Nat) (blocks : List Nat) (tx next : TlfTx) : State :=
  let (line, scr) := scrBlocks false blocks tx.scr
  (s.emit (s.outFrame n line)).modTlf n fun x => { x with
    tx := some { next with bip := bip16 line, scr := scr }, sent := x.sent.set tx.fn (tx.next3 / 3) }

/-- Send the next frame of lane `n` with a page, payload and management bytes: its justification, its overhead, its scrambler;
TLF_JUST_LIMIT at most once per second (R310). -/
def State.sendFrame (s : State) (n : Nat) (page : Tab Nat) (pays : List (Nat × List Byte)) (mcs : List (List Byte)) : State :=
  let (_, next, limit) := s.nextTx n
  let s := s.putFrame n (s.frameBlocks n page pays mcs) (s.txStart n) next
  let due := limit && (match (s.tlf n).justAt with
    | none => true
    | some f => f + 983040000 ≤ s.time.frc)
  if due then (s.modTlf n fun x => { x with justAt := some s.time.frc }).postLane n 0x0416 2 n else s

/-- A protection lane sends the content of the frame that its working lane `n` sends from state `w`: the same blocks but 2 to 4, which it
forms for itself (R326). -/
def State.sendCopy (s w : State) (n m : Nat) (blocks : List Nat) : State :=
  let own := (s.tlf m).tx
  let bip := (own.map TlfTx.bip).getD 0
  let scr := (own.map TlfTx.scr).getD 0
  s.putFrame m (withOwn (s.lane m).cfg.rate (s.ownBlocks m bip) blocks) { w.txStart n with scr := scr } (w.nextTx n).2.1

/-- TLF_FRAME_TX: the next frame of a lane leaves; a protection lane sends the content of its working lane's frame with it
(R326), and one of its own only while the working lane sends none. A member in test sends unequipped slots (R300). In FAULT every lane
sends DEFECTS.AIS and AIS fill (R588). -/
def doTlfFrameTx (t n : Nat) (s : State) : State :=
  let s := s.advance t
  let src := match s.laneGroup n with
    | some (_, g) => g.work
    | none => n
  let prot := (s.laneGroup n).map fun g => g.2.prot
  if s.pow.mode == .fault then (if s.txRuns n then s.sendFrame n (s.tlf n).active [] [] else s)
  else if !s.txRuns n || (src != n && s.bridged n && s.bridged src) then s
  else if prot.isSome && !s.bridged n then s.sendFrame n [] [] []
  else
    let dep := (s.txStart n).next3 / 3
    let x := s.tlf src
    let s := s.takeInputs n x.active
    let (pays, s) := s.txTrails dep (pageTrails x.active)
    let (m0, s) := if x.mc then s.ringTake x.mcTx 78 none else ([], s)
    let (m1, s) := if x.mc && (s.lane n).cfg.rate = 3 then s.ringTake x.mcTx 78 none else ([], s)
    let v := s.sendFrame n x.active pays [m0, m1]
    match prot with
    | some m => if m != n && v.bridged m then v.sendCopy s n m (s.frameBlocks n x.active pays [m0, m1]) else v
    | none => v

def execTlfFrameTx (t n : Nat) (s : State) : Host.Outcome State Fault Refusal := .next (doTlfFrameTx t n s)

/-! ## Defects (R322 to R325) -/

/-- FRC counts of a number of TLF frames. -/
def framesFrc (n : Nat) : Nat := n * 122880

/-- Post a defect event (R345). -/
def State.postDefect (s : State) (trail : Bool) (id d : Nat) (on : Bool) : State :=
  let code := if trail then d + 5 else d + 1
  let data := id + 4096 * b2n trail + 65536 * code
  let fn := if trail then s.trailOwner id else s.laneOwner id
  if on then s.post fn 0x0410 2 data else s.post fn 0x0411 0 data

/-- What follows when a lane enters or leaves SF: PM, status words of its trails, its group (R324 to R327). -/
def State.sfChanged (s : State) (n : Nat) : State :=
  let x := s.tlf n
  let s := s.modTlf n fun x => { x with sfSince := if x.sf then some (x.sfSince.getD s.time.frc) else none }
  let s := (s.trailsOf n).foldl (fun s id => s.putStatus id) s
  if x.sf then
    (if (s.laneGroup n).any fun g => g.2.holdOff == 0 then s.sfRequest n true else s)
  else s.sfRequest n false

/-- The defect has held, or been away, for its time. -/
def Defect.due (d : Defect) (on : Bool) (frames now : Nat) : Bool := d.raw == on && d.set != on && d.since + framesFrc frames ≤ now

/-- Set or clear defect `d` of a lane (0 LOS, 1 LOF, 2 AIS, 3 RDI) or of a receive trail (0 AIS-T, 1 PLM). -/
def State.changeDefect (s : State) (trail : Bool) (id d : Nat) (on : Bool) : State :=
  if trail then
    match s.line.trails.find? id with
    | none => s
    | some t =>
      let x := s.tlf (s.member? t.lane)
      let frames := if d = 0 then 5 else x.times.getD (if on then 8 else 9) 48
      if t.tx || 2 ≤ d || x.blind || !s.laneLive (s.member? t.lane) || !((t.defects.getD d Defect.none_).due on frames s.time.frc) then s
      else
        let s := s.modTrail id fun t => { t with
          defects := t.defects.modify d fun q => { q with set := on }, pm := { t.pm with bad := t.pm.bad || on, severe := t.pm.severe } }
        (s.putStatus id).postDefect true id d on
  else
    let x := s.tlf id
    if !s.isTlf id || !s.laneLive id || 4 ≤ d || (2 ≤ d && x.blind)
        || !((x.defects.getD d Defect.none_).due on (x.times.getD (2 * d + b2n (!on)) 0) s.time.frc) then s
    else
      let s := s.modTlf id fun x => { x with
        defects := x.defects.modify d fun q => { q with set := on }
        pm := { x.pm with bad := x.pm.bad || (on && d != 3), severe := x.pm.severe || (on && d != 3) } }
      let s := if on && d != 3 then (s.trailsOf id).foldl (fun s i => s.modTrail i fun t =>
          { t with pm := { t.pm with bad := true, severe := true } }) s else s
      -- integration of the others starts afresh when the lane is in frame again
      let s := if !on && d < 2 && !(s.tlf id).blind then
          let s := s.modTlf id fun x => { x with defects := (x.defects.modify 2 fun q => { q with since := s.time.frc }).modify 3 fun q =>
            { q with since := s.time.frc } }
          (s.trailsOf id).foldl (fun s i => s.modTrail i fun t => { t with defects := t.defects.map fun q => { q with since := s.time.frc } }) s
        else s
      let s := if d = 3 then s else s.sfChanged id
      s.postDefect false id d on

/-- TLF_DEFECT_SET. -/
def execTlfDefectSet (t : Nat) (trail : Bool) (id d : Nat) (s : State) : Host.Outcome State Fault Refusal :=
  .next ((s.advance t).changeDefect trail id d true)
/-- TLF_DEFECT_CLEAR. -/
def execTlfDefectClear (t : Nat) (trail : Bool) (id d : Nat) (s : State) : Host.Outcome State Fault Refusal :=
  .next ((s.advance t).changeDefect trail id d false)

/-! ## Protection (R327 to R330) -/

/-- SF_HOLDOFF_EXPIRY: a member's SF has lasted HOLD_OFF. -/
def doSfHoldoffExpiry (t n : Nat) (s : State) : State :=
  let s := s.advance t
  match s.laneGroup n, (s.tlf n).sfSince with
  | some (_, g), some f => if (s.tlf n).sf && f + msToFrc (100 * g.holdOff) ≤ s.time.frc then s.sfRequest n true else s
  | _, _ => s

def execSfHoldoffExpiry (t n : Nat) (s : State) : Host.Outcome State Fault Refusal := .next (doSfHoldoffExpiry t n s)

/-- Records in progress of a working lane's trails are lost at a switch (R330). -/
def State.dropParts (s : State) (lane : Nat) : State :=
  (s.line.trails.keep fun _ t => !t.tx && t.lane == lane).keys.foldl (fun s id =>
    s.modTrail id fun t => { (if t.part.isEmpty then t else t.recErr) with part := [], xor := none }) s

/-- APS_SWITCHED: the next FAW of the newly selected member. -/
def doApsSwitched (t n : Nat) (s : State) : State :=
  let s := s.advance t
  match s.line.groups.find? n with
  | none => s
  | some g =>
    match g.target with
    | none => s
    | some (sel, code) =>
      let s := s.dropParts g.work
      let s := s.modLine fun l => { l with groups := l.groups.set n { g with
        sel := sel, target := none, switches := g.switches + 1
        -- wait-to-restore and do-not-revert hold only with protection selected
        wtr := if sel = 0 then none else g.wtr, dnr := sel != 0 && g.dnr } }
      let bump (s : State) (m : Nat) : State := s.modTlf m fun x => { x with pm := x.pm.bump fun b => { b with events := b.events + 1 } }
      let s := bump (bump s g.work) g.prot
      let s := s.postLane g.work 0x0412 1 (g.work + 65536 * sel + 1048576 * code + 16777216 * n)
      s.apsUpdate n

def execApsSwitched (t n : Nat) (s : State) : Host.Outcome State Fault Refusal := .next (doApsSwitched t n s)

/-- WTR_EXPIRY: wait-to-restore ends. -/
def doWtrExpiry (t n : Nat) (s : State) : State :=
  let s := s.advance t
  match s.line.groups.find? n with
  | none => s
  | some g =>
    match g.wtr with
    | none => s
    | some f =>
      if f + msToFrc (1000 * g.wtrS) ≤ s.time.frc then
        (s.modLine fun l => { l with groups := l.groups.set n { g with wtr := none } }).apsUpdate n
      else s

def execWtrExpiry (t n : Nat) (s : State) : Host.Outcome State Fault Refusal := .next (doWtrExpiry t n s)

/-- APS_MISMATCH: the received APS_MODE has differed for 50 ms, or CONFIGURED is clear. -/
def doApsMismatch (t n : Nat) (s : State) : State :=
  let s := s.advance t
  match s.line.groups.find? n with
  | none => s
  | some g =>
    let clear := (s.farReq g).any fun a => !bit a.2.2 2
    if g.uni || !(clear || g.mismatch.any fun f => f + msToFrc 50 ≤ s.time.frc) then s
    else
      let s := s.modLine fun l => { l with groups := l.groups.set n { g with uni := true } }
      (s.postLane g.work 0x0413 2 (g.work + 16777216 * n)).apsUpdate n

def execApsMismatch (t n : Nat) (s : State) : Host.Outcome State Fault Refusal := .next (doApsMismatch t n s)

/-! ## Page switches (R335) -/

/-- TSI_SWITCHED: the FAW of FN 0 of the scheduled multiframe on a lane. -/
def doTsiSwitched (t n : Nat) (s : State) : State :=
  let s := s.advance t
  let x := s.tlf n
  match x.pend with
  | none => s
  | some p =>
    if s.thetaNow < fawNominal x.txOffset p.k 0 then s
    else
      let s := s.modTlf n fun x => { x with active := x.standby, pend := none, copying := some p.cmd, taken := [] }
      s.postLane n 0x0414 0 (n + 65536 * p.mfn)

def execTsiSwitched (t n : Nat) (s : State) : Host.Outcome State Fault Refusal := .next (doTsiSwitched t n s)

/-- A TSI_PAGE_SWITCH command whose lanes have all switched and copied completes. -/
def State.settleSwitch (s : State) (cmd : Nat) (st : Option Status) : State :=
  if s.line.tlf.some? fun _ x => (x.pend.any fun p => p.cmd == cmd) || x.copying == some cmd then s
  else match s.flight? cmd with
    | none => s
    | some fl => match fl.wait with
      | some (.tsiSwitch _ res) => s.complete fl (fld fl.cmd 0 2) (match st with
          | none => .ok res
          | some st => .bare st)
      | _ => s

/-- TSI_COPY_WINDOW_END: the new standby page has its copy and is unsealed. -/
def doTsiCopyWindowEnd (t n : Nat) (s : State) : State :=
  let s := s.advance t
  match (s.tlf n).copying with
  | none => s
  | some cmd => (s.modTlf n fun x => { x with standby := x.active, sealed := false, copying := none }).settleSwitch cmd none

def execTsiCopyWindowEnd (t n : Nat) (s : State) : Host.Outcome State Fault Refusal := .next (doTsiCopyWindowEnd t n s)

/-! ## The monitoring second (R336 to R338) -/

/-- Post PM_THRESHOLD for the counters newly at their thresholds. -/
def State.postPm (s : State) (trail : Bool) (id : Nat) (hits : List Nat) : State :=
  hits.foldl (fun s i => s.post (if trail then s.trailOwner id else s.laneOwner id) 0x0415 1 (id + 4096 * b2n trail + 65536 * i)) s

/-- A second of a lane ends. -/
def State.laneSecond (sec : Nat) (s : State) (n : Nat) : State :=
  let x := s.tlf n
  let (pm, hits) := x.pm.second sec x.sf x.sf
  (s.modTlf n fun x => { x with pm := pm }).postPm false n hits

/-- A second of a receive trail ends. -/
def State.trailSecond (sec : Nat) (s : State) (id : Nat) : State :=
  match s.line.trails.find? id with
  | none => s
  | some t =>
    let m := s.member? t.lane
    if t.tx || !s.laneLive m then s
    else
      let sf := (s.tlf m).sf
      let (pm, hits) := t.pm.second sec (sf || setAt t.defects 0 || setAt t.defects 1) sf
      (s.modTrail id fun t => { t with pm := pm }).postPm true id hits

/-- PM_SECOND: a second of T has ended on every lane and trail. -/
def doPmSecond (t : Nat) (s : State) : State :=
  let s := s.advance t
  let sec := s.secAt s.time.frc - 1
  let s := (s.line.tlf.keys.filter fun n => s.isTlf n && s.laneLive n).foldl (State.laneSecond sec) s
  s.line.trails.keys.foldl (State.trailSecond sec) s

def execPmSecond (t : Nat) (s : State) : Host.Outcome State Fault Refusal := .next (doPmSecond t s)

end Sys2Proof.Machine
end

