-- ==== Sys2Proof/Machine/ClusterOps.lean ====
section
/-! DEFINITION. Shared operations of the cluster (chapter 13): members, their loss, remote tasks, and migrations. -/

namespace Sys2Proof.Machine

/-! ## Addresses (R27, R386) -/

/-- The address in a device's peer window of one of its own addresses (Table 1-10): HBM or region memory. -/
def ownToPeer (d a : Nat) : Nat :=
  let base := peerBase + d * 0x1000000000
  if a < hbmEnd then base + a
  else
    let r := (a - 0x100000000000) / 0x100000000
    base + 0xC00000000 + r * 0x40000000 + (a - regBase r)

/-- A byte range lies in HBM or region memory. -/
def sharable (a n : Nat) : Bool :=
  let sp := spanAt a
  (match sp.place with
    | .hbm | .regMem _ => true
    | _ => false) && a + n ≤ sp.hi

/-! ## Migrations (R389, R393, R394) -/

def State.mig? (s : State) (id : Nat) : Option Mig := s.clu.migs.find? id
def State.modMig (s : State) (id : Nat) (f : Mig → Mig) : State := s.modClu fun c => { c with migs := c.migs.upd id f }

/-- The switch instant t_S (FRC), while the cell's timeline is anchored. -/
def State.migFrc (s : State) (m : Mig) : Option Nat := (s.anchor? m.cell).map fun tl => s.frcOfPos tl m.k 0

/-- The result of CELL_MIGRATE (Table 13-4). -/
def State.migResult (s : State) (m : Mig) (cause : Nat) : List Byte :=
  leBytes 8 ((s.migFrc m).getD 0) ++ leBytes 4 m.copiedKib ++ leBytes 1 cause ++ zeros 3

/-- A migration ends: its command completes with a status and CAUSE. -/
def State.migEnd (s : State) (id : Nat) (m : Mig) (st : Status) (cause : Nat) : State :=
  let res := s.migResult m cause
  let s := s.modClu fun c => { c with migs := c.migs.del id }
  match s.flight? m.cmd with
  | some fl => s.complete fl 0x0504 ⟨st, res, none⟩
  | none => s

/-- The status of an abort (R393). -/
def abortStatus (cause : Nat) : Status :=
  if cause = 3 then .busError else if cause = 1 || cause = 2 then .notReady else if cause = 4 then .notPermitted else .badParam

/-- The migration has passed its commit point. -/
def Mig.past (m : Mig) : Bool := m.stage == .committed || m.stage == .switched

/-- Abort: the switches of LANES are cancelled, plans are accepted again, MIGRATE_ABORTED; the other device is told (R393). -/
def State.migAbort (s : State) (id : Nat) (m : Mig) (cause : Nat) : State :=
  let undo (n : Nat) (x : TlfLane) : TlfLane :=
    if m.lanes.testBit n && (x.pend.any fun p => p.cmd == m.cmd) then { x with pend := none } else x
  let s := s.modLine fun l => { l with tlf := l.tlf.each undo }
  let s := s.post (s.cellOwner m.cell) 0x0504 2 (m.cell + 65536 * cause)
  (s.emit (.peerMsg m.dev (.abort id cause))).migEnd id m (abortStatus cause) cause

/-- The other device of a migration is lost (Table 13-7). -/
def State.migLost (s : State) (id : Nat) (m : Mig) : State :=
  if !m.past then s.migAbort id m 3
  else if !m.source && m.stage == .switched then s.migEnd id m .success 0
  else s.modMig id fun m => { m with lost := true }

/-! ## Members (R383, R384) -/

/-- A remote task that was sent to a peer fails with a status; one already revoked leaves. -/
def State.failRemote (s : State) (id : Nat) (t : Task) (st : Status) : State :=
  match t.leave with
  | .revoked => s.dropRevoked id t
  | _ => s.failTask id t st

/-- Tasks under way on a peer, and tasks accepted from one. -/
def State.sentTo (s : State) (p : Nat → Bool) : List Nat :=
  (s.car.tasks.keep fun _ t => t.st == .running && t.engine.isNone && t.peer.any p).keys
def State.takenFrom (s : State) (p : Nat → Bool) : List Nat := (s.car.tasks.keep fun _ t => t.origin.any fun o => p o.1).keys

/-- Every remote task that a test on its device picks ends with BUS_ERROR where it was sent, and leaves at its next yield where
it was accepted. -/
def State.endRemote (s : State) (p : Nat → Bool) : State :=
  let s := (s.sentTo p).foldl (fun s id => match s.task? id with
    | some t => s.failRemote id t .busError
    | none => s) s
  s.revokeAll (s.takenFrom p)

/-- A member is lost (R384). -/
def State.loseMember (s : State) (d : Nat) : State :=
  let guide := d == s.clu.parent || d == s.clu.root
  let s := s.modClu fun c => { c with members := c.members.upd d fun m => { m with up := false } }
  let s := (s.cutMesh (· == d)).endRemote (· == d)
  let s := s.postAll 0x0502 2 (d + 4096 * b2n guide)
  let s := if guide then { s with time := { s.time with member := false, aligned := false } } else s
  (s.clu.migs.keep fun _ m => m.dev == d && !m.lost).foldl (fun s e => s.migLost e.1 e.2) s

/-! ## Joining (R378, R379, R100) -/

/-- A member entry (Table 13-2). -/
def memberOf (e : List Byte) : Member :=
  ⟨fld e 2 1, fld e 3 1, fld e 4 1, bit (fld e 5 1) 0, fld e 6 2, (e.drop 8).take 6, 0, false, ⟨0, [], [], []⟩, 0, 0, 0⟩

/-- The member entries of CLUSTER_JOIN, and its export ranges. -/
def joinEntries (p : List Byte) : List (List Byte) := (List.range (fld p 20 2)).map fun i => (p.drop (32 + 16 * fld p 22 2 + 16 * i)).take 16
def joinExports (p : List Byte) : List (Nat × Nat) := (List.range (fld p 22 2)).map fun i => (fld p (32 + 16 * i) 8, fld p (40 + 16 * i) 8)

/-- Put the parameters of CLUSTER_JOIN in force; what is known of members that stay is kept. -/
def State.setCluster (s : State) (p : List Byte) : State :=
  let table : Tab Member := (joinEntries p).foldl (fun t e =>
    let m := memberOf e
    let old := s.clu.members.find? (fld e 0 2)
    t.set (fld e 0 2) { m with
      heard := (old.map Member.heard).getD s.time.frc, up := (old.map Member.up).getD false
      summary := (old.map Member.summary).getD m.summary, sent := (old.map Member.sent).getD 0, kept := (old.map Member.kept).getD 0
      told := (old.map Member.told).getD 0 }) []
  let s := s.modClu fun c => { c with
    id := fld p 0 4, device := fld p 4 2, root := fld p 6 2, parent := fld p 8 2
    accept := bit (fld p 11 1) 0, dispatch := bit (fld p 11 1) 1, types := fld p 12 2, tenant := fld p 14 1, waitNs := fld p 16 4
    members := table, exports := joinExports p, joining := none }
  { s with time := { s.time with member := fld p 6 2 != fld p 4 2 } }

/-- The result of CLUSTER_JOIN. -/
def State.joinResult (s : State) (step : Int) : List Byte :=
  leBytes 2 s.deviceId ++ leBytes 2 s.conv.epoch ++ leBytes 4 (unsgn 32 (clampI (-2147483648) 2147483647 (wholeNs step)))

/-- Complete a waiting CLUSTER_JOIN. -/
def State.joinEnd (s : State) (st : Status) (res : List Byte) : State :=
  (s.modClu fun c => { c with joining := none }).completeWaits fun w => if w = .join then some ⟨st, res, none⟩ else none

/-- The joining device has heard its TIMING_PARENT: the join step, the id, JOINED (R379). -/
def State.joinStep (s : State) (p : List Byte) (step : Int) : State :=
  let c := s.conv
  let s := s.applyConv ⟨s.time.frc, c.rate, unsgn 96 (c.offset + step), (c.epoch + 1) % 65536⟩ step s.time.slew
  let s := s.setCluster p
  let s := { s with time := { s.time with aligned := true, misses := 0, lastServo := s.time.frc } }
  s.joinEnd .success (s.joinResult step)

/-- A frame from a device has arrived; `step` is its time less this device's, in 2⁻³² ns, as the timing exchange gives it. -/
def State.heardFrom (s : State) (d : Nat) (step : Int) : State :=
  let s := match s.clu.joining with
    | some (p, _) =>
      if d = fld p 4 2 then s.joinEnd .noResource []
      else if d = fld p 8 2 then s.joinStep p step
      else s
    | none => s
  match s.clu.members.find? d with
  | none => s
  | some m =>
    if d = s.deviceId then s
    else
      let s := s.modClu fun c => { c with members := c.members.set d { m with heard := s.time.frc, up := true } }
      if m.up then s else s.postAll 0x0501 0 d

/-! ## Remote dispatch (R385) -/

/-- Region and type pairs of engines. -/
def regionTypes : List (Nat × Nat) := (List.range 13).flatMap fun r => (List.range 12).filterMap fun ty =>
  if (enginesOf r ty).isEmpty then none else some (r, ty)

/-- What this device advertises: only when it accepts remote tasks; classes above 0 under its reserves (R121, R385). -/
def State.mySummary (s : State) : Summary :=
  if !s.clu.accept || s.clu.leaving.isSome then ⟨0, [], [], []⟩
  else
    let some_ := regionTypes.filter fun x => (enginesOf x.1 x.2).any s.ableEngine
    let ks := (s.kernels.filter fun k => k.2.fn == s.clu.tenant).map fun k => (k.1, leNat (k.2.digest.take 8))
    ⟨s.clu.types, some_.filter fun x => (s.reserve x.1 x.2).count + 1 ≤ s.inForce x.1 x.2, some_, ks⟩

/-- The region that a member advertises for a task, if any. -/
def State.advert (s : State) (m : Member) (t : Task) : Option Nat :=
  let l := if t.cls = 0 then m.summary.idle0 else m.summary.idle
  let kern := t.type != 1 || (s.kernels.find? t.kernel).any fun k => m.summary.kernels.contains (t.kernel, leNat (k.digest.take 8))
  if !m.up || !m.summary.types.testBit t.type || !kern then none else (l.find? fun x => x.2 == t.type).map Prod.fst

/-- Distance for R385: peer-port hops; an Ethernet path counts after every peer-port path. -/
def Member.dist (m : Member) : Nat := if m.path = 1 then m.hops else 4

/-- The peer that takes a task: fewest hops, then the lowest device id; with the advertised region. -/
def State.remoteTarget (s : State) (t : Task) : Option (Nat × Nat) :=
  let c := s.clu.members.filterMap fun e => if e.1 = s.deviceId then none else (s.advert e.2 t).map fun r => (e.1, r, e.2.dist)
  (c.foldl (fun (b : Option (Nat × Nat × Nat)) x => match b with
    | none => some x
    | some y => if x.2.2 < y.2.2 then some x else some y) none).map fun x => (x.1, x.2.1)

/-- A task may go to a peer now (R136, R385). -/
def State.remoteOk (s : State) (t : Task) : Bool :=
  s.member && s.clu.dispatch && s.clu.leaving.isNone && t.st == .ready && t.remoteOk && t.origin.isNone && !s.migHeld t
    && (s.anchor? t.cell).isSome
    && t.readyAt + nsToFrc s.clu.waitNs ≤ s.time.frc
    && [t.inBuf, t.outBuf, t.param].all fun b => b.len == 0 || sharable (s.real b.addr) b.len

/-- A task's descriptor with every buffer reference in this device's peer window (R386). -/
def State.remoteDesc (s : State) (t : Task) : List Byte :=
  let ref (b : BufRef) : BufRef := if b.len = 0 then b else { b with addr := ownToPeer s.deviceId (s.real b.addr) }
  ({ t with inBuf := ref t.inBuf, outBuf := ref t.outBuf, param := ref t.param }).bytes

/-- A task as a peer's descriptor gives it (Table 4-1), at the head of the list of a region. -/
def remoteTask (d : List Byte) (dev rid region : Nat) (head : Int) (frc : Nat) : Task :=
  let ref (o : Nat) : BufRef := ⟨fld d o 8 % 2 ^ 48, bits (fld d o 8) 61 48 * 256⟩
  let fl := fld d 30 1
  { kernel := fld d 0 2, type := fld d 2 1, prio := fld d 3 1 % 16, cls := bits (fld d 3 1) 5 4, flow := fld d 4 2, seq := fld d 6 2
    epoch := fld d 8 2, cell := fld d 10 2, deadline := fld d 12 4, waitGate := none, doneGate := none, outGate := none
    affinity := some region, commitKib := 0, notify := false, runOnFail := bit fl 1, remoteOk := false, harq := bit fl 3
    inBuf := ref 32, outBuf := ref 40, param := ref 48, arg := fld d 56 4, harqPid := fld d 60 2, node := fld d 62 2
    plan := 0, st := .ready, fail := none, gateMark := none, engine := none, ranOn := none, suspended := false, leave := .no
    late := false, readyNo := head, readyAt := frc, region := some region, peer := none, lines := [], linePois := []
    commitBlk := none, shadow := false, harqEntries := [], deadK := 0, deadOff := 0, origin := some (dev, rid), calRx := none
    calTx := none }

end Sys2Proof.Machine
end

