-- ==== Sys2Proof/Machine/Cluster.lean ====
section
/-! DEFINITION. Cluster pooling (chapter 13): joining, leaving, peer ports, member loss, requests between members, and remote
dispatch. -/

namespace Sys2Proof.Machine

/-! ## CLUSTER_JOIN (R378 to R380) -/

/-- Reserved fields, unlisted encodings and device ids outside their range (R10, R18): before any other check of R379. -/
def layClusterJoin : Layout := ⟨0x0501, 32, true, fun p =>
  [.rng 4 2 0 1023, .rng 6 2 0 1023, .rng 8 2 0 1023, .rng 10 1 0 1, .bits 11 1 0xFC, .bits 12 2 0xF001, .rsv 15 1, .rsv 24 8,
    .cond ((joinEntries p).all fun e => chkAll e [.rng 0 2 0 1023, .rng 2 1 0 2, .bits 5 1 0xFE, .rsv 14 2])], fun _ => []⟩

/-- A field breaks Tables 13-1 and 13-2 otherwise. -/
def joinBad (p : List Byte) : Bool :=
  p.length < 32 + 16 * fld p 22 2 + 16 * fld p 20 2
  || !chkAll p [.cond (fld p 0 4 != 0), .rng 14 1 0 7, .rng 16 4 0 1000000, .rng 20 2 1 1024, .rng 22 2 0 8,
      .cond ((fld p 4 2 == fld p 6 2) == (fld p 4 2 == fld p 8 2))]
  || (joinExports p).any (fun e => e.1 % 65536 != 0 || e.2 % 65536 != 0 || e.2 == 0 || !sharable e.1 e.2)
  || (joinEntries p).any (fun e => !chkAll e [.cond (fld e 2 1 != 2 || !bit (fld e 6 2) 12),
      .cond (if fld e 2 1 = 1 then fld e 3 1 ≤ 7 && 1 ≤ fld e 4 1 && fld e 4 1 ≤ 3
        else if fld e 2 1 = 2 then fld e 3 1 ≤ 63 && fld e 4 1 == 0
        else fld e 3 1 == 0 && fld e 4 1 == 0)])

/-- The member table is invalid (R379 item 3). -/
def State.tableBad (s : State) (p : List Byte) : Bool :=
  let es := joinEntries p
  let ids := es.map fun e => fld e 0 2
  ids.dedup.length != ids.length
  || !(es.any fun e => fld e 0 2 == fld p 4 2) || es.any (fun e => (fld e 0 2 == fld p 4 2) != (fld e 2 1 == 0))
  || es.any (fun e => fld e 2 1 == 1 && !s.portEnabled (fld e 3 1))
  || es.any (fun e => fld e 2 1 == 2 && !((s.line.ports.find? (fld e 3 1)).any EthPort.peer))
  || 16 < (es.filter fun e => fld e 2 1 ≤ 1).length
  || !ids.contains (fld p 6 2) || !ids.contains (fld p 8 2)

def bodyClusterJoin (i : CmdIn) (s : State) : Ans :=
  let p := i.p
  let join := fld p 10 1 == 0
  if (join && (s.member || s.clu.joining.isSome)) || (fld p 10 1 == 1 && !s.member) then refuse s .notPermitted
  else if join && fld p 4 2 != fld p 6 2 && !s.time.anchors.isEmpty then refuse s .notPermitted
  else if joinBad p || (!join && (fld p 0 4 != s.clu.id || fld p 4 2 != s.deviceId)) || s.tableBad p then refuse s .badParam
  else if !join then
    let gone := s.clu.members.keys.filter fun d => !((joinEntries p).any fun e => fld e 0 2 == d)
    let up := gone.filter fun d => (s.clu.members.find? d).any Member.up
    let s := (up.foldl (fun s d => s.loseMember d) s).setCluster p
    ok s (s.joinResult 0)
  else if fld p 4 2 = fld p 6 2 then
    let s := s.setCluster p
    ok s (s.joinResult 0)
  else (s.modClu fun c => { c with joining := some (p, s.time.frc) }, .later .join)

/-- CLUSTER_JOIN. -/
def execClusterJoin (c : CmdRef) (s : State) : Host.Outcome State Fault Refusal := .next (runCmd layClusterJoin c bodyClusterJoin s)

/-- JOIN_KEEPALIVE_TIMEOUT: nothing from TIMING_PARENT for 100 ms; the device stays outside. -/
def doJoinKeepaliveTimeout (t : Nat) (s : State) : State :=
  let s := s.advance t
  if s.stopped then s else
  match s.clu.joining with
  | none => s
  | some (_, f) => if s.time.frc < f + msToFrc 100 then s else s.joinEnd .notReady []

/-- JOIN_KEEPALIVE_TIMEOUT. -/
def execJoinKeepaliveTimeout (t : Nat) (s : State) : Host.Outcome State Fault Refusal := .next (doJoinKeepaliveTimeout t s)

/-! ## CLUSTER_LEAVE (R381) -/

def layClusterLeave : Layout := ⟨0x0502, 4, false, fun _ => [.bits 0 1 0xFE, .rsv 1 3], fun _ => []⟩

def bodyClusterLeave (i : CmdIn) (s : State) : Ans :=
  if !s.member || s.migrating then refuse s .notPermitted
  else if bit (fld i.p 0 1) 0 || !(s.car.tasks.some? fun _ t => t.remote) then
    ok (s.endRemote fun _ => true).leaveCluster []
  else (s.modClu fun c => { c with leaving := some (c.leaving.getD s.time.frc) }, .later .leave)

/-- CLUSTER_LEAVE. -/
def execClusterLeave (c : CmdRef) (s : State) : Host.Outcome State Fault Refusal := .next (runCmd layClusterLeave c bodyClusterLeave s)

/-- LEAVE_WAIT_RUNS_OUT: 100 ms have passed; remaining remote tasks fail with BUS_ERROR, and the device leaves. -/
def doLeaveWaitRunsOut (t : Nat) (s : State) : State :=
  let s := s.advance t
  if s.stopped then s else
  match s.clu.leaving with
  | none => s
  | some f =>
    if s.time.frc < f + msToFrc 100 then s
    else
      let s := s.endRemote fun _ => true
      if s.clu.leaving.isSome then s.leaveCluster else s

/-- LEAVE_WAIT_RUNS_OUT. -/
def execLeaveWaitRunsOut (t : Nat) (s : State) : Host.Outcome State Fault Refusal := .next (doLeaveWaitRunsOut t s)

/-! ## PEER_PORT_CONFIG (R382) -/

def layPeerPort : Layout := ⟨0x0503, 4, false, fun _ => [.rng 0 1 0 7, .rng 1 1 0 1, .bits 2 1 0xFE, .rsv 3 1], fun _ => []⟩

def bodyPeerPort (i : CmdIn) (s : State) : Ans :=
  let p := fld i.p 0 1
  let n := 256 + p
  let l := s.lane n
  let res := leBytes 2 l.farDevice ++ leBytes 1 l.farPort ++ leBytes 1 (b2n (l.stage == 9))
  if fld i.p 1 1 = 1 then
    if l.cfg.mode != 4 then refuse s .badParam
    else ok (s.modClu fun c => { c with ports := c.ports.set p (bit (fld i.p 2 1) 0) }) res
  else if s.clu.members.some? fun _ m => m.path == 1 && m.port == p then refuse s .notPermitted
  else ok (s.modClu fun c => { c with ports := c.ports.del p }) res

/-- PEER_PORT_CONFIG. -/
def execPeerPortConfig (c : CmdRef) (s : State) : Host.Outcome State Fault Refusal := .next (runCmd layPeerPort c bodyPeerPort s)

/-! ## What members hear of one another (R383, R385) -/

/-- IDLE_SUMMARY: a member's summary arrives, with what the timing exchange shows (2⁻³² ns) and whether it has rejoined; this
device's own goes to it every 2 µs over a peer-port path, every 20 µs over Ethernet. -/
def doIdleSummary (t dev : Nat) (sm : Summary) (step : Int) (rejoined : Bool) (s : State) : State :=
  let s := s.advance t
  if s.stopped then s else
  let s := if rejoined && (s.clu.members.find? dev).any Member.up then s.loseMember dev else s
  let s := s.heardFrom dev step
  match s.clu.members.find? dev with
  | none => s
  | some m =>
    if dev = s.deviceId then s
    else
      let due := m.told + usToFrc (if m.path = 2 then 20 else 2) ≤ s.time.frc
      let s := s.modClu fun c => { c with members := c.members.set dev { m with
        summary := sm, told := if due then s.time.frc else m.told } }
      if due then s.emit (.peerMsg dev (.summary s.mySummary)) else s

/-- IDLE_SUMMARY. -/
def execIdleSummary (t dev : Nat) (sm : Summary) (step : Int) (rejoined : Bool) (s : State) : Host.Outcome State Fault Refusal :=
  .next (doIdleSummary t dev sm step rejoined s)

/-- PATH_DOWN: no frame from a member for 200 µs, or the first-hop port of its path has left Up. -/
def doPathDown (t dev : Nat) (s : State) : State :=
  let s := s.advance t
  if s.stopped then s else
  match s.clu.members.find? dev with
  | none => s
  | some m =>
    let silent := m.heard + usToFrc 200 ≤ s.time.frc
    let port := m.path == 1 && (s.lane (256 + m.port)).stage != 9
    if m.up && (silent || port) then s.loseMember dev else s

/-- PATH_DOWN. -/
def execPathDown (t dev : Nat) (s : State) : Host.Outcome State Fault Refusal := .next (doPathDown t dev s)

/-! ## Requests between members (R375 to R377) -/

/-- The receiving member admits a peer's request (R376). -/
def State.admitPeer (s : State) (dev : Nat) (r : MeshReq) (mig : Option Nat) : Bool :=
  (s.clu.exports.any fun e => within r.addr r.len e.1 e.2)
    || (r.task.bind s.task?).any (fun t => t.peer == some dev && t.st == .running
        && [t.inBuf, t.outBuf, t.param].any fun b => 0 < b.len && within r.addr r.len (s.real b.addr) b.len)
    || (mig.bind s.mig?).any fun m => !m.source && m.dev == dev

/-- What a peer may reach through the peer window: HBM and region memory (Table 1-10). -/
def inPeerWindow (a len : Nat) : Bool :=
  let sp := spanAt a
  (match sp.place with
    | .hbm | .regMem _ => true
    | _ => false) && a + len ≤ sp.hi

/-- PEER_REQUEST: a request of a member, at this device's own address or in its own peer window (R27); outside Table 1-10 nothing is
populated (R21). `lat` is its latency as the L0 port measures it. -/
def doPeerRequest (t dev : Nat) (r : MeshReq) (mig : Option Nat) (lat : Nat) (s : State) : State :=
  let s := s.advance t
  if s.stopped then s else
  match s.clu.members.find? dev with
  | none => s
  | some m =>
    if dev = s.deviceId then s
    else
      let s := s.modClu fun c => { c with members := c.members.set dev { m with heard := s.time.frc } }
      let r := { r with addr := s.real r.addr }
      let f : MeshFl := { req := r, peer := some dev, arrived := true, ans := none, lat := lat }
      let s := s.photo f.photo fun p => p.sent r.write
      if !inPeerWindow r.addr r.len then s.meshReply f .busError []
      else if s.admitPeer dev r mig then s.meshArrive f else s.meshReply f .notPermitted []

/-- PEER_REQUEST. -/
def execPeerRequest (t dev : Nat) (r : MeshReq) (mig : Option Nat) (lat : Nat) (s : State) : Host.Outcome State Fault Refusal :=
  .next (doPeerRequest t dev r mig lat s)

/-- PEER_RELAY: a peer-port frame of device `src` for device `dst`, after `hops` peer-port hops: it goes on along the member
table, or is discarded, and its request answered BUS_ERROR. -/
def doPeerRelay (t src dst hops cls tag : Nat) (packet : List Byte) (s : State) : State :=
  let s := s.advance t
  if s.stopped then s else
  if s.member && dst = s.deviceId then s
  else match s.clu.members.find? dst with
  | some m =>
    if m.path = 1 && hops + m.hops ≤ 3 then s.emit (.relay dst m.port cls packet)
    else s.emit (.peerMsg src (.answer tag Status.busError.code []))
  | none => s.emit (.peerMsg src (.answer tag Status.busError.code []))

/-- PEER_RELAY. -/
def execPeerRelay (t src dst hops cls tag : Nat) (packet : List Byte) (s : State) : Host.Outcome State Fault Refusal :=
  .next (doPeerRelay t src dst hops cls tag packet s)

/-! ## Remote dispatch (R136, R385, R386) -/

/-- REMOTE_DISPATCH: a READY task that no engine has taken within the wait goes to a peer that advertises an idle engine. -/
def doRemoteDispatch (t id : Nat) (s : State) : State :=
  let s := s.advance t
  if s.stopped then s else
  match s.task? id with
  | none => s
  | some tk =>
    let r := s.taskRegion tk
    let fits := !(s.speculative tk) || s.commitUsed (r * 4) + tk.commitKib * 1024 ≤ 65536
    if !s.remoteOk tk || !fits || s.shadowHeld id tk then s
    else match s.remoteTarget tk with
      | none => s
      | some (d, region) =>
        let desc := s.remoteDesc tk
        let blk := if s.speculative tk then some (r * 4) else none
        let s := s.modTask id fun x => { x with st := .running, engine := none, region := none, peer := some d, shadow := x.harq, commitBlk := blk }
        (s.olog 6 id tk none r 0 d).emit (.peerMsg d (.task id desc region))

/-- REMOTE_DISPATCH. -/
def execRemoteDispatch (t id : Nat) (s : State) : Host.Outcome State Fault Refusal := .next (doRemoteDispatch t id s)

/-- REMOTE_FINISH: a peer returns a remote task's finish status. -/
def doRemoteFinish (t id : Nat) (st : Status) (s : State) : State :=
  let s := s.advance t
  if s.stopped then s else
  match s.task? id with
  | none => s
  | some tk =>
    if tk.peer.isNone || tk.st != .running || tk.engine.isSome then s
    else if tk.leave = .revoked then s.dropRevoked id tk
    else if tk.leave != .no then s.failTask id tk tk.leave.status
    else if st = .success then (s.modTask id fun x => { x with st := .doneHeld }).signalGates (sig tk.doneGate none)
    else s.failTask id tk st

/-- REMOTE_FINISH. -/
def execRemoteFinish (t id : Nat) (st : Status) (s : State) : Host.Outcome State Fault Refusal := .next (doRemoteFinish t id st s)

/-- REMOTE_TASK_ARRIVAL: a peer's task goes to the head of its priority's list in the advertised region; one that this device
does not accept is returned at once. -/
def doRemoteTaskArrival (t dev rid : Nat) (desc : List Byte) (region : Nat) (s : State) : State :=
  let s := s.advance t
  if s.stopped then s else
  if !(s.clu.members.has dev) || dev = s.deviceId then s
  else
    let tk := remoteTask (fit 64 desc) dev rid region s.car.headReady s.time.frc
    let back (st : Status) : State := s.emit (.peerMsg dev (.finish rid st.code))
    if !s.clu.accept || s.clu.leaving.isSome || !(s.clu.types.testBit tk.type) || (enginesOf region tk.type).isEmpty then back .notPermitted
    else match freeIds (s.car.tasks.length + 1) s.car.tasks.keys 0 1 with
      | [] => back .noResource
      | id :: _ =>
        if 262144 ≤ id then back .noResource
        else
          let s := s.modCar fun c => { c with tasks := c.tasks.set id tk, headReady := c.headReady - 1 }
          (s.write ⟨initId 15 3 0, none, false, some id⟩ (taskAddr id) tk.bytes false).clockUp region

/-- REMOTE_TASK_ARRIVAL. -/
def execRemoteTaskArrival (t dev rid : Nat) (desc : List Byte) (region : Nat) (s : State) : Host.Outcome State Fault Refusal :=
  .next (doRemoteTaskArrival t dev rid desc region s)

/-- How a task leaves for a status: revoked, skipped or forced. -/
def leaveOf : Status → Leave
  | .deadlineMissed => .skipped
  | .noResource => .forced
  | _ => .revoked

/-- REMOTE_REVOKE_ARRIVAL: the originating device revokes, skips or forces out a task: it leaves at its next yield. -/
def doRemoteRevokeArrival (t dev rid : Nat) (st : Status) (s : State) : State :=
  let s := s.advance t
  if s.stopped then s else
  match s.car.tasks.first fun _ tk => tk.origin == some (dev, rid) with
  | none => s
  | some (id, tk) => s.pullTask id tk (leaveOf st)

/-- REMOTE_REVOKE_ARRIVAL. -/
def execRemoteRevokeArrival (t dev rid : Nat) (st : Status) (s : State) : Host.Outcome State Fault Refusal :=
  .next (doRemoteRevokeArrival t dev rid st s)

end Sys2Proof.Machine
end

