-- ==== Sys2Proof/Machine/Coding.lean ====
section
/-! DEFINITION. Coding engine rows (chapter 09): LDPC, polar, turbo and tail-biting coding, HARQ combining, with the checks of
R276, the report of R278, the poison of R279, and run-ahead (R261). -/

namespace Sys2Proof.Machine

/-! ## Parameter blocks (Tables 9-3, 9-4, 9-9; R276) -/

/-- What the six operations of Table 9-3 differ in. -/
inductive CodeKind where
  | ldpcDec | ldpcEnc | nrComb | turboDec | turboEnc | lteComb
  deriving DecidableEq, Repr

def CodeKind.nr : CodeKind → Bool
  | .ldpcDec | .ldpcEnc | .nrComb => true
  | _ => false
def CodeKind.decodes (k : CodeKind) : Bool := k == .ldpcDec || k == .turboDec
def CodeKind.combines (k : CodeKind) : Bool := k == .nrComb || k == .lteComb
/-- The operation uses HARQ storage when its task carries FLAGS.HARQ. -/
def CodeKind.stores (k : CodeKind) : Bool := k == .ldpcDec || k.combines

def hdrNum (p : List Byte) : Nat := fld p 0 2
def hdrRunAhead (p : List Byte) : Bool := bit (fld p 3 1) 1
def hdrArea (p : List Byte) : Nat := fld p 8 8
def hdrReady (p : List Byte) : Nat := fld p 16 8
def hdrResult (p : List Byte) : Nat := fld p 24 8
def hdrReport (p : List Byte) : Nat := fld p 32 8
/-- Descriptor `i`. -/
def hdrTb (p : List Byte) (i : Nat) : List Byte := (p.drop (64 + 48 * i)).take 48
/-- Size of a parameter block, from its first bytes. -/
def hdrSize (p : List Byte) : Nat := 64 + 48 * min 64 (hdrNum p)

/-- The code blocks of descriptor `i`. -/
def hdrBlocks (k : CodeKind) (p : List Byte) (i : Nat) : Derived :=
  if k.nr then (nrTb (hdrTb p i)).derive else (lteTb (hdrTb p i)).derive
/-- ENTRY of descriptor `i`: at the same place in both tables. -/
def hdrEntry (p : List Byte) (i : Nat) : Nat := fld (hdrTb p i) 16 2

/-- The task-wide checks under BAD_PARAM. -/
def hdrOk (k : CodeKind) (j : Job) (p : List Byte) : Bool :=
  let iter := fld p 2 1
  let flags := fld p 3 1
  let tbs := List.range (hdrNum p)
  let es := tbs.map (hdrEntry p)
  1 ≤ hdrNum p && hdrNum p ≤ 64 && allZero ((p.drop 4).take 4) && allZero ((p.drop 40).take 24) && j.task.arg == 0
    && (match k with
        | .ldpcDec => 1 ≤ iter && iter ≤ 25 && flags < 4
        | .ldpcEnc => iter == 0 && flags == 0
        | .nrComb => iter == 0 && flags < 4
        | .turboDec => 1 ≤ iter && iter ≤ 8 && flags < 2
        | _ => iter == 0 && flags < 2)
    && (hdrArea p != 0) == j.task.harq && (k.stores || hdrArea p == 0) && (!k.combines || j.task.harq)
    && (if hdrRunAhead p then hdrReady p % 4 == 0 else hdrReady p == 0)
    && (if k.decodes then hdrResult p % 16 == 0 else hdrResult p == 0) && hdrReport p % 16 == 0
    && ((tbs.map fun i => ((hdrBlocks k p i).map List.length).getD 0).sum ≤ 1024)
    && (if j.task.harq then es.dedup.length == es.length else es.all (· == 0))

/-- The task-wide checks in the order of R214 and R276. -/
def hdrCheck (k : CodeKind) (j : Job) (s : State) (p : List Byte) : Option Status :=
  if hdrArea p % 64 != 0 then some .busError
  else if !hdrOk k j p then some .badParam
  else if hdrArea p != 0 && j.harqAbsent s then some .busError
  else if !(j.task.param.covers j.task.param.addr (hdrSize p)) || (hdrRunAhead p && !(j.task.inBuf.covers (hdrReady p) 4))
      || (k.decodes && !(j.mayWrite (hdrResult p) (16 * hdrNum p))) || !(hdrReport p == 0 || j.mayWrite (hdrReport p) 16)
      || (hdrArea p != 0 && !(j.keeps s (hdrArea p) 1048576)) then some .notPermitted
  else none

/-! ## Work in progress -/

def CodeRep.bytes (r : CodeRep) : List Byte :=
  leBytes 4 (sat32 r.failed) ++ leBytes 4 (sat32 r.iters) ++ leBytes 4 (sat32 r.lost) ++ leBytes 4 (sat32 r.done)

structure CodeWork where
  w : Work
  rep : CodeRep

/-- Write to a HARQ slot: in every epoch straight to memory (R129, R266). -/
def Job.slotWrite (j : Job) (a : Nat) (bs : List Byte) (x : Work) : Work :=
  if x.stop.isSome then x
  else match x.s.access j.who a bs.length true with
  | .success => { x with s := (x.s.clockFor a).write j.who a bs false }
  | st => x.fail st

/-- Write bits, and mark as poison the bytes of the runs of bits that are. -/
def Job.writeBits (j : Job) (a : Nat) (bits : List Bool) (poison : List (Nat × Nat)) (fails : Bool) (x : Work) : Work :=
  let x := j.write a (packBits bits) false x
  poison.foldl (fun x r =>
    let lo := r.1 / 8
    let hi := (min (r.1 + r.2) bits.length + 7) / 8
    if hi ≤ lo then x
    else
      let y := j.write (a + lo) ((packBits bits).drop lo |>.take (hi - lo)) true x
      { y with pois := x.pois || fails }) x

/-- The start of a transport block (R263, R266, R276): the checks that concern it, given those of its own fields (alignment,
values, accesses), and its HARQ entry, or a failure. -/
def Job.openEntry (j : Job) (area entry need : Nat) (aligned ok may : Bool) (x : Work) : Work × Option HarqEntry :=
  if !j.task.harq then (((x.need aligned .busError).need ok .badParam).need may .notPermitted, none)
  else
    let a := area + 32 * (1024 * j.task.harqPid + entry)
    let x := j.read a 32 x
    if x.stop.isSome then (x, none)
    else if j.bad x.s a 32 then (x.fail .poisoned, none)
    else
      let h := harqEntry a (j.bytes x.s a 32)
      if !aligned || h.act % 64 != 0 || h.shadow % 64 != 0 then (x.fail .busError, none)
      else if !ok || !(harqOk (j.bytes x.s a 32)) then (x.fail .badParam, none)
      else if !may || !(j.keeps x.s h.act h.bytes) || !(j.keeps x.s h.shadow h.bytes) then (x.fail .notPermitted, none)
      else if h.bytes < need then (x.fail .noResource, none)
      else (x, some h)

/-- The soft side of one code block (R258, R266): the stored values, the combined buffer, and its shadow record. -/
def Job.softBlock (j : Job) (h : Option HarqEntry) (bs : List CodeBlock) (r off : Nat) (b : CodeBlock) (newData bad : Bool) (val : Nat → Int)
    (x : Work) : Work × List Int × List Int × Bool :=
  let zero := List.replicate b.ncb (0 : Int)
  match h with
  | none => (x, zero, combine b zero val, false)
  | some h =>
    let rec_ := j.stored x.s h bs r b
    let o := j.recAt x.s h bs r
    let x := if h.valid && o + recBytes b.ncb ≤ h.bytes then j.read (h.act + o) (recBytes b.ncb) x else x
    let st := if newData then zero else (rec_.map fun bs => recValues bs b.ncb).getD zero
    let buf := combine b st val
    let keep := rec_.getD (recZero b)
    let new := if !b.sent then keep else if bad then (if newData then recZero b else keep) else recOf b buf
    (j.slotWrite (h.shadow + off) new x, st, buf, !newData && h.valid && rec_.isNone)

/-- A task's shadow writes for an entry are to be committed at release (R267). -/
def Job.noteEntry (j : Job) (h : Option HarqEntry) (c : Nat) (x : Work) : Work :=
  match h with
  | none => x
  | some h => if x.stop.isSome then x else
    { x with s := x.s.modTask j.id fun t => { t with harqEntries := t.harqEntries ++ [(h.addr, c)] } }

/-- Offset of each code block's record, and the bytes of all. -/
def recOffset (bs : List CodeBlock) (r : Nat) : Nat := ((bs.take r).map fun b => recBytes b.ncb).sum
/-- Offset of each code block's received values. -/
def llrOffset (bs : List CodeBlock) (r : Nat) : Nat := ((bs.take r).map CodeBlock.e).sum

/-- Run `f` over the code blocks that are ready, one unit of work each, until something stops the task: what became of them, and whether
one is still waited for. -/
def eachBlock (ready : Nat → Bool) (f : Nat → CodeBlock → Work → Work × BlockOut) : Nat → List CodeBlock → Work → List BlockOut →
    Work × List BlockOut × Bool
  | _, [], x, os => (x, os, false)
  | r, b :: bs, x, os =>
    if x.stop.isSome then (x, os, false)
    else if !ready r then (x, os, true)
    else
      let x := x.unit
      if x.stop.isSome then (x, os, false)
      else
        let y := f r b x
        eachBlock ready f (r + 1) bs y.1 (os ++ [y.2])

/-- Add a transport block's code blocks to the report. -/
def CodeRep.add (r : CodeRep) (os : List BlockOut) : CodeRep :=
  ⟨r.failed + (os.filter fun o => !o.good || o.bad).length, r.iters + (os.map BlockOut.iters).sum,
    r.lost + (os.filter BlockOut.lost).length, r.done + os.length⟩

/-- The result of a transport block (Table 9-5). -/
def tbResult (status : Nat) (os : List BlockOut) (lost : Bool) : List Byte :=
  leBytes 1 status ++ leBytes 1 ((os.map BlockOut.iters).foldl max 0) ++ leBytes 2 os.length
    ++ leBytes 2 (os.filter fun o => !o.good || o.bad).length
    ++ leBytes 2 (if lost then (os.filter BlockOut.lost).length else 0) ++ leBytes 4 (os.map BlockOut.iters).sum ++ zeros 4

/-- The runs of payload bits of code blocks that consumed poison. -/
def badRuns : (start : Nat) → List (Bool × Nat) → List (Nat × Nat)
  | _, [] => []
  | a, (b, n) :: rest => (if b then [(a, n)] else []) ++ badRuns (a + n) rest

/-! ## LDPC (R256 to R260, R269, R275) -/

/-- The start of a transport block of DECODE or COMBINE_NR: its checks and its HARQ entry. -/
def nrOpen (k : CodeKind) (j : Job) (p : List Byte) (i : Nat) (w : Work) : Work × Option HarqEntry :=
  let t := nrTb (hdrTb p i)
  let need := (t.derive.map fun bs => recOffset bs bs.length).getD 0
  j.openEntry (hdrArea p) t.entry need true (t.derive.isSome && (k == .ldpcDec || t.out == 0))
    (j.task.inBuf.covers t.llr t.g && (k != .ldpcDec || j.mayWrite t.out (t.tbs / 8))) w

/-- One code block of DECODE or COMBINE_NR. -/
def nrBlock (k : CodeKind) (j : Job) (p : List Byte) (t : NrTb) (bs : List CodeBlock) (h : Option HarqEntry) (r : Nat) (b : CodeBlock)
    (w : Work) : Work × BlockOut :=
  let a := t.llr + llrOffset bs r
  let w := if b.sent then j.read a b.e w else w
  let bad := b.sent && b.e != 0 && j.bad w.s a b.e
  let llrs := j.bytes w.s a b.e
  let val (n : Nat) : Int := llrOf (llrs.getD (deinterleave b.e t.qm n) 0)
  let (w, st, buf, lost) := j.softBlock h bs r (recOffset bs r) b t.newData bad val w
  if bad then (w, ⟨[], 0, false, true, lost⟩)
  else if k == .ldpcDec then
    let (hard, n, good) := ldpcDecode t b st buf (bit (fld p 3 1) 0) (fld p 2 1)
    (w, ⟨hard.take t.kPrime, n, good, false, lost⟩)
  else (w, ⟨[], 0, true, false, lost⟩)

/-- The end of a transport block: its shadow writes are noted for the commit, and a decoder checks the transport block's CRC and writes the
payload and the result (R260, R267). -/
def nrClose (k : CodeKind) (j : Job) (p : List Byte) (i : Nat) (bs : List CodeBlock) (h : Option HarqEntry) (os : List BlockOut)
    (x : CodeWork) : CodeWork :=
  let t := nrTb (hdrTb p i)
  let w := j.noteEntry h bs.length x.w
  let x : CodeWork := ⟨w, x.rep.add os⟩
  if k != .ldpcDec || w.stop.isSome then x
  else
    let len := t.kPrime - (if t.c = 1 then 0 else 24)
    let all := os.flatMap fun o => if o.bad then List.replicate len false else o.bits.take len
    let bad := os.any BlockOut.bad
    let w := j.writeBits t.out (all.take t.tbs) (badRuns 0 (os.map fun o => (o.bad, len))) false w
    let st := if bad then 2 else if crcOk t.crc all then 0 else 1
    { x with w := j.write (hdrResult p + 16 * i) (tbResult st os true) false w }

/-- DECODE or COMBINE_NR under way: the work, the transport block it is at with its entry once begun and the code blocks done, and whether a
code block is waited for. -/
structure RxRun where
  x : CodeWork
  tb : Nat
  entry : Option (Option HarqEntry)
  outs : List BlockOut
  wait : Bool

/-- Transport block `i`, as far as `avail` bytes of soft values reach: a code block starts only when its own are there (R261). -/
def nrStep (k : CodeKind) (j : Job) (p : List Byte) (avail : Option Nat) (y : RxRun) (i : Nat) : RxRun :=
  if y.x.w.stop.isSome || y.wait || i < y.tb then y
  else
    let t := nrTb (hdrTb p i)
    let bs := t.derive.getD []
    let base := ((List.range i).map fun i => (nrTb (hdrTb p i)).g).sum
    let ready (r : Nat) : Bool := avail.all fun n => base + llrOffset bs (r + 1) ≤ n
    if y.entry.isNone && !ready 0 then { y with wait := true }
    else
      let o : Work × Option HarqEntry := match y.entry with
        | some h => (y.x.w, h)
        | none => nrOpen k j p i y.x.w
      let r := eachBlock ready (nrBlock k j p t bs o.2) y.outs.length (bs.drop y.outs.length) o.1 y.outs
      if r.2.2 then { y with x := { y.x with w := r.1 }, entry := some o.2, outs := r.2.1, wait := true }
      else if r.1.stop.isSome then { y with x := ⟨r.1, y.x.rep.add r.2.1⟩ }
      else ⟨nrClose k j p i bs o.2 r.2.1 { y.x with w := r.1 }, i + 1, none, [], false⟩

/-- Write the coded bits of `n` code blocks, one unit of work each, and mark those of poisoned payload as poison; when the task leaves
among them, the bytes that the finished ones fill. -/
def Job.writeCoded (j : Job) (a n : Nat) (enc : Nat → List Bool × Bool) (x : CodeWork) : CodeWork :=
  let m := min n (x.w.quota.getD n)
  let out := (List.range m).map enc
  let bits := out.flatMap Prod.fst
  let bits := if m = n then bits else bits.take (bits.length / 8 * 8)
  let w := j.writeBits a bits (badRuns 0 (out.map fun o => (o.2 && o.1.length != 0, o.1.length))) true x.w
  let rep := if w.stop.isSome then x.rep else { x.rep with done := x.rep.done + m }
  ⟨(List.range n).foldl (fun w _ => w.unit) w, rep⟩

/-- A transport block of ENCODE (R269). -/
def nrEncode (j : Job) (p : List Byte) (x : CodeWork) (i : Nat) : CodeWork :=
  if x.w.stop.isSome then x
  else
    let t := nrTb (hdrTb p i)
    let w := x.w.need (t.derive.isSome && !t.newData) .badParam
    let w := w.need (j.task.inBuf.covers t.llr (t.tbs / 8) && j.mayWrite t.out ((t.g + 7) / 8)) .notPermitted
    let w := j.read t.llr (t.tbs / 8) w
    match t.derive, t.lift with
    | some bs, some (z, set) =>
      if w.stop.isSome then { x with w := w }
      else
        let payload := (msbBits (j.bytes w.s t.llr (t.tbs / 8))).take t.tbs
        let all := payload ++ crcBits t.crc payload
        let len := t.kPrime - (if t.c = 1 then 0 else 24)
        let enc (r : Nat) (b : CodeBlock) : List Bool :=
          let info := (all.drop (r * len)).take len
          let info := if t.c = 1 then info else info ++ crcBits crc24B info
          let coded := ldpcEncode t.bg z set (info ++ List.replicate (b.k - t.kPrime) false)
          let cyc := b.cycle
          let sel := (List.range b.e).map fun n => coded.getD (CodeBlock.pos cyc n + 2 * z) false
          (List.range b.e).map fun y => sel.getD (y % t.qm * (b.e / t.qm) + y / t.qm) false
        let pois (r : Nat) : Bool :=
          let lo := r * len / 8
          let hi := (min (r * len + len) t.tbs + 7) / 8
          lo < hi && j.bad w.s (t.llr + lo) (hi - lo)
        j.writeCoded t.out bs.length (fun r => (enc r (bs.getD r ⟨0, 0, [], 0, 0, false⟩), pois r)) { x with w := w }
    | _, _ => { x with w := w }

/-! ## LTE (R272, R273) -/

/-- Bytes of the triplet of a block of K bits. -/
def tripBytes (k : Nat) : Nat := (3 * (k + 4) + 63) / 64 * 64
def tripOffset (bs : List CodeBlock) (r : Nat) : Nat := ((bs.take r).map fun b => tripBytes b.k).sum

/-- A transport block of COMBINE_LTE. -/
def lteReceive (j : Job) (p : List Byte) (x : CodeWork) (i : Nat) : CodeWork :=
  if x.w.stop.isSome then x
  else
    let t := lteTb (hdrTb p i)
    let bs := t.derive.getD []
    let (w, h) := j.openEntry (hdrArea p) t.entry (recOffset bs bs.length) (t.out % 64 == 0) t.derive.isSome
      (j.task.inBuf.covers t.inp t.g && j.mayWrite t.out (tripOffset bs bs.length)) x.w
    let w := j.read t.inp t.g w
    let one (r : Nat) (b : CodeBlock) (w : Work) : Work × BlockOut :=
      let a := t.inp + llrOffset bs r
      let bad := b.e != 0 && j.bad w.s a b.e
      let llrs := j.bytes w.s a b.e
      let (w, _, buf, lost) := j.softBlock h bs r (recOffset bs r) b t.newData bad (fun n => llrOf (llrs.getD n 0)) w
      let d := b.k + 4
      let vals := (List.range b.ncb).foldl (fun (m : Tab Int) q => match lteSource b.k q with
        | some (st, n) => if b.filler.contains q then m else m.put 0 (st * d + n) (buf.getD q 0)
        | none => m) []
      let bytes := fit (tripBytes b.k) ((List.range (3 * d)).map fun n => BitVec.ofNat 8 (unsgn 8 (vals.get 0 n)))
      let y := j.write (t.out + tripOffset bs r) bytes bad w
      ({ y with pois := w.pois }, ⟨[], 0, true, bad, lost⟩)
    let (w, os, _) := eachBlock (fun _ => true) one 0 bs w []
    ⟨j.noteEntry h bs.length w, x.rep.add os⟩

/-- The iterations a turbo decoder runs: it stops early when the code block's CRC passes (R273). -/
def turboRun (k : Nat) (crc : Nat × Nat) (llrs : List Int) : (left done : Nat) → List Bool × Nat
  | 0, done => (Config.turboBits k done llrs, done)
  | left + 1, done =>
    let b := Config.turboBits k (done + 1) llrs
    if crcOk crc b then (b, done + 1) else if left = 0 then (b, done + 1) else turboRun k crc llrs left (done + 1)

/-- A transport block of turbo DECODE. -/
def lteDecode (j : Job) (p : List Byte) (x : CodeWork) (i : Nat) : CodeWork :=
  if x.w.stop.isSome then x
  else
    let t := lteTb (hdrTb p i)
    let bs := t.derive.getD []
    let f := t.sizes.2
    let w := x.w.need (t.inp % 64 == 0) .busError
    let w := w.need t.derive.isSome .badParam
    let w := w.need (j.task.inBuf.covers t.inp (tripOffset bs bs.length) && j.mayWrite t.out ((t.tbs + 7) / 8)) .notPermitted
    let w := j.read t.inp (tripOffset bs bs.length) w
    let crc := if bs.length = 1 then crc24A else crc24B
    let one (r : Nat) (b : CodeBlock) (w : Work) : Work × BlockOut :=
      let a := t.inp + tripOffset bs r
      let n := 3 * (b.k + 4)
      let llrs := (j.bytes w.s a n).map llrOf
      let (bits, it) := turboRun b.k crc llrs (fld p 2 1) 0
      let bad := j.bad w.s a n
      (w, ⟨(bits.take b.k).drop (if r = 0 then f else 0), if bad then 0 else it, !bad && crcOk crc (bits.take b.k), bad, false⟩)
    let (w, os, _) := eachBlock (fun _ => true) one 0 bs w []
    let x : CodeWork := ⟨w, x.rep.add os⟩
    if w.stop.isSome then x
    else
      let tail := if bs.length = 1 then 0 else 24
      let parts := os.map fun o => o.bits.take (o.bits.length - tail)
      let all := parts.flatten
      let runs := badRuns 0 ((os.zip parts).map fun o => (o.1.bad, o.2.length))
      let w := j.writeBits t.out (all.take t.tbs) runs true w
      let st := if os.any BlockOut.bad then 2 else if crcOk crc24A all then 0 else 1
      { x with w := j.write (hdrResult p + 16 * i) (tbResult st os false) false w }

/-- A transport block of turbo ENCODE. -/
def lteEncode (j : Job) (p : List Byte) (x : CodeWork) (i : Nat) : CodeWork :=
  if x.w.stop.isSome then x
  else
    let t := lteTb (hdrTb p i)
    let bs := t.derive.getD []
    let (ks, f) := t.sizes
    let w := x.w.need t.derive.isSome .badParam
    let w := w.need (j.task.inBuf.covers t.inp ((t.tbs + 7) / 8) && j.mayWrite t.out ((t.g + 7) / 8)) .notPermitted
    let w := j.read t.inp ((t.tbs + 7) / 8) w
    if w.stop.isSome then { x with w := w }
    else
      let payload := (msbBits (j.bytes w.s t.inp ((t.tbs + 7) / 8))).take t.tbs
      let all := List.replicate f false ++ payload ++ crcBits crc24A payload
      let tail := if bs.length = 1 then 0 else 24
      let start (r : Nat) : Nat := ((ks.take r).map fun k => k - tail).sum
      let enc (r : Nat) (b : CodeBlock) : List Bool :=
        let info := (all.drop (start r)).take (b.k - tail)
        let coded := turboCode (if tail = 0 then info else info ++ crcBits crc24B info)
        let cyc := b.cycle
        (List.range b.e).map fun n => match lteSource b.k (CodeBlock.pos cyc n) with
          | some (st, m) => coded.getD (st * (b.k + 4) + m) false
          | none => false
      let pois (r : Nat) (b : CodeBlock) : Bool :=
        let lo := (start r - f) / 8
        let hi := (min (start r + b.k - tail - f) t.tbs + 7) / 8
        lo < hi && j.bad w.s (t.inp + lo) (hi - lo)
      j.writeCoded t.out bs.length (fun r =>
        let b := bs.getD r ⟨0, 0, [], 0, 0, false⟩
        (enc r b, pois r b)) { x with w := w }

/-! ## Tasks of Table 9-3 -/

/-- One transport block of an operation that waits for nothing. -/
def codeTb (k : CodeKind) (j : Job) (p : List Byte) : CodeWork → Nat → CodeWork :=
  match k with
  | .ldpcEnc => nrEncode j p
  | .turboDec => lteDecode j p
  | .turboEnc => lteEncode j p
  | _ => lteReceive j p

def CodeRep.zero : CodeRep := ⟨0, 0, 0, 0⟩

/-- DECODE or COMBINE_NR from a point on: its status, or none while it waits for its counter, its progress kept. A task that leaves
while it waits finishes with its report. -/
def nrFrom (k : CodeKind) (j : Job) (g : CodeProg) (avail : Option Nat) (w : Work) : State × Option Status :=
  let y := (List.range (hdrNum g.block)).foldl (nrStep k j g.block avail) ⟨⟨{ w with pois := w.pois || g.pois }, g.rep⟩, g.tb, g.entry, g.outs, false⟩
  let fin (rep : CodeRep) (w : Work) : State × Option Status :=
    let r := j.finish (hdrReport g.block) rep.bytes w
    (r.1, some r.2)
  if !y.wait then fin y.x.rep y.x.w
  else if y.x.w.quota.isSome then fin (y.x.rep.add y.outs) (y.x.w.fail .revoked)
  else (y.x.w.s.modEng j.e fun r => { r with prog := some ⟨g.block, y.tb, y.entry, y.outs, y.x.rep, y.x.w.pois⟩ }, none)

/-- A read of the readiness counter, then what it allows (R261). -/
def nrPoll (k : CodeKind) (j : Job) (g : CodeProg) (w : Work) : State × Option Status :=
  let a := hdrReady g.block
  let x := j.read a 4 w
  let x := if x.stop.isNone && j.bad x.s a 4 then x.fail .poisoned else x
  if x.stop.isSome then let r := j.finish (hdrReport g.block) (g.rep.add g.outs).bytes x; (r.1, some r.2)
  else
    let seen := max (x.s.eng j.e).units (leNat (j.bytes x.s a 4))
    nrFrom k j g (some seen) { x with s := x.s.modEng j.e fun r => { r with units := seen } }

/-- The body of an operation of Table 9-3 on its parameter block. -/
def codeBody (k : CodeKind) (j : Job) (p : List Byte) (x : Work) : State × Option Status :=
  if k == .ldpcDec || k == .nrComb then
    let g : CodeProg := ⟨p, 0, none, [], .zero, false⟩
    if hdrRunAhead p then nrPoll k j g x else nrFrom k j g none x
  else
    let y := (List.range (hdrNum p)).foldl (codeTb k j p) ⟨x, .zero⟩
    let r := j.finish (hdrReport p) y.rep.bytes y.w
    (r.1, some r.2)

/-- A task of Table 9-3: its status, or none while a run-ahead task waits for its counter. One that waits goes on from its progress. -/
def codeOp (k : CodeKind) (j : Job) (s : State) : State × Option Status :=
  match (s.eng j.e).prog with
  | some g => nrPoll k j g (j.work s)
  | none =>
    let r := j.withBlock hdrSize (some (32, 16)) (hdrCheck k j) (fun p x =>
      let y := codeBody k j p x
      (y.1, y.2.getD .notReady)) s
    (r.1, if r.2 = .notReady then none else some r.2)

/-- Run a coding operation of a job as far as it goes. -/
def State.runCode (s : State) (j : Job) (k : CodeKind) : State :=
  let q := s.withQuota j
  match codeOp k q.1 q.2 with
  | (s, some st) => s.endRun j.e st
  | (s, none) => s

/-- Carry out a row of a coding engine. -/
def State.codeRow (s : State) (t e ty kernel : Nat) (k : CodeKind) : State :=
  let s := s.advance t
  match s.job e ty kernel with
  | none => s
  | some j => s.runCode j k

/-- LDPC_DECODE. -/
def execLdpcDecode (t e : Nat) (s : State) : Host.Outcome State Fault Refusal := .next (s.codeRow t e 3 1 .ldpcDec)
/-- LDPC_ENCODE. -/
def execLdpcEncode (t e : Nat) (s : State) : Host.Outcome State Fault Refusal := .next (s.codeRow t e 4 1 .ldpcEnc)
/-- TURBO_DECODE. -/
def execTurboDecode (t e : Nat) (s : State) : Host.Outcome State Fault Refusal := .next (s.codeRow t e 7 1 .turboDec)
/-- TURBO_ENCODE. -/
def execTurboEncode (t e : Nat) (s : State) : Host.Outcome State Fault Refusal := .next (s.codeRow t e 7 2 .turboEnc)
/-- COMBINE_NR. -/
def execCombineNr (t e : Nat) (s : State) : Host.Outcome State Fault Refusal := .next (s.codeRow t e 9 1 .nrComb)
/-- COMBINE_LTE. -/
def execCombineLte (t e : Nat) (s : State) : Host.Outcome State Fault Refusal := .next (s.codeRow t e 9 2 .lteComb)

/-- The run-ahead task on an engine that waits for its counter. -/
def State.waiting? (s : State) (e : Nat) : Option (Job × CodeKind) :=
  if (s.eng e).prog.isNone then none
  else match s.job e 3 1, s.job e 9 1 with
  | some j, _ => some (j, .ldpcDec)
  | none, some j => some (j, .nrComb)
  | none, none => none

/-- RUN_AHEAD_POLL: the read of the counter every 1 µs is a yield point (R261): a revoked or skipped task leaves there, another reads on. -/
def execRunAheadPoll (t e : Nat) (s : State) : Host.Outcome State Fault Refusal :=
  let s := s.advance t
  .next (match s.waiting? e with
    | none => s
    | some (j, k) => (if j.task.leave = .no then s.yieldAt e else s).runCode j k)

/-! ## Polar and tail-biting codes (R270, R271, R274) -/

/-- The three operations of Table 9-7. -/
inductive BlockKind where
  | polarDec | polarEnc | tbcc
  deriving DecidableEq, Repr

def bkNum (p : List Byte) : Nat := fld p 0 2
def bkResult (p : List Byte) : Nat := fld p 8 8
def bkReport (p : List Byte) : Nat := fld p 16 8
def bkSize (p : List Byte) : Nat := 64 + 32 * min 256 (bkNum p)
def bkDesc (p : List Byte) (i : Nat) : List Byte := (p.drop (64 + 32 * i)).take 32
/-- A, E, CRC, flags and MASK of a descriptor. -/
def bkPar (d : List Byte) : List Nat := [fld d 0 2, fld d 2 2, fld d 4 1, fld d 5 1, fld d 6 2]
/-- Bytes of IN and OUT. -/
def bkIn (k : BlockKind) (d : List Byte) : Nat := if k = .polarEnc then (fld d 0 2 + 7) / 8 else fld d 2 2
def bkOut (k : BlockKind) (d : List Byte) : Nat := ((if k = .polarEnc then fld d 2 2 else fld d 0 2) + 7) / 8

/-- A descriptor keeps Table 9-8. -/
def bkDescOk (k : BlockKind) (d : List Byte) : Bool :=
  let a := fld d 0 2
  let e := fld d 2 2
  allZero ((d.drop 8).take 8) && fld d 5 1 < 32 &&
  match crcCode (fld d 4 1) with
  | none => false
  | some c =>
    if k = .tbcc then 1 ≤ a && a ≤ 1024 && 3 * (a + c.1) ≤ e && e ≤ 16384 && fld d 5 1 == 0
    else 12 ≤ a && a ≤ 1013 && 18 ≤ e && e ≤ 16384 && Config.polarValid (bkPar d)

def bkCheck (k : BlockKind) (j : Job) (p : List Byte) : Option Status :=
  let ds := (List.range (bkNum p)).map (bkDesc p)
  if bkNum p < 1 || 256 < bkNum p || !(if k = .polarDec then [1, 2, 4, 8].contains (fld p 2 1) else fld p 2 1 == 0)
      || !(allZero ((p.drop 3).take 5)) || !(allZero ((p.drop 24).take 40)) || j.task.arg != 0
      || !(if k = .polarEnc then bkResult p == 0 else bkResult p % 8 == 0) || !(ds.all (bkDescOk k)) then some .badParam
  else if !(j.task.param.covers j.task.param.addr (bkSize p)) || !(bkReport p == 0 || j.mayWrite (bkReport p) 16)
      || (k != .polarEnc && !(j.mayWrite (bkResult p) (8 * bkNum p)))
      || !(ds.all fun d => j.task.inBuf.covers (fld d 16 8) (bkIn k d) && j.mayWrite (fld d 24 8) (bkOut k d)) then
    some .notPermitted
  else none

/-- The CRC of a block with MASK on its last 16 bits, over 24 ones and the payload under ONES (R255, Table 9-8). -/
def maskedCrc (d : List Byte) (payload : List Bool) : List Bool :=
  let c := (crcCode (fld d 4 1)).getD (0, 0)
  let data := if bit (fld d 5 1) 3 then List.replicate 24 true ++ payload else payload
  bitsOfNat c.1 (crcReg c data ^^^ (fld d 6 2 % 2 ^ c.1))

/-- Payload and CRC bits check, MASK and the prefix of ones taken into account (R255, R274). -/
def maskedOk (d : List Byte) (bits : List Bool) : Bool :=
  let a := fld d 0 2
  bits.drop a == maskedCrc d (bits.take a)

/-- The output of list decoding (R271): the most likely path whose CRC passes, else the most likely path; its bits, whether it passes, its
metric. -/
def polarDecode (d : List Byte) (list : Nat) (llrs : List Int) : List Bool × Bool × Nat :=
  let ps := Config.polarPaths (bkPar d) list llrs
  let best := (ps.find? fun p => maskedOk d p.1).getD (ps.headD ([], 0))
  (best.1, maskedOk d best.1, best.2)

/-- Tail-biting decoding (R274): rate dematching, the wrap-around search, MASK and CRC. -/
def tbccDecode (d : List Byte) (llrs : List Int) : List Bool × Bool × Nat :=
  let n := fld d 0 2 + ((crcCode (fld d 4 1)).getD (0, 0)).1
  let r := ccSearch (ccDematch n llrs)
  (r.1, maskedOk d r.1, Config.tbccMetric r.2)

/-- One block of a polar or TBCC task. -/
def bkBlock (k : BlockKind) (j : Job) (p : List Byte) (x : CodeWork) (i : Nat) : CodeWork :=
  let x := { x with w := x.w.unit }
  if x.w.stop.isSome then x
  else
    let d := bkDesc p i
    let a := fld d 16 8
    let n := bkIn k d
    let w := j.read a n x.w
    let bad := j.bad w.s a n
    let bs := j.bytes w.s a n
    if k = .polarEnc then
      let payload := (msbBits bs).take (fld d 0 2)
      let out := Config.polarCode (bkPar d) (payload ++ maskedCrc d payload)
      let bits := (List.range (fld d 2 2)).map fun q => out.getD q false
      let w := j.writeBits (fld d 24 8) bits (if bad then [(0, bits.length)] else []) true w
      ⟨w, { x.rep with done := x.rep.done + b2n w.stop.isNone }⟩
    else
      let llrs := bs.map llrOf
      let r := if k = .tbcc then tbccDecode d llrs else polarDecode d (fld p 2 1) llrs
      let bits := (List.range (fld d 0 2)).map fun q => r.1.getD q false
      let w := j.writeBits (fld d 24 8) bits (if bad then [(0, bits.length)] else []) false w
      let pass := if bad then 2 else b2n r.2.1
      let w := j.write (bkResult p + 8 * i) (leBytes 1 pass ++ zeros 1 ++ leBytes 2 (min 65535 r.2.2) ++ zeros 4) false w
      ⟨w, { x.rep with failed := x.rep.failed + b2n (pass != 1), done := x.rep.done + b2n w.stop.isNone }⟩

/-- A task of Table 9-7. -/
def bkOp (k : BlockKind) (j : Job) (s : State) : State × Status :=
  j.withBlock bkSize (some (16, 1)) (fun _ p => bkCheck k j p) (fun p x =>
    let y := (List.range (bkNum p)).foldl (bkBlock k j p) ⟨x, ⟨0, 0, 0, 0⟩⟩
    j.finish (bkReport p) y.rep.bytes y.w) s

/-- POLAR_DECODE. -/
def execPolarDecode (t e : Nat) (s : State) : Host.Outcome State Fault Refusal := .next (s.engRow t e 5 1 (bkOp .polarDec))
/-- POLAR_ENCODE. -/
def execPolarEncode (t e : Nat) (s : State) : Host.Outcome State Fault Refusal := .next (s.engRow t e 6 1 (bkOp .polarEnc))
/-- TBCC_DECODE. -/
def execTbccDecode (t e : Nat) (s : State) : Host.Outcome State Fault Refusal := .next (s.engRow t e 8 1 (bkOp .tbcc))

end Sys2Proof.Machine
end

