-- ==== Sys2Proof/Machine/Fixed.lean ====
section
/-! DEFINITION. Real functions to 2⁻¹⁰⁰, for gains in dB and phases in degrees (R543): exponential, logarithm, sine, cosine, arc
tangent. Numbers are integers in units of 2⁻¹⁰⁰. -/

namespace Sys2Proof.Machine

def fxOne : Int := 2 ^ 100
def fxPi : Int := 3982441812995697363688351113952
def fxLn2 : Int := 878668439483319573618263538048
def fxLn10 : Int := 2918873375210475425442079017696
def fxAtanHalf : Int := 587743169844255290010303082341

/-- Product. -/
def fxMul (a b : Int) : Int := a * b / fxOne

/-- Sum of a series whose next term is the last times x² / ((k+1)(k+2)), sign changing. -/
def fxTrig (x2 : Int) : (fuel k : Nat) → (term : Int) → Int
  | 0, _, _ => 0
  | fuel + 1, k, term => term + fxTrig x2 fuel (k + 2) (-(fxMul term x2) / (((k + 1) * (k + 2) : Nat) : Int))

def fxCos (x : Int) : Int := fxTrig (fxMul x x) 40 0 fxOne
def fxSin (x : Int) : Int := fxTrig (fxMul x x) 40 1 x

/-- The exponential series. -/
def fxExpSum (x : Int) : (fuel k : Nat) → (term : Int) → Int
  | 0, _, _ => 0
  | fuel + 1, k, term => term + fxExpSum x fuel (k + 1) (fxMul term x / ((k + 1 : Nat) : Int))

/-- Squared n times. -/
def fxSquares : (n : Nat) → Int → Int
  | 0, x => x
  | n + 1, x => fxSquares n (fxMul x x)

def fxExp (x : Int) : Int := fxSquares 8 (fxExpSum (x / 256) 30 0 fxOne)

/-- z + z³/3 + z⁵/5 + …, or with the sign changing. -/
def fxOdd (alt : Bool) (z2 : Int) : (fuel k : Nat) → (pow : Int) → Int
  | 0, _, _ => 0
  | fuel + 1, k, pow => pow / (k : Int) + fxOdd alt z2 fuel (k + 2) (if alt then -(fxMul pow z2) else fxMul pow z2)

/-- The natural logarithm of a / b, both positive. -/
def fxLn (a b : Nat) : Int :=
  let e : Int := (Nat.log2 a : Int) - Nat.log2 b
  let m : Int := if 0 ≤ e then (a : Int) * fxOne / (b * 2 ^ e.toNat : Nat) else (a * 2 ^ (-e).toNat : Nat) * fxOne / (b : Int)
  let z := (m - fxOne) * fxOne / (m + fxOne)
  2 * fxOdd false (fxMul z z) 60 1 z + e * fxLn2

/-- The arc tangent of t in [0, 1]. -/
def fxAtan (t : Int) : Int :=
  let u := (t - fxOne / 2) * fxOne / (fxOne + t / 2)
  fxAtanHalf + fxOdd true (fxMul u u) 60 1 u

/-- The angle of (x, y), not both zero. -/
def fxAngle (x y : Int) : Int :=
  let ax : Int := x.natAbs
  let ay : Int := y.natAbs
  let a := if ay ≤ ax then fxAtan (ay * fxOne / ax) else fxPi / 2 - fxAtan (ax * fxOne / ay)
  let a := if x < 0 then fxPi - a else a
  if y < 0 then -a else a

/-- The factor of a gain in 10⁻⁹ dB and a phase in 10⁻⁹ degrees, quantised (R543). -/
def factorOf (g ph : Int) : Int × Int :=
  let gain := fxExp (g * fxLn10 / 20000000000)
  let x := ph * fxPi / 180000000000
  let q (v : Int) : Int := sat16 ((32768 * gain * v + fxOne * fxOne) / (2 * fxOne * fxOne))
  (q (fxCos x), q (fxSin x))

/-- Gain and phase of a factor; those of a zero factor are open. -/
def polarOf (f : Int × Int) : Int × Int :=
  let n := f.1.natAbs ^ 2 + f.2.natAbs ^ 2
  if n = 0 then Config.zeroFactor
  else
    (fxLn n (2 ^ 28) * 10000000000 / fxLn10, (fxAngle f.1 f.2 * 360000000000 + fxPi) / (2 * fxPi))

end Sys2Proof.Machine
end

