-- ==== Sys2Proof/Machine/LineCmds.lean ====
section
/-! DEFINITION. TLF commands (chapter 11): TRAIL_CONFIG, TSI_PAGE_WRITE, TSI_PAGE_SEAL, TSI_PAGE_SWITCH, APS_CONFIG, PM_READ. -/

namespace Sys2Proof.Machine

/-- A byte range lies in L0 region memory. -/
def inL0 (a n : Nat) : Bool := (spanAt a).place == .regMem 13 && a + n ≤ (spanAt a).hi

/-! ## TRAIL_CONFIG (R339, R340) -/

/-- A label that TRAIL_CONFIG takes (Table 11-3). -/
def labelOk (l : Nat) : Bool := l ≤ 8 || (0x80 ≤ l && l ≤ 0xFF)

/-- The trail that a layout describes. -/
def trailOf (p : List Byte) : Trail :=
  { tx := fld p 6 1 == 1, lane := fld p 4 2, label := fld p 7 1, first := fld p 8 2, count := fld p 10 2, cell := fld p 12 2
    acs := fld p 14 1, ring := fld p 15 1, prbFirst := fld p 16 2, prbCount := fld p 18 2, prbStride := fld p 20 2
    fsMult := fld p 22 1, area := fld p 24 8, status := fld p 32 8, advance := fld p 40 4
    defects := [Defect.none_, Defect.none_], xor := none, part := [], lastTp := 0, queue := [], left := [], passed := [], pm := Pm.reset }

/-- What a trail's label asks of its fields. -/
def Trail.fieldsOk (t : Trail) : Bool :=
  if isIq t.label then
    t.cell != 0 && 1 ≤ t.ring && t.ring ≤ 4 && t.prbFirst ≤ 274 && 1 ≤ t.prbCount && t.prbCount ≤ 275
      && t.prbFirst + t.prbCount ≤ t.prbStride && t.fsMult == 0 && inL0 t.area t.areaLen
  else if t.label = 5 then
    t.cell != 0 && 1 ≤ t.ring && t.ring ≤ 8 && 1 ≤ t.fsMult && t.fsMult ≤ 128 && 8 + 4 * t.spf ≤ 512 * t.count
      && inL0 t.area t.areaLen
  else if t.label = 6 then t.count == 2 && !t.tx && t.area == 0 && t.fsMult == 0
  else if t.label = 7 || t.label = 8 then t.fsMult == 0 && inL0 t.area t.areaLen
  else t.fsMult == 0

def trailChecks (p : List Byte) : List Chk :=
  let t := trailOf p
  if fld p 1 1 = 0 then [.rng 2 2 0 4095, .rng 12 2 0 383, .rsv 23 1, .rsv 44 4]
  else [.rng 2 2 0 4095, .rng 6 1 0 1, .cond (labelOk t.label), .rng 10 2 1 1438, .rng 12 2 0 383, .rsv 23 1, .rng 40 4 0 2000000,
    .rsv 44 4, .cond (t.area % 64 == 0), .cond (!t.tx || (t.lane == 0 && t.first == 0)), .cond t.fieldsOk,
    .cond (t.status == 0 || inL0 t.status 8)]

def laneObjChecks (p : List Byte) : List Chk :=
  if fld p 1 1 = 0 then [.rng 2 2 0 127, .bits 28 1 0xFE, .rsv 29 3]
  else [.rng 2 2 0 127, .srng 4 4 (-62500) 62499, .bits 28 1 0xFE, .rsv 29 3,
    .cond ((List.range 10).all fun i => 1 ≤ fld p (8 + 2 * i) 2 && fld p (8 + 2 * i) 2 ≤ 64000),
    .cond (!bit (fld p 28 1) 0 || (inL0 (fld p 32 8) 65600 && inL0 (fld p 40 8) 65600))]

def thresholdChecks (p : List Byte) : List Chk :=
  [.rng 4 1 0 1, .rng 2 2 0 (if fld p 4 1 = 0 then 4095 else 127), .rsv 5 1, .rng 6 2 0 900, .rng 8 2 0 900, .rng 10 2 0 900, .rsv 12 36]

def layTrailConfig : Layout := ⟨0x0403, 48, false, fun p =>
  [.rng 0 1 0 2, .rng 1 1 0 1] ++ (match fld p 0 1 with
    | 0 => trailChecks p
    | 1 => laneObjChecks p
    | _ => thresholdChecks p), fun _ => []⟩

/-- Active TSI entries name a trail, or a live cell uses it. -/
def State.trailInUse (s : State) (id : Nat) (t : Trail) : Bool :=
  (s.line.tlf.some? fun _ x => x.active.some? fun _ e => entSrc e == 3 && entIx e == id)
    || (1 ≤ t.label && t.label ≤ 5 && s.cellLive t.cell)

/-- OBJECT 0. -/
def State.trailSet (s : State) (fn : Nat) (p : List Byte) : Ans :=
  let id := fld p 2 2
  let t := trailOf p
  let old := s.line.trails.find? id
  let busy := old.any fun o => s.trailInUse id o
  if fld p 1 1 = 0 then
    if !s.ownsTrail fn id || busy then refuse s .notPermitted
    else ok (s.modLine fun l => { l with trails := l.trails.del id }) []
  else
    let rx := !t.tx
    let lap := rx && s.line.trails.some? fun i o => i != id && !o.tx && o.lane == t.lane && overlaps t.first t.count o.first o.count
    let moved := old.any fun o => o.tx != t.tx || o.lane != t.lane || o.first != t.first || o.count != t.count
    if rx && (127 < t.lane || !s.isTlf t.lane || s.slotsOf t.lane < t.first + t.count || lap) then refuse s .badParam
    else if !s.ownsTrail fn id || (rx && !s.ownsLane fn t.lane) || (1 ≤ t.label && t.label ≤ 5 && !s.ownsCell fn t.cell)
        || (rx && s.isProt t.lane) || (busy && moved) then refuse s .notPermitted
    else
      let t := match old with
        | some o => if moved || o.label != t.label then { t with pm := o.pm } else { t with
            defects := o.defects, xor := o.xor, part := o.part, lastTp := o.lastTp, queue := o.queue, left := o.left, passed := o.passed, pm := o.pm }
        | none => { t with pm := Pm.reset.startAt (s.secAt s.time.frc) }
      ok (s.modLine fun l => { l with trails := l.trails.set id t }) []

/-- OBJECT 1. -/
def State.tlfSet (s : State) (fn : Nat) (p : List Byte) : Ans :=
  let n := fld p 2 2
  let d := TlfLane.reset
  if !s.isTlf n then refuse s .badParam
  else if !s.ownsLane fn n || s.isProt n then refuse s .notPermitted
  else if fld p 1 1 = 0 then
    ok (s.modTlf n fun x => { x with txOffset := d.txOffset, times := d.times, mc := false, mcRx := 0, mcTx := 0 }) []
  else ok (s.modTlf n fun x => { x with
    txOffset := sfld p 4 4, times := (List.range 10).map fun i => fld p (8 + 2 * i) 2, mc := bit (fld p 28 1) 0
    mcRx := fld p 32 8, mcTx := fld p 40 8 }) []

/-- OBJECT 2. -/
def State.thresholdSet (s : State) (fn : Nat) (p : List Byte) : Ans :=
  let id := fld p 2 2
  let th := if fld p 1 1 = 0 then [0, 0, 0] else [fld p 6 2, fld p 8 2, fld p 10 2]
  if fld p 4 1 = 0 then
    if !s.line.trails.has id then refuse s .badParam
    else if !s.ownsTrail fn id then refuse s .notPermitted
    else ok (s.modTrail id fun t => { t with pm := { t.pm with th := th } }) []
  else if !s.ownsLane fn id || s.isProt id then refuse s .notPermitted
  else ok (s.modTlf id fun x => { x with pm := { x.pm with th := th } }) []

def bodyTrailConfig (i : CmdIn) (s : State) : Ans :=
  match fld i.p 0 1 with
  | 0 => s.trailSet i.fn i.p
  | 1 => s.tlfSet i.fn i.p
  | _ => s.thresholdSet i.fn i.p

/-- TRAIL_CONFIG. -/
def execTrailConfig (c : CmdRef) (s : State) : Host.Outcome State Fault Refusal := .next (runCmd layTrailConfig c bodyTrailConfig s)

/-! ## TSI_PAGE_WRITE (R333, R341) -/

/-- The entries of a page write. -/
def pageEntries (p : List Byte) : List Nat := (List.range (fld p 4 2)).map fun i => fld p (8 + 4 * i) 4

def layTsiPageWrite : Layout := ⟨0x0404, 12, true, fun p =>
  [.rng 0 2 0 127, .rng 4 2 1 1438, .rsv 6 2, .cond (8 + 4 * fld p 4 2 ≤ p.length),
    .cond ((pageEntries p).all fun e => e &&& 0x200FF000 == 0)], fun _ => []⟩

def bodyTsiPageWrite (i : CmdIn) (s : State) : Ans :=
  let n := fld i.p 0 2
  let f := fld i.p 2 2
  let es := pageEntries i.p
  let x := s.tlf n
  if !s.isTlf n || s.slotsOf n < f + es.length then refuse s .badParam
  else if !s.ownsLane i.fn n then refuse s .notPermitted
  else if x.sealed || x.pend.isSome || x.copying.isSome then refuse s .pageSealed
  else
    let put (m : Tab Nat) : Tab Nat := (List.range es.length).foldl (fun m k => m.put 0 (f + k) (es.getD k 0)) m
    ok (s.modTlf n fun x => { x with standby := put x.standby }) []

/-- TSI_PAGE_WRITE. -/
def execTsiPageWrite (c : CmdRef) (s : State) : Host.Outcome State Fault Refusal := .next (runCmd layTsiPageWrite c bodyTsiPageWrite s)

/-! ## TSI_PAGE_SEAL (R334) -/

/-- The lanes of a mask of 16 bytes at offset 8. -/
def maskLanes (p : List Byte) : List Nat := maskBits (fld p 8 16) 128

/-- An entry may not be sealed: BAD_PARAM, or NOT_PERMITTED for a lane in TEST (R301, R334). -/
def State.entryBad (s : State) (fn : Nat) (mask : List Nat) (n e : Nat) : Option Status :=
  let test (m : Nat) : Bool := (s.lane m).stage == 14
  match entSrc e with
  | 2 =>
    let m := entLane e
    if !s.isTlf m || s.slotsOf m ≤ entIx e || s.isProt m || !s.ownsLane fn m then some .badParam
    else if test m || test n then some .notPermitted else none
  | 3 =>
    let id := entIx e
    let page (m : Nat) (x : TlfLane) : Tab Nat := if mask.contains m then x.standby else x.active
    let names (p : Tab Nat) : Nat := p.count fun _ v => entSrc v == 3 && entIx v == id
    match s.line.trails.find? id with
    | none => some .badParam
    | some t =>
      if !t.tx || names (s.tlf n).standby != t.count || (s.line.tlf.some? fun m x => m != n && names (page m x) != 0) then some .badParam
      else if test n && 1 ≤ t.label && t.label ≤ 5 then some .notPermitted else none
  | _ => none

/-- The first failing lane and slot of a seal. -/
def State.sealFail (s : State) (fn : Nat) (mask : List Nat) : Option (Nat × Nat × Status) :=
  mask.findSome? fun n => (s.tlf n).standby.findSome? fun e => (s.entryBad fn mask n e.2).map fun st => (n, e.1, st)

def layTsiPageSeal : Layout := ⟨0x0405, 24, false, fun _ => [.rng 0 1 0 1, .rsv 1 7], fun _ => []⟩

def bodyTsiPageSeal (i : CmdIn) (s : State) : Ans :=
  let mask := maskLanes i.p
  let res (l sl : Nat) : List Byte := leBytes 2 l ++ leBytes 2 sl
  if !(mask.all fun n => s.ownsLane i.fn n && s.isTlf n) then refuse s .notPermitted
  else if fld i.p 0 1 = 0 then
    if mask.any fun n => (s.tlf n).pend.isSome then refuse s .noResource
    else if mask.any fun n => (s.tlf n).copying.isSome then refuse s .pageSealed
    else ok (mask.foldl (fun s n => s.modTlf n fun x => { x with sealed := false }) s) (res 0xFFFF 0)
  else if mask.any fun n => (s.tlf n).sealed || (s.tlf n).pend.isSome || (s.tlf n).copying.isSome then refuse s .pageSealed
  else match s.sealFail i.fn mask with
  | some (n, sl, st) => (s, .done ⟨st, res n sl, none⟩)
  | none => ok (mask.foldl (fun s n => s.modTlf n fun x => { x with sealed := true }) s) (res 0xFFFF 0)

/-- TSI_PAGE_SEAL. -/
def execTsiPageSeal (c : CmdRef) (s : State) : Host.Outcome State Fault Refusal := .next (runCmd layTsiPageSeal c bodyTsiPageSeal s)

/-! ## TSI_PAGE_SWITCH (R335) -/

def layTsiPageSwitch : Layout := ⟨0x0406, 24, false, fun p =>
  [.rng 0 1 0 1, .rsv 1 1, .rng 2 2 0 1023, .rsv 4 4, .cond (fld p 8 16 != 0)], fun _ => []⟩

def bodyTsiPageSwitch (i : CmdIn) (s : State) : Ans :=
  let mask := maskLanes i.p
  if !(mask.all fun n => s.ownsLane i.fn n && s.isTlf n) then refuse s .notPermitted
  else if fld i.p 0 1 = 1 then
    if mask.any fun n => !(s.tlf n).sealed || (s.tlf n).copying.isSome then refuse s .pageNotSealed
    else if mask.any fun n => (s.tlf n).pend.isSome then refuse s .noResource
    else
      let mfn := fld i.p 2 2
      let k := sfnFrom (s.thetaNow + 2000000 * nsUnit) mfn
      let low := mask.headD 0
      let frc := s.frcOfTheta (fawNominal (s.tlf low).txOffset k 0)
      let s := mask.foldl (fun s n => s.modTlf n fun x => { x with pend := some ⟨k, mfn, i.id⟩ }) s
      (s, .later (.tsiSwitch (maskOf mask) (zeros 8 ++ leBytes 8 frc)))
  else
    if mask.any fun n => (s.tlf n).pend.isNone then refuse s .notPermitted
    else if mask.any fun n => (s.tlf n).pend.any fun p => s.clu.migs.some? fun _ m => m.lanes.testBit n && m.cmd == p.cmd then
      refuse s .notPermitted
    else if mask.any fun n => (s.tlf n).pend.any fun p => fawNominal (s.tlf n).txOffset p.k 0 < s.thetaNow + 1000000 * nsUnit then
      refuse s .notPermitted
    else
      let cmds := (mask.filterMap fun n => (s.tlf n).pend.map TsiPend.cmd).dedup
      let s := mask.foldl (fun s n => s.modTlf n fun x => { x with pend := none }) s
      ok (cmds.foldl (fun s c => s.settleSwitch c (some .revoked)) s) []

/-- TSI_PAGE_SWITCH. -/
def execTsiPageSwitch (c : CmdRef) (s : State) : Host.Outcome State Fault Refusal :=
  .next (runCmd layTsiPageSwitch c bodyTsiPageSwitch s)

/-! ## APS_CONFIG (R343) -/

def layApsConfig : Layout := ⟨0x0407, 16, false, fun p =>
  [.rng 0 1 0 63, .rng 1 1 0 2, .bits 6 1 0xFC, .rng 7 1 0 4, .rng 8 2 0 100, .rng 10 2 0 720, .rsv 12 4,
    .cond (fld p 1 1 != 1 || (fld p 2 2 < 128 && fld p 4 2 < 128))], fun _ => []⟩

/-- The result of APS_CONFIG. -/
def State.apsResult (s : State) (n : Nat) : List Byte :=
  match s.line.groups.find? n with
  | some g => leBytes 1 g.sel ++ leBytes 1 g.localReq ++ leBytes 1 (((s.farReq g).map Prod.fst).getD 0) ++ zeros 1 ++ leBytes 4 g.switches
  | none => []

/-- Issue a command to a group: refused below the local request in force (R327); clear only ends a command. -/
def ApsGroup.command (g : ApsGroup) (c : Nat) : Option ApsGroup :=
  if c != 0 && cmdCode c < g.localReq then none else some { g with cmd := c }

def bodyApsConfig (i : CmdIn) (s : State) : Ans :=
  let p := i.p
  let n := fld p 0 1
  let w := fld p 2 2
  let q := fld p 4 2
  let c := fld p 7 1
  let put (s : State) (g : ApsGroup) : State := (s.modLine fun l => { l with groups := l.groups.set n g }).apsUpdate n
  match fld p 1 1, s.line.groups.find? n with
  | 0, none => refuse s .badParam
  | 0, some g =>
    if !s.ownsLane i.fn g.work then refuse s .notPermitted
    else
      let res := s.apsResult n
      let s := if g.sel = 0 then s else s.dropParts g.work
      ok (s.modLine fun l => { l with groups := l.groups.del n }) res
  | 2, none => refuse s .badParam
  | 2, some g =>
    if !s.ownsLane i.fn g.work then refuse s .notPermitted
    else match g.command c with
      | none => refuse s .notPermitted
      | some g => let s := put s g; ok s (s.apsResult n)
  | _, old =>
    let other (m : Nat) : Bool := s.line.groups.some? fun k g => k != n && (g.work == m || g.prot == m)
    if w == q || !s.isTlf w || !s.isTlf q || (s.lane w).cfg.rate != (s.lane q).cfg.rate || !s.ownsLane i.fn w || !s.ownsLane i.fn q
        || (s.lane w).cfg.listen || (s.lane q).cfg.listen || other w || other q
        || (s.line.trails.some? fun _ t => !t.tx && t.lane == q) then refuse s .badParam
    else if old.any fun g => !s.ownsLane i.fn g.work then refuse s .notPermitted
    else
      let same := old.any fun g => g.work == w && g.prot == q
      let base : ApsGroup := match old with
        | some g => if same then g else ⟨w, q, false, false, 0, 300, 0, false, false, none, false, 0, none, none, false, 0⟩
        | none => ⟨w, q, false, false, 0, 300, 0, false, false, none, false, 0, none, none, false, 0⟩
      match base.command c with
      | none => refuse s .notPermitted
      | some g =>
        if (s.tlf w).pend.isSome || (s.tlf q).pend.isSome then refuse s .noResource
        else
          let f := fld p 6 1
          let s := put s { g with bidir := bit f 0, revertive := bit f 1, holdOff := fld p 8 2, wtrS := fld p 10 2 }
          ok s (s.apsResult n)

/-- APS_CONFIG. -/
def execApsConfig (c : CmdRef) (s : State) : Host.Outcome State Fault Refusal := .next (runCmd layApsConfig c bodyApsConfig s)

/-! ## PM_READ (R344) -/

def layPmRead : Layout := ⟨0x0408, 20, false, fun p =>
  [.rng 0 1 0 1, .rng 1 1 0 4, .rng 2 2 0 (if fld p 0 1 = 0 then 4095 else 127), .rsv 6 2,
    .cond (if fld p 1 1 = 2 then 1 ≤ fld p 4 2 && fld p 4 2 ≤ 96 else fld p 4 2 == 0), optBuf (fld p 8 8) (fld p 16 4) 64],
  fun p => if fld p 8 8 = 0 then [] else [(fld p 8 8, fld p 16 4)]⟩

/-- A bin of an object; the second in progress shows what has held in it so far. -/
def Pm.bin (p : Pm) (which index : Nat) : PmBin :=
  match which with
  | 0 =>
    let sv := p.severe || (0 < p.frames && 3 * p.frames ≤ 10 * p.cur.eframes)
    if p.unavail then { p.cur with uas := 1 } else { p.cur with es := b2n (p.bad || sv), ses := b2n sv }
  | 1 => p.quarter
  | 2 => p.past.getD (index - 1) PmBin.reset
  | 3 => p.day
  | _ => p.prevDay

/-- The 64-byte buffer (Table 11-14). -/
def PmBin.bytes (b : PmBin) (unavail : Bool) (rtd : Option Nat) (lane : Bool) : List Byte :=
  let r (o : Option Nat) : Nat := if lane then o.getD 0xFFFFFFFF else 0
  leBytes 4 b.es ++ leBytes 4 b.ses ++ leBytes 4 b.uas ++ leBytes 4 b.eframes ++ leBytes 1 (b2n b.suspect + 2 * b2n unavail) ++ zeros 7
    ++ leBytes 8 b.start ++ leBytes 4 b.events ++ leBytes 4 (if lane then 0 else b.sat) ++ leBytes 4 (r rtd)
    ++ leBytes 4 (r b.rtdMin) ++ leBytes 4 (r b.rtdMax) ++ leBytes 4 (if lane then b.slips else 0) ++ zeros 8

def bodyPmRead (i : CmdIn) (s : State) : Ans :=
  let p := i.p
  let id := fld p 2 2
  let give (pm : Pm) (rtd : Option Nat) (lane : Bool) : Ans :=
    let b := (pm.bin (fld p 1 1) (fld p 4 2)).bytes pm.unavail rtd lane
    if fld p 8 8 = 0 then ok s (b.take 16) else (s, .done (.okBuf (fld p 8 8) b))
  if fld p 0 1 = 0 then
    match s.line.trails.find? id with
    | none => if s.ownsTrail i.fn id then refuse s .badParam else refuse s .notPermitted
    | some t => if !s.ownsTrail i.fn id then refuse s .notPermitted else give t.pm none false
  else if !s.ownsLane i.fn id then refuse s .notPermitted
  else give (s.tlf id).pm (s.tlf id).rtd true

/-- PM_READ. -/
def execPmRead (c : CmdRef) (s : State) : Host.Outcome State Fault Refusal := .next (runCmd layPmRead c bodyPmRead s)

end Sys2Proof.Machine
end

