-- ==== Sys2Proof/Machine/Matrix.lean ====
section
/-! DEFINITION. Matrix engine rows (chapter 07): MATMUL, GRAM, SOLVE, WEIGHTS and BEAM.APPLY, with the checks of R214 and the
report of R215. -/

namespace Sys2Proof.Machine

/-! ## A task on a matrix engine (R213 to R215, R230) -/

/-- What an operation fixes: the size of its parameter block, the addresses that must be 64-byte aligned, whether a field
breaks its table, the ranges it reads and writes, and where REPORT stands. -/
structure MeLayout where
  size : Nat
  align : List Byte → List Nat
  ok : List Byte → Bool
  reads : List Byte → List (Nat × Nat)
  writes : List Byte → List (Nat × Nat)
  report : Nat

/-- The checks of R214 in their order. -/
def MeLayout.check (ly : MeLayout) (j : Job) (p : List Byte) : Option Status :=
  let rep := fld p ly.report 8
  if !((ly.align p).all fun a => a % 64 == 0) then some .busError
  else if !ly.ok p || j.task.arg != 0 || rep % 16 != 0 then some .badParam
  else if !(((j.task.param.addr, ly.size) :: ly.reads p).all fun r => j.mayRead r.1 r.2)
      || !(((if rep = 0 then [] else [(rep, 16)]) ++ ly.writes p).all fun r => j.mayWrite r.1 r.2) then some .notPermitted
  else none

/-- Run an operation: the parameter block is read and checked, the body works, the report is written last (R215). -/
def meOp (ly : MeLayout) (body : Job → List Byte → MeWork → MeWork) (j : Job) (s : State) : State × Status :=
  j.withBlock (fun _ => ly.size) (some (ly.report, 16)) (fun _ p => ly.check j p) (fun p x =>
    let y := body j p ⟨x, ⟨0, 0, 0, 0⟩⟩
    j.finish (fld p ly.report 8) y.rep.bytes y.w) s

/-! ## MATMUL (R216) -/

def matA (p : List Byte) : MatDesc := matDesc p 0
def matB (p : List Byte) : MatDesc := matDesc p 32
def matC (p : List Byte) : MatDesc := matDesc p 64

/-- Rows and columns of A′ or B′. -/
def effDims (d : MatDesc) (herm : Bool) : Nat × Nat := if herm then (d.cols, d.rows) else (d.rows, d.cols)

def layMatmul : MeLayout where
  size := 128
  align := fun p => [(matA p).mant, (matB p).mant, (matC p).mant]
  ok := fun p =>
    let a := effDims (matA p) (bit (fld p 96 1) 0)
    let b := effDims (matB p) (bit (fld p 96 1) 1)
    (matA p).ok 4096 4096 && (matB p).ok 4096 4096 && (matC p).ok 4096 4096 && a.2 == b.1 && (matC p).rows == a.1
      && (matC p).cols == b.2 && fld p 96 1 < 4 && allZero ((p.drop 97).take 7) && allZero ((p.drop 112).take 16)
  reads := fun p => (matA p).ranges ++ (matB p).ranges
  writes := fun p => (matC p).ranges
  report := 104

/-- Element (i, j) of A′ or B′. -/
def Job.effElt (j : Job) (s : State) (d : MatDesc) (herm : Bool) (r c : Nat) : Elt :=
  if herm then (j.elt s d c r).conj else j.elt s d r c

def runMatmul (j : Job) (p : List Byte) (x : MeWork) : MeWork :=
  let ha := bit (fld p 96 1) 0
  let hb := bit (fld p 96 1) 1
  let x := { x with w := j.readMat (matB p) (j.readMat (matA p) x.w) }
  let s := x.w.s
  j.writeMat (matC p) (fun r c => sumElts ((List.range (effDims (matA p) ha).2).map fun k =>
    (j.effElt s (matA p) ha r k).mul (j.effElt s (matB p) hb k c))) x

/-- MATMUL. -/
def execMatmul (t e : Nat) (s : State) : Host.Outcome State Fault Refusal := .next (s.engRow t e 2 1 (meOp layMatmul runMatmul))

/-! ## GRAM (R217) -/

def layGram : MeLayout where
  size := 128
  align := fun p => [(matA p).mant, (matB p).mant]
  ok := fun p => (matA p).ok 256 65536 && (matB p).ok 256 256 && (matB p).rows == (matA p).rows && (matB p).cols == (matA p).rows
    && allZero ((p.drop 72).take 56)
  reads := fun p => (matA p).ranges
  writes := fun p => (matB p).ranges
  report := 64

/-- One element of X Xᴴ: the sum for r ≤ c, its exact conjugate below. -/
def gramElt (f : Nat → Nat → Elt) (n : Nat) (r c : Nat) : Elt × Bool :=
  let y := sumElts ((List.range n).map fun k => (f (min r c) k).mul (f (max r c) k).conj)
  if r ≤ c then y else (y.1.conj, y.2)

def runGram (j : Job) (p : List Byte) (x : MeWork) : MeWork :=
  let x := { x with w := j.readMat (matA p) x.w }
  let s := x.w.s
  j.writeMat (matB p) (gramElt (j.elt s (matA p)) (matA p).cols) x

/-- GRAM. -/
def execGram (t e : Nat) (s : State) : Host.Outcome State Fault Refusal := .next (s.engRow t e 2 2 (meOp layGram runGram))

/-! ## SOLVE (R219) -/

/-- The vectors of a square matrix that hold an element on or below the diagonal, as ranges: the solver reads no other. -/
def MatDesc.lowerRanges (d : MatDesc) : List (Nat × Nat) :=
  ((List.range d.vecs).filter fun v => (d.lanes v).any fun c => c.2 ≤ c.1).flatMap fun v => [(d.mant + 64 * v, 64), (d.exp + v, 1)]

def laySolve : MeLayout where
  size := 128
  align := fun p => [(matA p).mant, (matB p).mant, (matC p).mant]
  ok := fun p => (matA p).ok 256 256 && (matA p).rows == (matA p).cols && (matB p).ok 256 4096 && (matC p).ok 256 4096
    && (matB p).rows == (matA p).rows && (matC p).rows == (matB p).rows && (matC p).cols == (matB p).cols
    && -16 ≤ sfld p 98 1 && sfld p 98 1 ≤ 15 && fld p 99 1 == 0 && 1 ≤ fld p 100 2 && -16 ≤ sfld p 102 1 && sfld p 102 1 ≤ 15
    && fld p 103 1 == 0 && allZero ((p.drop 112).take 16)
  reads := fun p => (matA p).lowerRanges ++ (matB p).ranges
  writes := fun p => (matC p).ranges
  report := 104

/-- Form and write every vector of an output matrix from solver numbers with their poison. -/
def Job.writeSolved (j : Job) (d : MatDesc) (f : Nat → Nat → SCpx × Bool) (x : MeWork) : MeWork :=
  (List.range d.vecs).foldl (fun x v =>
    let es := (d.lanes v).map fun p => f p.1 p.2
    let x := { x with w := x.w.unit }
    if x.w.stop.isSome then x
    else j.writeVec d v (group (es.flatMap fun z => z.1.parts) (es.any Prod.snd) false x.rep) x) x

/-- Whether the diagonal or an element below it was read as poison. -/
def lowerBad (f : Nat → Nat → Elt) (m : Nat) : Bool :=
  (List.range m).any fun i => (List.range (i + 1)).any fun k => (f i k).bad

def runSolve (j : Job) (p : List Byte) (x : MeWork) : MeWork :=
  let x := { x with w := j.readMat (matB p) ((matA p).lowerRanges.foldl (fun (x : Work) (r : Nat × Nat) => j.read r.1 r.2 x) x.w) }
  let s := x.w.s
  let m := (matA p).rows
  let f := factorise (fun r c => (j.elt s (matA p) r c).toS) m (snParam p 96) (snParam p 100)
  let badA := lowerBad (j.elt s (matA p)) m
  let col (c : Nat) : Tab SCpx × Bool :=
    (solveCol f m fun r => (j.elt s (matB p) r c).toS, badA || (List.range m).any fun r => (j.elt s (matB p) r c).bad)
  j.writeSolved (matC p) (fun r c => ((col c).1.get .zero r, (col c).2)) { x with rep := { x.rep with clamped := f.clamped } }

/-- SOLVE. -/
def execSolve (t e : Nat) (s : State) : Host.Outcome State Fault Refusal := .next (s.engRow t e 2 3 (meOp laySolve runSolve))

/-! ## WEIGHTS (R220, R221, R223) -/

/-- SIZE of a set of `l` layers over `n` elements (Table 7-7). -/
def setVecs (l n : Nat) : Nat := l * ((n + 15) / 16)
def setSize (l n : Nat) : Nat := 64 + 64 * ((setVecs l n + 63) / 64) + 64 * setVecs l n

/-- The matrix of a set at an address. -/
def setMat (a l n : Nat) : MatDesc := ⟨a + 64 + 64 * ((setVecs l n + 63) / 64), a + 64, l, n, 0, true⟩

/-- A header keeps Table 7-7, as a channel or a weight set. -/
def headerOk (h : List Byte) (chan : Bool) : Bool :=
  let l := fld h 0 2
  let n := fld h 2 2
  let k := fld h 4 1
  1 ≤ l && l ≤ 32 && l ≤ n && n ≤ 256 && k < 8 && bit k 0 == chan && fld h 5 1 == 0 && -16 ≤ sfld h 8 1 && sfld h 8 1 ≤ 15
    && allZero ((h.drop 9).take 3) && fld h 12 4 == setSize l n && allZero ((h.drop 20).take 44)
    && (chan || fld h 6 2 == 0) && ((!chan && bit k 2) || fld h 16 4 == 0)

def layWeights : MeLayout where
  size := 64
  align := fun p => [fld p 16 8, fld p 24 8]
  ok := fun p => fld p 0 1 < 3 && fld p 1 1 < 4 && 1 ≤ fld p 2 2 && fld p 2 2 ≤ 275
    && (fld p 0 1 == 2 || fld p 4 2 == 0) && -16 ≤ sfld p 6 1 && sfld p 6 1 ≤ 15
    && fld p 7 1 == 0 && fld p 11 1 == 0 && 1 ≤ fld p 12 2 && fld p 15 1 == 0 && allZero ((p.drop 40).take 24)
  reads := fun _ => []
  writes := fun _ => []
  report := 32

/-- The factor set that a task latched: transmit for downlink weights, receive otherwise; the unit factor when none. -/
def Job.factors (j : Job) (dl : Bool) : Option CalSet := if dl then j.task.calTx else j.task.calRx

/-- Multiply one vector of weights by the array factors and normalise it again (R223). -/
def applyFactors (fac : Option CalSet) (es : List (Nat × Elt)) (r : MeReport) : Group :=
  groupElts (es.map fun x =>
    let c := match fac with
      | some f => f.fac.getD x.1 (16384, 0)
      | none => (16384, 0)
    (x.2.mul ⟨c.1, c.2, -14, false⟩, false)) r

/-- One bundle of WEIGHTS: the sets at `h` and `w`, the size the first set gave. -/
def runBundle (j : Job) (p : List Byte) (h w size : Nat) (x : MeWork) : MeWork :=
  let x := { x with w := (x.w.unit.need (j.mayRead h 64) .notPermitted) |> j.read h 64 }
  if x.w.stop.isSome then x
  else if j.bad x.w.s h 64 then { x with w := x.w.fail .poisoned }
  else
    let hd := j.bytes x.w.s h 64
    let l := fld hd 0 2
    let n := fld hd 2 2
    let dl := bit (fld p 1 1) 0
    let cal := bit (fld p 1 1) 1
    let fac := j.factors dl
    let bytes := fld hd 12 4
    if !headerOk hd true || bytes != size then { x with w := x.w.fail .badParam }
    else if cal && fac.any CalSet.poison then { x with w := x.w.fail .poisoned }
    else
      let x := { x with w := (x.w.need (j.mayRead h bytes && j.mayWrite w bytes) .notPermitted) |> j.readMat (setMat h l n) }
      if x.w.stop.isSome then x
      else
        let s := x.w.s
        let f (a b : Nat) : Elt := j.elt s (setMat h l n) a b
        let q : MatDesc := ⟨0, 0, l, l, 0, true⟩
        let qv := (List.range q.vecs).foldl (fun (acc : List Group × MeReport) v =>
          let g := groupElts ((q.lanes v).map fun c => gramElt (fun a b => (f a b).conj) n c.1 c.2) acc.2
          (acc.1 ++ [g], g.rep)) ([], x.rep)
        let qe (r c : Nat) : Elt := (qv.1.getD (q.at_ r c).1 ⟨[], 0, false, x.rep⟩).elt (q.at_ r c).2
        let lam := match fld p 0 1 with
          | 1 => snParam hd 6
          | 2 => snParam p 4
          | _ => ⟨0, 0⟩
        let fa := factorise (fun r c => (qe r c).toS) l (lam.add (snParam p 8)) (snParam p 12)
        let badQ := lowerBad qe l
        let rep := { qv.2 with clamped := qv.2.clamped + fa.clamped }
        let col (e : Nat) : Tab SCpx × Bool :=
          (solveCol fa l fun r => (f r e).conj.toS, badQ || (List.range l).any fun r => (f r e).bad)
        let out := setMat w l n
        let k := 2 * b2n dl + 4 * b2n cal
        let head := leBytes 2 l ++ leBytes 2 n ++ leBytes 1 k ++ zeros 7 ++ leBytes 4 bytes
          ++ leBytes 4 (if cal then (fac.map CalSet.seq).getD 0 else 0) ++ zeros 44
        let x := { x with w := j.write w head false x.w, rep := rep }
        let x := (List.range out.vecs).foldl (fun x v =>
          if x.w.stop.isSome then x
          else
            let cells := out.lanes v
            let es := cells.map fun c =>
              let z := ((col c.2).1.get .zero c.1, (col c.2).2)
              (if dl then z.1.conj else z.1, z.2)
            let g := group (es.flatMap fun z => z.1.parts) (es.any Prod.snd) false x.rep
            let g := if cal then applyFactors fac ((List.range cells.length).map fun i => ((cells.getD i (0, 0)).2, g.elt i)) g.rep
              else g
            let w := j.write (out.mant + 64 * v) (g.bytes 64) g.bad x.w
            ⟨j.write (out.exp + v) (expByte g.ex) g.bad w, g.rep⟩) x
        if x.w.stop.isSome then x else { x with rep := { x.rep with done := x.rep.done + 1 } }

def runWeights (j : Job) (p : List Byte) (x : MeWork) : MeWork :=
  let size := fld (j.bytes x.w.s (fld p 16 8) 64) 12 4
  (List.range (fld p 2 2)).foldl (fun x b =>
    if x.w.stop.isSome then x else runBundle j p (fld p 16 8 + b * size) (fld p 24 8 + b * size) size x) x

/-- WEIGHTS. -/
def execWeights (t e : Nat) (s : State) : Host.Outcome State Fault Refusal := .next (s.engRow t e 2 4 (meOp layWeights runWeights))

/-! ## BEAM.APPLY (R224 to R227) -/

def layBeam : MeLayout where
  size := 64
  align := fun p => [fld p 16 8]
  ok := fun p => fld p 0 1 < 2 && fld p 1 1 < 2 && 1 ≤ fld p 4 2 && fld p 2 2 + fld p 4 2 ≤ 275 && 1 ≤ fld p 6 1
    && 1 ≤ fld p 8 1 && fld p 7 1 + fld p 8 1 ≤ 14 && fld p 9 1 == 0 && fld p 2 2 + fld p 4 2 ≤ fld p 10 2
    && 1 ≤ fld p 12 2 && fld p 12 2 ≤ 256 && 1 ≤ fld p 14 2 && fld p 14 2 ≤ 256 && allZero ((p.drop 48).take 16)
  reads := fun _ => []
  writes := fun _ => []
  report := 40

/-- A map of stream bases. -/
def Job.streams (j : Job) (s : State) (a n : Nat) : List Nat := (List.range n).map fun i => leNat (j.bytes s (a + 8 * i) 8)

/-- Resource element `n` of a PRB record (Table 7-9). -/
def Job.resElt (j : Job) (s : State) (a n : Nat) : Elt :=
  let b := j.bytes s (a + 4 * n) 4
  ⟨sgn 16 (fld b 0 2), sgn 16 (fld b 2 2), sgn 5 (fld (j.bytes s (a + 48) 1) 0 1), j.bad s a 49⟩

/-- A record may be read or written: in the buffers, or in the line-buffer areas of the task's cell in L0, written there
for DIR 1 only (R226). -/
def Job.mayRecord (j : Job) (s : State) (a : Nat) (wr dl : Bool) : Bool := j.mayStream s a 64 wr false (!wr || dl)

/-- The weight set at an address as elements by layer and element, corrected when asked and not yet calibrated; fails the
task when it does not fit the task (R225, R230). -/
def Job.weightSet (j : Job) (a l n : Nat) (dl cal : Bool) (x : MeWork) : MeWork × (Nat → Nat → Elt) :=
  let none_ (_ _ : Nat) : Elt := ⟨0, 0, 0, false⟩
  let x := { x with w := j.read a 64 x.w }
  if x.w.stop.isSome then (x, none_)
  else
    let h := j.bytes x.w.s a 64
    let fac := j.factors dl
    if j.bad x.w.s a 64 then ({ x with w := x.w.fail .poisoned }, none_)
    else if !headerOk h false || fld h 0 2 != l || fld h 2 2 != n || bit (fld h 4 1) 1 != dl then
      ({ x with w := x.w.fail .badParam }, none_)
    else if cal && !bit (fld h 4 1) 2 && fac.any CalSet.poison then ({ x with w := x.w.fail .poisoned }, none_)
    else
      let d := setMat a l n
      let x := { x with w := j.readMat d x.w }
      let s := x.w.s
      if cal && !bit (fld h 4 1) 2 then
        let gs := (List.range d.vecs).foldl (fun (acc : List Group × MeReport) v =>
          let g := applyFactors fac ((d.lanes v).map fun c => (c.2, j.elt s d c.1 c.2)) acc.2
          (acc.1 ++ [g], g.rep)) ([], x.rep)
        ({ x with rep := gs.2 }, fun r c => (gs.1.getD (d.at_ r c).1 ⟨[], 0, false, x.rep⟩).elt (d.at_ r c).2)
      else (x, fun r c => j.elt s d r c)

/-- The output records of one PRB of one symbol. -/
def beamPrb (j : Job) (dl : Bool) (ins outs : List Nat) (w : Nat → Nat → Elt) (off : Nat) (x : MeWork) : MeWork :=
  let s := x.w.s
  let x := { x with w := ins.foldl (fun v b => j.read (b + off) 64 v) x.w.unit }
  let k := ins.length
  (List.range outs.length).foldl (fun x o =>
    if x.w.stop.isSome then x
    else
      let g := groupElts ((List.range 12).map fun n => sumElts ((List.range k).map fun i =>
        (if dl then w i o else w o i).mul (j.resElt s (ins.getD i 0 + off) n))) x.rep
      let w := j.write (outs.getD o 0 + off) (g.bytes 48 ++ expByte g.ex ++ zeros 15) g.bad x.w
      ⟨w, if w.stop.isSome then g.rep else { g.rep with done := g.rep.done + 1 }⟩) x

/-- The stream maps lie in PARAM, with counts that their table permits. -/
def beamMapped (j : Job) (p : List Byte) : Bool :=
  1 ≤ fld p 12 2 && fld p 12 2 ≤ 256 && 1 ≤ fld p 14 2 && fld p 14 2 ≤ 256
    && j.task.param.covers (fld p 24 8) (8 * fld p 12 2) && j.task.param.covers (fld p 32 8) (8 * fld p 14 2)

/-- What the parameter block alone settles of R214: the alignment of W_BASE, and with maps that cannot be read, the rest. -/
def beamFirst (j : Job) (p : List Byte) : Option Status :=
  if fld p 16 8 % 64 != 0 then some .busError
  else if beamMapped j p then none
  else if !layBeam.ok p || j.task.arg != 0 || fld p 40 8 % 16 != 0 then some .badParam
  else some .notPermitted

/-- The stream maps are read; a poisoned word in one fails the task (R230). -/
def beamMaps (j : Job) (p : List Byte) (x : Work) : Work × List Nat × List Nat :=
  let (im, ni) := (fld p 24 8, fld p 12 2)
  let (om, no) := (fld p 32 8, fld p 14 2)
  let w := j.read om (8 * no) (j.read im (8 * ni) x)
  (if w.stop.isNone && (j.bad w.s im (8 * ni) || j.bad w.s om (8 * no)) then w.fail .poisoned else w,
    j.streams w.s im ni, j.streams w.s om no)

/-- The checks of R214 once the stream bases are known: alignment of the records, the fields, then every access (R226). -/
def beamCheck (j : Job) (p : List Byte) (ins outs : List Nat) (s : State) : Option Status :=
  let dl := fld p 0 1 == 1
  let rep := fld p 40 8
  let offs := (List.range (fld p 8 1)).flatMap fun y => (List.range (fld p 4 2)).map fun k =>
    64 * ((fld p 7 1 + y) * fld p 10 2 + fld p 2 2 + k)
  let l := if dl then ins.length else outs.length
  let n := if dl then outs.length else ins.length
  let nb := (fld p 4 2 + fld p 6 1 - 1) / fld p 6 1
  if !((ins ++ outs).all fun b => b % 64 == 0) then some .busError
  else if !layBeam.ok p || j.task.arg != 0 || rep % 16 != 0 then some .badParam
  else if offs.all (fun o => (ins.all fun b => j.mayRecord s (b + o) false dl) && outs.all fun b => j.mayRecord s (b + o) true dl)
      && j.mayRead (fld p 16 8) (nb * setSize l n) && j.mayRead j.task.param.addr 64 && (rep == 0 || j.mayWrite rep 16) then none
  else some .notPermitted

def runBeam (j : Job) (p : List Byte) (ins outs : List Nat) (x : MeWork) : MeWork :=
  let dl := fld p 0 1 == 1
  let cal := bit (fld p 1 1) 0
  let l := if dl then ins.length else outs.length
  let n := if dl then outs.length else ins.length
  let bundle := fld p 6 1
  let nb := (fld p 4 2 + bundle - 1) / bundle
  (List.range nb).foldl (fun x b =>
    if x.w.stop.isSome then x
    else
      let (x, w) := j.weightSet (fld p 16 8 + b * setSize l n) l n dl cal x
      let prbs := (List.range bundle).filter fun k => b * bundle + k < fld p 4 2
      (List.range (fld p 8 1)).foldl (fun x y => prbs.foldl (fun x k =>
        if x.w.stop.isSome then x
        else beamPrb j dl ins outs w (64 * ((fld p 7 1 + y) * fld p 10 2 + fld p 2 2 + b * bundle + k)) x) x) x) x

/-- BEAM.APPLY: the maps that the checks need are read first; nothing is written when a check fails, but the report when the maps
fail the task and it may be written; the report is last otherwise. -/
def beamOp (j : Job) (s : State) : State × Status :=
  j.withBlock (fun _ => layBeam.size) (some (layBeam.report, 16)) (fun _ p => beamFirst j p) (fun p x =>
    let (w, ins, outs) := beamMaps j p x
    let rep := fld p layBeam.report 8
    if w.stop.isSome then j.finish (if j.reportOk rep 16 then rep else 0) (zeros 16) w
    else match beamCheck j p ins outs w.s with
    | some st => (w.s, st)
    | none =>
      let y := runBeam j p ins outs ⟨w, ⟨0, 0, 0, 0⟩⟩
      j.finish rep y.rep.bytes y.w) s

/-- BEAM.APPLY. -/
def execBeamApply (t e : Nat) (s : State) : Host.Outcome State Fault Refusal := .next (s.engRow t e 2 5 beamOp)

end Sys2Proof.Machine
end

