-- ==== Sys2Proof/Machine/Collimator.lean ====
section
/-! DEFINITION. The Collimator (chapter 19): temperature sets, lanes, arrays, ageing and the calibration commands. Temperatures
are in 1/80 °C, lane taps in 10⁻⁹ LSB, gains in 10⁻⁹ dB, phases in 10⁻⁹ degrees (log entry 17). -/

namespace Sys2Proof.Machine

def State.modCal (s : State) (f : CalSt → CalSt) : State := { s with cal := f s.cal }

/-! ## Temperature sets (R534 to R536) -/

/-- The temperatures of the four sets. -/
def setTemps : List Int := [-1600, 2000, 5600, 8400]
def clampTemp (t : Int) : Int := clampI (-1600) 8400 t
def absI (x : Int) : Int := x.natAbs

/-- The set nearest to a clamped temperature, the lower one at equal distance. -/
def nearestSet (tc : Int) : Nat :=
  (List.range 4).foldl (fun b i => if absI (tc - setTemps.getD i 0) < absI (tc - setTemps.getD b 0) then i else b) 0

/-- An angle difference along the shorter arc. -/
def shortArc (d : Int) : Int := (d + 180000000000) % 360000000000 - 180000000000
/-- A difference of two values: of angles along the shorter arc. -/
def diffOf (arc : Bool) (d : Int) : Int := if arc then shortArc d else d

/-- The target at a clamped temperature, of the LEARNED sets in ascending order (R535). -/
def interpolate (arc : Bool) (tc : Int) (vs : List (Int × Int)) : Option Int :=
  let below := (vs.filter fun v => v.1 ≤ tc).getLast?
  let above := vs.find? fun v => tc ≤ v.1
  match below, above with
  | some a, some b =>
    if a.1 = b.1 then some a.2 else some (diffOf arc (a.2 + diffOf arc (b.2 - a.2) * (tc - a.1) / (b.1 - a.1)))
  | some a, none => some a.2
  | none, some b => some b.2
  | none, none => none

/-- The LEARNED sets of one quantity with their temperatures. -/
def learnedOf {α : Type} (sets : List (Option α)) (f : α → Int) : List (Int × Int) :=
  (setTemps.zip sets).filterMap fun e => e.2.map fun v => (e.1, f v)

/-- One quantity of a set is taught (R536). -/
def teach (arc : Bool) (shift : Nat) (d v x target : Int) : Int :=
  diffOf arc (v + (3600 - d) * diffOf arc (x - target) / (3600 * 2 ^ shift))

/-- Bit s: set s LEARNED. -/
def setsMask {α : Type} (sets : List (Option α)) : Nat := maskOf ((List.range 4).filter fun i => (sets.getD i none).isSome)

/-! ## Lanes (R537 to R539) -/

/-- The L0 block of a lane or peer port (R17). -/
def laneBlk (n : Nat) : Nat := if isPeer n then (n - 256) / 2 else n / 32

/-- T_obj of a lane: the sensor of its L0 block. -/
def State.laneTemp (s : State) (n : Nat) : Int := 5 * thermSixteenths (s.fsc.adc.therm.getD (9 + laneBlk n / 2) 0)

def State.laneCal (s : State) (n k : Nat) : LaneCal := s.cal.lanes.get LaneCal.reset (n * 16 + k)
def State.setLaneCal (s : State) (n k : Nat) (c : LaneCal) : State :=
  s.modCal fun x => { x with lanes := x.lanes.set (n * 16 + k) c }

/-- Data lanes of a lane id. -/
def dataLanes (n : Nat) : List Nat := if isPeer n then List.range 16 else [0]

/-- The target of tap `i` in 10⁻⁹ LSB. -/
def LaneCal.target (c : LaneCal) (tc : Int) (i : Nat) : Int :=
  (interpolate false tc (learnedOf c.sets fun v => v.getD i 0)).getD (c.base.getD i 0 * 1000000000)

/-- An estimate at a temperature teaches the nearest set. -/
def LaneCal.learn (c : LaneCal) (t : Int) (shift : Nat) (est : List Int) : LaneCal :=
  let tc := clampTemp t
  let n := nearestSet tc
  let d := absI (tc - setTemps.getD n 0)
  let v := match c.sets.getD n none with
    | none => est.map (· * 1000000000)
    | some v => v.mapIdx fun i x => teach false shift d x (est.getD i 0 * 1000000000) (c.target tc i)
  { c with sets := c.sets.set n (some v) }

/-- One tap moves by at most one LSB towards its target. -/
def LaneCal.moveTap (c : LaneCal) (tc : Int) (i : Nat) : LaneCal :=
  match c.taps[i]? with
  | none => c
  | some v =>
    let g := (c.target tc i + 500000000) / 1000000000
    if v = g then c else { c with taps := c.taps.set i (if v < g then v + 1 else v - 1), steps := sat32 (c.steps + 1) }

/-- Tap steps count from the present Up. -/
def LaneCal.since (c : LaneCal) (up : Option Nat) : LaneCal := if c.upAt = up then c else { c with upAt := up, steps := 0 }

/-- LANE_TAP_STEP: every 1 ms; `est` an estimate that the search has come to, `tap` the tap whose turn it is. -/
def doLaneTapStep (t n k : Nat) (est : Option (List Int)) (tap : Nat) (s : State) : State :=
  let s := s.advance t
  let l := s.lane n
  let c := (s.laneCal n k).since l.upAt
  let st := l.stageOf (isPeer n) k
  if !s.cal.policy.lanes || st < 4 || st == 14 || !(dataLanes n).contains k || c.stepAt.any (fun f => s.time.frc < f + msToFrc 1)
  then s
  else
    let temp := s.laneTemp n
    let c := match est with
      | some e => c.learn temp s.cal.policy.laneShift e
      | none => c
    let tc := clampTemp temp
    let c := if s.cal.policy.parallel then (List.range c.taps.length).foldl (fun c i => c.moveTap tc i) c else c.moveTap tc tap
    s.setLaneCal n k { c with stepAt := some s.time.frc }

def execLaneTapStep (t n k : Nat) (est : Option (List Int)) (tap : Nat) (s : State) : Host.Outcome State Fault Refusal :=
  .next (doLaneTapStep t n k est tap s)

/-- EYE_SWEEP: every 100 ms of a lane that is Up; EYE_W in mUI, EYE_H in mV. LANE_STATUS reports a port's smallest. -/
def doEyeSweep (t n k w h : Nat) (s : State) : State :=
  let s := s.advance t
  let c := s.laneCal n k
  if (s.lane n).stage != 9 || !(dataLanes n).contains k || c.sweepAt.any (fun f => s.time.frc < f + msToFrc 100) then s
  else
    let s := s.setLaneCal n k { c with sweepAt := some s.time.frc, eyeW := w % 65536, eyeH := h % 65536 }
    let swept := ((dataLanes n).map (s.laneCal n)).filter fun x => x.sweepAt.isSome
    s.modLane n fun l => { l with
      eyeW := (swept.map LaneCal.eyeW).foldl min 65535, eyeH := (swept.map LaneCal.eyeH).foldl min 65535 }

def execEyeSweep (t n k w h : Nat) (s : State) : Host.Outcome State Fault Refusal := .next (doEyeSweep t n k w h s)

/-! ## Arrays (R540 to R547) -/

def ArrayCal.size (a : ArrayCal) : Nat := a.rows * a.cols * a.pols
/-- T_obj of an array. -/
def ArrayCal.tObj (a : ArrayCal) : Int := 8 * a.temp

/-- The target gain and phase of an element: the unit factor with no set LEARNED. -/
def ArrayCal.target (a : ArrayCal) (e : Nat) : Int × Int :=
  let tc := clampTemp a.tObj
  ((interpolate false tc (learnedOf a.sets fun v => (v.getD e (0, 0)).1)).getD 0,
   (interpolate true tc (learnedOf a.sets fun v => (v.getD e (0, 0)).2)).getD 0)

/-- Learning is paused (R546). -/
def State.calPaused (s : State) (cell : Nat) (a : ArrayCal) : Bool :=
  !((s.cells.find? cell).any fun c => c.st == .service) || a.freeze
    || !(a.tempAt.any fun f => s.time.frc < f + msToFrc 10000)

/-- An estimate teaches the nearest set. -/
def ArrayCal.learn (a : ArrayCal) (shift : Nat) (est : List (Int × Int)) : ArrayCal :=
  let tc := clampTemp a.tObj
  let n := nearestSet tc
  let d := absI (tc - setTemps.getD n 0)
  let v := match a.sets.getD n none with
    | none => est
    | some v => v.mapIdx fun e x =>
      let y := est.getD e (0, 0)
      let g := a.target e
      (teach false shift d x.1 y.1 g.1, teach true shift d x.2 y.2 g.2)
  { a with sets := a.sets.set n (some v), estimated := true }

/-- The element of largest |d_e|, and that value. -/
def worstDelay (ds : List Int) : Nat × Nat :=
  (ds.zipIdx.foldl (fun b x => if b.2 < x.1.natAbs then (x.2, x.1.natAbs) else b) (0, 0))

/-- FRC counts of a number of slots of a cell. -/
def State.slotsFrc (s : State) (cell n : Nat) : Nat :=
  ((s.anchor? cell).map fun tl => n * frameCounts / max 1 (slotsPer tl.num)).getD 0

/-- Element (0, 0) of each polarisation stays at the unit factor (R541). -/
def pinned (a : ArrayCal) (est : List (Int × Int)) : List (Int × Int) :=
  (List.range a.size).map fun e => if e % max 1 (a.rows * a.cols) = 0 then (0, 0) else est.getD e (0, 0)

/-- ARRAY_ESTIMATE: after AVG_SLOTS slots that count, what the least-squares estimate over the redundancy classes comes to: gain and
phase of each element, the residual (R542) and the delays. -/
def doArrayEstimate (t cell : Nat) (est : List (Int × Int)) (resid : Int) (delays : List Int) (s : State) : State :=
  let s := s.advance t
  if s.stopped then s else
  match s.cal.arrays.find? cell with
  | none => s
  | some a =>
    if !s.cal.policy.arrays || s.calPaused cell a || s.time.frc < a.since + s.slotsFrc cell a.avg then s
    else
      let ds := (List.range a.size).map fun e => delays.getD e 0
      let a := { (a.learn s.cal.policy.arrayShift (pinned a est)) with
        resid := clampI (-32768) 32767 resid, delays := ds.map (clampI (-32768) 32767), since := s.time.frc }
      let s := s.modCal fun x => { x with arrays := x.arrays.set cell a }
      let w := worstDelay ds
      if s.cal.policy.delayPs < w.2 then s.post (s.cellOwner cell) 0x0801 1 (cell + 65536 * (w.1 % 256)) else s

def execArrayEstimate (t cell : Nat) (est : List (Int × Int)) (resid : Int) (delays : List Int) (s : State) :
    Host.Outcome State Fault Refusal := .next (doArrayEstimate t cell est resid delays s)

/-- A gain or phase moves towards its target by at most a limit. -/
def stepTo (arc : Bool) (lim cur tgt : Int) : Int :=
  let d := diffOf arc (tgt - cur)
  diffOf arc (cur + clampI (-lim) lim d)

/-- A gain and phase after 10 ms: at most 0.05 dB and 0.3° (R543). -/
def stepFactor (cur tgt : Int × Int) : Int × Int :=
  (stepTo false 50000000 cur.1 tgt.1, stepTo true 300000000 cur.2 tgt.2)

/-- The unit factor. -/
def unitFactor : Int × Int := (16384, 0)

/-- The transmit factor of an element (R544): the exact product of the receive factor and the offset, quantised. -/
def txFactor (rx off : Int × Int) : Int × Int :=
  let p := cprod rx.1 rx.2 off.1 off.2
  (sat16 ((p.1 + 8192) / 16384), sat16 ((p.2 + 8192) / 16384))

/-- The gain and phase an offset is to reach. -/
def ArrayCal.offTarget (a : ArrayCal) (e : Nat) : Int × Int :=
  match a.offs[e]? with
  | some f => polarOf f
  | none => (0, 0)

/-- The offset of an element as applied: exactly the one given, once reached. -/
def ArrayCal.offFactor (a : ArrayCal) (e : Nat) : Int × Int :=
  let cur := a.offNow.getD e (0, 0)
  match a.offs[e]? with
  | some f => if cur = polarOf f then f else factorOf cur.1 cur.2
  | none => factorOf cur.1 cur.2

/-- One step of every element, and the sets that result. -/
def ArrayCal.step (a : ArrayCal) : ArrayCal :=
  let es := List.range a.size
  let now := es.map fun e => stepFactor (a.now.getD e (0, 0)) (a.target e)
  let off := es.map fun e => stepFactor (a.offNow.getD e (0, 0)) (a.offTarget e)
  if now == a.now && off == a.offNow then a
  else
    let a := { a with now := now, offNow := off, seq := (a.seq + 1) % 2 ^ 32 }
    let rx := now.map fun p => factorOf p.1 p.2
    { a with rx := rx, tx := es.map fun e => txFactor (rx.getD e unitFactor) (a.offFactor e) }

/-- CAL_PUBLISH: every 10 ms the factors of a cell's array step towards their targets, and a set that has changed is published. -/
def doCalPublish (t cell : Nat) (s : State) : State :=
  let s := s.advance t
  if s.stopped then s else
  match s.cal.arrays.find? cell with
  | none => s
  | some a =>
    if !s.cal.policy.arrays || s.time.frc < a.stepAt + msToFrc 10 then s
    else s.modCal fun x => { x with arrays := x.arrays.set cell { a.step with stepAt := s.time.frc } }

def execCalPublish (t cell : Nat) (s : State) : Host.Outcome State Fault Refusal := .next (doCalPublish t cell s)

/-! ## Ageing (R548, R549) -/

def State.ageing (s : State) (r : Nat) : Ageing := s.cal.ageing.get Ageing.reset r

/-- DATA of CAL_AGEING. -/
def ageWord (r : Nat) (a : Ageing) : Nat := r + 16 * a.trim + 65536 * unsgn 16 (clampI (-32768) 32767 a.drift)

/-- AGEING_READ: every 60 s an ACTIVE region's monitors give its drift in ppm. -/
def doAgeingRead (t r : Nat) (drift : Int) (s : State) : State :=
  let s := s.advance t
  if s.stopped then s else
  let a := s.ageing r
  let p := s.cal.policy
  if !p.ageing || 16 ≤ r || (s.region r).st != .active || a.readAt.any (fun f => s.time.frc < f + msToFrc 60000) then s
  else
    let a := { a with drift := drift, readAt := some s.time.frc }
    let up := drift < -2000 * ((a.trim : Int) + 1) && a.trim < p.trimMax
    let a := if up then { a with trim := a.trim + 1 } else a
    let warn := drift < -2000 * ((p.trimMax : Int) + 1) && p.trimMax ≤ a.trim
      && !(a.warnAt.any fun f => s.time.frc < f + msToFrc 86400000)
    let a := if warn then { a with warnAt := some s.time.frc } else a
    let s := s.modCal fun x => { x with ageing := x.ageing.set r a }
    let s := if up then (if hasLevels r then s.modRegion r fun g => { g with changing := true } else s).postAll 0x0802 1 (ageWord r a) else s
    if warn then s.postAll 0x0802 2 (ageWord r a) else s

def execAgeingRead (t r : Nat) (drift : Int) (s : State) : Host.Outcome State Fault Refusal := .next (doAgeingRead t r drift s)

/-! ## ARRAY_CAL_CONFIG (R550) -/

def layArrayCalConfig : Layout := ⟨0x0306, 16, false, fun _ => [.rng 0 2 0 383, .rng 2 1 0 3, .bits 3 1 0xFC, .rsv 12 4], fun _ => []⟩

/-- The factors of the data. -/
def calData (p : List Byte) (n : Nat) : List (Int × Int) :=
  (List.range n).map fun e => (sfld p (16 + 4 * e) 2, sfld p (18 + 4 * e) 2)

/-- The data is sent with EXT and has 4 bytes an element. -/
def State.calDataOk (s : State) (i : CmdIn) (n : Nat) : Bool :=
  (s.flight? i.id).any Flight.ext && i.p.length == 16 + 4 * n

/-- The array of a cell set by ACTION 1: an unchanged geometry keeps the sets. -/
def arrayOf (old : Option ArrayCal) (p : List Byte) (frc : Nat) : ArrayCal :=
  let rows := fld p 4 1
  let cols := fld p 5 1
  let pols := fld p 6 1
  let n := rows * cols * pols
  let same := old.any fun a => a.rows == rows && a.cols == cols && a.pols == pols
  let unit : List (Int × Int) := List.replicate n unitFactor
  let flat : List (Int × Int) := List.replicate n (0, 0)
  let size (l : Option (List (Int × Int))) (d : Int × Int) : List (Int × Int) := (List.range n).map fun e => (l.getD []).getD e d
  { rows := rows, cols := cols, pols := pols, avg := fld p 8 2, freeze := bit (fld p 3 1) 1
    offs := if bit (fld p 3 1) 0 then calData p n else if same then (old.map ArrayCal.offs).getD [] else []
    offNow := if old.isSome then size (old.map ArrayCal.offNow) (0, 0) else flat
    sets := if same then (old.map ArrayCal.sets).getD [] else [none, none, none, none]
    now := if old.isSome then size (old.map ArrayCal.now) (0, 0) else flat
    temp := (old.map ArrayCal.temp).getD 0, tempAt := old.bind ArrayCal.tempAt
    seq := (old.map ArrayCal.seq).getD 0
    rx := if old.isSome then size (old.map ArrayCal.rx) unitFactor else unit
    tx := if old.isSome then size (old.map ArrayCal.tx) unitFactor else unit
    estimated := same && old.any ArrayCal.estimated, resid := if same then (old.map ArrayCal.resid).getD 0 else 0
    delays := if same then (old.map ArrayCal.delays).getD [] else List.replicate n 0
    since := frc, stepAt := (old.map ArrayCal.stepAt).getD frc }

/-- An ARRAY_CAL_CONFIG breaks Table 19-1, R540 or the length of its data; without the array the length of a set is not judged. -/
def State.arrayCalBad (s : State) (i : CmdIn) : Bool :=
  let p := i.p
  let c := fld p 0 2
  let n := fld p 4 1 * fld p 5 1 * fld p 6 1
  (if fld p 2 1 = 3 then 3 < fld p 7 1 else fld p 7 1 != 0)
  || (fld p 2 1 == 1 && (fld p 4 1 < 1 || 32 < fld p 4 1 || fld p 5 1 < 1 || 32 < fld p 5 1 || fld p 6 1 < 1 || 2 < fld p 6 1
      || fld p 8 2 < 16 || 4096 < fld p 8 2 || !((s.cells.find? c).any fun x => x.acsUl == n)
      || (bit (fld p 3 1) 0 && !s.calDataOk i n)))
  || (fld p 2 1 == 2 && (sfld p 10 2 < -600 || 1500 < sfld p 10 2))
  || (fld p 2 1 == 3 && ((s.cal.arrays.find? c).any fun a => !s.calDataOk i a.size))

def bodyArrayCalConfig (i : CmdIn) (s : State) : Ans :=
  let p := i.p
  let c := fld p 0 2
  let act := fld p 2 1
  let old := s.cal.arrays.find? c
  let put (a : ArrayCal) : State := s.modCal fun x => { x with arrays := x.arrays.set c a }
  if s.arrayCalBad i then refuse s .badParam
  else if !s.ownsCell i.fn c || (act == 0 && (s.cells.find? c).any fun x => x.st == .service) then refuse s .notPermitted
  else if act = 0 then ok (s.modCal fun x => { x with arrays := x.arrays.del c }) []
  else if act = 1 then ok (put (arrayOf old p s.time.frc)) []
  else match old with
  | none => refuse s .notReady
  | some a =>
    if act = 2 then ok (put { a with temp := sfld p 10 2, tempAt := some s.time.frc }) []
    else ok (put { a with sets := a.sets.set (fld p 7 1) (some ((calData p a.size).map polarOf)) }) []

def execArrayCalConfig (c : CmdRef) (s : State) : Host.Outcome State Fault Refusal :=
  .next (runCmd layArrayCalConfig c bodyArrayCalConfig s)

/-! ## CAL_STATUS (R551) and CAL_POLICY (R552) -/

/-- Size of a cell's array; 0 without one. -/
def State.calSize (s : State) (c : Nat) : Nat := ((s.cal.arrays.find? c).map ArrayCal.size).getD 0

def layCalStatus : Layout := ⟨0x0801, 16, false, fun p =>
  [.rng 0 1 0 2, .rsv 1 1,
   .cond (if fld p 0 1 = 0 then laneOk (fld p 2 2) else if fld p 0 1 = 1 then fld p 2 2 ≤ 383 else fld p 2 2 < 16),
   .cond (fld p 0 1 == 1 || (fld p 4 4 == 0 && fld p 8 8 == 0))],
  fun p => if fld p 8 8 = 0 then [] else [(fld p 8 8, fld p 4 4)]⟩

/-- A temperature in 0.1 °C from 1/80 °C. -/
def tenths (t : Int) : Nat := unsgn 16 (t / 8)

def calInline (a sets b h t n : Nat) : List Byte :=
  leBytes 1 a ++ leBytes 1 sets ++ leBytes 2 b ++ leBytes 2 h ++ leBytes 2 t ++ leBytes 4 n ++ zeros 4

/-- The result for a lane; a port's sets are those that every data lane has LEARNED. -/
def State.calLane (s : State) (n : Nat) : List Byte :=
  let l := s.lane n
  let cs := (dataLanes n).map fun k => (s.laneCal n k).since l.upAt
  let eqi := if isPeer n then l.eqis.foldl min 255 else l.eqis.getD 0 0
  calInline eqi (cs.foldl (fun m c => m &&& setsMask c.sets) 15) l.eyeW l.eyeH (tenths (s.laneTemp n)) (cs.map LaneCal.steps).sum

/-- STATE of an array. -/
def State.arrayState (s : State) (c : Nat) : Nat :=
  match s.cal.arrays.find? c with
  | none => 0
  | some a => if !s.cal.policy.arrays then 0 else if s.calPaused c a then 3 else if a.estimated then 2 else 1

def State.calArray (s : State) (c : Nat) : List Byte :=
  match s.cal.arrays.find? c with
  | none => calInline 0 0 0 0 0 0
  | some a => calInline (s.arrayState c) (setsMask a.sets) (unsgn 16 a.resid) 0 (unsgn 16 a.temp) a.seq

/-- A factor as 4 bytes. -/
def facBytes (f : Int × Int) : List Byte := leBytes 2 (unsgn 16 f.1) ++ leBytes 2 (unsgn 16 f.2)

/-- Elements and sets of an array's buffer. -/
def ArrayCal.buffer (a : ArrayCal) : List Byte :=
  let es := List.range a.size
  (es.flatMap fun e =>
    let g := a.target e
    facBytes (a.rx.getD e unitFactor) ++ facBytes (factorOf g.1 g.2) ++ facBytes (a.tx.getD e unitFactor)
      ++ leBytes 2 (unsgn 16 (a.delays.getD e 0)) ++ zeros 2)
  ++ (es.flatMap fun e => a.sets.flatMap fun x => match x with
    | some v => let p := v.getD e (0, 0); facBytes (factorOf p.1 p.2)
    | none => zeros 4)

/-- The hottest sensor of a region in sixteenths of a °C. -/
def State.regionHeat (s : State) (r : Nat) : Int :=
  let v (i : Nat) : Int := thermSixteenths (s.fsc.adc.therm.getD i 0)
  if r = 13 then max (v 9) (v 10) else v (sensorOf r)

def State.calAgeing (s : State) (r : Nat) : List Byte :=
  let a := s.ageing r
  calInline a.trim 0 (unsgn 16 (clampI (-32768) 32767 a.drift)) 0 (tenths (5 * s.regionHeat r)) (sat32 (s.time.frc / (983040000 * 3600)))

def bodyCalStatus (i : CmdIn) (s : State) : Ans :=
  let p := i.p
  let obj := fld p 0 1
  let id := fld p 2 2
  if obj = 1 ∧ !chkOk [] (optBuf (fld p 8 8) (fld p 4 4) (16 + 32 * s.calSize id)) then refuse s .badParam
  else if (obj == 0 && !s.ownsLane i.fn id) || (obj == 1 && !s.ownsCell i.fn id) || (obj == 2 && i.fn != 0) then
    refuse s .notPermitted
  else if obj = 0 then ok s (s.calLane id)
  else if obj = 2 then ok s (s.calAgeing id)
  else if fld p 8 8 = 0 then ok s (s.calArray id)
  else (s, .done (.okBuf (fld p 8 8) (s.calArray id ++ ((s.cal.arrays.find? id).map ArrayCal.buffer).getD [])))

def execCalStatus (c : CmdRef) (s : State) : Host.Outcome State Fault Refusal :=
  .next (runCmd layCalStatus c bodyCalStatus s)

def layCalPolicy : Layout := ⟨0x0802, 16, false, fun _ =>
  [.bits 0 1 0xF0, .rng 1 1 0 15, .rng 2 1 0 15, .rng 3 1 0 6, .rng 4 4 10 100000, .rsv 8 8], fun _ => []⟩

def bodyCalPolicy (i : CmdIn) (s : State) : Ans :=
  let c := fld i.p 0 1
  ok (s.modCal fun x => { x with
    policy := ⟨bit c 0, bit c 1, bit c 2, bit c 3, fld i.p 1 1, fld i.p 2 1, fld i.p 3 1, fld i.p 4 4⟩ }) []

def execCalPolicy (c : CmdRef) (s : State) : Host.Outcome State Fault Refusal :=
  .next (runCmd layCalPolicy c bodyCalPolicy s)

end Sys2Proof.Machine
end

