-- ==== Sys2Proof/Machine/Dome.lean ====
section
/-! DEFINITION. The Dome's commands (chapter 20): ATTEST, IMAGE_STAGE, IMAGE_COMMIT, KEY_ENROLL, GUARD_PROFILE_LOAD,
DEBUG_UNLOCK, what they do at their completion, and the expiry of a challenge. -/

namespace Sys2Proof.Machine

/-- A profile slot. -/
def State.guard (s : State) (fn : Nat) : Guard := s.dome.guards.get Guard.none_ fn
def State.modGuard (s : State) (fn : Nat) (f : Guard → Guard) : State :=
  s.modDome fun d => { d with guards := d.guards.mod Guard.none_ fn f }

/-- Some command of the Dome that takes time, of one of these opcodes, is in progress. -/
def State.domeBusy (s : State) (ops : List Nat) : Bool :=
  s.host.flights.any fun f => ops.contains f.op && (match f.wait with
    | some (.dome _ _) => true
    | _ => false)

/-! ## ATTEST (R570) -/

/-- Slots usable for some use. -/
def State.usableSlots (s : State) : Nat := maskOf ((List.range 5).filter fun k => (List.range 5).any fun u => s.slotUsable k u)

/-- The report of Table 20-7. -/
def State.report (s : State) (fn : Nat) (nonce : List Byte) : List Byte :=
  let h := match s.dome.slot with
    | some x => s.slotHeader x
    | none => []
  let mine (t : Nat) : Bool := (fn = 0 || t = fn) && (s.guard t).present
  leBytes 4 1 ++ zeros 4 ++ leBytes 8 Config.serial ++ fit 32 nonce ++ leBytes 8 s.time.frc ++ leBytes 4 (headerSeq h)
    ++ leBytes 1 (s.dome.slot.getD 255) ++ leBytes 1 (headerVersion h) ++ leBytes 1 s.fwCounter ++ leBytes 1 s.profileFloor
    ++ fit 64 s.dome.measure ++ fit 64 s.dome.chain ++ leBytes 4 s.dome.loads ++ leBytes 1 s.usableSlots ++ leBytes 1 (s.otpByte 0x145)
    ++ leBytes 1 (b2n s.dome.debug + 2 * b2n s.dome.debugEver) ++ leBytes 1 s.pow.mode.code ++ s.otpBytes 0x140 4 ++ zeros 4
    ++ ((List.range 8).flatMap fun t => if mine t then leBytes 4 (s.guard t).seq ++ leBytes 1 (s.guard t).floor ++ zeros 3 else zeros 8)
    ++ ((List.range 8).flatMap fun t => if mine t then fit 8 (s.guard t).digest8 else zeros 8) ++ zeros 176

/-- Report, trailer by the identity key, and with CERT the identity key and its certificate. -/
def State.attestation (s : State) (fn : Nat) (nonce : List Byte) (cert : Bool) : List Byte :=
  let r := s.report fn nonce
  let d := shake r
  let sig := bytesOf (Config.identitySign (nats d))
  let n := min 1280 (max 1 sig.length)
  r ++ d ++ leBytes 1 0xFF ++ zeros 1 ++ leBytes 2 n ++ zeros 60 ++ fit 1280 (sig.take n)
    ++ (if cert then fit 1800 (s.flashBytes 0x2800 1793) ++ s.flashBytes 0x3000 1408 else [])

def layAttest : Layout := ⟨0x0901, 48, false, fun p =>
  [.bits 32 1 0xFE, .rsv 33 3, .cond ((if bit (fld p 32 1) 0 then 5128 else 1920) ≤ fld p 36 4)], fun p => [(fld p 40 8, fld p 36 4)]⟩

def bodyAttest (i : CmdIn) (s : State) : Ans :=
  let bs := s.attestation i.fn (i.p.take 32) (bit (fld i.p 32 1) 0)
  ok (s.emit (.hostWrite i.fn (fld i.p 40 8) bs false)) (leBytes 4 bs.length)

/-- ATTEST. -/
def execAttest (c : CmdRef) (s : State) : Host.Outcome State Fault Refusal := .next (runCmd layAttest c bodyAttest s)

/-! ## IMAGE_STAGE and IMAGE_COMMIT (R564, R565) -/

def layImageStage : Layout := ⟨0x0902, 16, true, fun p =>
  [.rsv 8 8, .rng 4 4 1 4194304, .cond (fld p 0 4 % 4096 == 0), .cond (16 + fld p 4 4 ≤ p.length),
    .cond (fld p 0 4 + fld p 4 4 ≤ 16773120)], fun _ => []⟩

def bodyImageStage (i : CmdIn) (s : State) : Ans :=
  if s.domeBusy [0x0902, 0x0903] then refuse s .noResource
  else
    let x := s.inactiveSlot
    let s := if s.dome.staging then s else (s.erase (slotBase x) 4096).modDome fun d => { d with staging := true }
    (s.program (slotBase x + 4096 + fld i.p 0 4) ((i.p.drop 16).take (fld i.p 4 4)), .later (.dome .none []))

/-- IMAGE_STAGE. -/
def execImageStage (c : CmdRef) (s : State) : Host.Outcome State Fault Refusal := .next (runCmd layImageStage c bodyImageStage s)

def layImageCommit : Layout := ⟨0x0903, 1304, true, fun p =>
  [.rng 0 1 0 2, .rsv 3 1, .rsv 10 14] ++
  (if fld p 0 1 = 0 then [.rng 1 1 0 64, .rng 2 1 0 4, .rng 4 4 1 16773120, .rng 8 2 1 1280]
   else [.rsv 1 2, .rsv 4 6, .rsv 24 1280]), fun _ => []⟩

/-- The header that a commit programs, but for HDR_CHECK (R565). -/
def commitHeader (p digest : List Byte) (seq : Nat) : List Byte :=
  leBytes 4 0x4D454C56 ++ leBytes 2 1 ++ leBytes 1 (fld p 1 1) ++ leBytes 1 (fld p 2 1) ++ leBytes 4 (fld p 4 4) ++ zeros 4
    ++ fit 64 digest ++ zeros 48 ++ leBytes 4 seq ++ leBytes 2 (fld p 8 2) ++ zeros 2
    ++ fit 1280 ((p.drop 24).take (fld p 8 2)) ++ zeros 2612 ++ leBytes 4 0xFFFFFFFF

/-- One above the highest SEQ of a valid slot, or 1. -/
def State.nextSeq (s : State) : Nat :=
  ((List.range 2).filter fun x => s.slotOk x).foldl (fun n x => max n (headerSeq (s.slotHeader x) + 1)) 1

def bodyImageCommit (i : CmdIn) (s : State) : Ans :=
  let p := i.p
  let x := s.inactiveSlot
  if fld p 0 1 = 1 && s.dome.slot.isNone then refuse s .notPermitted
  else match fld p 0 1 with
  | 0 =>
    let seq := s.nextSeq
    let h := commitHeader p (shake (s.slotImage x (fld p 4 4))) seq
    if !s.headerAuth x h then refuse s .authFail
    else ((s.erase (slotBase x) 4096).program (slotBase x) h |>.modDome fun d => { d with staging := false },
      .later (.dome (.seal x) (leBytes 4 seq)))
  | 1 =>
    let r := s.dome.slot.getD 0
    let h := s.slotHeader r
    (s.program (slotBase r + 4028) (zeros 4),
      .later (.dome (.confirm (headerVersion h) (headerSeq h)) (leBytes 1 (max s.fwCounter (headerVersion h)))))
  | _ => (s.erase (slotBase x) 4096, .later (.dome .none []))

/-- IMAGE_COMMIT. -/
def execImageCommit (c : CmdRef) (s : State) : Host.Outcome State Fault Refusal := .next (runCmd layImageCommit c bodyImageCommit s)

/-! ## KEY_ENROLL (R567 to R569) -/

/-- The state of the keys (Table 20-6). -/
def State.keyState (s : State) : List Byte :=
  leBytes 1 (s.otpByte 0x144) ++ leBytes 1 (s.otpByte 0x145) ++ s.otpBytes 0x140 4 ++ leBytes 1 s.fwCounter ++ leBytes 1 s.profileFloor

def layKeyEnroll : Layout := ⟨0x0904, 3089, true, fun p =>
  let a := fld p 0 1
  [.rng 0 1 0 3, .rng 1 1 (b2n (a == 0)) (if a ≤ 1 then 4 else 0), .rsv 7 9]
  ++ (if a ≤ 1 then [.rng 3 1 0 4, .rng 4 2 1 1280] else []) ++ (if a = 0 then [.bits 2 1 0xE0] else [])
  ++ (if a = 3 then [.rng 6 1 0 7, .rsv 1328 1761] else []), fun _ => []⟩

/-- The message that authorises an enrolment or revocation (R567). -/
def enrolMessage (slot use : Nat) (digest : List Byte) (context : Nat) : List Byte :=
  shake (leBytes 8 Config.serial ++ leBytes 1 slot ++ leBytes 1 use ++ digest ++ leBytes 1 context)

/-- Every bit of one run is set in the other. -/
def bitsWithin (a b : List Byte) : Bool := (a.zip b).all fun x => x.1 &&& ~~~x.2 == 0

def bodyKeyEnroll (i : CmdIn) (s : State) : Ans :=
  let p := i.p
  let slot := fld p 1 1
  let use := fld p 2 1
  let auth (digest : List Byte) (ctx : Nat) : Bool := fld p 3 1 != slot
    && s.sigOk (fld p 3 1) useEnroll (enrolMessage slot use digest ctx) ((p.drop 16).take (fld p 4 2))
  match fld p 0 1 with
  | 0 =>
    let key := (p.drop 1296).take 1793
    let d := shake key
    if !auth d 0x45 then refuse s .authFail
    else if s.slotValid slot || !bitsWithin (s.slotDigest slot) d || s.slotUse slot &&& (255 - use) != 0 then refuse s .notPermitted
    else
      let s := s.program (2048 * slot) (fit 2048 key)
      let s := s.burn (64 * slot) d
      (s.burn (0x140 + slot - 1) (leBytes 1 use), .later (.dome (.enrol slot) []))
  | 1 =>
    let left := (List.range 5).any fun k => k != slot && s.slotValid k && !s.slotRevoked k && (s.slotUse k).testBit useFirmware
    if !auth (zeros 64) 0x52 then refuse s .authFail
    else if !left then refuse s .notPermitted
    else (s, .later (.dome (.revoke slot) []))
  | 2 => ok s s.keyState
  | _ => ok (s.modDome fun d => { d with keks := d.keks.set (fld p 6 1) ((p.drop 1296).take 32) }) s.keyState

/-- KEY_ENROLL. -/
def execKeyEnroll (c : CmdRef) (s : State) : Host.Outcome State Fault Refusal := .next (runCmd layKeyEnroll c bodyKeyEnroll s)

/-! ## GUARD_PROFILE_LOAD (R574 to R576, R580) -/

/-- Fields of a carrier entry (Table 20-9). -/
def ceCarrier (e : List Byte) : Nat := fld e 0 1
def ceNum (e : List Byte) : Nat := fld e 1 1
def ceTdd (e : List Byte) : Bool := bit (fld e 2 1) 0
def ceTd (e : List Byte) : Bool := bit (fld e 2 1) 1
def cePattern (e : List Byte) : Nat := fld e 3 1

/-- A carrier entry keeps Table 20-9. -/
def entryOk (e : List Byte) : Bool :=
  numerologies.contains (ceNum e) && fld e 2 1 < 4
    && (if ceTdd e then 1 ≤ cePattern e && cePattern e ≤ 80 && 1024 * slotsPer (ceNum e) % cePattern e == 0 else cePattern e == 0)
    && 1 ≤ fld e 4 2 && fld e 4 2 ≤ 4096 && allZero ((e.drop 10).take 2) && allZero ((e.drop 28).take 4) && allZero ((e.drop 236).take 20)
    && (List.range 4).all fun k => fld e (14 + 4 * k) 2 == 0 || fld e (12 + 4 * k) 2 + fld e (14 + 4 * k) 2 ≤ 3300

/-- The carrier entries of a profile blob. -/
def profileEntries (b : List Byte) : List (List Byte) := (List.range (fld b 22 2)).map fun i => (b.drop (64 + 256 * i)).take 256

/-- A profile keeps Tables 20-8 and 20-9. -/
def profileForm (b : List Byte) : Bool :=
  let es := profileEntries b
  fld b 0 4 == 0x44524C50 && fld b 4 2 == 1 && fld b 6 1 ≤ 7 && fld b 7 1 < 2 && fld b 20 1 ≤ 64 && fld b 21 1 == 0
    && 1 ≤ fld b 22 2 && fld b 22 2 ≤ 256 && allZero ((b.drop 24).take 40) && b.length == 64 + 256 * fld b 22 2 + 1408
    && es.all entryOk && (es.map ceCarrier).dedup.length == es.length

def layGuardProfileLoad : Layout := ⟨0x0905, 16, true, fun p =>
  [.rng 0 1 0 3, .rng 1 1 0 1, .rng 2 2 0 4095, .rsv 4 12, .cond (fld p 0 1 != 1 || profileForm (p.drop 16))], fun _ => []⟩

/-- The Damper's stream number of a trail or fronthaul stream (R582). -/
def guardStream (fronthaul : Bool) (id : Nat) : Nat := id + 4096 * b2n fronthaul

/-- The tenant whose stream it is: by its cell. -/
def State.guardOwner (s : State) (n : Nat) : Nat :=
  if n < 4096 then s.trailOwner n
  else match s.line.streams.find? n, s.line.streams.find? (n + 4096) with
    | some x, _ => s.cellOwner x.cell
    | none, some x => s.cellOwner x.cell
    | none, none => 0

def bodyGuardProfileLoad (i : CmdIn) (s : State) : Ans :=
  let p := i.p
  let g := s.guard i.fn
  match fld p 0 1 with
  | 0 => ok (s.modGuard i.fn fun g => { g with
      present := false, seq := 0, floor := 0, digest8 := zeros 8, entries := [], since := s.time.frc, prev := g.entries, admitted := []
      prevAdmitted := g.admitted }) []
  | 1 =>
    let b := p.drop 16
    let n := b.length - 1408
    let t := b.drop n
    if !(trailerOk t && s.trailerAuth useProfile (b.take n) t) then refuse s .authFail
    else if fld b 6 1 != i.fn || !(fld b 8 8 == 0 || fld b 8 8 == Config.serial % 2 ^ 64) || fld b 20 1 < s.profileFloor
        || (g.present && fld b 16 4 < g.seq) then refuse s .notPermitted
    else if s.domeBusy [0x0905] then refuse s .noResource
    else (s, .later (.dome (.profile i.fn b) []))
  | 2 =>
    let n := guardStream (fld p 1 1 == 1) (fld p 2 2)
    if s.guardOwner n != i.fn then refuse s .notPermitted
    else ok (s.modDome fun d => { d with streams := d.streams.upd n fun g => ⟨[], g.eventAt, false⟩ }) []
  | _ =>
    let blocked := (s.dome.streams.filter fun e => e.2.blocked && s.guardOwner e.1 == i.fn).length
    ok s (leBytes 4 g.seq ++ leBytes 2 g.entries.length ++ leBytes 2 blocked ++ leBytes 4 g.viols)

/-- GUARD_PROFILE_LOAD. -/
def execGuardProfileLoad (c : CmdRef) (s : State) : Host.Outcome State Fault Refusal :=
  .next (runCmd layGuardProfileLoad c bodyGuardProfileLoad s)

/-- A profile comes into force (R575, R576). -/
def State.putProfile (s : State) (fn : Nat) (b : List Byte) : State :=
  let t := b.drop (b.length - 1408)
  let s := s.modGuard fn fun g =>
    { present := true, seq := fld b 16 4, floor := fld b 20 1, digest8 := t.take 8, entries := profileEntries b, since := s.time.frc
      prev := g.entries, admitted := [], prevAdmitted := g.admitted, viols := 0 }
  if bit (fld b 7 1) 0 then s.burnTo 0x158 (fld b 20 1) else s

/-- What a command of the Dome does at its completion, and its result. -/
def State.domeFinish (s : State) (act : DomeAct) (res : List Byte) : State × List Byte :=
  match act with
  | .none => (s, res)
  | .seal x => (s.program (slotBase x + 4032) (shake (s.flashBytes (slotBase x) 4028)), res)
  | .confirm v seq => ((s.burnTo 0x150 v).postAll 0x0904 0 (v + 65536 * (seq % 65536)), res)
  | .enrol k => let s := s.burn 0x144 (leBytes 1 (2 ^ k)); (s, s.keyState)
  | .revoke k => let s := s.burn 0x145 (leBytes 1 (2 ^ k)); (s, s.keyState)
  | .profile fn b => (s.putProfile fn b, res)

/-! ## DEBUG_UNLOCK (R571) -/

def layDebugUnlock : Layout := ⟨0x0906, 1, false, fun p =>
  .rng 0 1 0 2 :: (if fld p 0 1 = 1 then [.rng 1 1 0 4, .rsv 2 1, .rng 3 2 1 1280, .cond (1285 ≤ p.length)] else []), fun _ => []⟩

/-- Bytes from the TRNG. -/
def State.random (s : State) : (n : Nat) → List Byte × State
  | 0 => ([], s)
  | n + 1 =>
    let (v, s) := s.draw
    let (bs, s) := s.random n
    (BitVec.ofNat 8 v :: bs, s)

def bodyDebugUnlock (i : CmdIn) (s : State) : Ans :=
  let p := i.p
  match fld p 0 1 with
  | 0 =>
    let (c, s) := s.random 16
    ok (s.modDome fun d => { d with challenge := some (c, s.time.frc) }) c
  | 1 =>
    match s.dome.challenge with
    | none => refuse s .notReady
    | some (c, f) =>
      if f + msToFrc 60000 ≤ s.time.frc then refuse s .notReady
      else if s.sigOk (fld p 1 1) useDebug (shake (leBytes 8 Config.serial ++ c ++ leBytes 1 0x44)) ((p.drop 5).take (fld p 3 2)) then
        ok ((s.modDome fun d => { d with challenge := none, debug := true, debugEver := true }).postAll 0x0903 1 (fld p 1 1)) []
      else refuse s .authFail
  | _ => ok (s.modDome fun d => { d with debug := false }) []

/-- DEBUG_UNLOCK. -/
def execDebugUnlock (c : CmdRef) (s : State) : Host.Outcome State Fault Refusal := .next (runCmd layDebugUnlock c bodyDebugUnlock s)

/-- CHALLENGE_EXPIRY: 60 s after its issue a challenge expires. -/
def execChallengeExpiry (t : Nat) (s : State) : Host.Outcome State Fault Refusal :=
  let s := s.advance t
  .next (if s.dome.challenge.any fun c => c.2 + msToFrc 60000 ≤ s.time.frc then s.modDome fun d => { d with challenge := none } else s)

end Sys2Proof.Machine
end

