-- ==== Sys2Proof/Machine/Damper.lean ====
section
/-! DEFINITION. The Damper (R572 to R581): what it does with the record or frames of a stream for one symbol. -/

namespace Sys2Proof.Machine

/-! ## Profiles in force (R573, R576, R579) -/

/-- The carrier entry that serves a cell's symbol with a strobe (FRC): its tenant, whether it is of the new profile, the entry. A HIBERNATED
cell has none: its egress is muted (R142). -/
def State.carrierEntry (s : State) (cell strobe : Nat) : Option (Nat × Bool × List Byte) :=
  match s.cells.find? cell, s.anchor? cell with
  | some c, some tl =>
    let fn := s.cellOwner cell
    let g := s.guard fn
    let new := g.since < strobe
    if c.st == .hibernated then none
    else ((if new then g.entries else g.prev).find? fun e => ceCarrier e == c.carrier && ceNum e == tl.num).map fun e => (fn, new, e)
  | _, _ => none

/-- Admit a stream to a carrier: admitted, or the table is full (R579). -/
def State.admitted? (s : State) (fn : Nat) (new : Bool) (e : List Byte) (n : Nat) : Bool × State :=
  let g := s.guard fn
  let l := (if new then g.admitted else g.prevAdmitted).get [] (ceCarrier e)
  if l.contains n then (true, s)
  else if fld e 4 2 ≤ l.length then (false, s)
  else
    let put (t : Tab (List Nat)) : Tab (List Nat) := t.set (ceCarrier e) (l ++ [n])
    (true, s.modGuard fn fun g => if new then { g with admitted := put g.admitted } else { g with prevAdmitted := put g.prevAdmitted })

/-- What the Damper keeps of a stream. -/
def State.streamGuard (s : State) (n : Nat) : StreamGuard := s.dome.streams.get StreamGuard.reset n

/-- A violation of a stream: counted, GUARD_VIOLATION once per second, the sixteenth within 1 s blocks it (R580, R582). -/
def State.violate (s : State) (fn : Nat) (e : List Byte) (n cause : Nat) : State :=
  let g := s.streamGuard n
  let now := s.time.frc
  let times := (now :: g.times.filter fun f => now < f + 983040000).take 32
  let due := match g.eventAt with
    | none => true
    | some f => f + 983040000 ≤ now
  let block := !g.blocked && 16 ≤ times.length
  let data := n + 8192 * cause + 65536 * ceCarrier e + 16777216 * fn
  let s := s.modDome fun d => { d with streams := d.streams.set n ⟨times, if due then some now else g.eventAt, g.blocked || block⟩ }
  let s := s.modGuard fn fun g => { g with viols := sat32 (g.viols + 1) }
  let s := if due then s.post fn 0x0901 2 (data + 2 ^ 27 * min 31 times.length) else s
  if block then s.post fn 0x0902 3 data else s

/-! ## Judging a record (R577) -/

/-- A resource element lies inside RANGES. -/
def inRanges (e : List Byte) (sc : Nat) : Bool := (List.range 4).any fun k => inSpan (fld e (12 + 4 * k) 2) (fld e (14 + 4 * k) 2) sc

/-- The parts of a compressed PRB with the elements outside RANGES set to 0. -/
def maskParts (e : List Byte) (prb : Nat) (ms : List Int) : List Int :=
  (List.range 24).map fun i => if inRanges e (12 * prb + i / 2) then ms.getD i 0 else 0

/-- A level in 0.1 dB of a sum over n values exceeds a limit: 100 log₁₀(sum / n / 2³⁰) > x. -/
def levelAbove (sum n : Nat) (x : Int) : Bool :=
  if 0 ≤ x then 10 ^ x.toNat * (n * 2 ^ 30) ^ 100 < sum ^ 100 else (n * 2 ^ 30) ^ 100 < sum ^ 100 * 10 ^ (-x).toNat

/-- A level breaks its limit; within 1 of it, either way. -/
def State.levelBreaks (s : State) (sum n : Nat) (lim : Int) : Bool × State :=
  if sum = 0 || !levelAbove sum n (lim - 1) then (false, s)
  else if levelAbove sum n (lim + 1) then (true, s)
  else let (v, s) := s.draw; (v % 2 == 1, s)

/-- re² + im² of each element from parts that alternate. -/
def energies : List Int → List Nat
  | re :: im :: rest => (re * re + im * im).toNat :: energies rest
  | _ => []

/-- The TDD mask lets a symbol be downlink. -/
def tddOk (e : List Byte) (num point : Nat) : Bool :=
  if !ceTdd e then true
  else
    let i := (tpSfn point * slotsPer num + tpSlot point) % cePattern e
    bit (fld e (96 + (14 * i + tpSym point) / 8) 1) ((14 * i + tpSym point) % 8)

/-- Steps 4 and 5: whether the values mute the symbol, the violations counted. -/
def State.judgeLevels (s : State) (fn : Nat) (e : List Byte) (n num point : Nat) (xs : List Int) : Bool × State :=
  if !tddOk e num point && xs.any (· != 0) then (true, s.violate fn e n 1)
  else
    let es := energies xs
    let (rms, s) := s.levelBreaks es.sum es.length (sfld e 6 2)
    let (peak, s) := s.levelBreaks (es.foldl max 0) 1 (sfld e 8 2)
    let s := if rms then s.violate fn e n 2 else s
    let s := if peak then s.violate fn e n 3 else s
    (rms || peak, s)

/-- Judge a frequency-domain record from step 2 on: the PRBs as they leave, by PRB number. `none`: muted. -/
def State.judgeRecord (s : State) (fn : Nat) (new : Bool) (e : List Byte) (n w num point prb0 : Nat) (prbs : List (List Byte)) :
    Option (List (List Byte)) × State :=
  if (s.streamGuard n).blocked then (none, s)
  else
    let (ok, s) := s.admitted? fn new e n
    if !ok then (none, s.violate fn e n 4)
    else
      let parts := (List.range prbs.length).map fun i =>
        let (x, ms) := prbParts w (prbs.getD i [])
        (x, maskParts e (prb0 + i) ms)
      let xs := parts.flatMap fun p => p.2.map fun m => m * 2 ^ p.1
      let (mute, s) := s.judgeLevels fn e n num point xs
      if mute then (none, s) else (some (parts.map fun p => prbLine w p.1 p.2), s)

/-- A PRB with every mantissa and the exponent 0 (R578). -/
def zeroPrb (w : Nat) : List Byte := zeros (prbBytes w)

/-! ## What leaves (R33, R250, R360) -/

/-- The lines of a record are consumed. -/
def State.takeLines (s : State) (as : List Nat) : State :=
  s.modLine fun l => { l with recs := l.recs.filter fun e => !as.contains e.1 }

/-- A line may leave: written, and by nothing that has not released. -/
def State.lineReady (s : State) (a : Nat) : Bool := s.line.recs.find? a == some none

/-- Compress the records at the given addresses: what has not been released, and poison, goes as zeros; saturated parts and
poisoned records are counted (R249, R250). -/
def State.compressed (s : State) (w : Nat) (as : List Nat) : List (List Byte) × Nat × Nat :=
  as.foldl (fun acc a =>
    if !s.lineReady a then (acc.1 ++ [zeroPrb w], acc.2)
    else if s.poisonIn a 64 then (acc.1 ++ [zeroPrb w], acc.2.1, acc.2.2 + 1)
    else
      let (b, n) := compress w (s.bytesAt a 64)
      (acc.1 ++ [b], acc.2.1 + n, acc.2.2)) ([], 0, 0)

/-- All egress of a tenant's carriers is muted (R581). -/
def State.allMuted (s : State) (fn : Nat) : Bool := s.pow.mode == .fault || (s.func fn).muted

/-! ## Trails -/

/-- Lanes on which a trail leaves: the one whose active page names it, and the protection lane of its group. -/
def State.trailLanes (s : State) (id : Nat) : List Nat :=
  (s.line.tlf.keep fun _ x => x.active.some? fun _ v => entSrc v == 3 && entIx v == id).keys.flatMap fun n =>
    n :: (s.line.groups.filter fun g => g.2.work == n).map fun g => g.2.prot

/-- The Damper's destination step for a trail. -/
def lanesOk (e : List Byte) (lanes : List Nat) : Bool := lanes.all fun n => bit (fld e 32 16) n

/-- Queue a trail's record of one symbol. -/
def State.queueRecord (s : State) (id point prb0 : Nat) (prbs : List (List Byte)) : State :=
  s.modTrail id fun t => { t with queue := t.queue ++ [⟨point, iqHeader point prb0 prbs.length ++ prbs.flatten⟩] }

/-- An IQ trail's record of one symbol. -/
def State.damperTrail (s : State) (id : Nat) (t : Trail) (num point strobe : Nat) : State :=
  let w := labelWidth t.label
  let as := (List.range t.prbCount).map fun i => recordAddr t.area t.ring t.prbStride (tpSlot point) (tpSym point) (t.prbFirst + i)
  let (prbs, sat, pois) := s.compressed w as
  let s := (s.modTrail id fun t => { t with pm := t.pm.bump fun b => { b with sat := sat32 (b.sat + sat) } }).poisonEgress
    (s.trailOwner id) 0 id pois
  let s := s.takeLines as
  let mute (s : State) : State := s.queueRecord id point t.prbFirst (List.replicate t.prbCount (zeroPrb w))
  match s.carrierEntry t.cell strobe with
  | none => mute s
  | some (fn, new, e) =>
    if s.allMuted fn then mute s
    else if !lanesOk e (s.trailLanes id) then s.violate fn e id 5
    else match s.judgeRecord fn new e id w num point t.prbFirst prbs with
      | (some ps, s) => s.queueRecord id point t.prbFirst ps
      | (none, s) => mute s

/-- A time-domain trail's samples of one symbol: passed, or not (they then leave as zeros). -/
def State.damperSamples (s : State) (id : Nat) (t : Trail) (num : Nat) (k : Int) (point strobe : Nat) : State :=
  let first := symOff num (tpSlot point) (tpSym point)
  let last := nextSym num first
  let lo := (first * t.fsMult + 511) / 512
  let hi := (last * t.fsMult + 511) / 512
  let ring := t.ring * (t.fsMult * 960)
  let addr (i : Nat) : Nat := t.area + 4 * ((lo + i) % ring)
  let xs := (List.range (hi - lo)).flatMap fun i =>
    let a := addr i
    if !s.lineReady (a - a % 64) || s.poisonIn a 4 then [0, 0]
    else let b := s.bytesAt a 4; [sfld b 0 2, sfld b 2 2]
  match s.carrierEntry t.cell strobe with
  | none => s
  | some (fn, new, e) =>
    if s.allMuted fn || (s.streamGuard id).blocked then s
    else if !lanesOk e (s.trailLanes id) then s.violate fn e id 5
    else
      let (ok, s) := s.admitted? fn new e id
      if !ok || !ceTd e then s.violate fn e id 4
      else
        let (bad, s) := s.judgeLevels fn e id num point xs
        if bad then s else s.modTrail id fun t => { t with passed := ((k, first, last) :: t.passed).take 64 }

/-! ## Streams (R360, R363) -/

/-- The Ethernet frames of a symbol: PRBs split at the most that fit (R360). -/
def uplaneFrames (x : FhStream) (e : EthPort) (num point : Nat) : (fuel seq first : Nat) → List (List Byte) → List (List Byte)
  | 0, _, _, _ => []
  | fuel + 1, seq, first, prbs =>
    let head := 16 + 2 * b2n x.compHdr
    let fit_ := min 255 ((e.maxFrame - 22 - head) / prbBytes x.width)
    if prbs.isEmpty || fit_ = 0 then []
    else
      let now := prbs.take fit_
      let sec := beBytes 3 (x.section_ * 4096 + first) ++ beBytes 1 now.length
        ++ (if x.compHdr then beBytes 1 (compHdr x.width) ++ zeros 1 else [])
      let body := sec ++ now.flatten
      let size := 4 + 4 + body.length
      (ethHeader x.dst e.mac x.untagged x.tci 0xAEFE ++ ecpriHeader 0 size ++ beBytes 2 x.eaxc ++ beBytes 1 (seq % 256) ++ [0x80]
        ++ symHeader true x.filter num point ++ body)
      :: uplaneFrames x e num point fuel (seq + 1) (first + now.length) (prbs.drop fit_)

/-- How many frames a symbol takes. -/
def uplaneCount (x : FhStream) (e : EthPort) : Nat :=
  let f := min 255 ((e.maxFrame - 22 - (16 + 2 * b2n x.compHdr)) / prbBytes x.width)
  if f = 0 then 0 else (x.prbCount + f - 1) / f

/-- The frame of a C-plane message (R362). -/
def cplaneFrame (x : FhStream) (e : EthPort) (seq : Nat) (msg : List Byte) : List Byte :=
  ethHeader x.dst e.mac x.untagged x.tci 0xAEFE ++ ecpriHeader 2 (4 + msg.length) ++ beBytes 2 x.eaxc ++ beBytes 1 (seq % 256) ++ [0x80] ++ msg

/-- Change a stream; add to one of its counters. -/
def State.modStream (s : State) (k : Nat) (f : FhStream → FhStream) : State := s.modLine fun l => { l with streams := l.streams.upd k f }
def State.streamCount (s : State) (k c n : Nat) : State :=
  s.modStream k fun x => { x with cnt := (x.cnt ++ [0, 0, 0, 0]).take 4 |>.modify c fun v => sat32 (v + n) }

/-- FH_LATE, once per second per stream. -/
def State.postLate (s : State) (k : Nat) : State :=
  match s.line.streams.find? k with
  | none => s
  | some x =>
    let due := match x.lateAt with
      | none => true
      | some f => f + 983040000 ≤ s.time.frc
    if due then (s.modStream k fun x => { x with lateAt := some s.time.frc }).post (s.cellOwner x.cell) 0x0422 1 k else s

/-- The Damper's destination step for a stream: its address among MACS, every lane of its port in LANES. -/
def streamOk (e : List Byte) (x : FhStream) (p : EthPort) : Bool :=
  !allZero x.dst && ((List.range 8).any fun k => (e.drop (48 + 6 * k)).take 6 == x.dst) && lanesOk e p.lanes

/-- The frames of a stream that the Damper holds: sent, sent as zeros, or not sent. -/
def State.damperStream (s : State) (h : Held) : State :=
  match s.line.streams.find? h.stream with
  | none => s
  | some x =>
    match s.line.ports.find? x.port, s.anchor? x.cell with
    | some p, some tl =>
      let n := guardStream true (h.stream % 4096)
      let cplane := 8192 ≤ h.stream
      let count := if cplane then 1 else uplaneCount x p
      let drop (s : State) : State := s.streamCount h.stream 2 count
      let send (s : State) (fs : List (List Byte)) : State :=
        (fs.foldl (fun s f => s.ethSend x.port f) s).streamCount h.stream 0 fs.length
      let frames (prbs : List (List Byte)) : List (List Byte) := uplaneFrames x p tl.num h.point (prbs.length + 1) h.seq x.prbFirst prbs
      let zero : List (List Byte) := List.replicate h.prbs.length (zeroPrb x.width)
      if !cplane && h.strobe ≤ s.time.frc then (s.streamCount h.stream 1 count).postLate h.stream
      else match s.carrierEntry x.cell h.strobe with
      | none => if s.pow.mode == .fault || cplane then drop s else send s (frames zero)
      | some (fn, new, e) =>
        if s.allMuted fn then drop s
        else if !streamOk e x p then (drop s).violate fn e n 5
        else if (s.streamGuard n).blocked then drop s
        else if cplane then send s [cplaneFrame x p h.seq h.msg]
        else match s.judgeRecord fn new e n x.width tl.num h.point x.prbFirst h.prbs with
          | (some ps, s) => send s (frames ps)
          | (none, s) => if (s.streamGuard n).blocked then drop s else send s (frames zero)
    | _, _ => s

/-! ## The row -/

/-- DAMPER_CHECK: a trail's record or samples for the symbol at a timeline point, or what the Damper holds longest of a
fronthaul stream (DIR · 4,096 + id). -/
def doDamperCheck (t : Nat) (trail : Bool) (id point : Nat) (s : State) : State :=
  let s := s.advance t
  if s.asleep 13 || s.stopped then s
  else if trail then
    match s.line.trails.find? id with
    | none => s
    | some tr =>
      match s.anchor? tr.cell with
      | none => s
      | some tl =>
        if !tr.tx || !tpValid tl.num point || (s.trailLanes id).isEmpty then s
        else
          let k := tpFrame tl s.thetaNow point
          let strobe := s.frcOfPos tl k (symOff tl.num (tpSlot point) (tpSym point))
          if isIq tr.label then s.damperTrail id tr tl.num point strobe
          else if tr.label = 5 then s.damperSamples id tr tl.num k point strobe
          else s
  else
    match s.line.held.find? fun h => h.stream == id with
    | none => s
    | some h => (s.modLine fun l => { l with held := l.held.erase h }).damperStream h

/-- DAMPER_CHECK. -/
def execDamperCheck (t : Nat) (trail : Bool) (id point : Nat) (s : State) : Host.Outcome State Fault Refusal :=
  .next (doDamperCheck t trail id point s)

end Sys2Proof.Machine
end

