-- ==== Sys2Proof/Machine/EthCmds.lean ====
section
/-! DEFINITION. Commands of the Ethernet functions (chapter 12): ports, fronthaul streams, MACsec associations. -/

namespace Sys2Proof.Machine

/-! ## ETH_PORT_CONFIG (R348, R364, R369) -/

/-- 0, or a power of two from 2 to 4,096. -/
def ringSize (n : Nat) : Bool := n == 0 || ((List.range 12).any fun i => n == 2 ^ (i + 1))

def layEthPort : Layout := ⟨0x0409, 48, false, fun p =>
  [.rng 0 1 0 63, .rng 1 1 0 2, .bits 14 1 0xF0, .rsv 22 2, .rsv 44 4] ++
  (if fld p 1 1 = 1 then
    [.rng 2 1 1 5, .rng 3 1 0 1, .cond (fld p 3 1 == 1 || fld p 2 1 ≤ 2), .cond (fld p 3 1 == 0 || fld p 2 1 != 1),
     .rng 4 2 0 127, .rng 15 1 0 2, .cond (ringSize (fld p 18 2)), .cond (ringSize (fld p 20 2)), .rng 40 4 0 1073741824]
  else if fld p 1 1 = 2 then [.cond (128 ≤ fld p 32 4)] else []), fun p =>
  if fld p 1 1 = 2 then [(fld p 24 8, fld p 32 4)] else []⟩

/-- The lane rate of a port type (Table 12-1). -/
def portRate (ptype : Nat) : Nat := if ptype = 1 then 0x11 else if ptype = 2 then 0x12 else 0x13
/-- RS-FEC units that a port takes. -/
def fecUnits (ptype fec : Nat) : Nat := if ptype = 5 then 2 else if 3 ≤ ptype || fec = 1 then 1 else 0

/-- A port as ETH_PORT_CONFIG sets it. -/
def portOf (fn : Nat) (p : List Byte) : EthPort :=
  let f := fld p 14 1
  ⟨fn, fld p 2 1, fld p 3 1, fld p 4 2, fld p 6 2, (p.drop 8).take 6, bit f 0, bit f 1, bit f 2, bit f 3, fld p 15 1, fld p 16 2,
    fld p 18 2, fld p 20 2, fld p 24 8, fld p 32 8, fld p 40 4, 0, 0, true, [], none, false, none, none, false, none⟩

/-- The counters of a port (Table 12-7). -/
def EthPort.counters (e : EthPort) : List Byte := (List.range 16).flatMap fun i => leBytes 8 (e.cnt.get 0 i)

/-- A changed port keeps its counters and the transmit AN in use, and its link while its lanes stay those of one link. -/
def EthPort.kept (e : EthPort) (old : Option EthPort) : EthPort :=
  match old with
  | none => e
  | some o => { e with cnt := o.cnt, txAn := o.txAn, up := o.up && o.lane == e.lane && o.ptype == e.ptype && o.fec == e.fec }

/-- BAD_PARAM of R364 and R369: the place of the lanes, their mode and rate, MAX_FRAME. -/
def State.portFits (s : State) (n : Nat) (e : EthPort) : Bool :=
  let pos := if e.ptype = 4 then e.lane % 2 == 0 else if e.ptype = 5 then e.lane % 4 == 0 else true
  laneBlock e.lane == n / 16 && pos && (e.lanes.all fun m => (s.lane m).cfg.mode == 2 && (s.lane m).cfg.rate == portRate e.ptype)
    && 64 ≤ e.maxFrame && e.maxFrame ≤ 9728 && (!e.peer || 256 ≤ e.maxFrame)

/-- NO_RESOURCE of R369: the quad lacks RS-FEC units, or the lanes are another port's. -/
def State.portRoom (s : State) (n : Nat) (e : EthPort) : Bool :=
  let quad := s.line.ports.filter fun x => x.1 != n && laneQuad x.2.lane == laneQuad e.lane
  (quad.map fun x => fecUnits x.2.ptype x.2.fec).sum + fecUnits e.ptype e.fec ≤ 2 && !quad.any (fun x => x.2.lanes.any e.lanes.contains)

def bodyEthPort (i : CmdIn) (s : State) : Ans :=
  let p := i.p
  let n := fld p 0 1
  let act := fld p 1 1
  let e := portOf i.fn p
  let old := s.line.ports.find? n
  let used := s.line.streams.some? fun _ x => x.port == n
  if act == 1 && !s.portFits n e then refuse s .badParam
  else if !s.ownsMac i.fn n || (act == 1 && (!(e.lanes.all (s.ownsLane i.fn)) || (e.peer && i.fn != 0)))
      || (act ≤ 1 && old.isSome && used) then refuse s .notPermitted
  else if act = 2 then
    match old with
    | none => refuse s .badParam
    | some x => (s.modPort n fun x => { x with cnt := [] }, .done (.okBuf (fld p 24 8) x.counters))
  else if act = 0 then ok (s.modLine fun l => { l with ports := l.ports.del n }) []
  else if !s.portRoom n e then refuse s .noResource
  else ok (s.modLine fun l => { l with ports := l.ports.set n (e.kept old) }) []

/-- ETH_PORT_CONFIG. -/
def execEthPortConfig (c : CmdRef) (s : State) : Host.Outcome State Fault Refusal := .next (runCmd layEthPort c bodyEthPort s)

/-! ## FH_STREAM_CONFIG (R357, R370) -/

def layFhStream : Layout := ⟨0x040B, 64, true, fun p =>
  let dir := fld p 3 1
  [.rng 0 2 0 4095, .rng 2 1 0 2, .rng 3 1 0 2, .bits 6 1 0xFC, .rng 18 2 0 383, .bits 28 2 0xF000, .rsv 60 4] ++
  (if fld p 2 1 = 1 then
    [.rng 4 1 0 63, .oneOf 5 1 (if dir = 2 then [0] else [8, 9, 12, 14, 16]), .rng 7 1 0 15,
     .cond (bit (fld p 6 1) 1 || !bit (fld p 10 2) 12), .cond (if dir = 2 then fld p 21 1 == 0 else 1 ≤ fld p 21 1 && fld p 21 1 ≤ 4),
     .rng 22 2 0 274, .rng 24 2 1 275, .cond (fld p 22 2 + fld p 24 2 ≤ fld p 26 2),
     .cond (if dir = 2 then 1 ≤ fld p 30 2 && fld p 30 2 ≤ 4096 else fld p 30 2 == 0), .cond (fld p 32 8 % 64 == 0),
     .cond (dir == 0 || fld p 48 4 ≤ 2000000), .cond (dir != 0 || sfld p 52 4 < sfld p 56 4)]
  else []), fun _ => []⟩

/-- A stream as FH_STREAM_CONFIG sets it. -/
def streamOf (p : List Byte) : FhStream :=
  ⟨fld p 4 1, fld p 5 1, bit (fld p 6 1) 0, bit (fld p 6 1) 1, fld p 7 1, fld p 8 2, fld p 10 2, (p.drop 12).take 6, fld p 18 2,
    fld p 20 1, fld p 21 1, fld p 22 2, fld p 24 2, fld p 26 2, fld p 28 2, fld p 30 2, fld p 32 8, fld p 40 8, fld p 48 4,
    sfld p 52 4, sfld p 56 4, [0, 0, 0, 0], none, 0, [], none⟩

/-- The receive key of a stream, port apart: VLAN id or untagged (4,096), eAxC id, filterIndex. -/
def FhStream.key (x : FhStream) : Nat × Nat × Nat := (if x.untagged then 4096 else x.tci % 4096, x.eaxc, x.filter)

/-- BAD_PARAM of R370 beyond the table: the port, the cell's ACS count, the places of AREA and STATUS_ADDR; a message ring lies in
persistent memory (R362). -/
def State.streamFits (s : State) (dir : Nat) (x : FhStream) : Bool :=
  let l0 (a n : Nat) : Bool := within a n (regBase 13) (regMemSize 13)
  let acs := (s.cells.find? x.cell).map fun c => if dir = 0 then c.acsUl else c.acsDl
  s.line.ports.has x.port && acs.any (fun n => x.acs < n) && l0 x.area x.areaLen
    && (dir != 2 || Sys2Proof.Machine.coveredBy (s.mem.ranges.map fun r => (r.base, r.len)) (s.mem.ranges.length + 1) x.area x.areaLen) && (dir != 0 || x.status == 0 || l0 x.status 8)

def bodyFhStream (i : CmdIn) (s : State) : Ans :=
  let p := i.p
  let act := fld p 2 1
  let dir := fld p 3 1
  let k := dir * 4096 + fld p 0 2
  let old := s.line.streams.find? k
  let x := streamOf p
  let test := (s.line.ports.find? x.port).any fun e => e.lanes.any fun m => (s.lane m).stage == 14
  if act == 1 && !s.streamFits dir x then refuse s .badParam
  else if old.any (fun o => !s.ownsCell i.fn o.cell || (act ≤ 1 && s.cellLive o.cell)) then refuse s .notPermitted
  else if act = 1 && (s.cellLive x.cell || !s.ownsCell i.fn x.cell || !s.ownsMac i.fn x.port || test) then refuse s .notPermitted
  else if act = 0 then ok (s.modLine fun l => { l with streams := l.streams.del k }) (zeros 16)
  else if act = 2 then
    match old with
    | none => refuse s .badParam
    | some o => ok (s.modStream k fun y => { y with cnt := [0, 0, 0, 0] }) (o.cnt.flatMap fun v => leBytes 4 v)
  else if dir = 0 && s.line.streams.some? (fun j y => j < 4096 && j != k && y.port == x.port && y.key == x.key) then refuse s .noResource
  else ok (s.modLine fun l => { l with streams := l.streams.set k x }) (zeros 16)

/-- FH_STREAM_CONFIG. -/
def execFhStreamConfig (c : CmdRef) (s : State) : Host.Outcome State Fault Refusal := .next (runCmd layFhStream c bodyFhStream s)

/-! ## MACSEC_SA_INSTALL (R366 to R368, R371) -/

def layMacsec : Layout := ⟨0x040A, 96, true, fun _ =>
  [.rng 0 1 0 63, .rng 1 1 0 2, .rng 2 1 0 1, .rng 3 1 0 3, .rng 4 1 0 1, .bits 5 1 0xFC, .rsv 6 2, .rsv 80 16], fun _ => []⟩

/-- The association that a command names: a transmit AN of a port, or a receive AN of a channel. -/
def saNamed (p : List Byte) (a : MacSa) : Bool :=
  a.port == fld p 0 1 && a.tx == (fld p 2 1 == 1) && a.an == fld p 3 1 && (a.tx || a.sci == (p.drop 8).take 8)

def bodyMacsec (i : CmdIn) (s : State) : Ans :=
  let p := i.p
  let n := fld p 0 1
  let act := fld p 1 1
  let tx := fld p 2 1 == 1
  let old := s.line.sas.find? (saNamed p)
  let inUse := tx && old.isSome && (s.line.ports.find? n).any fun e => e.txAn == some (fld p 3 1)
  let res (s : State) (pn : Nat) : List Byte := leBytes 2 (512 - s.line.sas.length) ++ zeros 6 ++ leBytes 8 pn
  if act == 2 && !(tx && old.isSome) then refuse s .badParam
  else if !s.ownsMac i.fn n || (act ≤ 1 && inUse) then refuse s .notPermitted
  else if act = 0 then
    let s' := s.modLine fun l => { l with sas := l.sas.filter fun a => !saNamed p a }
    ok s' (res s' 0)
  else if act = 2 then
    match old with
    | some a => ok (s.modPort n fun e => { e with txAn := some a.an }) (res s a.nextPn)
    | none => refuse s .badParam
  else
    let sci := (p.drop 8).take 8
    let scs := ((s.line.sas.filter fun a => a.port == n && !a.tx).map MacSa.sci).dedup
    if old.isSome || 512 ≤ s.line.sas.length || (!tx && !scs.contains sci && 16 ≤ scs.length) then refuse s .noResource
    else
      let key := match s.dome.keks.find? (s.macOwner n) with
        | some kek => Config.keyUnwrap (nats kek) (nats ((p.drop 40).take 40))
        | none => none
      match key with
      | none => refuse s .authFail
      | some key =>
        let a : MacSa := ⟨n, tx, fld p 3 1, fld p 4 1, bit (fld p 5 1) 0, bit (fld p 5 1) 1, sci, fld p 16 8, fld p 24 4,
          (p.drop 28).take 12, fit 32 (bytesOf key), false, false⟩
        let s' := s.modLine fun l => { l with sas := l.sas ++ [a] }
        ok s' (res s' a.nextPn)

/-- MACSEC_SA_INSTALL. -/
def execMacsecSaInstall (c : CmdRef) (s : State) : Host.Outcome State Fault Refusal := .next (runCmd layMacsec c bodyMacsec s)

end Sys2Proof.Machine
end

