-- ==== Sys2Proof/Machine/Eth.lean ====
section
/-! DEFINITION. Ethernet traffic (chapter 12): received frames and their classification, the host rings, PTP and eCPRI
timestamps, packet fronthaul, and peer transport. -/

namespace Sys2Proof.Machine

/-! ## Receiving under MACsec (R366) -/

/-- What rule 1 makes of a frame: dropped, or the frame as the later rules see it and whether it was secured. -/
def State.openFrame (s : State) (n : Nat) (e : EthPort) (f : List Byte) : Option (List Byte × Bool) × State :=
  if !e.macsec || befld f 12 2 != 0x88E5 then (some (f, false), s)
  else
    let tci := befld f 14 1
    let sc := bit tci 5
    let conf := bit tci 3
    let low := befld f 16 4
    let tagLen := if sc then 16 else 8
    let body := f.drop (12 + tagLen)
    let plain : List Byte := f.take 12 ++ body.take (body.length - 16)
    let mine (a : MacSa) : Bool := a.port == n && !a.tx && a.an == tci % 4 && (if sc then a.sci == (f.drop 20).take 8 else a.dflt)
    let strict := e.validate == 2
    let bad (s : State) (c : Nat) : Option (List Byte × Bool) × State :=
      let s := if e.validate = 0 then s else s.portCount n c 1
      if strict || conf then (none, s) else (some (plain, true), s)
    match s.line.sas.find? mine with
    | none => bad s cMacBad
    | some a =>
      let hi := a.nextPn / 2 ^ 32
      let pn := if a.suite = 0 then low else if low + 2 ^ 31 < a.nextPn % 2 ^ 32 then (hi + 1) * 2 ^ 32 + low else hi * 2 ^ 32 + low
      let old := pn + e.replay < a.nextPn
      if old && strict then bad s cMacReplay
      else
        let s := if old && e.validate != 0 then s.portCount n cMacReplay 1 else s
        match Config.macOpen (a.suite * 2 + b2n conf) a.mat.1 a.mat.2 (nats a.sci) pn (nats (f.take (12 + tagLen))) (nats body) with
        | none => bad s cMacBad
        | some x =>
          let next := max a.nextPn (pn + 1)
          let near := a.near || pnNear a.suite < next
          let s := s.setSa { a with nextPn := next, near := near }
          (some (f.take 12 ++ bytesOf x, true), if near && !a.near then s.post (s.macOwner n) 0x0423 1 a.data else s)

/-! ## Host rings (R352, R353, R355) -/

/-- A range lies in a window of function 0 or of the port's tenant that permits the direction. -/
def State.ringOk (s : State) (n addr len : Nat) (wr : Bool) : Bool := s.hostOk 0 addr len wr || s.hostOk (s.macOwner n) addr len wr
/-- The function to whose host memory a ring belongs. -/
def State.ringFn (s : State) (n addr len : Nat) (wr : Bool) : Nat := if s.hostOk (s.macOwner n) addr len wr then s.macOwner n else 0

/-- ETH_RX_READY, at most once per 100 µs while receive descriptors are unreported. -/
def State.rxReady (s : State) (n : Nat) : State :=
  match s.line.ports.find? n with
  | none => s
  | some e =>
    if e.readyDue && (e.readyAt.all fun f => f + usToFrc 100 ≤ s.time.frc) then
      (s.modPort n fun e => { e with readyAt := some s.time.frc, readyDue := false }).post (s.macOwner n) 0x0421 0 n
    else s

/-- A descriptor handed back: address and length, FLAGS, TS (Table 12-3). -/
def descBytes (d : List Byte) (len flags : Nat) (ts : List Byte) : List Byte :=
  d.take 8 ++ leBytes 2 len ++ leBytes 2 flags ++ (d.drop 12).take 4 ++ fit 8 ts ++ zeros 8

/-- A frame for the host: into the next receive buffer, or dropped and counted. -/
def State.toHost (s : State) (n : Nat) (e : EthPort) (f : List Byte) (secured : Bool) (desc : List Byte) : State :=
  let d := fit 32 desc
  let at_ := e.rxRing + 32 * e.rxIdx
  let room := fld d 8 2
  let k := min room f.length
  if !e.rings || e.rxEntries = 0 || !bit (fld d 10 2) 0 || !s.ringOk n at_ 32 true || !s.ringOk n (fld d 0 8) k true then
    s.portCount n cHostDrops 1
  else
    let s := s.emit (.hostWrite (s.ringFn n (fld d 0 8) k true) (fld d 0 8) (f.take k) false)
    let flags := 8 + 16 * b2n (room < f.length) + 32 * b2n secured
    let s := s.emit (.hostWrite (s.ringFn n at_ 32 true) at_ (descBytes d f.length flags (s.ts32 s.time.frc)) false)
    (s.modPort n fun e => { e with rxIdx := (e.rxIdx + 1) % e.rxEntries, readyDue := true }).rxReady n

/-! ## One-way delay (R359) -/

/-- A time as 6 bytes of seconds and 4 of ns, big-endian, and its fraction times 2⁸. -/
def ptpStamp (t : Nat) : List Byte := let ns := t / 2 ^ 32; beBytes 6 (ns / 1000000000) ++ beBytes 4 (ns % 1000000000)
def fracComp (t : Nat) : Nat := t / 2 ^ 24 % 256 * 256

/-- Answer an eCPRI type 5 message: a Response to a Request, a Request to a Remote Request; none for the host. -/
def State.delayAnswer (s : State) (e : EthPort) (f : List Byte) (off : Nat) : Option (List Byte) :=
  let now := s.timeAt s.time.frc
  let act := befld f (off + 5) 1
  let head := (f.drop 6).take 6 ++ e.mac ++ (f.drop 12).take (off - 12)
  let msg (a : Nat) (comp : Nat) : List Byte :=
    head ++ ecpriHeader 5 20 ++ (f.drop (off + 4)).take 1 ++ beBytes 1 a ++ ptpStamp now ++ beBytes 8 comp
  if act ≤ 1 then some (msg 2 0) else if act = 3 then some (msg 0 (fracComp now)) else none

/-! ## Fronthaul reception (R357, R358, R361) -/

/-- The slot of a numerology at a subframe and a slot in it. -/
def slotAt (num sub sl : Nat) : Option Nat := (List.range (slotsPer num)).find? fun k => subSlot num k == (sub, sl)

/-- The radio frame nearest to the present time with a frameId. -/
def frameById (tl : Timeline) (theta : Int) (id : Nat) : Int :=
  let k := frameAt tl.toff (theta + 5000000 * nsUnit)
  let d := ((id : Int) - (k + tl.sfnBase)) % 256
  if d ≤ 128 then k + d else k + d - 256

/-- The sections of a U-plane message as (first PRB, records); none for an option outside Table 12-4. -/
def uSections (x : FhStream) : (fuel : Nat) → List Byte → Option (List (Nat × List (List Byte)))
  | 0, _ => some []
  | fuel + 1, bs =>
    if bs.isEmpty then some []
    else
      let w0 := befld bs 0 3
      let n := let v := befld bs 3 1; if v = 0 then x.prbCount else v
      let first := w0 % 1024
      let hdr := if x.compHdr then 6 else 4
      let ch := befld bs 4 1
      let w := if x.compHdr then (if ch / 16 = 0 then 16 else ch / 16) else x.width
      let okComp := if x.compHdr then (ch % 16 == 0 && w == 16) || (ch % 16 == 1 && [8, 9, 12, 14, 16].contains w) else true
      let per := prbBytes w
      let data := bs.drop hdr
      if bs.length < hdr || bit w0 11 || bit w0 10 || !okComp || data.length < n * per then none
      else
        let prbs := (List.range n).map fun i => decompress w ((data.drop (i * per)).take per)
        (uSections x fuel (data.drop (n * per))).map fun rest => (first, prbs) :: rest

/-- Write the accepted PRBs of a message, and note what has arrived. -/
def State.takePrbs (s : State) (k : Nat) (x : FhStream) (point : Nat) (secs : List (Nat × List (List Byte))) : State :=
  let prbs := secs.flatMap fun p => (List.range p.2.length).map fun i => (p.1 + i, p.2.getD i [])
  let mine := prbs.filter fun p => x.prbFirst ≤ p.1 && p.1 < x.prbFirst + x.prbCount
  let s := mine.foldl (fun s p => s.write whoL0 (recordAddr x.area x.ring x.prbStride (tpSlot point) (tpSym point) p.1) p.2 false) s
  let key := tpMake (tpSfn point) (tpSlot point) 0
  s.modStream k fun y =>
    let sl := y.slots.get ⟨[], false, false⟩ key
    let got := sl.got.set (tpSym point) ((sl.got.get [] (tpSym point) ++ mine.map Prod.fst).dedup)
    { y with slots := y.slots.set key { sl with got := got } }

/-- Mark a slot of a stream. -/
def State.markSlot (s : State) (k point : Nat) (f : FhSlot → FhSlot) : State :=
  let key := tpMake (tpSfn point) (tpSlot point) 0
  s.modStream k fun y => { y with slots := y.slots.set key (f (y.slots.get ⟨[], false, false⟩ key)) }

/-- A stream's cell sends and accepts: in service here, and not handed over (R392). -/
def State.cellActs (s : State) (c : Nat) : Bool :=
  s.cellLive c && !(s.clu.migs.some? fun _ m => m.source && m.cell == c && m.stage == .switched)

/-- A U-plane message at eCPRI offset `o` for one stream. -/
def State.uplaneRx (s : State) (n k : Nat) (x : FhStream) (f : List Byte) (o : Nat) : State :=
  let un (s : State) : State := s.portCount n cUnmatched 1
  let size := befld f (o + 2) 2
  match s.anchor? x.cell with
  | none => un s
  | some tl =>
    let tp := befld f (o + 10) 2
    let secs := uSections x 64 ((f.drop (o + 12)).take (size - 8))
    match slotAt tl.num (tp / 4096) (tp / 64 % 64), secs with
    | some slot, some secs =>
      let sym := tp % 64
      if symsPer tl.num ≤ sym || size < 8 || !s.cellActs x.cell then un s
      else
        let kf := frameById tl s.thetaNow (befld f (o + 9) 1)
        let point := tpMake (sfnOf tl.sfnBase kf) slot sym
        let seq := befld f (o + 6) 1
        let gap := x.rxSeq.any fun q => q != seq
        let s := s.modStream k fun y => { y with rxSeq := some ((seq + 1) % 256) }
        let s := if gap then (s.streamCount k 3 1).markSlot k point fun sl => { sl with gap := true } else s
        let at_ := nominal tl.toff kf (symOff tl.num slot sym)
        if s.thetaNow < at_ + x.winStart * nsUnit then s.streamCount k 1 1
        else if at_ + x.winEnd * nsUnit < s.thetaNow then
          ((s.streamCount k 2 1).markSlot k point fun sl => { sl with late := true }).postLate k
        else (s.streamCount k 0 1).takePrbs k x point secs
    | _, _ => un s

/-- An eCPRI message of type 0 or 2. -/
def State.ecpriRx (s : State) (n : Nat) (f : List Byte) (o : Nat) : State :=
  let tag := if o = 18 then befld f 14 2 % 4096 else 4096
  let h := befld f (o + 8) 1
  let form := befld f o 1 == 0x10 && befld f (o + 1) 1 == 0 && befld f (o + 7) 1 == 0x80 && h / 128 == 0 && h / 16 % 8 == 1
  match s.line.streams.first fun k x => k < 4096 && x.port == n && x.key == (tag, befld f (o + 4) 2, h % 16) with
  | some (k, x) => if form then s.uplaneRx n k x f o else s.portCount n cUnmatched 1
  | none => s.portCount n cUnmatched 1

/-! ## Peer transport (R364, R365) -/

/-- A request packet as its units hold it (Tables 14-1 to 14-3); none for any other packet. -/
def packetReq (us : List Byte) : Option MeshReq :=
  let h := us.take 64
  let n := us.length / 66
  let cmd := fld h 4 1
  let unit (i : Nat) : List Byte := (us.drop (66 * i)).take 66
  let task := fld h 24 4
  if cmd = 1 || cmd = 2 then
    some ⟨13 * 4, fld h 5 1 % 4, fld h 6 2 % 4096, fld h 8 2, cmd == 2, fld h 12 6, fld h 10 2 % 4096 + 1,
      if task = 0 then none else some (task % 2 ^ 18), (List.range (n - 1)).flatMap fun i => (unit (i + 1)).take 64,
      (List.range (n - 1)).filter fun i => bit (fld (unit (i + 1)) 64 2) 0⟩
  else none

/-- A packet of a member has arrived whole. -/
def State.peerPacket (s : State) (d : Nat) (us : List Byte) : State :=
  match packetReq us with
  | some r => doPeerRequest s.time.frc d r none 0 s
  | none => s

/-- An acknowledgement: frames before ACK are done, progress is made, the window opens. -/
def State.peerAck (s : State) (d : Nat) (m : Member) (cls ack : Nat) : State :=
  let x := s.peerTx (d * 4 + cls)
  let done := x.unacked.takeWhile fun f => (ack + 2 ^ 32 - (f.1 + 1) % 2 ^ 32) % 2 ^ 32 < 2 ^ 31
  if done.isEmpty then s
  else
    let s := s.modPeerTx (d * 4 + cls) fun x => { x with
      acked := x.acked + done.length, unacked := x.unacked.drop done.length, progress := s.time.frc, tries := 0, lost := false }
    s.peerPush d m cls (256 - done.length)

/-- A frame of peer transport, its header at offset `o`. -/
def State.peerRx (s : State) (f : List Byte) (o : Nat) (env : EthEnv) : State :=
  let h := f.drop o
  let src := fld h 2 2 % 1024
  let cls := fld h 6 1 % 4
  let mine := match s.clu.joining with
    | some (p, _) => fld h 4 2 % 1024 == fld p 4 2
    | none => s.member && fld h 4 2 % 1024 == s.deviceId
  if fld h 0 1 != 1 || !mine then s
  else
    let s := if env.rejoined && (s.clu.members.find? src).any Member.up then s.loseMember src else s
    let s := s.heardFrom src env.step
    match s.clu.members.find? src with
    | none => s
    | some m =>
      let s := s.peerAck src m cls (fld h 12 4)
      if fld h 1 1 != 0 then s
      else
        let k := src * 4 + cls
        let x := s.peerTx k
        let ack (s : State) : State := s.peerFrame src m 1 cls 0 0 []
        if fld h 8 4 != x.rxNext then ack s
        else
          let frag := fld h 7 1 % 4
          let us := (h.drop 16).take ((h.length - 16) / 66 * 66)
          let parts := if frag ≤ 1 then us else x.parts ++ us
          let whole := frag == 0 || frag == 3
          let s := s.modPeerTx k fun x => { x with rxNext := (x.rxNext + 1) % 2 ^ 32, parts := if whole then [] else parts }
          let s := ack s
          if whole then s.peerPacket src parts else s

/-- PEER_RETRANSMIT: 50 µs without progress: every frame of the window goes again; the sixteenth time in vain loses the link. -/
def doPeerRetransmit (t d cls : Nat) (s : State) : State :=
  let s := s.advance t
  if s.stopped then s else
  let k := d * 4 + cls
  let x := s.peerTx k
  match s.clu.members.find? d with
  | none => s
  | some m =>
    if x.unacked.isEmpty || x.lost || s.time.frc < x.progress + usToFrc 50 then s
    else if 16 ≤ x.tries then
      let s := (s.modPeerTx k fun x => { x with lost := true }).postAll 0x0425 2 (d + 4096 * cls)
      if m.up && (List.range 4).all fun c => (s.peerTx (d * 4 + c)).lost then s.loseMember d else s
    else
      let s := s.modPeerTx k fun x => { x with tries := x.tries + 1, progress := s.time.frc }
      (s.portCount m.port cPeerRetx (min 256 x.unacked.length)).peerPush d m cls 0

/-- PEER_RETRANSMIT. -/
def execPeerRetransmit (t d cls : Nat) (s : State) : Host.Outcome State Fault Refusal := .next (doPeerRetransmit t d cls s)

/-- A keepalive is due: nothing has left for the member for 100 µs, or, while a migration with it is in progress, no keepalive for
20 µs (R365, R383). -/
def State.keepDue (s : State) (d : Nat) (m : Member) : Bool :=
  m.sent + usToFrc 100 ≤ s.time.frc || ((s.clu.migs.some? fun _ g => g.dev == d) && m.path == 2 && m.kept + usToFrc 20 ≤ s.time.frc)

/-- PEER_KEEPALIVE: a keepalive leaves on an idle link to a member. -/
def doPeerKeepalive (t d cls : Nat) (s : State) : State :=
  let s := s.advance t
  if s.stopped then s else
  match s.clu.members.find? d with
  | some m =>
    let kept (s : State) : State := s.modClu fun c => { c with members := c.members.upd d fun m => { m with
      sent := s.time.frc, kept := s.time.frc } }
    if !s.keepDue d m then s
    else if m.path = 2 then kept (s.peerFrame d m 2 cls 0 0 [])
    else if m.path = 1 then kept (s.emit (.peerMsg d .keepalive))
    else s
  | none => s

/-- PEER_KEEPALIVE. -/
def execPeerKeepalive (t d cls : Nat) (s : State) : Host.Outcome State Fault Refusal := .next (doPeerKeepalive t d cls s)

/-! ## Classification (R350, R351) -/

/-- Rule 8: PTP over Ethernet or UDP. -/
def isPtp (f : List Byte) (et o : Nat) : Bool :=
  let port (at_ : Nat) : Bool := befld f at_ 2 == 319 || befld f at_ 2 == 320
  et == 0x88F7 || (et == 0x0800 && befld f (o + 9) 1 == 17 && port (o + befld f o 1 % 16 * 4 + 2))
    || (et == 0x86DD && befld f (o + 6) 1 == 17 && port (o + 42))

/-- Rules 2 to 9, on a frame after verification. -/
def State.classify (s : State) (n : Nat) (e : EthPort) (f : List Byte) (secured : Bool) (env : EthEnv) : State :=
  let (et, o) := etherType f
  let da := f.take 6
  let host (s : State) : State := s.toHost n e f secured env.desc
  if befld f 12 2 = 0x888E then host s
  else if !secured && e.validate = 2 then s.portCount n cUnsecured 1
  else if da != e.mac && da != List.replicate 6 255
      && !(e.ptpMcast && (befld f 0 6 == 0x011B19000000 || befld f 0 6 == 0x0180C200000E)) then s.portCount n cAddr 1
  else if et = 0xAEFE && (befld f (o + 1) 1 == 0 || befld f (o + 1) 1 == 2) then s.ecpriRx n f o
  else if et = 0xAEFE && befld f (o + 1) 1 = 5 then
    match s.delayAnswer e f o with
    | some a => s.ethSend n a
    | none => host s
  else if e.peer && et = (if e.etype = 0 then 0x88B5 else e.etype) then s.peerRx f o env
  else if isPtp f et o || e.hostRx then host s
  else s.portCount n cUnmatched 1

/-- ETH_FRAME_RX: a frame from its destination address, without FCS, on a port. -/
def doEthFrameRx (t n : Nat) (f : List Byte) (env : EthEnv) (s : State) : State :=
  let s := s.advance t
  if s.stopped then s else
  match s.line.ports.find? n with
  | none => s
  | some e =>
    if !s.portRuns n then s
    else
      let s := (s.portCount n 13 env.fecOk).portCount n 14 env.fecBad
      if !env.fcsOk then s.portCount n cFcs 1
      else if f.length + 4 < 64 || e.maxFrame < f.length + 4 then s.portCount n cSize 1
      else
        let s := (s.portCount n cRxFrames 1).portCount n cRxBytes (f.length + 4)
        if befld f 12 2 = 0x8808 then s.portCount n cUnmatched 1
        else match s.openFrame n e f with
          | (none, s) => s
          | (some (g, sec), s) => s.classify n e g sec env

/-- ETH_FRAME_RX. -/
def execEthFrameRx (t n : Nat) (f : List Byte) (env : EthEnv) (s : State) : Host.Outcome State Fault Refusal :=
  .next (doEthFrameRx t n f env s)

/-! ## Host transmission (R352, R354 to R356) -/

/-- HOST_TX_POLL: the device reads the next transmit descriptor of a port; one whose OWN was clear it reads again after 10 µs. -/
def doHostTxPoll (t n : Nat) (desc : List Byte) (s : State) : State :=
  let s := s.advance t
  if s.stopped then s else
  let s := s.rxReady n
  match s.line.ports.find? n with
  | none => s
  | some e =>
    if !e.rings || e.txEntries = 0 || e.txDesc.isSome || !s.portRuns n || !s.ringOk n (e.txRing + 32 * e.txIdx) 32 false
        || (e.pollAt.any fun f => s.time.frc < f + usToFrc 10) then s
    else if bit (fld desc 10 2) 0 then s.modPort n fun e => { e with txDesc := some (fit 32 desc), pollAt := none }
    else s.modPort n fun e => { e with pollAt := some s.time.frc }

/-- HOST_TX_POLL. -/
def execHostTxPoll (t n : Nat) (desc : List Byte) (s : State) : Host.Outcome State Fault Refusal := .next (doHostTxPoll t n desc s)

/-- A big-endian field of a frame increased, and replaced. -/
def putBe (f : List Byte) (off n v : Nat) : List Byte := splice f off (beBytes n v)

/-- The frame with the departure time written into it (R356); none for a message that ONE_STEP does not apply to. -/
def oneStep (f : List Byte) (off tm : Nat) : Option (List Byte) :=
  let (et, o) := etherType f
  let udp4 := et == 0x0800 && befld f (o + 9) 1 == 17
  if et = 0xAEFE then
    if befld f (off + 1) 1 = 5 then
      let f := splice f (off + 6) (ptpStamp tm)
      some (putBe f (off + 16) 8 (befld f (off + 16) 8 + fracComp tm))
    else none
  else if (et = 0x88F7 || (udp4 && isPtp f et o)) && befld f off 1 % 16 = 0 then
    let f := splice f (off + 34) (ptpStamp tm)
    let f := putBe f (off + 8) 8 (befld f (off + 8) 8 + fracComp tm)
    some (if udp4 then putBe f (o + befld f o 1 % 16 * 4 + 6) 2 0 else f)
  else none

/-- Rule R354: IQ, real-time control and peer transport leave only through the device. -/
def txRefused (e : EthPort) (f : List Byte) : Bool :=
  let (et, o) := etherType f
  (et == 0xAEFE && (befld f (o + 1) 1 == 0 || befld f (o + 1) 1 == 2)) || et == (if e.etype = 0 then 0x88B5 else e.etype)

/-- HOST_TX_FRAME: the frame of the descriptor taken, as read from its buffer, is checked, timestamped and sent, or refused;
the descriptor is handed back. -/
def doHostTxFrame (t n : Nat) (frame : List Byte) (poison : Bool) (s : State) : State :=
  let s := s.advance t
  if s.stopped then s else
  match s.line.ports.find? n with
  | none => s
  | some e =>
    match e.txDesc with
    | none => s
    | some d =>
      if !e.rings || !s.portRuns n then s
      else
        let len := fld d 8 2
        let fl := fld d 10 2
        let f := fit len frame
        let at_ := e.txRing + 32 * e.txIdx
        let back (s : State) (ok ts : Bool) : State :=
          let flags := fl % 8 - fl % 2 + 8 * b2n ts + 16 * b2n !ok
          let s := s.emit (.hostWrite (s.ringFn n at_ 32 false) at_ (descBytes d len flags (if ts then s.ts32 s.time.frc else zeros 8)) false)
          s.modPort n fun e => { e with txDesc := none, txIdx := (e.txIdx + 1) % e.txEntries }
        if poison then back (s.poisonEgress (s.macOwner n) 3 n 1) false false
        else if len < 14 || e.maxFrame - 4 < len || !s.ringOk n (fld d 0 8) len false then back s false false
        else if txRefused e f then back (s.portCount n cTxRefused 1) false false
        else match (if bit fl 2 then oneStep f (fld d 12 2) (s.timeAt s.time.frc) else some f) with
          | none => back s false false
          | some g => back (s.ethSend n g) true (bit fl 1)

/-- HOST_TX_FRAME. -/
def execHostTxFrame (t n : Nat) (frame : List Byte) (poison : Bool) (s : State) : Host.Outcome State Fault Refusal :=
  .next (doHostTxFrame t n frame poison s)

/-! ## Fronthaul transmission (R360, R362) -/

/-- L0 runs: awake, not in WATCH. -/
def State.l0Runs (s : State) : Bool := !s.asleep 13 && !s.stopped

/-- Hand frames to the Damper. -/
def State.hold (s : State) (h : Held) : State := s.modLine fun l => { l with held := l.held ++ [h] }

/-- UPLANE_TX: TX_ADVANCE_NS before the strobe of a symbol, a downlink stream's released records go to the Damper as frames. -/
def doUplaneTx (t id point : Nat) (s : State) : State :=
  let s := s.advance t
  if s.stopped then s else
  let k := 4096 + id
  match s.line.streams.find? k with
  | none => s
  | some x =>
    match s.anchor? x.cell, s.line.ports.find? x.port with
    | some tl, some e =>
      if 4096 ≤ id || !s.l0Runs || !s.cellActs x.cell || !tpValid tl.num point then s
      else
        let kf := tpFrame tl s.thetaNow point
        let nom := nominal tl.toff kf (symOff tl.num (tpSlot point) (tpSym point))
        let as := (List.range x.prbCount).map fun i =>
          recordAddr x.area x.ring x.prbStride (tpSlot point) (tpSym point) (x.prbFirst + i)
        if s.thetaNow < nom - x.advance * nsUnit || !(as.any s.lineReady) then s
        else
          let (prbs, sat, pois) := s.compressed x.width as
          let s := ((s.streamCount k 3 sat).poisonEgress (s.cellOwner x.cell) 1 id pois).takeLines as
          let s := s.modStream k fun y => { y with txSeq := (y.txSeq + uplaneCount x e) % 256 }
          s.hold ⟨k, point, s.frcOfTheta nom, x.txSeq, prbs, []⟩
    | _, _ => s

/-- UPLANE_TX. -/
def execUplaneTx (t id point : Nat) (s : State) : Host.Outcome State Fault Refusal := .next (doUplaneTx t id point s)

/-- CPLANE_TX: the next message of a C-plane stream's ring goes to the Damper at its SEND_AT less TX_ADVANCE_NS, or is
skipped. -/
def doCplaneTx (t id : Nat) (s : State) : State :=
  let s := s.advance t
  if s.stopped then s else
  let k := 8192 + id
  match s.line.streams.find? k with
  | none => s
  | some x =>
    match s.anchor? x.cell with
    | none => s
    | some tl =>
      let wr := leNat (s.bytesAt x.area 4)
      let rd := leNat (s.bytesAt (x.area + 4) 4)
      if 4096 ≤ id || !s.l0Runs || !s.cellActs x.cell || x.entries = 0 || wr = rd then s
      else
        let a := x.area + 64 + 1024 * (rd % x.entries)
        let slot := s.bytesAt a 1024
        let len := fld slot 0 2
        let point := fld slot 4 4
        let msg := (slot.drop 8).take len
        let next (s : State) : State := s.write whoL0 (x.area + 4) (leBytes 4 (rd + 1)) false
        if s.poisonIn a 1024 then next (((s.logRead whoL0 a 1024)).poisonEgress (s.cellOwner x.cell) 2 id 1)
        else if 1000 < len || !([0, 1, 3].contains (fld msg 5 1)) || !tpValid tl.num point then (next s).streamCount k 2 1
        else
          let kf := tpFrame tl s.thetaNow point
          let nom := nominal tl.toff kf (symOff tl.num (tpSlot point) (tpSym point))
          if s.thetaNow < nom - x.advance * nsUnit then s
          else
            let s := if nom < s.thetaNow then s.streamCount k 1 1 else s
            let s := next (s.modStream k fun y => { y with txSeq := (y.txSeq + 1) % 256 })
            s.hold ⟨k, point, s.frcOfTheta nom, x.txSeq, [], msg⟩

/-- CPLANE_TX. -/
def execCplaneTx (t id : Nat) (s : State) : Host.Outcome State Fault Refusal := .next (doCplaneTx t id s)

/-- UPLINK_WINDOW_CLOSE: the window of the last symbol of a slot closes, and the status word is written (R361). -/
def doUplinkWindowClose (t id point : Nat) (s : State) : State :=
  let s := s.advance t
  if s.stopped then s else
  match s.line.streams.find? id with
  | none => s
  | some x =>
    match s.anchor? x.cell with
    | none => s
    | some tl =>
      let key := tpMake (tpSfn point) (tpSlot point) 0
      let last := symsPer tl.num - 1
      let kf := tpFrame tl s.thetaNow key
      if 4096 ≤ id || !s.l0Runs || !tpValid tl.num key
          || s.thetaNow < nominal tl.toff kf (symOff tl.num (tpSlot point) last) + x.winEnd * nsUnit then s
      else
        let sl := x.slots.get ⟨[], false, false⟩ key
        let all := (List.range (last + 1)).all fun i => (sl.got.get [] i).length == x.prbCount
        let s := s.modStream id fun y => { y with slots := y.slots.del key }
        if x.status = 0 then s
        else s.write whoL0 x.status (leBytes 4 key ++ leBytes 1 (b2n all + 2 * b2n sl.late + 4 * b2n sl.gap) ++ zeros 3) false

/-- UPLINK_WINDOW_CLOSE. -/
def execUplinkWindowClose (t id point : Nat) (s : State) : Host.Outcome State Fault Refusal := .next (doUplinkWindowClose t id point s)

end Sys2Proof.Machine
end

