-- ==== Sys2Proof/Machine/FscCmds.lean ====
section
/-! DEFINITION. Finderscope commands (R527 to R531): listening streams, rules, the ADC sequence, calibration and status. -/

namespace Sys2Proof.Machine

/-! ## FSC_LISTEN_CONFIG (R527) -/

/-- Fields of a stream that is set (Table 18-10); those of one detector only when KIND selects it (log entry 16). -/
def fscSetOk (p : List Byte) : Bool :=
  let kind := fld p 4 1
  let cont := bit (fld p 6 1) 0
  let decim := fld p 5 1
  let on := fld p 12 4
  let per := fld p 16 4
  let chime := bit kind 0
  let prach := bit kind 1
  1 ≤ kind && kind < 8 && (decim == 1 || decim == 2 || decim == 4) && fld p 6 1 < 2
  && -768000 ≤ sfld p 8 4 && sfld p 8 4 ≤ 768000
  && (if cont then on == 0 && per == 0 else 1000 ≤ on && on ≤ 10000000 && on ≤ per && per ≤ 60000000)
  && !((chime || prach) && decim != 1)
  && (!chime || ((cont || 2500 ≤ on) && fld p 20 2 ≤ 1022 && 64 ≤ fld p 22 1 && 2 ≤ fld p 7 1 && fld p 7 1 ≤ 60))
  && (if bit kind 2 then 1 ≤ fld p 23 1 else fld p 23 1 == 0)
  && (!prach || ((fld p 25 1 ≤ 2 || (0x20 ≤ fld p 25 1 && fld p 25 1 ≤ 0x23)) && fld p 26 2 ≤ 383 && 1 ≤ fld p 28 2
      && fld p 28 2 ≤ 838 && fld p 30 2 ≤ 419 && 1 ≤ fld p 32 1 && fld p 32 1 ≤ 64 && [1, 2, 4, 8, 16].contains (fld p 33 1)
      && fld p 34 1 < fld p 33 1 && fld p 36 2 < 1024))

def layFscListenConfig : Layout := ⟨0x0701, 48, false, fun p =>
  [.rng 0 1 0 15, .rng 1 1 0 1, .rng 2 2 0 4095, .bits 4 1 0xF8, .bits 6 1 0xFE, .rng 26 2 0 383, .rsv 35 1, .rsv 40 8, .cond (fld p 1 1 == 0 || fscSetOk p)], fun _ => []⟩

/-- A receive trail of label 0x06 on lane 0 or 64. -/
def State.listens (s : State) (trail : Nat) : Bool :=
  (s.line.trails.find? trail).any fun t => !t.tx && t.label == 6 && (t.lane == 0 || t.lane == 64)

def bodyFscListenConfig (i : CmdIn) (s : State) : Ans :=
  let n := fld i.p 0 1
  if fld i.p 1 1 = 0 then
    ok ((s.loseReception n).modFsc fun x => { x with streams := x.streams.del n }) []
  else if !s.listens (fld i.p 2 2) then refuse s .badParam
  else
    let s := s.loseReception n
    let old := s.fsc.streams.find? n
    let f := s.time.frc
    let x : FscStream :=
      { cfg := fit 48 i.p, opened := false, rx := .search, detAt := 0, syncAt := 0, latched := 0, rssi := 0, gain := none
        last := old.bind FscStream.last, energy := 0, energyAt := f, occ := none
        phi := ncoIncrement (sfld i.p 8 4), chainAt := f, validAt := 0, agc := 0 }
    let x := { x with opened := s.windowNow x }
    ok (s.putFsc n (match old with
      | some o => if o.opened && x.opened && o.trail == x.trail then x.retuned o f else if x.opened then x.restart f else x
      | none => if x.opened then x.restart f else x)) []

def execFscListenConfig (c : CmdRef) (s : State) : Host.Outcome State Fault Refusal :=
  .next (runCmd layFscListenConfig c bodyFscListenConfig s)

/-! ## FSC_RULES_LOAD (R528) -/

/-- A rule keeps to Tables 18-7 and 18-8. -/
def fscRuleOk (r : List Byte) : Bool :=
  let ev := fld r 1 1
  let src := fld r 2 1
  let cell := fld r 14 2
  let per := fld r 28 2
  fld r 0 1 < 8 && 1 ≤ ev && ev ≤ 7
  && (if ev ≤ 2 then src < 16 || src == 0xFF else if ev = 3 then src < 16 else if ev ≤ 5 then src < 32
      else if ev = 6 then src < 8 else src == 0)
  && 1 ≤ fld r 3 1 && (ev == 1 || fld r 8 2 == 0) && fld r 10 2 < 512 && fld r 12 2 < 512
  && (cell ≤ 383 || (cell == 0x1FF && ev != 7))
  && fld r 16 1 < 32 && fld r 17 1 == 0 && fld r 18 2 < 16384 && fld r 20 2 < 4096 && fld r 22 2 < 4096
  && (ev != 7 || (bits (fld r 24 4) 7 0 == 0 && [1, 2, 4, 8, 16, 32, 64, 128, 256, 512, 1024].contains per))

/-- A timer word (Table 18-11). -/
def fscTimerOk (w : Nat) : Bool := bits w 29 24 == 0 && (!bit w 31 || 1 ≤ bits w 23 0)

/-- TL_POINT of a TIMELINE rule names a slot and symbol of its cell's numerology, once the cell or its timeline has one (R99). -/
def State.fscPointOk (s : State) (r : List Byte) : Bool :=
  fld r 1 1 != 7 || (match s.cells.find? (fld r 14 2), s.anchor? (fld r 14 2) with
    | some c, _ => tpValid c.num (fld r 24 4)
    | none, some tl => tpValid tl.num (fld r 24 4)
    | none, none => true)

/-- Rule `i` of the parameters. -/
def fscRuleAt (p : List Byte) (i : Nat) : List Byte := (p.drop (64 + 32 * i)).take 32

def layFscRulesLoad : Layout := ⟨0x0702, 64, true, fun _ => [], fun _ => []⟩

def bodyFscRulesLoad (i : CmdIn) (s : State) : Ans :=
  let p := i.p
  let n := fld p 0 2
  let ws := (List.range 8).map fun k => fld p (8 + 4 * k) 4
  if 64 < n || p.length < 64 + 32 * n || !allZero ((p.drop 2).take 6) || !allZero ((p.drop 40).take 24)
      || !(ws.all fscTimerOk) || !((List.range n).all fun k => fscRuleOk (fscRuleAt p k) && s.fscPointOk (fscRuleAt p k)) then refuse s .badParam
  else if s.pow.mode = .drain then refuse s .notPermitted
  else
    ok (s.modFsc fun x => { x with
      rules := (List.range n).map fun k => ⟨fscRuleAt p k, [], [], true, none⟩
      timers := ws.map fun w => ⟨w, s.time.frc, bit w 31⟩ }) []

def execFscRulesLoad (c : CmdRef) (s : State) : Host.Outcome State Fault Refusal :=
  .next (runCmd layFscRulesLoad c bodyFscRulesLoad s)

/-! ## The ADC (R529, R530) -/

/-- A channel of Table 18-5. -/
def adcChannel (c : Nat) : Bool := c < 8 || (0x10 ≤ c && c ≤ 0x1B) || (0x20 ≤ c && c ≤ 0x23)

def layAdcSeqConfig : Layout := ⟨0x0703, 16, true, fun p =>
  let n := fld p 0 1
  [.rng 0 1 1 32, .rng 1 1 0 1, .rsv 2 2, .rsv 8 8, .cond (16 + 4 * n ≤ p.length),
   .cond (fld p 4 4 == 0 || (n ≤ fld p 4 4 && fld p 4 4 ≤ 10000000)),
   .cond ((List.range (min 32 n)).all fun e =>
     adcChannel (fld p (16 + 4 * e) 1) && fld p (17 + 4 * e) 1 < 8 && fld p (18 + 4 * e) 2 == 0)], fun _ => []⟩

/-- Configure an entry: its filter restarts when CHANNEL or FILTER_N changes; its results count from here (R519, Table 18-6). -/
def AdcEntry.configure (x : AdcEntry) (chan filt : Nat) : AdcEntry :=
  let same := x.chan == chan && x.filt == filt
  { x with chan := chan, filt := filt, seq := 0, acc := if same then x.acc else 0, count := if same then x.count else 0 }

def bodyAdcSeqConfig (i : CmdIn) (s : State) : Ans :=
  let p := i.p
  let n := fld p 0 1
  ok (s.modAdc fun a => { a with
    num := n, finish := fld p 1 1 == 1, passUs := fld p 4 4, running := none, lastPass := none
    entries := (List.range n).foldl (fun t e =>
      t.set e ((t.get AdcEntry.reset e).configure (fld p (16 + 4 * e) 1) (fld p (17 + 4 * e) 1))) a.entries }) []

def execAdcSeqConfig (c : CmdRef) (s : State) : Host.Outcome State Fault Refusal :=
  .next (runCmd layAdcSeqConfig c bodyAdcSeqConfig s)

def layAdcSelfcal : Layout := ⟨0x0704, 4, false, fun _ => [.rsv 0 4], fun _ => []⟩

def bodyAdcSelfcal (_ : CmdIn) (s : State) : Ans := (s.startCal, .later .adcCal)

def execAdcSelfcal (c : CmdRef) (s : State) : Host.Outcome State Fault Refusal :=
  .next (runCmd layAdcSelfcal c bodyAdcSelfcal s)

/-! ## FSC_STATUS (R531) -/

def layFscStatus : Layout := ⟨0x0705, 16, false, fun p => [optBuf (fld p 0 8) (fld p 8 4) 1024, .bits 12 1 0xFE, .rsv 13 3],
  fun p => if fld p 0 8 = 0 then [] else [(fld p 0 8, fld p 8 4)]⟩

/-- The inline result. -/
def State.fscInline (s : State) : List Byte :=
  let f := s.fsc
  leBytes 1 (b2n s.rcRuns + 2 * b2n f.adc.calibrated + 4 * b2n (!f.rules.isEmpty)) ++ leBytes 1 f.streams.length
    ++ leBytes 1 ((f.lastFire.map FscFiring.rule).getD 0xFF) ++ leBytes 1 ((f.lastFire.map FscFiring.event).getD 0)
    ++ leBytes 4 f.wakes ++ (match f.lastFire with
      | some x => s.ts32 x.frc
      | none => zeros 8)

/-- A stream's counters. -/
def State.fscStreamBytes (s : State) (n : Nat) : List Byte :=
  let c := s.fsc.counts.get fscZero n
  ((List.range 6).flatMap fun i => leBytes 4 (c.getD i 0)) ++ leBytes 2 (c.getD 6 0) ++ leBytes 2 (c.getD 7 0) ++ leBytes 4 (c.getD 8 0)

/-- A log entry of the buffer (R526). -/
def State.fscLogBytes (s : State) (x : FscFiring) : List Byte :=
  s.ts32 x.frc ++ leBytes 1 x.rule ++ leBytes 1 x.event ++ leBytes 1 x.source ++ leBytes 1 x.acts ++ leBytes 4 x.data

/-- The streams whose counters a function may read: all for function 0, the PRACH streams of its cells for another. -/
def State.fscSeen (s : State) (fn : Nat) : List Nat :=
  (List.range 16).filter fun n =>
    fn == 0 || (s.fsc.streams.find? n).any fun x => x.prach && s.ownsCell fn x.cell

/-- The result buffer for function 0; another reads only the counters it may see. -/
def State.fscBuffer (s : State) (fn : Nat) : List Byte :=
  let streams := (List.range 16).flatMap fun n => if (s.fscSeen fn).contains n then s.fscStreamBytes n else zeros 32
  if fn != 0 then zeros 32 ++ streams ++ zeros 480
  else
    let a := s.fsc.adc
    fit 32 s.fscInline ++ streams
      ++ ((List.range 32).flatMap fun e =>
        let x := a.entries.get AdcEntry.reset e
        leBytes 4 (x.word x.newSt))
      ++ leBytes 2 (unsgn 12 a.offset) ++ leBytes 2 a.gain ++ leBytes 4 s.fsc.rateLimited ++ zeros 8 ++ fit 16 s.fsc.lastChime
      ++ fit 320 ((s.fsc.log.take 20).flatMap s.fscLogBytes)

def bodyFscStatus (i : CmdIn) (s : State) : Ans :=
  let buf := fld i.p 0 8 != 0
  let r : Reply := if buf then .okBuf (fld i.p 0 8) (s.fscBuffer i.fn) else .ok s.fscInline
  let s := if buf && i.fn = 0 then s.modAdc fun a => { a with entries := a.entries.each fun _ x => { x with newSt := false } } else s
  let seen := if buf then s.fscSeen i.fn else []
  let s := if !bit (fld i.p 12 1) 0 then s
    else s.modFsc fun x => { x with
      counts := x.counts.keep fun n _ => !seen.contains n
      rateLimited := if buf && i.fn == 0 then 0 else x.rateLimited
      wakes := if buf && i.fn != 0 then x.wakes else 0 }
  (s, .done r)

def execFscStatus (c : CmdRef) (s : State) : Host.Outcome State Fault Refusal :=
  .next (runCmd layFscStatus c bodyFscStatus s)

end Sys2Proof.Machine
end

