-- ==== Sys2Proof/Machine/KernelCheck.lean ====
section
/-! DEFINITION. The load-time checks of a code section (R199, Tables 6-1 to 6-10). -/

namespace Sys2Proof.Machine

/-- A register code of Table 6-2. -/
def codeOk (g : Nat) : Bool := g < 0x60

/-- Bits [hi:lo] of a number are 0. -/
def zeroBits (v hi lo : Nat) : Bool := bits v hi lo == 0

/-- A move field is legal (Table 6-3). -/
def moveOk (f : Nat) : Bool :=
  match bits f 16 15 with
  | 0 => zeroBits f 14 0
  | 3 => false
  | _ => bits f 5 4 != 3

/-- OPD of a format V word is legal for its operation (Tables 6-5, 6-6). -/
def vectorOk (opc d : Nat) : Bool :=
  let accOnly := zeroBits d 16 15
  if opc = 0x00 then d == 0
  else if (0x01 ≤ opc && opc ≤ 0x07) || opc = 0x0B || opc = 0x0C || opc = 0x0E || opc = 0x0F then zeroBits d 4 0
  else if opc = 0x08 || opc = 0x0D then zeroBits d 9 0
  else if opc = 0x09 || opc = 0x0A then zeroBits d 9 5 && bits d 4 0 ≤ 15
  else if opc = 0x10 then zeroBits d 9 1
  else if opc = 0x11 then zeroBits d 9 4
  else if 0x20 ≤ opc && opc ≤ 0x24 then accOnly && zeroBits d 4 0
  else if opc = 0x25 then accOnly && zeroBits d 9 4
  else if 0x26 ≤ opc && opc ≤ 0x28 then bits d 19 17 != bits d 16 14
  else if opc = 0x29 then zeroBits d 16 14 && !bit d 9 && zeroBits d 8 4
  else if opc = 0x2A then bits d 19 17 != bits d 16 14 && !bit d 9 && zeroBits d 8 4
  else if opc = 0x2B then zeroBits d 16 0
  else if opc = 0x2C then accOnly && zeroBits d 9 5 && bits d 4 0 ≤ 24
  else if opc = 0x2D || opc = 0x2E then zeroBits d 13 0
  else false

/-- OPD of a format S word is legal (R185, Table 6-7). -/
def scalarOk (opc d : Nat) : Bool :=
  if opc = 0x00 then d == 0
  else if 0x01 ≤ opc && opc ≤ 0x0E then zeroBits d 4 0
  else if 0x41 ≤ opc && opc ≤ 0x4E then !(0x47 ≤ opc && opc ≤ 0x49) || zeroBits d 9 5
  else if opc = 0x20 then codeOk (bits d 19 13) && codeOk (bits d 12 6) && zeroBits d 5 0
  else if opc = 0x21 then codeOk (bits d 19 13) && codeOk (bits d 12 6)
  else false

/-- A format M word is legal (Tables 6-8, 6-9). -/
def memoryOk (w : Nat) : Bool :=
  let opc := wOpc w
  let access := bits w 44 43 != 3 && zeroBits w 32 32 && (if wMsrc w then wImm32 w == 0 else wMreg w == 0)
  if opc = 0x01 || opc = 0x02 then codeOk (wReg w) && zeroBits w 48 32
  else if opc = 0x08 || opc = 0x09 then codeOk (wReg w) && access && zeroBits w 37 33
  else if opc = 0x10 || opc = 0x11 || opc = 0x12 then zeroBits w 55 54 && access && zeroBits w 37 33
  else if opc = 0x18 || opc = 0x19 then zeroBits w 55 52 && access
  else false

/-- Statuses that EXIT.F may name (R199): those of Table 2-15 but SUCCESS, NOT_READY, REPEATED and REVOKED. -/
def exitCodes : List Nat :=
  [0x10, 0x11, 0x12, 0x13, 0x20, 0x21, 0x22, 0x30, 0x31, 0x32, 0x41, 0x50, 0x51, 0x60, 0x61, 0x62, 0xFF]

/-- Operations of format C by the fields they use. -/
def ctlTgt : List Nat := [0x01, 0x02, 0x03, 0x04, 0x05, 0x08, 0x10, 0x11]
def ctlSa : List Nat := [0x02, 0x03, 0x04, 0x05, 0x10]
def isLoop (w : Nat) : Bool := wFmt w == 2 && (wOpc w == 0x10 || wOpc w == 0x11)

/-- A format C word is legal in a kernel of `n` code words (R187, Table 6-10). -/
def controlOk (w n : Nat) : Bool :=
  let opc := wOpc w
  let known := ctlTgt.contains opc || [0x00, 0x09, 0x0A, 0x18, 0x1C, 0x1D].contains opc
  known && zeroBits w 55 53 && zeroBits w 31 16 && (ctlSa.contains opc || wSa w == 0) && (opc == 0x11 || wCount w == 0)
    && (if ctlTgt.contains opc then wTgt w < n else if opc = 0x1D then exitCodes.contains (wTgt w) else wTgt w == 0)

/-- The word reads a P-bus operand (Table 6-5). -/
def usesPb (w : Nat) : Bool := wFmt w == 0 && 0x25 ≤ wOpc w && wOpc w ≤ 0x2A

/-- Registers, by code, that a move uses as pointer, modifier, length or base. -/
def moveRegs (m : Move) : List Nat :=
  rP m.ptr.p :: (m.ptr.mreg.map rM).toList ++ (if m.ptr.mode = 0 then [] else [rL m.ptr.p, rB m.ptr.p])

/-- Checks 6 to 9 of R199 on the moves of a format V or S word. -/
def movesOk (w : Nat) : Bool :=
  let ms := movesOf w
  let pair := match ms with
    | [x, y] => !(x.load && y.load && x.v == y.v) && x.ptr.p != y.ptr.p
    | _ => true
  let pb := !usesPb w || ms.all fun m => m.ptr.p != 14 + bits (wOpd w) 3 3
  let g := !(wFmt w == 1 && (wOpc w == 0x20 || wOpc w == 0x21)) || ms.all fun m => !(moveRegs m).contains (wGd w)
  pair && pb && g

/-- One word is legal in a kernel of `n` code words. -/
def wordLegal (w n : Nat) : Bool :=
  match wFmt w with
  | 0 => vectorOk (wOpc w) (wOpd w) && moveOk (wX w) && moveOk (wY w) && movesOk w
  | 1 => scalarOk (wOpc w) (wOpd w) && moveOk (wX w) && moveOk (wY w) && movesOk w
  | 2 => controlOk w n
  | _ => memoryOk w

/-- The loop word at offset `i` is legal among the words of its kernel (checks 4 and 5 of R199). -/
def loopOk (ws : List Nat) (i : Nat) : Bool :=
  let w := ws.getD i 0
  let last := ws.getD (wTgt w) 0
  !isLoop w
    || (i < wTgt w && !(wFmt last == 2 && wOpc last != 0x00 && wOpc last != 0x18)
        && (List.range i).all fun j => !isLoop (ws.getD j 0) || wTgt (ws.getD j 0) < i || wTgt w ≤ wTgt (ws.getD j 0))

/-- A code section passes R199. -/
def codeSectionOk (ws : List Nat) (entry trap : Nat) : Bool :=
  entry < ws.length && trap < ws.length && (ws.all fun w => wordLegal w ws.length) && (List.range ws.length).all fun i => loopOk ws i

end Sys2Proof.Machine
end

