-- ==== Sys2Proof/Machine/KernelLoad.lean ====
section
/-! DEFINITION. KERNEL_LOAD (R197 to R202): the image, its checks, its place in P-RAM, unloading. -/

namespace Sys2Proof.Machine

/-! ## The image (R197) -/

def kiWords (m : List Byte) : Nat := fld m 8 4
def kiData (m : List Byte) : Nat := fld m 12 4
def kiPre (m : List Byte) : Bool := bit (fld m 6 2) 0
/-- Bytes of code with its padding. -/
def kiCode (m : List Byte) : Nat := 64 * ((kiWords m + 7) / 8)
/-- The length that header and trailer imply. -/
def kiLen (m : List Byte) : Nat := 64 + kiCode m + kiData m + 1408

/-- Header and trailer keep Tables 6-13 and 6-14, and the length is theirs. -/
def imageForm (m : List Byte) : Bool :=
  fld m 0 4 == 0x4B454456 && fld m 4 2 == 1 && fld m 6 2 < 2 && 1 ≤ kiWords m && kiWords m ≤ (if kiPre m then 1024 else 7168)
    && kiData m % 64 == 0 && allZero ((m.drop 32).take 32) && m.length == kiLen m && trailerOk (m.drop (kiLen m - 1408))

/-- The code words. -/
def kiSection (m : List Byte) : List Nat := (List.range (kiWords m)).map fun i => fld m (64 + 8 * i) 8

/-- First local address and size of a part of P-RAM (Table 5-3). -/
def pramPart (pre : Bool) : Nat × Nat := if pre then (0x20E000, 0x2000) else (0x200000, 0xE000)

/-- The lowest place in a part for `n` bytes beside the resident kernels. -/
def State.pramPlace (s : State) (pre : Bool) (n : Nat) : Option Nat :=
  let (lo, size) := pramPart pre
  (((List.range (size / 64)).map fun i => lo + 64 * i).find? fun a =>
    a + n ≤ lo + size && s.kernels.all fun k => !overlaps a n k.2.codeBase k.2.body.length)

/-- Bytes of a part that no resident kernel takes. -/
def State.pramFree (s : State) (pre : Bool) : Nat :=
  (pramPart pre).2 - ((s.kernels.filter fun k => k.2.preempting == pre).map fun k => k.2.body.length).sum

/-! ## KERNEL_LOAD (R200 to R202) -/

def layKernelLoad : Layout := ⟨0x0208, 16, true, fun p =>
  [.rng 0 1 0 1, .rsv 1 1, .rng 2 2 0 1023, .rsv 8 8,
    .cond (if fld p 0 1 = 1 then fld p 4 4 == 0 else 16 + fld p 4 4 ≤ p.length && imageForm ((p.drop 16).take (fld p 4 4)))], fun _ => []⟩

/-- A task or a graph of the tenant names a kernel. -/
def State.kernelUsed (s : State) (k : Nat) : Bool :=
  (s.car.tasks.some? fun _ t => t.type == 1 && t.kernel == k)
    || (s.car.graphs.some? fun _ x => x.nodes.any fun n => fld n 2 1 == 1 && fld n 0 2 == k)

/-- Write a kernel into every VDE that is awake and not fenced (R200). -/
def State.spreadKernel (s : State) (k : Kernel) : State :=
  (((List.range 512).filter fun e => engType e == some 1 && !s.asleep (engRegion e) && !s.fenced e)).foldl (fun s e => s.placeKernel e k) s

def bodyKernelLoad (i : CmdIn) (s : State) : Ans :=
  let p := i.p
  let id := fld p 2 2
  if fld p 0 1 = 1 then
    match s.kernels.find? id with
    | none => refuse s .badParam
    | some k =>
      if k.fn != i.fn then refuse s .notPermitted
      else if s.kernelUsed id then refuse s .noResource
      else
        let s := { s with kernels := s.kernels.del id }
        ok s (leBytes 4 0 ++ leBytes 4 (s.pramFree k.preempting) ++ k.digest.take 8)
  else
    let m := (p.drop 16).take (fld p 4 4)
    let n := kiLen m - 1408
    let t := m.drop n
    let body := (m.take n).drop 64
    if s.kernels.has id then refuse s .noResource
    else if !s.trailerAuth useKernel (m.take n) t then refuse s .authFail
    else if !codeSectionOk (kiSection m) (fld m 16 4) (fld m 20 4) then refuse s .badParam
    else match s.pramPlace (kiPre m) body.length with
    | none => refuse s .noResource
    | some base =>
      let k : Kernel := ⟨i.fn, kiPre m, base, kiWords m, kiData m, fld m 16 4, fld m 20 4, t.take 64, body⟩
      let s := ({ s with kernels := s.kernels.set id k }.spreadKernel k).chainKernel (t.take 64)
      ok s (leBytes 4 base ++ leBytes 4 (s.pramFree (kiPre m)) ++ t.take 8)

/-- KERNEL_LOAD. -/
def execKernelLoad (c : CmdRef) (s : State) : Host.Outcome State Fault Refusal := .next (runCmd layKernelLoad c bodyKernelLoad s)

end Sys2Proof.Machine
end

