-- ==== Sys2Proof/Machine/Migrate.lean ====
section
/-! DEFINITION. Cell migration (R387 to R394): CELL_MIGRATE and the steps of Table 13-6. -/

namespace Sys2Proof.Machine

/-! ## CELL_MIGRATE (R387, R388) -/

/-- Reserved fields, unlisted encodings and ids outside their range (R10, R18): before any check of R388, with every ROLE. -/
def layMigrate : Layout := ⟨0x0504, 32, true, fun p =>
  [.rng 4 1 0 2, .rsv 5 1, .rng 6 2 0 383, .rng 8 2 0 383, .rng 10 2 0 1023,
    .cond ((List.range (fld p 14 2)).all fun i => fld p (52 + 24 * i) 1 ≤ 1 && fld p (53 + 24 * i) 3 == 0)], fun _ => []⟩

/-- The range entries as (SRC, DST, LEN, KIND). -/
def migRanges (p : List Byte) : List (Nat × Nat × Nat × Nat) := (List.range (fld p 14 2)).map fun i =>
  (fld p (32 + 24 * i) 8, fld p (40 + 24 * i) 8, fld p (48 + 24 * i) 4, fld p (52 + 24 * i) 1)

/-- No two entries of a list of ranges overlap. -/
def apart : List (Nat × Nat) → Bool
  | [] => true
  | (a, n) :: rest => rest.all (fun x => !overlaps a n x.1 x.2) && apart rest

/-- A field breaks Tables 13-4 and 13-5, or ranges overlap. -/
def migBad (p : List Byte) : Bool :=
  let rs := migRanges p
  p.length < 32 + 24 * fld p 14 2
  || !chkAll p [.cond (fld p 0 4 != 0), .rng 12 2 0 1023, .rng 14 2 0 (if fld p 4 1 = 0 then 16 else 0)]
  || rs.any (fun r => r.1 % 64 != 0 || r.2.1 % 64 != 0 || r.2.2.1 % 64 != 0 || r.2.2.1 == 0 || 1073741824 < r.2.2.1
      || (r.2.2.2 == 1 && r.2.2.1 != 1048576))
  || !apart (rs.map fun r => (r.1, r.2.2.1)) || !apart (rs.map fun r => (r.2.1, r.2.2.1))
  || 4294967296 < (rs.map fun r => r.2.2.1).sum

/-- The lanes of a migration. -/
def migLanes (p : List Byte) : List Nat := maskBits (fld p 16 16) 128

/-- The tenant may migrate this (R388 item 1). -/
def State.migMay (s : State) (fn : Nat) (p : List Byte) : Bool :=
  let cell := fld p 6 2
  let st := (s.cells.find? cell).map Cell.st
  s.member && s.clu.members.has (fld p 10 2) && fld p 10 2 != s.deviceId && s.ownsCell fn cell && (migLanes p).all (s.ownsLane fn)
    && (migRanges p).all (fun r => Sys2Proof.Machine.coveredBy ((s.mem.ranges.filter fun x => x.fn == fn).map fun x => (x.base, x.len))
      (s.mem.ranges.length + 1) r.1 r.2.2.1)
    && st == some (if fld p 4 1 = 0 then .service else .hibernated)

/-- The switch frame on the cell's timeline: the next with SWITCH_SFN; none unless it starts 20 ms to 5.12 s ahead. -/
def State.migFrame (s : State) (cell sfn : Nat) : Option Int :=
  match s.anchor? cell with
  | none => none
  | some tl =>
    let k0 := frameFrom tl.toff s.thetaNow
    let k := k0 + ((sfn : Int) - sfnOf tl.sfnBase k0) % 1024
    let ahead := nominal tl.toff k 0 - s.thetaNow
    if ahead < 20000000 * nsUnit || 5120000000 * nsUnit < ahead then none else some k

/-- Start a migration: its switches are scheduled, the source sends PAIR. -/
def State.migStart (s : State) (i : CmdIn) (tl : Timeline) (k : Int) : State :=
  let p := i.p
  let source := fld p 4 1 == 0
  let id := fld p 0 4
  let m : Mig := ⟨source, fld p 6 2, fld p 8 2, fld p 10 2, fld p 12 2, k, fld p 16 16, migRanges p, .pairing, 0, false, i.id⟩
  let mfn := sfnOf 0 k
  let s := (migLanes p).foldl (fun s n => s.modTlf n fun x => { x with pend := some ⟨k, mfn, i.id⟩ }) s
  let s := s.modClu fun c => { c with migs := c.migs.set id m }
  if source then s.emit (.peerMsg m.dev (.pair id m.cell m.peerCell tl.num tl.toff tl.sfnBase m.sfn)) else s

def bodyMigrate (i : CmdIn) (s : State) : Ans :=
  let p := i.p
  if fld p 4 1 = 2 then
    match s.mig? (fld p 0 4) with
    | some m => if m.past || !s.ownsCell i.fn m.cell then refuse s .notPermitted else ok (s.migAbort (fld p 0 4) m 4) (zeros 16)
    | none => refuse s .notPermitted
  else if !s.migMay i.fn p then refuse s .notPermitted
  else if migBad p then refuse s .badParam
  else match s.anchor? (fld p 6 2), s.migFrame (fld p 6 2) (fld p 12 2) with
  | some tl, some k =>
    if fld p 16 16 != 0 && tl.toff != 0 then refuse s .badParam
    else if (migLanes p).any fun n => !(s.tlf n).sealed || (s.tlf n).copying.isSome then refuse s .pageNotSealed
    else if ((migLanes p).any fun n => (s.tlf n).pend.isSome) || (s.clu.migs.some? fun _ m => m.cell == fld p 6 2)
        || s.clu.migs.has (fld p 0 4) || 8 ≤ s.clu.migs.length then refuse s .noResource
    else (s.migStart i tl k, .later (.migrate (fld p 0 4)))
  | _, _ => refuse s .badParam

/-- CELL_MIGRATE. -/
def execCellMigrate (c : CmdRef) (s : State) : Host.Outcome State Fault Refusal := .next (runCmd layMigrate c bodyMigrate s)

/-- The present FRC is at or past t_S less a number of µs. -/
def State.migAt (s : State) (m : Mig) (us : Nat) : Bool := (s.migFrc m).any fun f => f ≤ s.time.frc + usToFrc us

/-! ## Pairing, mirror and pre-copy -/

/-- MIG_PAIR: the target receives PAIR, by t_S − 5 ms, and checks it against its cell. -/
def doMigPair (t id dev cell peerCell num : Nat) (toff : Int) (sfnBase sfn : Nat) (s : State) : State :=
  let s := s.advance t
  if s.stopped then s else
  match s.mig? id with
  | none => s
  | some m =>
    if m.source || m.stage != .pairing || m.dev != dev then s
    else if s.migAt m 5000 then s.migAbort id m 1
    else if m.cell == peerCell && m.peerCell == cell && m.sfn == sfn
        && (s.anchor? m.cell).any (fun tl => tl.num == num && tl.toff == toff && tl.sfnBase == sfnBase) then
      (s.modMig id fun m => { m with stage := .copying }).emit (.peerMsg dev (.readyToCopy id))
    else s.migAbort id m 6

/-- MIG_PAIR. -/
def execMigPair (t id dev cell peerCell num : Nat) (toff : Int) (sfnBase sfn : Nat) (s : State) : Host.Outcome State Fault Refusal :=
  .next (doMigPair t id dev cell peerCell num toff sfnBase sfn s)

/-- Where a slot address of a directory entry lies on the target. -/
def translate (rs : List (Nat × Nat × Nat × Nat)) (a : Nat) : Option Nat :=
  (rs.find? fun r => r.1 ≤ a && a < r.1 + r.2.2.1).map fun r => r.2.1 + (a - r.1)

/-- One HARQ directory entry with SLOT0 and SLOT1 translated; none when a valid slot lies in no range (R390). -/
def moveEntry (rs : List (Nat × Nat × Nat × Nat)) (e : List Byte) : Option (List Byte) :=
  let slot (o v : Nat) : Option (List Byte) := match translate rs (fld e o 8) with
    | some a => some (leBytes 8 a)
    | none => if bit (fld e 0 1) v then none else some ((e.drop o).take 8)
  match slot 8 1, slot 16 2 with
  | some a, some b => some (e.take 8 ++ a ++ b ++ e.drop 24)
  | _, _ => none

/-- The lines of a range as the target gets them; none when an entry cannot be translated. -/
def moveLines (rs : List (Nat × Nat × Nat × Nat)) (kind : Nat) : List (List Byte × Bool) → Option (List (List Byte × Bool))
  | [] => some []
  | (bs, p) :: rest =>
    match moveLines rs kind rest with
    | none => none
    | some more =>
      if kind = 0 || p then some ((bs, p) :: more)
      else match moveEntry rs (bs.take 32), moveEntry rs (bs.drop 32) with
        | some a, some b => some ((a ++ b, p) :: more)
        | _, _ => none

/-- Copy every range to the target; none when an entry cannot be translated. -/
def State.precopy (s : State) (id : Nat) (m : Mig) : List (Nat × Nat × Nat × Nat) → Option State
  | [] => some s
  | r :: rest =>
    match moveLines m.ranges r.2.2.2 (s.unitsAt 64 (r.2.2.1 / 64 + 1) r.1 r.2.2.1) with
    | none => none
    | some runs => (s.emit (.peerMsg m.dev (.copy id r.2.1 runs))).precopy id m rest

/-- MIG_READY_TO_COPY: the source mirrors from now on, and copies every range. -/
def doMigReadyToCopy (t id : Nat) (s : State) : State :=
  let s := s.advance t
  if s.stopped then s else
  match s.mig? id with
  | none => s
  | some m =>
    if !m.source || m.stage != .pairing then s
    else if s.migAt m 5000 then s.migAbort id m 1
    else
      let kib := (m.ranges.map fun r => r.2.2.1).sum / 1024
      match s.precopy id m m.ranges with
      | some s => s.modMig id fun m => { m with stage := .copying, copiedKib := kib }
      | none => s.migAbort id m 5

/-- MIG_READY_TO_COPY. -/
def execMigReadyToCopy (t id : Nat) (s : State) : Host.Outcome State Fault Refusal := .next (doMigReadyToCopy t id s)

/-- MIG_PRECOPY_DONE: pre-copy is applied, by t_S − 2 ms; the target, its lanes sealed, sends READY; on the source READY has
arrived. -/
def doMigPrecopyDone (t id : Nat) (s : State) : State :=
  let s := s.advance t
  if s.stopped then s else
  match s.mig? id with
  | none => s
  | some m =>
    if m.stage != .copying then s
    else if m.source then s.modMig id fun m => { m with stage := .ready }
    else if s.migAt m 2000 then s.migAbort id m 2
    else if (maskBits m.lanes 128).all fun n => (s.tlf n).sealed then
      (s.modMig id fun m => { m with stage := .ready }).emit (.peerMsg m.dev (.ready id))
    else s

/-- MIG_PRECOPY_DONE. -/
def execMigPrecopyDone (t id : Nat) (s : State) : Host.Outcome State Fault Refusal := .next (doMigPrecopyDone t id s)

/-! ## Commit -/

/-- MIG_COMMIT: at t_S − 1.5 ms the source sends COMMIT when READY has arrived, and aborts otherwise. -/
def doMigCommit (t id : Nat) (s : State) : State :=
  let s := s.advance t
  if s.stopped then s else
  match s.mig? id with
  | none => s
  | some m =>
    if !m.source || !s.migAt m 1500 then s
    else match m.stage with
      | .ready => (s.modMig id fun m => { m with stage := .commitSent }).emit (.peerMsg m.dev (.commit id))
      | .pairing => s.migAbort id m 1
      | .copying => s.migAbort id m 2
      | _ => s

/-- MIG_COMMIT. -/
def execMigCommit (t id : Nat) (s : State) : Host.Outcome State Fault Refusal := .next (doMigCommit t id s)

/-- COMMIT_ARRIVAL: the target receives COMMIT before the commit point and answers COMMIT_ACK. -/
def doCommitArrival (t id : Nat) (s : State) : State :=
  let s := s.advance t
  if s.stopped then s else
  match s.mig? id with
  | none => s
  | some m =>
    if m.source || m.stage != .ready || s.migAt m 1000 then s
    else (s.modMig id fun m => { m with stage := .acked }).emit (.peerMsg m.dev (.commitAck id))

/-- COMMIT_ARRIVAL. -/
def execCommitArrival (t id : Nat) (s : State) : Host.Outcome State Fault Refusal := .next (doCommitArrival t id s)

/-- MIG_COMMIT_ACK: the source receives COMMIT_ACK before the commit point. -/
def doMigCommitAck (t id : Nat) (s : State) : State :=
  let s := s.advance t
  if s.stopped then s else
  match s.mig? id with
  | none => s
  | some m => if m.source && m.stage == .commitSent && !s.migAt m 1000 then s.modMig id fun m => { m with stage := .acked } else s

/-- MIG_COMMIT_ACK. -/
def execMigCommitAck (t id : Nat) (s : State) : Host.Outcome State Fault Refusal := .next (doMigCommitAck t id s)

/-- MIG_COMMIT_POINT: at t_S − 1 ms each side commits, when COMMIT or COMMIT_ACK has arrived, or aborts. -/
def doMigCommitPoint (t id : Nat) (s : State) : State :=
  let s := s.advance t
  if s.stopped then s else
  match s.mig? id with
  | none => s
  | some m =>
    if m.past || !s.migAt m 1000 then s
    else match m.stage with
      | .acked =>
        (s.modMig id fun m => { m with stage := .committed }).post (s.cellOwner m.cell) 0x0503 1 (m.cell + 4096 * b2n !m.source)
      | .pairing => s.migAbort id m 1
      | .copying => s.migAbort id m 2
      | _ => s.migAbort id m 3

/-- MIG_COMMIT_POINT. -/
def execMigCommitPoint (t id : Nat) (s : State) : Host.Outcome State Fault Refusal := .next (doMigCommitPoint t id s)

/-! ## Switch and Final -/

/-- MIG_SWITCH: at t_S the target's cell enters SERVICE; with the source lost, the migration is over. -/
def doMigSwitch (t id : Nat) (s : State) : State :=
  let s := s.advance t
  if s.stopped then s else
  match s.mig? id with
  | none => s
  | some m =>
    if m.stage != .committed || !s.migAt m 0 then s
    else
      let s := s.modMig id fun m => { m with stage := .switched }
      if m.source then s
      else
        let s := { s with cells := s.cells.upd m.cell fun c => { c with st := .service, failed := false } }
        if m.lost then s.migEnd id { m with stage := .switched } .success 0 else s

/-- MIG_SWITCH. -/
def execMigSwitch (t id : Nat) (s : State) : Host.Outcome State Fault Refusal := .next (doMigSwitch t id s)

/-- MIG_FINAL: every task of the source's cell is FREE: FINAL, and the cell is HIBERNATED; on the target, FINAL has arrived and
its HARQ tasks are released. Both commands complete. -/
def doMigFinal (t id : Nat) (s : State) : State :=
  let s := s.advance t
  if s.stopped then s else
  match s.mig? id with
  | none => s
  | some m =>
    if m.stage != .switched then s
    else if !m.source then s.migEnd id m .success 0
    else if s.car.tasks.some? fun _ tk => tk.cell == m.cell && tk.origin.isNone then s
    else
      let s := { s with cells := s.cells.upd m.cell fun c => { c with st := .hibernated } }
      if m.lost then s.migEnd id m .busError 3 else (s.emit (.peerMsg m.dev (.final id))).migEnd id m .success 0

/-- MIG_FINAL. -/
def execMigFinal (t id : Nat) (s : State) : Host.Outcome State Fault Refusal := .next (doMigFinal t id s)

/-- MIG_ABORT: before the commit point, a step has not happened in time, or the other device has aborted with a cause. -/
def doMigAbort (t id : Nat) (told : Option Nat) (s : State) : State :=
  let s := s.advance t
  if s.stopped then s else
  match s.mig? id with
  | none => s
  | some m =>
    if m.past then s
    else match told with
      | some c => if 1 ≤ c && c ≤ 6 then s.migAbort id m c else s
      | none =>
        if m.stage == .pairing && s.migAt m 5000 then s.migAbort id m 1
        else if m.stage == .copying && s.migAt m 2000 then s.migAbort id m 2
        else s

/-- MIG_ABORT. -/
def execMigAbort (t id : Nat) (told : Option Nat) (s : State) : Host.Outcome State Fault Refusal := .next (doMigAbort t id told s)

end Sys2Proof.Machine
end

