-- ==== Sys2Proof/Machine/Noc.lean ====
section
/-! DEFINITION. The on-chip network and the Photometer (chapter 14): requests, responses, slots, time-outs, refused routes,
router drains, counting periods, and PHOTOMETER_READ. -/

namespace Sys2Proof.Machine

/-! ## Requests and responses -/

/-- MESH_REQUEST: an initiator hands its block port a request, which leaves when it has a slot and response space, and crosses the mesh.
`hdrLost` is the region whose router finds a parity error in the header; `parity` lists data units, of a write or of a read's response,
in which a region finds one (R412). -/
def doMeshRequest (t : Nat) (r : MeshReq) (hdrLost : Option Nat) (parity : List (Nat × Nat)) (s : State) : State :=
  let s := s.advance t
  let r := s.injected r
  if s.stopped || !unitThere r.blk (r.init % 64) || 3 < r.cls || !r.fits then s
  else if (s.meshFind r.blk r.init r.cls r.tag).isSome
      || s.noc.waiting.any fun w => w.req.blk == r.blk && w.req.init == r.init && w.req.cls == r.cls && w.req.tag == r.tag then s
  else if r.cls = 0 && 256 < r.len then s.emit (.portAnswer r.blk r.init r.cls r.tag .badParam)
  else (s.modNoc fun n => { n with waiting := n.waiting ++ [⟨r, hdrLost, parity⟩] }).meshRuns r.blk

/-- MESH_REQUEST. -/
def execMeshRequest (t : Nat) (r : MeshReq) (hdrLost : Option Nat) (parity : List (Nat × Nat)) (s : State) :
    Host.Outcome State Fault Refusal := .next (doMeshRequest t r hdrLost parity s)

/-- MESH_RESPONSE: the last unit of a response arrives `ns` after the request's header first left (R400, R421), and its space in the
response buffer is free (R409); one that comes after the time-out is discarded (R413). Another member's answer comes with it. -/
def doMeshResponse (t blk init cls tag ns : Nat) (s : State) : State :=
  let s := s.advance t
  if s.stopped then s else
  match s.meshFind blk init cls tag with
  | none => s
  | some f =>
    let count (s : State) (st : Status) : State :=
      ((s.meshDrop f).photo f.photo fun p => p.answered f.req.write f.req.len st ns).meshRuns blk
    match f.ans with
    | none =>
      if f.arrived && (s.peerOf f).any s.peerThere then
        let (s, st) := s.meshPeerAnswer f
        count s st
      else s
    | some st => count s st

/-- MESH_RESPONSE. -/
def execMeshResponse (t blk init cls tag ns : Nat) (s : State) : Host.Outcome State Fault Refusal :=
  .next (doMeshResponse t blk init cls tag ns s)

/-- MESH_TIMEOUT: no response 1 ms after a request was sent: BUS_ERROR, logged, and its slot free again, a granted one given back
(R413). -/
def doMeshTimeout (t blk init cls tag : Nat) (s : State) : State :=
  let s := s.advance t
  if s.stopped then s else
  match s.meshFind blk init cls tag with
  | none => s
  | some f =>
    if s.time.frc < f.sent + usToFrc 1000 then s
    else
      let target := meshTarget (s.real f.req.addr)
      let s := (s.meshDrop f).modNoc fun n => { n with held := n.held.map fun x =>
        (if x.1.same blk init cls tag then { x.1 with late := true } else x.1, x.2) }
      let s := ((s.emit (.portAnswer blk init cls tag .busError)).logMesh (blk / 4) 4 f.req).photo f.photo fun p =>
        { p with errors := sat32 (p.errors + 1) }
      let s := if f.ans.isSome then s else if cls = 0 then s.slotFreed blk target 0 else s.emit (.slotReturn blk target cls 1)
      s.meshRuns blk

/-- MESH_TIMEOUT. -/
def execMeshTimeout (t blk init cls tag : Nat) (s : State) : Host.Outcome State Fault Refusal :=
  .next (doMeshTimeout t blk init cls tag s)

/-- ROUTE_REFUSED_RETRY: ROUTE_REFUSED comes back to a block port (R419): the primary route is unusable from now on and the request,
which keeps its slot, leaves again at once on the alternate; refused there, the initiator is told. -/
def doRouteRefusedRetry (t : Nat) (r : MeshReq) (s : State) : State :=
  let s := s.advance t
  if s.stopped then s else
  match s.meshFind r.blk r.init r.cls r.tag with
  | none => s
  | some f =>
    if !f.refused then s
    else
      let dest := s.meshDest (s.real f.req.addr)
      let s := s.photo f.photo fun p => { p with refused := sat32 (p.refused + 1) }
      if f.onAlt || !(s.noc.routes.any fun e => e.blk == r.blk && e.dest == dest) then
        (((s.meshDrop f).slotKept f.req).emit (.portAnswer r.blk r.init r.cls r.tag .routeRefused)).meshRuns r.blk
      else
        let s := if s.noc.alts.contains (r.blk, dest) then s else s.modNoc fun n => { n with alts := (r.blk, dest) :: n.alts }
        let bad := r.poison.filter fun i => !f.req.poison.contains i
        s.meshCross f none (bad.map fun i => (i, (s.walkTo r.blk dest).path.getLastD 0))

/-- ROUTE_REFUSED_RETRY. -/
def execRouteRefusedRetry (t : Nat) (r : MeshReq) (s : State) :
    Host.Outcome State Fault Refusal := .next (doRouteRefusedRetry t r s)

/-! ## Reservations (R408) -/

/-- RSV: a block asks a target for 1 to 8 slots of a class, on behalf of an initiator. A router that refuses it sends it on the alternate
route, and refused there it ends with no slots (R418, R419). -/
def doRsv (t blk init target cls n : Nat) (s : State) : State :=
  let s := s.advance t
  if s.stopped then s else
  let mine (x : Slots) : Bool := x.same blk target cls
  if cls = 0 || 3 < cls || n = 0 || 8 < n || s.noc.rsvs.any mine || s.noc.grants.any mine then s
  else
    let s := s.photo (photoKey false init cls) fun p => { p with rsvs := sat32 (p.rsvs + 1) }
    let count (st : Status) (s : State) : State := s.photo (photoKey false init cls) fun p => p.ended st
    let bad := target ≤ 16 && (s.walkTo blk target).done.isNone
    let s := if bad then count .routeRefused s else s
    let turn := bad && !s.noc.alts.contains (blk, target)
    let s := if turn then s.modNoc fun n => { n with alts := (blk, target) :: n.alts } else s
    let lost := bad && (s.walkTo blk target).done.isNone
    let s := if turn && lost then count .routeRefused s else s
    if 16 < target then count .busError (s.emit (.grant blk target cls 0 .busError))
    else if lost then s.emit (.grant blk target cls 0 .routeRefused)
    else if target < 16 && s.asleep target then count .domainAsleep (s.emit (.grant blk target cls 0 .domainAsleep))
    else
      let s := s.modNoc fun c => { c with rsvs := c.rsvs ++ [⟨blk, target, cls, n, s.time.frc⟩] }
      s.serveRsvs target cls (s.noc.rsvs.length + 1)

/-- RSV. -/
def execRsv (t blk init target cls n : Nat) (s : State) : Host.Outcome State Fault Refusal := .next (doRsv t blk init target cls n s)

/-- RSV_RETURN: slots come back to a target. -/
def execRsvReturn (t target cls n : Nat) (s : State) : Host.Outcome State Fault Refusal :=
  .next (let s := s.advance t; if s.stopped then s else s.slotsBack target cls n)

/-- GNT: slots on their way reach their block port. -/
def doGnt (t blk target cls : Nat) (s : State) : State :=
  let s := s.advance t
  if s.stopped then s else
  match s.noc.grants.find? fun x => x.same blk target cls with
  | none => s
  | some x =>
    let s := s.modNoc fun c => { c with grants := c.grants.erase x }
    (s.setSlots blk target cls (s.slotsHeld blk target cls + x.n)).meshRuns blk

/-- GNT. -/
def execGnt (t blk target cls : Nat) (s : State) : Host.Outcome State Fault Refusal := .next (doGnt t blk target cls s)

/-- SLOT_RETURN_TIMEOUT: slots that a block has not used for 10 µs leave with RSV_RETURN. -/
def doSlotReturnTimeout (t blk target cls : Nat) (s : State) : State :=
  let s := s.advance t
  if s.stopped then s else
  match s.noc.slots.find? fun x => x.same blk target cls with
  | none => s
  | some x =>
    if s.time.frc < x.used + usToFrc 10 then s
    else (s.setSlots blk target cls 0).emit (.slotReturn blk target cls x.n)

/-- SLOT_RETURN_TIMEOUT. -/
def execSlotReturnTimeout (t blk target cls : Nat) (s : State) : Host.Outcome State Fault Refusal :=
  .next (doSlotReturnTimeout t blk target cls s)

/-! ## Router reconfiguration (R418 to R420) -/

/-- The epoch switch of a DRAINING router: Melvi loads route tables that avoid it, or that restore it. -/
def State.switchRouter (s : State) (r : Nat) : State :=
  (s.modNoc fun n => { n with
    draining := n.draining.del r
    avoided := if n.avoided.has r then n.avoided.del r else n.avoided.set r () }).loadRoutes

/-- A router is empty: no request that it admitted awaits a response (R418). -/
def State.routerEmpty (s : State) (r : Nat) : Bool := !(s.noc.flights.any fun f => f.path.contains r)

/-- ROUTER_DRAINED: a draining router is empty. -/
def doRouterDrained (t r : Nat) (s : State) : State :=
  let s := s.advance t
  if s.stopped then s else
  if s.noc.draining.has r && s.routerEmpty r then s.switchRouter r else s

/-- ROUTER_DRAINED. -/
def execRouterDrained (t r : Nat) (s : State) : Host.Outcome State Fault Refusal := .next (doRouterDrained t r s)

/-- ROUTER_DRAIN_TIMEOUT: not empty 100 µs after DRAINING, it is switched anyway; what is in it is discarded, and ends by
MESH_TIMEOUT. -/
def doRouterDrainTimeout (t r : Nat) (s : State) : State :=
  let s := s.advance t
  if s.stopped then s else
  match s.noc.draining.find? r with
  | none => s
  | some f => if s.time.frc < f + usToFrc 100 then s else s.switchRouter r

/-- ROUTER_DRAIN_TIMEOUT. -/
def execRouterDrainTimeout (t r : Nat) (s : State) : Host.Outcome State Fault Refusal := .next (doRouterDrainTimeout t r s)

/-! ## Photometer (R423, R424) -/

/-- The first period end after an FRC: periods are aligned to FRC 0. -/
def periodEnd (us f : Nat) : Nat :=
  let k := f * 100 / (98304 * us)
  let e (j : Nat) : Nat := (j * us * 98304 + 99) / 100
  if f < e k then e k else if f < e (k + 1) then e (k + 1) else e (k + 2)

/-- PHOTOMETER_PERIOD: every set is copied to its snapshot and restarts. -/
def doPhotometerPeriod (t : Nat) (s : State) : State :=
  let s := s.advance t
  if s.stopped then s else
  let e := periodEnd s.noc.periodUs s.noc.since
  if !s.noc.enable || s.time.frc < e then s
  else s.modNoc fun n => { n with snap := n.sets, sets := [], snapFrc := e, since := s.time.frc }

/-- PHOTOMETER_PERIOD. -/
def execPhotometerPeriod (t : Nat) (s : State) : Host.Outcome State Fault Refusal := .next (doPhotometerPeriod t s)

def layPhotometer : Layout := ⟨0x0A07, 32, false, fun p =>
  [.rng 0 1 0 1, .bits 1 1 0xFE, .bits 2 2 0xF000, .bits 4 2 0xF000, .bits 6 1 0xF0, .bits 7 1 0xFC, .rsv 24 8,
   .cond (if fld p 0 1 = 0 then 1 ≤ fld p 8 4 && fld p 8 4 ≤ 10000000 else 128 ≤ fld p 12 4)], fun p =>
  if fld p 0 1 = 1 then [(fld p 16 8, fld p 12 4)] else []⟩

/-- A record (Table 14-5). -/
def photoRecord (k : Nat) (p : PhotoSet) : List Byte :=
  let i := k / 4
  leBytes 2 (i % 4096 + 32768 * (i / 4096)) ++ leBytes 1 (k % 4) ++ zeros 1 ++ leBytes 4 p.maxNs ++ leBytes 8 p.readBytes
    ++ leBytes 8 p.writeBytes ++ leBytes 4 p.reads ++ leBytes 4 p.writes ++ leBytes 4 p.rsvs ++ leBytes 4 p.refused
    ++ leBytes 4 p.asleep ++ leBytes 4 p.errors ++ ((List.range 16).flatMap fun b => leBytes 4 (p.hist.get 0 b)) ++ zeros 16

/-- A set matches the selection. -/
def photoMatch (p : List Byte) (k : Nat) : Bool :=
  let i := k / 4
  (i % 4096) &&& fld p 4 2 == fld p 2 2 &&& fld p 4 2 && bit (fld p 6 1) (k % 4) && bit (fld p 7 1) (i / 4096)

def bodyPhotometer (i : CmdIn) (s : State) : Ans :=
  let p := i.p
  let f := s.time.frc
  if fld p 0 1 = 0 then
    let start := periodEnd (fld p 8 4) f
    ok (s.modNoc fun n => { n with enable := bit (fld p 1 1) 0, periodUs := fld p 8 4, sets := [], since := start })
      (zeros 8 ++ leBytes 8 s.noc.snapFrc)
  else
    let sel := s.noc.snap.filter fun e => photoMatch p e.1
    let recs := sel.take (fld p 12 4 / 128)
    let res := leBytes 4 recs.length ++ leBytes 4 sel.length ++ leBytes 8 s.noc.snapFrc
    ((s.hostRuns i.fn (fld p 16 8) [(recs.flatMap fun e => photoRecord e.1 e.2, false)]), .done (.ok res))

/-- PHOTOMETER_READ. -/
def execPhotometerRead (c : CmdRef) (s : State) : Host.Outcome State Fault Refusal := .next (runCmd layPhotometer c bodyPhotometer s)

end Sys2Proof.Machine
end

