-- ==== Sys2Proof/Machine/Regs.lean ====
section
/-! DEFINITION. What reads of the device's registers return: BAR 0 (R36, R37, R43, R45, R49, R62), the debug aperture (R38), the I3C
status and the test port (R615). -/

namespace Sys2Proof.Machine

/-! ## Identification and status registers (Tables 2-2 to 2-5) -/

/-- ID_CONFIG. -/
def idConfig (fn : Nat) : Nat := 0x30 + 256 + 512 * fn

/-- DEV_STATUS. -/
def State.devStatus (s : State) (fn : Nat) : Nat :=
  let f := s.func fn
  s.pow.mode.code + 8 * b2n f.attached + 16 * b2n (f.hold != .none) + 32 * b2n s.pins.tocsin + 64 * b2n s.dome.debug
    + 256 * (s.deviceId % 1024) + 262144 * b2n s.member

/-- A register of the identification and status block; unmapped offsets read 0. -/
def State.idReg (s : State) (fn off : Nat) : Nat :=
  match off with
  | 0x000 => idPart
  | 0x004 => idConfig fn
  | 0x008 => s.fwVersion
  | 0x00C => Config.serial % 2 ^ 32
  | 0x010 => Config.serial / 2 ^ 32 % 2 ^ 32
  | 0x014 => s.devStatus fn
  | 0x018 => s.host.holdMs
  | 0x020 => if fn = 0 then s.host.dbgBase else 0
  | 0x028 => (s.func fn).complLost
  | 0x02C => (s.func fn).eventsLost
  | _ => 0

/-! ## Configuration space (R35) -/

/-- Device ID that configuration space reports: the physical function's, the virtual functions'. -/
def pciDeviceId (fn : Nat) : Nat := if fn = 0 then 0x8128 else 0x8129

/-- The first word of a function's configuration space: the assigned vendor ID, and the device ID. -/
def configWord0 (fn : Nat) : Nat := Config.vendorId % 65536 + 65536 * pciDeviceId fn

/-! ## BAR 0 -/

/-- A mailbox register (Tables 2-6, 2-7). -/
def Mailbox.reg (m : Mailbox) (off : Nat) : Nat :=
  if off < 0x40 then fld m.cmd off 4
  else if off = 0x40 then 4 * b2n m.irqEn + 8 * b2n m.goLost
  else if off = 0x44 then m.status + 65536 * b2n (m.st == .busy) + 131072 * b2n (m.st == .done || m.st == .acked)
  else if 0x50 ≤ off && off < 0x70 then fld m.res (off - 0x50) 4
  else 0

/-- A doorbell: the last tail or head accepted; 0 for a pair that does not exist (R49). -/
def Func.doorbell (f : Func) (off : Nat) : Nat :=
  match f.qps.find? (off / 8) with
  | some q => if off % 8 = 0 then q.sqTail else q.cqHead
  | none => 0

/-- A word of the MSI-X table, and of the pending bits. -/
def Func.msixReg (f : Func) (off : Nat) : Nat :=
  let e := f.msix.get MsixEntry.reset (off / 16)
  match off % 16 / 4 with
  | 0 => e.addrLo
  | 1 => e.addrHi
  | 2 => e.data
  | _ => b2n e.masked
def Func.pendReg (f : Func) (off : Nat) : Nat :=
  maskOf ((List.range 32).filter fun i => (f.msix.get MsixEntry.reset (8 * off + i)).pending)

/-- An aligned 32-bit word of BAR 0 outside the debug aperture (Table 2-1). -/
def State.bar0Reg (s : State) (fn off : Nat) : Nat :=
  let f := s.func fn
  if off < 0x1000 then f.mbox.reg off
  else if off < 0x1200 then f.doorbell (off - 0x1000)
  else if 0x10000 ≤ off && off < 0x11000 then f.msixReg (off - 0x10000)
  else if 0x18000 ≤ off && off < 0x18020 then f.pendReg (off - 0x18000)
  else if 0x100000 ≤ off && off < 0x101000 then s.idReg fn (off - 0x100000)
  else 0

/-- The aligned words that an access of R37 covers: first word and number; none for an access that is ignored as a whole. -/
def bar0Words (off n : Nat) : Option (Nat × Nat) :=
  if n = 8 then (if off % 8 = 0 then some (off, 2) else none)
  else if 0 < n && n ≤ 4 && off % 4 + n ≤ 4 then some (off - off % 4, 1)
  else none

/-- What a read of `n` bytes of BAR 0 outside the debug aperture returns (R37). -/
def State.bar0Read (s : State) (fn off n : Nat) : List Byte :=
  match bar0Words off n with
  | some (o, k) =>
    let w := (List.range k).flatMap fun i => leBytes 4 (s.bar0Reg fn (o + 4 * i))
    (w.drop (off - o)).take n
  | none => zeros n

/-! ## The debug aperture (R25, R38) -/

/-- Who an access through the aperture comes from (R38): the C0 command engine, on behalf of no tenant; in the host window, of
function 0, which owns the work (R29). -/
def whoDebug (a : Nat) : Who := ⟨initCmd, if hostBase ≤ a then some 0 else none, false, none⟩

/-- Words through the aperture: registers, memory, or, where the access is refused, free values, as the manual states none. -/
def State.debugWords (s : State) : (k a : Nat) → List Byte × State
  | 0, _ => ([], s)
  | k + 1, a =>
    let (bs, s) :=
      if s.access (whoDebug a) a 4 false = .success then
        if (spanAt (s.real a)).place.isCsr then let (v, s) := s.csrFetch (s.real a); (leBytes 4 v, s)
        else (s.bytesAt a 4, (s.clockFor a).logRead (whoDebug a) a 4)
      else let (v, s) := s.draw; (leBytes 4 v, s)
    let (rest, s) := s.debugWords k (a + 4)
    (bs ++ rest, s)

/-- A write of words through the aperture; one that is refused changes nothing. -/
def State.debugWrite (s : State) : (k a : Nat) → List Byte → State
  | 0, _, _ => s
  | k + 1, a, bs =>
    let s :=
      if s.access (whoDebug a) a 4 true = .success then
        if (spanAt (s.real a)).place.isCsr then s.csrStore (s.real a) (leNat (bs.take 4)) else (s.clockFor a).write (whoDebug a) a (bs.take 4) false
      else s
    s.debugWrite k (a + 4) (bs.drop 4)

/-- DEBUG_APERTURE_ACCESS: a read of `n` bytes at an offset in the aperture, or a write of `bs`. While debug is locked, and in a virtual
function, reads return 0 and writes are ignored. -/
def doDebugApertureAccess (t fn off n : Nat) (bs : Option (List Byte)) (s : State) : State :=
  let s := s.advance t
  let base := s.host.dbgBase * 2 ^ 24
  let may := fn == 0 && s.dome.debug && off < 2 ^ 24
  if !s.barUp || 8 ≤ fn then s
  else match bs with
    | none =>
      match may, bar0Words off n with
      | true, some (o, k) =>
        let p := s.poisonIn (base + o) (4 * k)
        let (w, s) := s.debugWords k (base + o)
        s.emit (.barRead fn 0 (0x1000000 + off) ((w.drop (off - o)).take n) p)
      | _, _ => s.emit (.barRead fn 0 (0x1000000 + off) (zeros n) false)
    | some b =>
      if may && ((b.length == 4 && off % 4 == 0) || (b.length == 8 && off % 8 == 0)) then s.debugWrite (b.length / 4) (base + off) b else s

def execDebugApertureAccess (t fn off n : Nat) (bs : Option (List Byte)) (s : State) : Host.Outcome State Fault Refusal :=
  .next (doDebugApertureAccess t fn off n bs s)

/-! ## I3C and the test port (R615) -/

/-- The hottest die sensor in °C. -/
def State.tempMax (s : State) : Int := s.fsc.adc.therm.foldl (fun m c => max m (thermSixteenths c / 16)) (-128)

/-- A region is throttled: it runs below its ceiling (R482). -/
def State.throttled (s : State) : Bool := (List.range 13).any fun r => !s.asleep r && (s.region r).ceiling < (s.region r).level

/-- The bytes of Table 22-4, with the fields of function 0. -/
def State.i3cStatus (s : State) : List Byte :=
  leBytes 4 idPart ++ leBytes 2 (s.devStatus 0) ++ leBytes 1 (unsgn 8 s.tempMax) ++ leBytes 1 (b2n s.throttled + 2 * b2n s.pins.tocsin)

/-- I3C_READ: answered while Melvi runs, unless in WATCH or OFF or while the pads are held (R491). -/
def doI3cRead (t : Nat) (s : State) : State :=
  let s := s.advance t
  if s.host.server == .melvi && !s.dark && !s.pow.heldCtrl then s.emit (.i3cRead s.i3cStatus) else s

def execI3cRead (t : Nat) (s : State) : Host.Outcome State Fault Refusal := .next (doI3cRead t s)

/-- IDCODE. -/
def idcode : Nat := 1 * 2 ^ 28 + 0x8128 * 4096 + 2 * (Config.jep106 % 2048) + 1

/-- JTAG_INSTRUCTION: boundary scan and IDCODE always, debug instructions only while debug is unlocked; EXTEST holds the serialisers at
electrical idle until another instruction takes its place. -/
def doJtagInstruction (t : Nat) (op : JtagOp) (s : State) : State :=
  let s := s.advance t
  let s := ({ s with pins := { s.pins with extest := op == JtagOp.extest } } : State).settleAllTx
  match op with
  | .idcode => s.emit (.jtag (some idcode))
  | .boundary | .extest => s.emit (.jtag none)
  | .debug => if s.dome.debug then s.emit (.jtag none) else s

def execJtagInstruction (t : Nat) (op : JtagOp) (s : State) : Host.Outcome State Fault Refusal := .next (doJtagInstruction t op s)

end Sys2Proof.Machine
end

