-- ==== Sys2Proof/Machine/Tenant.lean ====
section
/-! DEFINITION. Tenants (R39 to R42): TENANT_CONFIG; and COMMAND_COMPLETION, the end of a command whose operation takes time (R58). -/

namespace Sys2Proof.Machine

/-! ## TENANT_CONFIG (R41, R42, Table 2-13) -/

/-- 256 MiB. -/
def hbmStep : Nat := 0x10000000

/-- The tenant that the layout assigns; FLOW_COUNT 0 means 65,536. -/
def tenantOf (p : List Byte) : Tenant :=
  ⟨fld p 2 2, fld p 4 4, fld p 8 8, fld p 16 8, fld p 24 2, fld p 26 2, fld p 28 2, fld p 30 2, fld p 32 2,
    if fld p 34 2 = 0 then 65536 else fld p 34 2, fld p 40 16, fld p 56 8⟩

/-- The fields keep Table 2-13: quotas, an HBM extent of whole steps below the Carillon area, ranges that end within their id spaces. -/
def Tenant.fieldsOk (x : Tenant) : Bool :=
  1 ≤ x.queues && x.queues ≤ 64 && 1 ≤ x.tasks && x.tasks ≤ 262144
    && x.hbmBase % hbmStep == 0 && x.hbmSize % hbmStep == 0 && x.hbmBase + x.hbmSize ≤ hbmCarillon
    && x.cellBase + x.cellCount ≤ 384 && x.trailBase + x.trailCount ≤ 4096
    && x.flowBase + x.flowCount ≤ 65536

/-- With ENABLE 0 everything from offset 2 on is reserved (R42); CELL_BASE and CELL_COUNT have 9 bits, TRAIL_BASE and TRAIL_COUNT
12 (Table 1-5). -/
def layTenantConfig : Layout := ⟨0x0009, 64, true, fun p =>
  [.rng 0 1 1 7, .rng 1 1 0 1, .bits 24 2 0xFE00, .bits 26 2 0xFE00, .bits 28 2 0xF000, .bits 30 2 0xF000, .rsv 36 4, .cond (fld p 1 1 != 0 || allZero (p.drop 2))], fun _ => []⟩

/-- Two tenants share a resource. -/
def Tenant.shares (x y : Tenant) : Bool :=
  overlaps x.hbmBase x.hbmSize y.hbmBase y.hbmSize || overlaps x.cellBase x.cellCount y.cellBase y.cellCount
    || overlaps x.trailBase x.trailCount y.trailBase y.trailCount || overlaps x.flowBase x.flowCount y.flowBase y.flowCount
    || (x.lanes &&& y.lanes) != 0 || (x.macs &&& y.macs) != 0

/-- A resource that only one of two configurations of a tenant holds, in use (R42): cells, trails, flows, lanes, MACs. -/
def State.movesUsed (s : State) (old : Option Tenant) (x : Tenant) : Bool :=
  let moves (p : Tenant → Bool) : Bool := p x != old.any p
  (s.cells.some? fun c _ => moves fun t => inSpan t.cellBase t.cellCount c)
    || (s.line.trails.some? fun n _ => moves fun t => inSpan t.trailBase t.trailCount n)
    || (s.car.flows.some? fun n f => (f.enabled || f.unreleased != 0) && moves fun t => inSpan t.flowBase t.flowCount n)
    || (s.line.lanes.some? fun n l => l.cfg.mode != 0 && moves fun t => t.lanes.testBit n)
    || (s.line.ports.some? fun n _ => moves fun t => t.macs.testBit n)

/-- HBM that would change hands is in use: a persistent range of tenant 0 or the enabled Observing Log ring in the new extent, a
persistent range of the tenant not in it (R42). -/
def State.hbmUsed (s : State) (fn : Nat) (x : Tenant) : Bool :=
  let o := s.car.olog
  (s.mem.ranges.any fun r => r.fn == 0 && overlaps r.base r.len x.hbmBase x.hbmSize)
    || (o.enable && overlaps o.ring (64 + 32 * o.entries) x.hbmBase x.hbmSize)
    || (s.mem.ranges.any fun r => r.fn == fn && r.base < hbmEnd && !within r.base r.len x.hbmBase x.hbmSize)

/-- R41 item 3: a resource of another enabled tenant, or more tasks than the table holds; or R42 refuses. -/
def State.tenantTaken (s : State) (fn : Nat) (x : Tenant) : Bool :=
  let others := s.host.tenants.filter fun e => e.1 != fn
  (others.any fun e => x.shares e.2) || 262144 < (others.map fun e => e.2.tasks).sum + x.tasks
    || s.movesUsed (s.tenant? fn) x || s.hbmUsed fn x

/-- Zero the part of one HBM extent that lies outside another. -/
def State.zeroOutside (s : State) (a la b lb : Nat) : State :=
  if lb = 0 then s.zeroMem a la
  else
    let s := if a < b then s.zeroMem a (min (a + la) b - a) else s
    let lo := max a (b + lb)
    if lo < a + la then s.zeroMem lo (a + la - lo) else s

/-- Give a tenant its configuration; HBM that changes hands is zeroed. -/
def State.assignTenant (s : State) (fn : Nat) (x : Tenant) : State :=
  let (a, la) := ((s.tenant? fn).map fun t => (t.hbmBase, t.hbmSize)).getD (0, 0)
  let s := (s.zeroOutside a la x.hbmBase x.hbmSize).zeroOutside x.hbmBase x.hbmSize a la
  s.modHost fun h => { h with tenants := h.tenants.set fn x }

def bodyTenantConfig (i : CmdIn) (s : State) : Ans :=
  let fn := fld i.p 0 1
  let x := tenantOf i.p
  if (s.func fn).attached then refuse s .notPermitted
  else if fld i.p 1 1 = 0 then
    if (s.tenant? fn).isNone then ok s [] else (s.drainTenant fn, .later (.tenant fn))
  else if !x.fieldsOk then refuse s .badParam
  else if s.tenantTaken fn x || s.host.flights.any (fun f => f.wait == some (.tenant fn)) then refuse s .noResource
  else (s.assignTenant fn x, .later (.settled .success []))

/-- TENANT_CONFIG. -/
def execTenantConfig (c : CmdRef) (s : State) : Host.Outcome State Fault Refusal := .next (runCmd layTenantConfig c bodyTenantConfig s)

/-! ## Disabling a tenant (R42) -/

/-- Disable a lane and clear its TSI pages; a switch that waits for it ends REVOKED. -/
def State.clearLane (s : State) (n : Nat) : State :=
  let cmds := (s.tlf n).pend.map TsiPend.cmd
  let s := (s.laneDown n 5).modLane n fun l => { l with cfg := LaneCfg.reset, traffic := false, everUp := false }
  let s := s.modLine fun l => { l with tlf := l.tlf.del n }
  let s := s.restart1 n 5
  cmds.toList.foldl (fun s c => s.settleSwitch c (some .revoked)) s

/-- Remove everything that a tenant still holds, when none of its tasks is left; its resources return to tenant 0. -/
def State.removeTenant (s : State) (fn : Nat) (x : Tenant) : State :=
  let s := { s with
    cells := s.cells.keep fun c _ => !inSpan x.cellBase x.cellCount c
    cal := { s.cal with arrays := s.cal.arrays.keep fun c _ => !inSpan x.cellBase x.cellCount c }
    kernels := s.kernels.keep fun _ k => k.fn != fn
    mem := { s.mem with ranges := s.mem.ranges.filter fun r => r.fn != fn }
    dome := { s.dome with guards := s.dome.guards.del fn } }
  let s := s.modLine fun l => { l with
    trails := l.trails.keep fun n _ => !inSpan x.trailBase x.trailCount n
    streams := l.streams.keep fun _ y => !inSpan x.cellBase x.cellCount y.cell
    ports := l.ports.keep fun n _ => !x.macs.testBit n
    sas := l.sas.filter fun a => !x.macs.testBit a.port
    groups := l.groups.keep fun _ g => !x.lanes.testBit g.work }
  let s := (maskBits x.lanes 128).foldl (fun s n => s.clearLane n) s
  let s := s.modCar fun c => { c with
    graphs := c.graphs.keep fun _ g => g.fn != fn
    flows := c.flows.keep fun n _ => !inSpan x.flowBase x.flowCount n
    epochs := c.epochs.keep fun k _ => k / 65536 != fn }
  let s := s.modFunc fn fun f => { f with hold := .none, muted := false, holdEvent := none }
  (s.zeroMem x.hbmBase x.hbmSize).modHost fun h => { h with tenants := h.tenants.del fn }

/-! ## COMMAND_COMPLETION (R58, R70, R71, R597) -/

/-- Some other command of a function that is fetched and not completed, from one pair or from anywhere; a DETACH waits for none of
its kind. -/
def State.othersOf (s : State) (fl : Flight) (qp : Option Nat) : Bool :=
  s.host.flights.any fun f => f.fn == fl.fn && f.id != fl.id && (match qp with
    | some q => f.src == .sq q
    | none => f.wait != some .detach)

/-- The end of a command that has started: at the end of its operation, or when what it waits for has come about. -/
def State.completeCmd (s : State) (fl : Flight) (w : Wait) : State :=
  match w with
  | .settled st res => s.complete fl fl.op ⟨st, res, none⟩
  | .detach => if s.othersOf fl none then s else s.finishDetach fl
  | .queueDelete qp => if s.othersOf fl (some qp) then s else s.finishQueueDelete fl qp
  | .dome act res =>
    let (s, res) := s.domeFinish act res
    s.complete fl fl.op (.ok res)
  | .fence =>
    match s.fault.fences.find? fun o => o.cmd == some fl.id with
    | some op => s.settleFence op
    | none => s
  | .tenant fn =>
    if !(s.tenantTasks fn).isEmpty then s
    else
      let s := match s.tenant? fn with
        | some x => s.removeTenant fn x
        | none => s
      s.complete fl fl.op (.bare .success)
  | _ => s

/-- COMMAND_COMPLETION: of a command that has started, or of an entry that is no command, once it may start. -/
def doCommandCompletion (t id : Nat) (s : State) : State :=
  let s := s.advance t
  match s.flight? id with
  | none => s
  | some fl =>
    match fl.wait with
    | some w => s.completeCmd fl w
    | none => s.endBad fl

def execCommandCompletion (t id : Nat) (s : State) : Host.Outcome State Fault Refusal := .next (doCommandCompletion t id s)

end Sys2Proof.Machine
end

