-- ==== Sys2Proof/Machine/Units.lean ====
section
/-! DEFINITION. Unit boundaries of the fixed-function engines (R122, R228, R240, R277). -/

namespace Sys2Proof.Machine

/-- The operation that a fixed-function task's TYPE and KERNEL name, as a run of it. -/
def unitRun (ty kernel : Nat) : Option (Job → State → State) :=
  let op (f : Job → State → State × Status) : Option (Job → State → State) := some fun j s => s.runOp j f
  let code (k : CodeKind) : Option (Job → State → State) := some fun j s => s.runCode j k
  match ty, kernel with
  | 2, 1 => op (meOp layMatmul runMatmul)
  | 2, 2 => op (meOp layGram runGram)
  | 2, 3 => op (meOp laySolve runSolve)
  | 2, 4 => op (meOp layWeights runWeights)
  | 2, 5 => op beamOp
  | 3, 1 => code .ldpcDec
  | 4, 1 => code .ldpcEnc
  | 5, 1 => op (bkOp .polarDec)
  | 6, 1 => op (bkOp .polarEnc)
  | 7, 1 => code .turboDec
  | 7, 2 => code .turboEnc
  | 8, 1 => op (bkOp .tbcc)
  | 9, 1 => code .nrComb
  | 9, 2 => code .lteComb
  | 10, 1 => op (xfOp false)
  | 10, 2 => op (xfOp true)
  | 11, 1 => op prachOp
  | _, _ => none

/-- The task that runs on a fixed-function engine and leaves at its next boundary, with its operation. -/
def State.leaving? (s : State) (e : Nat) : Option (Job × (Job → State → State)) :=
  match (engType e), (s.eng e).task.bind s.task? with
  | some ty, some t =>
    if t.leave = .no then none
    else match s.job e ty t.kernel, unitRun ty t.kernel with
      | some j, some f => some (j, f)
      | _, _ => none
  | _, _ => none

/-- UNIT_BOUNDARY: a fixed-function engine ends a unit of work and yields. A task that is revoked or skipped leaves here: the units it has
done are written, the one in progress is not, and its report is; otherwise a class-0 task may pre-empt it. -/
def doUnitBoundary (t e : Nat) (s : State) : State :=
  let s := s.advance t
  if s.stopped || engType e = some 1 || (s.eng e).ended.isSome then s
  else match s.leaving? e with
  | some (j, f) => f j s
  | none => s.yieldAt e

def execUnitBoundary (t e : Nat) (s : State) : Host.Outcome State Fault Refusal := .next (doUnitBoundary t e s)

end Sys2Proof.Machine
end

