-- ==== Sys2Proof/Machine/VdeControl.lean ====
section
/-! DEFINITION. Format C: control words of Table 6-10 (R187 to R196), the yield trap and the abort (R168, R194), one
meaning per row. -/

namespace Sys2Proof.Machine

/-- A format C row. -/
def cRow (opc : Nat) (act : WordCtx → State → State) (t e : Nat) (s : State) : State := s.vdeRow t e 2 opc act

/-- NOP. -/
def nopAct : WordCtx → State → State := runC [] fun x i b0 s => fallOn x i 1 b0 s
/-- BR. -/
def brAct : WordCtx → State → State := runC [] fun x i b0 s => jumpTo x i (wTgt x.w) b0 s
def brzAct := branchIf fun v => v == 0
def brnzAct := branchIf fun v => v != 0
def brltAct := branchIf fun v => decide (v.toInt < 0)
def brgeAct := branchIf fun v => decide (0 ≤ v.toInt)

/-- CALL: S31 := offset of the next word; branch to TGT. -/
def callAct : WordCtx → State → State := runC [] fun x i b0 s =>
  let s := s.modBank x.e fun b => (b.setG 31 (BitVec.ofNat 32 (b0.pc + 1)) false).wrote i [(31, some .scalar)]
  jumpTo x i (wTgt x.w) b0 s

/-- RET: branch to offset S31; outside the code words the task fails with BUS_ERROR (R188). -/
def retAct : WordCtx → State → State := runC [31] fun x i b0 s =>
  let tgt := (b0.getG 31).toNat
  if x.k.codeWords ≤ tgt then s.stopKernel x.e .busError else jumpTo x i tgt b0 s

/-- RTT: resume at the saved offset with the loops as they were; outside a handler BUS_ERROR (R194). -/
def rttAct : WordCtx → State → State := runC [] fun x i b0 s =>
  match b0.trap with
  | none => s.stopKernel x.e .busError
  | some back =>
    let s := s.goOn x i 3 back b0.loops
    s.modBank x.e fun b => { b with trap := none }

/-- Start a loop of `n` passes (R190, R191): in the handler or as a fourth loop NOT_PERMITTED; with 0 passes the body is
skipped and execution goes on at TGT + 1. -/
def startLoop (n : Nat) (x : WordCtx) (i : Nat) (b0 : Bank) (s : State) : State :=
  if b0.trap.isSome then s.stopKernel x.e .notPermitted
  else if n = 0 then
    s.goOn x i 3 (wTgt x.w + 1) (loopJump (wTgt x.w + 1) b0.loops)
  else if 3 ≤ b0.loops.length then s.stopKernel x.e .notPermitted
  else s.goOn x i 1 (b0.pc + 1) (⟨b0.pc + 1, wTgt x.w, n⟩ :: b0.loops)

/-- LOOP: Sa times. LOOP.I: COUNT times. -/
def loopAct (x : WordCtx) (s : State) : State :=
  runC [wSa x.w] (fun x i b0 s => startLoop (b0.getG (wSa x.w)).toNat x i b0 s) x s
def loopIAct : WordCtx → State → State := runC [] fun x i b0 s => startLoop (wCount x.w) x i b0 s

/-- YIELD (R167, R168): 4 cycles, the repeat cache emptied and the timer loaded; then the first pending request acts. -/
def yieldAct : WordCtx → State → State := runC [] fun x i b0 s =>
  let s := fallOn x i 4 b0 s
  let s := s.modBank x.e fun b => { b with cache := [], timerEnd := s.time.frc + yieldCounts }
  if (s.eng x.e).ended.isSome then s else s.yieldAt x.e

/-- The kernel ends with a status; the task finishes once its channels are quiet (R189). -/
def endKernel (st : Status) (x : WordCtx) (i : Nat) (s : State) : State :=
  (s.modBank x.e fun b => { b with cycles := i + 1 }).endWork x.e st

/-- EXIT: finishes under R166. -/
def exitAct : WordCtx → State → State := runC [] fun x i b0 s =>
  endKernel (if b0.poisonStored then .poisoned else .success) x i s

/-- The status with a code (Table 2-15). -/
def statusOf (c : Nat) : Status :=
  ([.success, .notReady, .repeated, .badOpcode, .badParam, .noResource, .notPermitted, .domainAsleep, .routeRefused,
    .sleepRefused, .poisoned, .busError, .overlap, .revoked, .deadlineMissed, .authFail, .guardViolation, .shadowCollide,
    .pageNotSealed, .pageSealed, .internal].find? fun s => Status.code s == c).getD .internal

/-- EXIT.F: finishes as failed with the status in TGT. -/
def exitFAct : WordCtx → State → State := runC [] fun x i _ s => endKernel (statusOf (wTgt x.w)) x i s

/-- NOP (Table 6-10, OPC 0x00). -/
def execNop (t e : Nat) (s : State) : Host.Outcome State Fault Refusal := .next (cRow 0x00 nopAct t e s)
/-- BR (OPC 0x01). -/
def execBr (t e : Nat) (s : State) : Host.Outcome State Fault Refusal := .next (cRow 0x01 brAct t e s)
/-- BRZ (OPC 0x02). -/
def execBrz (t e : Nat) (s : State) : Host.Outcome State Fault Refusal := .next (cRow 0x02 brzAct t e s)
/-- BRNZ (OPC 0x03). -/
def execBrnz (t e : Nat) (s : State) : Host.Outcome State Fault Refusal := .next (cRow 0x03 brnzAct t e s)
/-- BRLT (OPC 0x04). -/
def execBrlt (t e : Nat) (s : State) : Host.Outcome State Fault Refusal := .next (cRow 0x04 brltAct t e s)
/-- BRGE (OPC 0x05). -/
def execBrge (t e : Nat) (s : State) : Host.Outcome State Fault Refusal := .next (cRow 0x05 brgeAct t e s)
/-- CALL (OPC 0x08). -/
def execCall (t e : Nat) (s : State) : Host.Outcome State Fault Refusal := .next (cRow 0x08 callAct t e s)
/-- RET (OPC 0x09). -/
def execRet (t e : Nat) (s : State) : Host.Outcome State Fault Refusal := .next (cRow 0x09 retAct t e s)
/-- RTT (OPC 0x0A). -/
def execRtt (t e : Nat) (s : State) : Host.Outcome State Fault Refusal := .next (cRow 0x0A rttAct t e s)
/-- LOOP (OPC 0x10). -/
def execLoop (t e : Nat) (s : State) : Host.Outcome State Fault Refusal := .next (cRow 0x10 loopAct t e s)
/-- LOOP.I (OPC 0x11). -/
def execLoopI (t e : Nat) (s : State) : Host.Outcome State Fault Refusal := .next (cRow 0x11 loopIAct t e s)
/-- YIELD (OPC 0x18). -/
def execYield (t e : Nat) (s : State) : Host.Outcome State Fault Refusal := .next (cRow 0x18 yieldAct t e s)
/-- EXIT (OPC 0x1C). -/
def execExit (t e : Nat) (s : State) : Host.Outcome State Fault Refusal := .next (cRow 0x1C exitAct t e s)
/-- EXIT.F (OPC 0x1D). -/
def execExitF (t e : Nat) (s : State) : Host.Outcome State Fault Refusal := .next (cRow 0x1D exitFAct t e s)

/-- YIELD_TRAP: the yield timer of the running kernel has reached 0 (R168, R194): the offset of the next word is saved, the
handler entered and the timer reloaded with 394 counts. -/
def doYieldTrap (t e : Nat) (s : State) : State :=
  let s := s.advance t
  if s.stopped then s else
  match s.vdeRuns e with
  | none => s
  | some (_, _, k) =>
    let b := (s.vde e).bank
    if s.time.frc < b.timerEnd || (s.eng e).trapAt.isSome then s
    else
      let s := s.modEng e fun r => { r with trapAt := some s.time.frc }
      s.modBank e fun b => { b with
        trap := some b.pc, pc := k.trap, cycles := b.cycles + 3, timerEnd := s.time.frc + trapCounts }

def execYieldTrap (t e : Nat) (s : State) : Host.Outcome State Fault Refusal := .next (doYieldTrap t e s)

/-- YIELD_ABORT: the timer has reached 0 again before a yield: the kernel is aborted and the task fails with
DEADLINE_MISSED (R168). -/
def doYieldAbort (t e : Nat) (s : State) : State :=
  let s := s.advance t
  if s.stopped then s else
  match s.vdeRuns e with
  | none => s
  | some _ =>
    if s.time.frc < (s.vde e).bank.timerEnd || (s.eng e).trapAt.isNone then s
    else s.stopKernel e .deadlineMissed

def execYieldAbort (t e : Nat) (s : State) : Host.Outcome State Fault Refusal := .next (doYieldAbort t e s)

end Sys2Proof.Machine
end

