-- ==== Sys2Proof/Machine/VdeScalar.lean ====
section
/-! DEFINITION. Format S: the scalar operations of Table 6-7 (R185), one meaning per row. -/

namespace Sys2Proof.Machine

/-- The producer class of a write to a register code. -/
def gProd (c : Nat) : Producer := if c < 0x20 then .scalar else .gwrite

/-- Sd := f(Sa, Sb). -/
def sOp (f : Word → Word → Word) (w : Nat) : Uop where
  reads := [(wA w, .any), (wB w, .any)]
  writes := [(wD w, some .scalar)]
  pwidth := 0
  eff := fun _ b => b.setG (wD w) (f (b.getG (wA w)) (b.getG (wB w))) (b.poisoned (wA w) || b.poisoned (wB w))

/-- Sd := f(Sa, IMM10). -/
def sOpI (f : Word → Word → Word) (w : Nat) : Uop where
  reads := [(wA w, .any)]
  writes := [(wD w, some .scalar)]
  pwidth := 0
  eff := fun _ b => b.setG (wD w) (f (b.getG (wA w)) (wImm10 w)) (b.poisoned (wA w))

/-- The scalar functions of Table 6-7; a shift takes its count from the low five bits. -/
def fAdd (a b : Word) : Word := a + b
def fSub (a b : Word) : Word := a - b
def fAnd (a b : Word) : Word := a &&& b
def fOr (a b : Word) : Word := a ||| b
def fXor (a b : Word) : Word := a ^^^ b
def fMul (a b : Word) : Word := a * b
def fShl (a b : Word) : Word := a <<< (b.toNat % 32)
def fShr (a b : Word) : Word := a >>> (b.toNat % 32)
def fSar (a b : Word) : Word := a.sshiftRight (b.toNat % 32)
def fSlt (a b : Word) : Word := if a.toInt < b.toInt then 1 else 0
def fSltu (a b : Word) : Word := if a.toNat < b.toNat then 1 else 0
def fSeq (a b : Word) : Word := if a = b then 1 else 0
def fMin (a b : Word) : Word := if a.toInt < b.toInt then a else b
def fMax (a b : Word) : Word := if a.toInt < b.toInt then b else a

/-- SNOP: the word carries only its moves. -/
def snopOp (_ : Nat) : Uop := ⟨[], [], 0, fun _ b => b⟩

/-- G := f(G) of MOV.G and ADD.G. -/
def gOp (f : Word → Word) (w : Nat) : Uop where
  reads := [(wGs w, .any)]
  writes := [(wGd w, some (gProd (wGd w)))]
  pwidth := 0
  eff := fun _ b => b.setG (wGd w) (f (b.getG (wGs w))) (b.poisoned (wGs w))

/-- A format S row: opcode and operation. -/
def sRow (opc : Nat) (op : Nat → Uop) (t e : Nat) (s : State) : State :=
  s.vdeRow t e 1 opc fun x s => runVS (op x.w) x s

/-- SNOP (Table 6-7, OPC 0x00). -/
def execSnop (t e : Nat) (s : State) : Host.Outcome State Fault Refusal := .next (sRow 0x00 snopOp t e s)
/-- ADD (Table 6-7, OPC 0x01). -/
def execAdd (t e : Nat) (s : State) : Host.Outcome State Fault Refusal := .next (sRow 0x01 (sOp fAdd) t e s)
/-- ADD.I (Table 6-7, OPC 0x41). -/
def execAddI (t e : Nat) (s : State) : Host.Outcome State Fault Refusal := .next (sRow 0x41 (sOpI fAdd) t e s)
/-- SUB (Table 6-7, OPC 0x02). -/
def execSub (t e : Nat) (s : State) : Host.Outcome State Fault Refusal := .next (sRow 0x02 (sOp fSub) t e s)
/-- SUB.I (Table 6-7, OPC 0x42). -/
def execSubI (t e : Nat) (s : State) : Host.Outcome State Fault Refusal := .next (sRow 0x42 (sOpI fSub) t e s)
/-- AND (Table 6-7, OPC 0x03). -/
def execAnd (t e : Nat) (s : State) : Host.Outcome State Fault Refusal := .next (sRow 0x03 (sOp fAnd) t e s)
/-- AND.I (Table 6-7, OPC 0x43). -/
def execAndI (t e : Nat) (s : State) : Host.Outcome State Fault Refusal := .next (sRow 0x43 (sOpI fAnd) t e s)
/-- OR (Table 6-7, OPC 0x04). -/
def execOr (t e : Nat) (s : State) : Host.Outcome State Fault Refusal := .next (sRow 0x04 (sOp fOr) t e s)
/-- OR.I (Table 6-7, OPC 0x44). -/
def execOrI (t e : Nat) (s : State) : Host.Outcome State Fault Refusal := .next (sRow 0x44 (sOpI fOr) t e s)
/-- XOR (Table 6-7, OPC 0x05). -/
def execXor (t e : Nat) (s : State) : Host.Outcome State Fault Refusal := .next (sRow 0x05 (sOp fXor) t e s)
/-- XOR.I (Table 6-7, OPC 0x45). -/
def execXorI (t e : Nat) (s : State) : Host.Outcome State Fault Refusal := .next (sRow 0x45 (sOpI fXor) t e s)
/-- MUL (Table 6-7, OPC 0x06). -/
def execMul (t e : Nat) (s : State) : Host.Outcome State Fault Refusal := .next (sRow 0x06 (sOp fMul) t e s)
/-- MUL.I (Table 6-7, OPC 0x46). -/
def execMulI (t e : Nat) (s : State) : Host.Outcome State Fault Refusal := .next (sRow 0x46 (sOpI fMul) t e s)
/-- SHL (Table 6-7, OPC 0x07). -/
def execShl (t e : Nat) (s : State) : Host.Outcome State Fault Refusal := .next (sRow 0x07 (sOp fShl) t e s)
/-- SHL.I (Table 6-7, OPC 0x47). -/
def execShlI (t e : Nat) (s : State) : Host.Outcome State Fault Refusal := .next (sRow 0x47 (sOpI fShl) t e s)
/-- SHR (Table 6-7, OPC 0x08). -/
def execShr (t e : Nat) (s : State) : Host.Outcome State Fault Refusal := .next (sRow 0x08 (sOp fShr) t e s)
/-- SHR.I (Table 6-7, OPC 0x48). -/
def execShrI (t e : Nat) (s : State) : Host.Outcome State Fault Refusal := .next (sRow 0x48 (sOpI fShr) t e s)
/-- SAR (Table 6-7, OPC 0x09). -/
def execSar (t e : Nat) (s : State) : Host.Outcome State Fault Refusal := .next (sRow 0x09 (sOp fSar) t e s)
/-- SAR.I (Table 6-7, OPC 0x49). -/
def execSarI (t e : Nat) (s : State) : Host.Outcome State Fault Refusal := .next (sRow 0x49 (sOpI fSar) t e s)
/-- SLT (Table 6-7, OPC 0x0A). -/
def execSlt (t e : Nat) (s : State) : Host.Outcome State Fault Refusal := .next (sRow 0x0A (sOp fSlt) t e s)
/-- SLT.I (Table 6-7, OPC 0x4A). -/
def execSltI (t e : Nat) (s : State) : Host.Outcome State Fault Refusal := .next (sRow 0x4A (sOpI fSlt) t e s)
/-- SLTU (Table 6-7, OPC 0x0B). -/
def execSltu (t e : Nat) (s : State) : Host.Outcome State Fault Refusal := .next (sRow 0x0B (sOp fSltu) t e s)
/-- SLTU.I (Table 6-7, OPC 0x4B). -/
def execSltuI (t e : Nat) (s : State) : Host.Outcome State Fault Refusal := .next (sRow 0x4B (sOpI fSltu) t e s)
/-- SEQ (Table 6-7, OPC 0x0C). -/
def execSeq (t e : Nat) (s : State) : Host.Outcome State Fault Refusal := .next (sRow 0x0C (sOp fSeq) t e s)
/-- SEQ.I (Table 6-7, OPC 0x4C). -/
def execSeqI (t e : Nat) (s : State) : Host.Outcome State Fault Refusal := .next (sRow 0x4C (sOpI fSeq) t e s)
/-- MIN (Table 6-7, OPC 0x0D). -/
def execMin (t e : Nat) (s : State) : Host.Outcome State Fault Refusal := .next (sRow 0x0D (sOp fMin) t e s)
/-- MIN.I (Table 6-7, OPC 0x4D). -/
def execMinI (t e : Nat) (s : State) : Host.Outcome State Fault Refusal := .next (sRow 0x4D (sOpI fMin) t e s)
/-- MAX (Table 6-7, OPC 0x0E). -/
def execMax (t e : Nat) (s : State) : Host.Outcome State Fault Refusal := .next (sRow 0x0E (sOp fMax) t e s)
/-- MAX.I (Table 6-7, OPC 0x4E). -/
def execMaxI (t e : Nat) (s : State) : Host.Outcome State Fault Refusal := .next (sRow 0x4E (sOpI fMax) t e s)
/-- MOV.G (Table 6-7, OPC 0x20). -/
def execMovG (t e : Nat) (s : State) : Host.Outcome State Fault Refusal := .next (sRow 0x20 (gOp id) t e s)
/-- ADD.G (Table 6-7, OPC 0x21). -/
def execAddG (t e : Nat) (s : State) : Host.Outcome State Fault Refusal := .next (sRow 0x21 (fun w => gOp (fun v => v + wImm6 w) w) t e s)

end Sys2Proof.Machine
end

