-- ==== Sys2Proof/Machine/VdeMemory.lean ====
section
/-! DEFINITION. Format M: memory and immediate operations of Table 6-9 (R186), one meaning per row. -/

namespace Sys2Proof.Machine

/-- A format M row. -/
def mRow (opc : Nat) (act : WordCtx → State → State) (t e : Nat) (s : State) : State := s.vdeRow t e 3 opc act

/-- G[REG] := a constant. -/
def loadConst (v : WordCtx → Word) (x : WordCtx) (s : State) : State :=
  let i := (s.vde x.e).bank.cycles
  let s := s.modBank x.e fun b => (b.setG (wReg x.w) (v x) false).wrote i [(wReg x.w, some (gProd (wReg x.w)))]
  (⟨s, 0, none⟩ : Prog).finish x i

/-- LDI: G[REG] := IMM32. -/
def ldiAct : WordCtx → State → State := loadConst fun x => BitVec.ofNat 32 (wImm32 x.w)
/-- LDA: G[REG] := DATA_BASE + IMM32. -/
def ldaAct : WordCtx → State → State := loadConst fun x => BitVec.ofNat 32 (x.k.dataBase + wImm32 x.w)

/-- LDS: G[REG] := 32-bit load. -/
def ldsAct (x : WordCtx) (i addr : Nat) (_ : Bank) (a : Prog) : Prog :=
  let (a, l) := loadLocal x i addr 4 4 false a
  if a.stop.isSome then a
  else { a with s := a.s.modBank x.e fun b =>
    (b.setG (wReg x.w) (BitVec.ofNat 32 (leNat l.bytes)) l.poison).wrote i [(wReg x.w, l.lat)] }

/-- STS: 32-bit store of G[REG]. -/
def stsAct (x : WordCtx) (_i addr : Nat) (b0 : Bank) (a : Prog) : Prog :=
  storeLocal x addr 4 (leBytes 4 (b0.getG (wReg x.w)).toNat) (b0.poisoned (wReg x.w)) a

/-- VLD: V := 64-byte load. -/
def vldAct (x : WordCtx) (i addr : Nat) (_ : Bank) (a : Prog) : Prog :=
  let (a, l) := loadLocal x i addr 64 2 false a
  if a.stop.isSome then a
  else { a with s := a.s.modBank x.e fun b =>
    (b.setV (wRegV x.w) (bytesVec l.bytes) l.poison).wrote i [(rV (wRegV x.w), l.lat)] }

/-- VST: 64-byte store of V. -/
def vstAct (x : WordCtx) (_i addr : Nat) (b0 : Bank) (a : Prog) : Prog :=
  storeLocal x addr 2 (vecBytes (b0.getV (wRegV x.w))) (b0.poisoned (rV (wRegV x.w))) a

/-- VLDP: V := 64-byte read of P-RAM. -/
def vldpAct (x : WordCtx) (i addr : Nat) (_ : Bank) (a : Prog) : Prog :=
  let (a, v, p) := loadP x addr 64 a
  if a.stop.isSome then a
  else { a with s := a.s.modBank x.e fun b =>
    (b.setV (wRegV x.w) (BitVec.ofNat 512 v) p).wrote i [(rV (wRegV x.w), some .load3)] }

/-- The narrowed parts of an accumulator that a store takes, in order, and whether one saturates (R162). -/
def narrowed (a : BitVec 1280) (sh : Nat) (idx : List Nat) : List Byte × Bool :=
  let ys := idx.map fun i => asr (accPart a i) sh
  (ys.flatMap fun y => leBytes 2 (unsgn 16 (sat16 y)), ys.any sats16)

/-- Store an accumulator's parts; SAT is set when one that is stored saturates. -/
def storeAcc (idx : List Nat) (x : WordCtx) (_i addr : Nat) (b0 : Bank) (a : Prog) : Prog :=
  let n := narrowed (b0.getA (wRegA x.w)) (wShift x.w) idx
  let a := storeLocal x addr 2 n.1 (b0.poisoned (rA (wRegA x.w))) a
  if n.2 && a.stop.isNone then { a with s := a.s.modBank x.e fun b => { b with sat := true } } else a

/-- VST.S: 16 complex lanes. VST.S.RE: the real parts only. -/
def vstSAct := storeAcc (List.range 32)
def vstSReAct := storeAcc ((List.range 16).map fun k => 2 * k)

/-- LDI (Table 6-9, OPC 0x01). -/
def execLdi (t e : Nat) (s : State) : Host.Outcome State Fault Refusal := .next (mRow 0x01 ldiAct t e s)
/-- LDA (OPC 0x02). -/
def execLda (t e : Nat) (s : State) : Host.Outcome State Fault Refusal := .next (mRow 0x02 ldaAct t e s)
/-- LDS (OPC 0x08). -/
def execLds (t e : Nat) (s : State) : Host.Outcome State Fault Refusal := .next (mRow 0x08 (runM [] ldsAct) t e s)
/-- STS (OPC 0x09). -/
def execSts (t e : Nat) (s : State) : Host.Outcome State Fault Refusal :=
  .next (mRow 0x09 (fun x s => runM [(wReg x.w, .any)] stsAct x s) t e s)
/-- VLD (OPC 0x10). -/
def execVld (t e : Nat) (s : State) : Host.Outcome State Fault Refusal := .next (mRow 0x10 (runM [] vldAct) t e s)
/-- VST (OPC 0x11). -/
def execVst (t e : Nat) (s : State) : Host.Outcome State Fault Refusal :=
  .next (mRow 0x11 (fun x s => runM [(rV (wRegV x.w), .any)] vstAct x s) t e s)
/-- VLDP (OPC 0x12). -/
def execVldp (t e : Nat) (s : State) : Host.Outcome State Fault Refusal := .next (mRow 0x12 (runM [] vldpAct) t e s)
/-- VST.S (OPC 0x18). -/
def execVstS (t e : Nat) (s : State) : Host.Outcome State Fault Refusal :=
  .next (mRow 0x18 (fun x s => runM [(rA (wRegA x.w), .narrow)] vstSAct x s) t e s)
/-- VST.S.RE (OPC 0x19). -/
def execVstSRe (t e : Nat) (s : State) : Host.Outcome State Fault Refusal :=
  .next (mRow 0x19 (fun x s => runM [(rA (wRegA x.w), .narrow)] vstSReAct x s) t e s)

end Sys2Proof.Machine
end

