-- ==== Sys2Proof/Machine/VdeVector.lean ====
section
/-! DEFINITION. Format V: the vector operations of Table 6-6 (R163, R182 to R184), one definition per operation and one
meaning per row. -/

namespace Sys2Proof.Machine

/-! ## Shapes -/

/-- d := f(a, b) in every real lane, wrapping; `k` names the latency class of the result. -/
def vvWrap (f : Int → Int → Int) (w : Nat) : Uop where
  reads := [(rV (wA w), .any), (rV (wB w), .any)]
  writes := [(rV (wD w), none)]
  pwidth := 0
  eff := fun _ b =>
    let x := b.getV (wA w)
    let y := b.getV (wB w)
    b.setV (wD w) (ofLanes fun j => f (lane x j) (lane y j)) (b.poisoned (rV (wA w)) || b.poisoned (rV (wB w)))

/-- d := sat(f(a, b)) with f over whole vectors by lane index; SAT when a lane saturates. -/
def vvSat (f : BitVec 512 → BitVec 512 → Nat → Int) (lat : Option Producer) (w : Nat) : Uop where
  reads := [(rV (wA w), .any), (rV (wB w), .any)]
  writes := [(rV (wD w), lat)]
  pwidth := 0
  eff := fun _ b =>
    let g := f (b.getV (wA w)) (b.getV (wB w))
    (b.setV (wD w) (ofLanes fun j => sat16 (g j)) (b.poisoned (rV (wA w)) || b.poisoned (rV (wB w)))).raiseSat
      ((List.range 32).any fun j => sats16 (g j))

/-- d := sat(f(a)) for the operations of one source. -/
def vUnSat (f : BitVec 512 → Nat → Int) (w : Nat) : Uop where
  reads := [(rV (wA w), .any)]
  writes := [(rV (wD w), none)]
  pwidth := 0
  eff := fun _ b =>
    let g := f (b.getV (wA w))
    (b.setV (wD w) (ofLanes fun j => sat16 (g j)) (b.poisoned (rV (wA w)))).raiseSat ((List.range 32).any fun j => sats16 (g j))

/-- Add 32 exact terms to an accumulator, with the poison of their sources (R160, R164). -/
def Bank.accumulate (b : Bank) (a : Nat) (f : Nat → Int) (p : Bool) : Bank :=
  let x := b.getA a
  (b.setA a (ofParts fun i => accPart x i + f i) (b.poisoned (rA a) || p)).raiseAov
    ((List.range 32).any fun i => wraps40 (accPart x i + f i))

/-- Aa += f(Va, Vb) part by part (class AV). -/
def avOp (f : BitVec 512 → BitVec 512 → Nat → Int) (w : Nat) : Uop where
  reads := [(rA (wAa w), .any), (rV (wA w), .any), (rV (wB w), .any)]
  writes := [(rA (wAa w), some .acc)]
  pwidth := 0
  eff := fun _ b => b.accumulate (wAa w) (f (b.getV (wA w)) (b.getV (wB w)))
    (b.poisoned (rV (wA w)) || b.poisoned (rV (wB w)))

/-- Aa += f(Vu, Vw); Ab += f(Vu, p) with the 64-byte P-bus operand (class DUAL, R161). -/
def dualOp (f : BitVec 512 → BitVec 512 → Nat → Int) (w : Nat) : Uop where
  reads := [(rA (wAa w), .any), (rA (wAb w), .any), (rV (wVu w), .any), (rV (wVw w), .any)]
  writes := [(rA (wAa w), some .acc), (rA (wAb w), some .acc)]
  pwidth := 64
  eff := fun p b =>
    let u := b.getV (wVu w)
    let pu := b.poisoned (rV (wVu w))
    let b' := b.accumulate (wAa w) (f u (b.getV (wVw w))) (pu || b.poisoned (rV (wVw w)))
    b'.accumulate (wAb w) (f u (BitVec.ofNat 512 p.1)) (pu || p.2)

/-- Real products of two vectors. -/
def rprods (u w : BitVec 512) (j : Nat) : Int := lane u j * lane w j

/-- Shift the delay line of FTAP by one element (R163). -/
def Bank.shiftPair (b : Bank) (v : Nat) : Bank :=
  let lo := b.getV v
  let hi := b.getV (v + 1)
  let p := b.poisoned (rV v) || b.poisoned (rV (v + 1))
  let b := b.setV v (ofLanes fun j => if j < 30 then lane lo (j + 2) else lane hi (j - 30)) p
  b.setV (v + 1) (ofLanes fun j => if j < 30 then lane hi (j + 2) else 0) (b.poisoned (rV (v + 1)))

/-- FTAP of one or two coefficients (R163). -/
def ftapOp (dual : Bool) (w : Nat) : Uop where
  reads := [(rA (wAa w), .any), (rV (wFt w), .any), (rV (wFt w + 1), .any)] ++ (if dual then [(rA (wAb w), RegUse.any)] else [])
  writes := [(rA (wAa w), some .acc), (rV (wFt w), none), (rV (wFt w + 1), none)]
    ++ (if dual then [(rA (wAb w), some Producer.acc)] else [])
  pwidth := if dual then 8 else 4
  eff := fun p b =>
    let e := b.getV (wFt w)
    let pe := b.poisoned (rV (wFt w))
    let tap (sh : Nat) : Nat → Int := tapProds (sgn 16 (p.1 >>> sh)) (sgn 16 (p.1 >>> (sh + 16))) e
    let b' := b.accumulate (wAa w) (tap 0) (pe || p.2)
    let b' := if dual then b'.accumulate (wAb w) (tap 32) (pe || p.2) else b'
    b'.shiftPair (wFt w)

/-! ## The operations -/

/-- VNOP: none; the word carries only its moves. -/
def vnopOp (_ : Nat) : Uop := ⟨[], [], 0, fun _ b => b⟩
def vaddOp := vvWrap fun x y => x + y
def vsubOp := vvWrap fun x y => x - y
def vaddSOp := vvSat (fun x y j => lane x j + lane y j) none
def vsubSOp := vvSat (fun x y j => lane x j - lane y j) none

/-- Bitwise operations of 512 bits. -/
def vBit (f : BitVec 512 → BitVec 512 → BitVec 512) (w : Nat) : Uop where
  reads := [(rV (wA w), .any), (rV (wB w), .any)]
  writes := [(rV (wD w), none)]
  pwidth := 0
  eff := fun _ b => b.setV (wD w) (f (b.getV (wA w)) (b.getV (wB w))) (b.poisoned (rV (wA w)) || b.poisoned (rV (wB w)))

def vandOp := vBit fun x y => x &&& y
def vorOp := vBit fun x y => x ||| y
def vxorOp := vBit fun x y => x ^^^ y

/-- VMOV: d := a. -/
def vmovOp (w : Nat) : Uop where
  reads := [(rV (wA w), .any)]
  writes := [(rV (wD w), none)]
  pwidth := 0
  eff := fun _ b => b.setV (wD w) (b.getV (wA w)) (b.poisoned (rV (wA w)))

/-- VSHR: d := a >> IMM5. -/
def vshrOp (w : Nat) : Uop := vUnSat (fun x j => asr (lane x j) (wImm5 w)) w
/-- VSHL.S: d := sat(a × 2^IMM5). -/
def vshlSOp (w : Nat) : Uop := vUnSat (fun x j => lane x j * 2 ^ wImm5 w) w
def vminOp := vvWrap fun x y => min x y
def vmaxOp := vvWrap fun x y => max x y
/-- VCONJ: re := a.re, im := sat(−a.im). -/
def vconjOp := vUnSat fun x j => if j % 2 = 0 then lane x j else -(lane x j)
/-- VMUL.H: d := sat((a × b) >> 15). -/
def vmulHOp := vvSat (fun x y j => asr (lane x j * lane y j) 15) (some .vmulh)
/-- VCMUL.H: sat(pr >> 15), sat(pi >> 15). -/
def vcmulHOp := vvSat (fun x y j => asr (prods cprod x y j) 15) (some .vmulh)

/-- VSPLAT: every real lane Sa[15:0], or every complex lane (Sa[15:0], Sa[31:16]). -/
def vsplatOp (w : Nat) : Uop where
  reads := [(wA w, .any)]
  writes := [(rV (wD w), none)]
  pwidth := 0
  eff := fun _ b =>
    let x := (b.getG (wA w)).toNat
    b.setV (wD w) (ofLanes fun j => sgn 16 (if bit w 34 && j % 2 = 1 then x / 65536 else x)) (b.poisoned (wA w))

/-- VGET: Sd[15:0] := lane LANE .re, Sd[31:16] := .im. -/
def vgetOp (w : Nat) : Uop where
  reads := [(rV (wA w), .any)]
  writes := [(wD w, some .vget)]
  pwidth := 0
  eff := fun _ b =>
    let x := (b.getV (wA w)).toNat >>> (32 * wPb w)
    b.setG (wD w) (BitVec.ofNat 32 x) (b.poisoned (rV (wA w)))

def vmacOp := avOp fun x y => prods cprod x y
def vmacCOp := avOp fun x y => prods cprodConj x y
def vmsuOp := avOp fun x y i => -(prods cprod x y i)
def vmacROp := avOp rprods

/-- VMUL: Aa := a × b. -/
def vmulOp (w : Nat) : Uop where
  reads := [(rV (wA w), .any), (rV (wB w), .any)]
  writes := [(rA (wAa w), some .acc)]
  pwidth := 0
  eff := fun _ b => b.setA (wAa w) (ofParts (prods cprod (b.getV (wA w)) (b.getV (wB w))))
    (b.poisoned (rV (wA w)) || b.poisoned (rV (wB w)))

/-- VMAC.P: Aa += a × p. -/
def vmacPOp (w : Nat) : Uop where
  reads := [(rA (wAa w), .any), (rV (wA w), .any)]
  writes := [(rA (wAa w), some .acc)]
  pwidth := 64
  eff := fun p b => b.accumulate (wAa w) (prods cprod (b.getV (wA w)) (BitVec.ofNat 512 p.1)) (b.poisoned (rV (wA w)) || p.2)

def vmacDOp := dualOp fun x y => prods cprod x y
def vmacDcOp := dualOp fun x y => prods cprodConj x y
def vmacDrOp := dualOp rprods
def ftapOp1 := ftapOp false
def ftapOp2 := ftapOp true

/-- VCLR: Aa := 0, unpoisoned. -/
def vclrOp (w : Nat) : Uop := ⟨[], [(rA (wAa w), some .acc)], 0, fun _ b => b.setA (wAa w) 0 false⟩

/-- VACC: Aa += sext(a) × 2^IMM5, part by part. -/
def vaccOp (w : Nat) : Uop where
  reads := [(rA (wAa w), .any), (rV (wA w), .any)]
  writes := [(rA (wAa w), some .acc)]
  pwidth := 0
  eff := fun _ b =>
    let x := b.getV (wA w)
    b.accumulate (wAa w) (fun i => lane x i * 2 ^ wImm5 w) (b.poisoned (rV (wA w)))

/-- VADDA: Aa := Aa + Ab, lane by lane. -/
def vaddaOp (w : Nat) : Uop where
  reads := [(rA (wAa w), .narrow), (rA (wAb w), .narrow)]
  writes := [(rA (wAa w), some .acc)]
  pwidth := 0
  eff := fun _ b =>
    let y := b.getA (wAb w)
    b.accumulate (wAa w) (fun i => accPart y i) (b.poisoned (rA (wAb w)))

/-- The sum of one part over the lanes, 0 to 15, each addition wrapping, and whether one wrapped. -/
def sumParts (a : BitVec 1280) (im : Nat) : Int × Bool :=
  (List.range 16).foldl (fun s k =>
    let x := s.1 + accPart a (2 * k + im)
    (wrap40 x, s.2 || wraps40 x)) (0, false)

/-- VSUMA: Aa[0] := Σ Ab[k], re and im apart; Aa[1..15] := 0. -/
def vsumaOp (w : Nat) : Uop where
  reads := [(rA (wAb w), .narrow)]
  writes := [(rA (wAa w), some .acc)]
  pwidth := 0
  eff := fun _ b =>
    let y := b.getA (wAb w)
    let re := sumParts y 0
    let im := sumParts y 1
    (b.setA (wAa w) (ofParts fun i => if i = 0 then re.1 else if i = 1 then im.1 else 0) (b.poisoned (rA (wAb w)))).raiseAov
      (re.2 || im.2)

/-! ## The rows -/

/-- A format V row: opcode and operation. -/
def vRow (opc : Nat) (op : Nat → Uop) (t e : Nat) (s : State) : State :=
  s.vdeRow t e 0 opc fun x s => runVS (op x.w) x s

/-- VNOP (Table 6-6, OPC 0x00). -/
def execVnop (t e : Nat) (s : State) : Host.Outcome State Fault Refusal := .next (vRow 0x00 vnopOp t e s)
/-- VADD (Table 6-6, OPC 0x01). -/
def execVadd (t e : Nat) (s : State) : Host.Outcome State Fault Refusal := .next (vRow 0x01 vaddOp t e s)
/-- VSUB (Table 6-6, OPC 0x02). -/
def execVsub (t e : Nat) (s : State) : Host.Outcome State Fault Refusal := .next (vRow 0x02 vsubOp t e s)
/-- VADD.S (Table 6-6, OPC 0x03). -/
def execVaddS (t e : Nat) (s : State) : Host.Outcome State Fault Refusal := .next (vRow 0x03 vaddSOp t e s)
/-- VSUB.S (Table 6-6, OPC 0x04). -/
def execVsubS (t e : Nat) (s : State) : Host.Outcome State Fault Refusal := .next (vRow 0x04 vsubSOp t e s)
/-- VAND (Table 6-6, OPC 0x05). -/
def execVand (t e : Nat) (s : State) : Host.Outcome State Fault Refusal := .next (vRow 0x05 vandOp t e s)
/-- VOR (Table 6-6, OPC 0x06). -/
def execVor (t e : Nat) (s : State) : Host.Outcome State Fault Refusal := .next (vRow 0x06 vorOp t e s)
/-- VXOR (Table 6-6, OPC 0x07). -/
def execVxor (t e : Nat) (s : State) : Host.Outcome State Fault Refusal := .next (vRow 0x07 vxorOp t e s)
/-- VMOV (Table 6-6, OPC 0x08). -/
def execVmov (t e : Nat) (s : State) : Host.Outcome State Fault Refusal := .next (vRow 0x08 vmovOp t e s)
/-- VSHR (Table 6-6, OPC 0x09). -/
def execVshr (t e : Nat) (s : State) : Host.Outcome State Fault Refusal := .next (vRow 0x09 vshrOp t e s)
/-- VSHL.S (Table 6-6, OPC 0x0A). -/
def execVshlS (t e : Nat) (s : State) : Host.Outcome State Fault Refusal := .next (vRow 0x0A vshlSOp t e s)
/-- VMIN (Table 6-6, OPC 0x0B). -/
def execVmin (t e : Nat) (s : State) : Host.Outcome State Fault Refusal := .next (vRow 0x0B vminOp t e s)
/-- VMAX (Table 6-6, OPC 0x0C). -/
def execVmax (t e : Nat) (s : State) : Host.Outcome State Fault Refusal := .next (vRow 0x0C vmaxOp t e s)
/-- VCONJ (Table 6-6, OPC 0x0D). -/
def execVconj (t e : Nat) (s : State) : Host.Outcome State Fault Refusal := .next (vRow 0x0D vconjOp t e s)
/-- VMUL.H (Table 6-6, OPC 0x0E). -/
def execVmulH (t e : Nat) (s : State) : Host.Outcome State Fault Refusal := .next (vRow 0x0E vmulHOp t e s)
/-- VCMUL.H (Table 6-6, OPC 0x0F). -/
def execVcmulH (t e : Nat) (s : State) : Host.Outcome State Fault Refusal := .next (vRow 0x0F vcmulHOp t e s)
/-- VSPLAT (Table 6-6, OPC 0x10). -/
def execVsplat (t e : Nat) (s : State) : Host.Outcome State Fault Refusal := .next (vRow 0x10 vsplatOp t e s)
/-- VGET (Table 6-6, OPC 0x11). -/
def execVget (t e : Nat) (s : State) : Host.Outcome State Fault Refusal := .next (vRow 0x11 vgetOp t e s)
/-- VMAC (Table 6-6, OPC 0x20). -/
def execVmac (t e : Nat) (s : State) : Host.Outcome State Fault Refusal := .next (vRow 0x20 vmacOp t e s)
/-- VMAC.C (Table 6-6, OPC 0x21). -/
def execVmacC (t e : Nat) (s : State) : Host.Outcome State Fault Refusal := .next (vRow 0x21 vmacCOp t e s)
/-- VMSU (Table 6-6, OPC 0x22). -/
def execVmsu (t e : Nat) (s : State) : Host.Outcome State Fault Refusal := .next (vRow 0x22 vmsuOp t e s)
/-- VMAC.R (Table 6-6, OPC 0x23). -/
def execVmacR (t e : Nat) (s : State) : Host.Outcome State Fault Refusal := .next (vRow 0x23 vmacROp t e s)
/-- VMUL (Table 6-6, OPC 0x24). -/
def execVmul (t e : Nat) (s : State) : Host.Outcome State Fault Refusal := .next (vRow 0x24 vmulOp t e s)
/-- VMAC.P (Table 6-6, OPC 0x25). -/
def execVmacP (t e : Nat) (s : State) : Host.Outcome State Fault Refusal := .next (vRow 0x25 vmacPOp t e s)
/-- VMAC.D (Table 6-6, OPC 0x26). -/
def execVmacD (t e : Nat) (s : State) : Host.Outcome State Fault Refusal := .next (vRow 0x26 vmacDOp t e s)
/-- VMAC.DC (Table 6-6, OPC 0x27). -/
def execVmacDc (t e : Nat) (s : State) : Host.Outcome State Fault Refusal := .next (vRow 0x27 vmacDcOp t e s)
/-- VMAC.DR (Table 6-6, OPC 0x28). -/
def execVmacDr (t e : Nat) (s : State) : Host.Outcome State Fault Refusal := .next (vRow 0x28 vmacDrOp t e s)
/-- FTAP (Table 6-6, OPC 0x29). -/
def execFtap (t e : Nat) (s : State) : Host.Outcome State Fault Refusal := .next (vRow 0x29 ftapOp1 t e s)
/-- FTAP.D (Table 6-6, OPC 0x2A). -/
def execFtapD (t e : Nat) (s : State) : Host.Outcome State Fault Refusal := .next (vRow 0x2A ftapOp2 t e s)
/-- VCLR (Table 6-6, OPC 0x2B). -/
def execVclr (t e : Nat) (s : State) : Host.Outcome State Fault Refusal := .next (vRow 0x2B vclrOp t e s)
/-- VACC (Table 6-6, OPC 0x2C). -/
def execVacc (t e : Nat) (s : State) : Host.Outcome State Fault Refusal := .next (vRow 0x2C vaccOp t e s)
/-- VADDA (Table 6-6, OPC 0x2D). -/
def execVadda (t e : Nat) (s : State) : Host.Outcome State Fault Refusal := .next (vRow 0x2D vaddaOp t e s)
/-- VSUMA (Table 6-6, OPC 0x2E). -/
def execVsuma (t e : Nat) (s : State) : Host.Outcome State Fault Refusal := .next (vRow 0x2E vsumaOp t e s)

end Sys2Proof.Machine
end

