-- ==== Sys2Proof/Machine/Dispatch.lean ====
section
/-! DEFINITION. The meaning of every command: one arm per constructor of Instr. -/

namespace Sys2Proof.Machine

open Sys2Proof

/-- A command's effect on everything but the queue of waiting commands. -/
def exec (i : Instr) (s : State) : Host.Outcome State Fault Refusal :=
  match i with
  -- Host commands (Table 2-14)
  | .identify c => Sys2Proof.Machine.execIdentify c s
  | .attach c => Sys2Proof.Machine.execAttach c s
  | .detach c => Sys2Proof.Machine.execDetach c s
  | .queueCreate c => Sys2Proof.Machine.execQueueCreate c s
  | .queueDelete c => Sys2Proof.Machine.execQueueDelete c s
  | .eventSubscribe c => Sys2Proof.Machine.execEventSubscribe c s
  | .resetScope c => Sys2Proof.Machine.execResetScope c s
  | .modeSet c => Sys2Proof.Machine.execModeSet c s
  | .tenantConfig c => Sys2Proof.Machine.execTenantConfig c s
  | .timeGet c => Sys2Proof.Machine.execTimeGet c s
  | .timeAdjust c => Sys2Proof.Machine.execTimeAdjust c s
  | .timelineAnchor c => Sys2Proof.Machine.execTimelineAnchor c s
  | .ppsConfig c => Sys2Proof.Machine.execPpsConfig c s
  | .graphDefine c => Sys2Proof.Machine.execGraphDefine c s
  | .slotPlanSubmit c => Sys2Proof.Machine.execSlotPlanSubmit c s
  | .epochCommit c => Sys2Proof.Machine.execEpochCommit c s
  | .epochRevoke c => Sys2Proof.Machine.execEpochRevoke c s
  | .flowConfig c => Sys2Proof.Machine.execFlowConfig c s
  | .classReserve c => Sys2Proof.Machine.execClassReserve c s
  | .ologConfig c => Sys2Proof.Machine.execOlogConfig c s
  | .kernelLoad c => Sys2Proof.Machine.execKernelLoad c s
  | .cellCreate c => Sys2Proof.Machine.execCellCreate c s
  | .cellModify c => Sys2Proof.Machine.execCellModify c s
  | .cellDelete c => Sys2Proof.Machine.execCellDelete c s
  | .cellHibernate c => Sys2Proof.Machine.execCellHibernate c s
  | .cellWake c => Sys2Proof.Machine.execCellWake c s
  | .arrayCalConfig c => Sys2Proof.Machine.execArrayCalConfig c s
  | .laneConfig c => Sys2Proof.Machine.execLaneConfig c s
  | .laneStatus c => Sys2Proof.Machine.execLaneStatus c s
  | .trailConfig c => Sys2Proof.Machine.execTrailConfig c s
  | .tsiPageWrite c => Sys2Proof.Machine.execTsiPageWrite c s
  | .tsiPageSeal c => Sys2Proof.Machine.execTsiPageSeal c s
  | .tsiPageSwitch c => Sys2Proof.Machine.execTsiPageSwitch c s
  | .apsConfig c => Sys2Proof.Machine.execApsConfig c s
  | .pmRead c => Sys2Proof.Machine.execPmRead c s
  | .ethPortConfig c => Sys2Proof.Machine.execEthPortConfig c s
  | .macsecSaInstall c => Sys2Proof.Machine.execMacsecSaInstall c s
  | .fhStreamConfig c => Sys2Proof.Machine.execFhStreamConfig c s
  | .clusterJoin c => Sys2Proof.Machine.execClusterJoin c s
  | .clusterLeave c => Sys2Proof.Machine.execClusterLeave c s
  | .peerPortConfig c => Sys2Proof.Machine.execPeerPortConfig c s
  | .cellMigrate c => Sys2Proof.Machine.execCellMigrate c s
  | .perfLevelSet c => Sys2Proof.Machine.execPerfLevelSet c s
  | .regionSleep c => Sys2Proof.Machine.execRegionSleep c s
  | .regionWake c => Sys2Proof.Machine.execRegionWake c s
  | .retentionMap c => Sys2Proof.Machine.execRetentionMap c s
  | .padRelease c => Sys2Proof.Machine.execPadRelease c s
  | .watchEnter c => Sys2Proof.Machine.execWatchEnter c s
  | .fscListenConfig c => Sys2Proof.Machine.execFscListenConfig c s
  | .fscRulesLoad c => Sys2Proof.Machine.execFscRulesLoad c s
  | .adcSeqConfig c => Sys2Proof.Machine.execAdcSeqConfig c s
  | .adcSelfcal c => Sys2Proof.Machine.execAdcSelfcal c s
  | .fscStatus c => Sys2Proof.Machine.execFscStatus c s
  | .calStatus c => Sys2Proof.Machine.execCalStatus c s
  | .calPolicy c => Sys2Proof.Machine.execCalPolicy c s
  | .attest c => Sys2Proof.Machine.execAttest c s
  | .imageStage c => Sys2Proof.Machine.execImageStage c s
  | .imageCommit c => Sys2Proof.Machine.execImageCommit c s
  | .keyEnroll c => Sys2Proof.Machine.execKeyEnroll c s
  | .guardProfileLoad c => Sys2Proof.Machine.execGuardProfileLoad c s
  | .debugUnlock c => Sys2Proof.Machine.execDebugUnlock c s
  | .errlogRead c => Sys2Proof.Machine.execErrlogRead c s
  | .pageRetire c => Sys2Proof.Machine.execPageRetire c s
  | .fence c => Sys2Proof.Machine.execFence c s
  | .unfence c => Sys2Proof.Machine.execUnfence c s
  | .bistRun c => Sys2Proof.Machine.execBistRun c s
  | .dumpRead c => Sys2Proof.Machine.execDumpRead c s
  | .photometerRead c => Sys2Proof.Machine.execPhotometerRead c s
  | .loopbackSet c => Sys2Proof.Machine.execLoopbackSet c s
  | .dmaSubmit c => Sys2Proof.Machine.execDmaSubmit c s
  | .regionTableSet c => Sys2Proof.Machine.execRegionTableSet c s
  | .memRead c => Sys2Proof.Machine.execMemRead c s
  | .memWrite c => Sys2Proof.Machine.execMemWrite c s
  -- Host accesses, pins and resets
  | .mboxGo t fn v => Sys2Proof.Machine.execMboxGo t fn v s
  | .mboxAck t fn v => Sys2Proof.Machine.execMboxAck t fn v s
  | .sqTailWrite t fn qp v => Sys2Proof.Machine.execSqTailWrite t fn qp v s
  | .cqHeadWrite t fn qp v => Sys2Proof.Machine.execCqHeadWrite t fn qp v s
  | .registerWrite t fn off bs cfg => Sys2Proof.Machine.execRegisterWrite t fn off bs cfg s
  | .debugApertureAccess t fn off n bs => Sys2Proof.Machine.execDebugApertureAccess t fn off n bs s
  | .bar2Access t fn off n bs => Sys2Proof.Machine.execBar2Access t fn off n bs s
  | .adcResultRead t e => Sys2Proof.Machine.execAdcResultRead t e s
  | .i3cRead t => Sys2Proof.Machine.execI3cRead t s
  | .commandFetch t entry poison => Sys2Proof.Machine.execCommandFetch t entry poison s
  | .cqCoalesceTimeout t fn qp => Sys2Proof.Machine.execCqCoalesceTimeout t fn qp s
  | .pcieReset t => Sys2Proof.Machine.execPcieReset t s
  | .functionLevelReset t fn => Sys2Proof.Machine.execFunctionLevelReset t fn s
  | .headlessHoldEnd t fn => Sys2Proof.Machine.execHeadlessHoldEnd t fn s
  | .por t raw => Sys2Proof.Machine.execPor t raw s
  | .railMonitorPoll t raw serves => Sys2Proof.Machine.execRailMonitorPoll t raw serves s
  | .aonUndervoltage t => Sys2Proof.Machine.execAonUndervoltage t s
  | .warmReset t pin => Sys2Proof.Machine.execWarmReset t pin s
  | .domeBoot t => Sys2Proof.Machine.execDomeBoot t s
  | .bootFallback t => Sys2Proof.Machine.execBootFallback t s
  | .bootComplete t => Sys2Proof.Machine.execBootComplete t s
  -- Time
  | .refclkLoss t => Sys2Proof.Machine.execRefclkLoss t s
  | .refclkRestored t => Sys2Proof.Machine.execRefclkRestored t s
  | .timeAdjustApply t root => Sys2Proof.Machine.execTimeAdjustApply t root s
  | .ppsCapture t widthNs => Sys2Proof.Machine.execPpsCapture t widthNs s
  | .ppsMissing t => Sys2Proof.Machine.execPpsMissing t s
  | .timelineStrobe t cell => Sys2Proof.Machine.execTimelineStrobe t cell s
  | .anchorEffect t cell => Sys2Proof.Machine.execAnchorEffect t cell s
  | .servoRateUpdate t rate offsetNs viaEth => Sys2Proof.Machine.execServoRateUpdate t rate offsetNs viaEth s
  -- Scheduler
  | .timedGateExpiry t g => Sys2Proof.Machine.execTimedGateExpiry t g s
  | .dispatch t e => Sys2Proof.Machine.execDispatch t e s
  | .remoteDispatch t id => Sys2Proof.Machine.execRemoteDispatch t id s
  | .remoteFinish t id st => Sys2Proof.Machine.execRemoteFinish t id st s
  | .taskFinish t e => Sys2Proof.Machine.execTaskFinish t e s
  | .release t id => Sys2Proof.Machine.execRelease t id s
  | .engineZeroingDone t e => Sys2Proof.Machine.execEngineZeroingDone t e s
  | .yieldTrap t e => Sys2Proof.Machine.execYieldTrap t e s
  | .yieldAbort t e => Sys2Proof.Machine.execYieldAbort t e s
  | .unitBoundary t e => Sys2Proof.Machine.execUnitBoundary t e s
  | .runAheadPoll t e => Sys2Proof.Machine.execRunAheadPoll t e s
  -- VDE instructions (chapter 06)
  | .vnop t e => Sys2Proof.Machine.execVnop t e s
  | .vadd t e => Sys2Proof.Machine.execVadd t e s
  | .vsub t e => Sys2Proof.Machine.execVsub t e s
  | .vaddS t e => Sys2Proof.Machine.execVaddS t e s
  | .vsubS t e => Sys2Proof.Machine.execVsubS t e s
  | .vand t e => Sys2Proof.Machine.execVand t e s
  | .vor t e => Sys2Proof.Machine.execVor t e s
  | .vxor t e => Sys2Proof.Machine.execVxor t e s
  | .vmov t e => Sys2Proof.Machine.execVmov t e s
  | .vshr t e => Sys2Proof.Machine.execVshr t e s
  | .vshlS t e => Sys2Proof.Machine.execVshlS t e s
  | .vmin t e => Sys2Proof.Machine.execVmin t e s
  | .vmax t e => Sys2Proof.Machine.execVmax t e s
  | .vconj t e => Sys2Proof.Machine.execVconj t e s
  | .vmulH t e => Sys2Proof.Machine.execVmulH t e s
  | .vcmulH t e => Sys2Proof.Machine.execVcmulH t e s
  | .vsplat t e => Sys2Proof.Machine.execVsplat t e s
  | .vget t e => Sys2Proof.Machine.execVget t e s
  | .vmac t e => Sys2Proof.Machine.execVmac t e s
  | .vmacC t e => Sys2Proof.Machine.execVmacC t e s
  | .vmsu t e => Sys2Proof.Machine.execVmsu t e s
  | .vmacR t e => Sys2Proof.Machine.execVmacR t e s
  | .vmul t e => Sys2Proof.Machine.execVmul t e s
  | .vmacP t e => Sys2Proof.Machine.execVmacP t e s
  | .vmacD t e => Sys2Proof.Machine.execVmacD t e s
  | .vmacDc t e => Sys2Proof.Machine.execVmacDc t e s
  | .vmacDr t e => Sys2Proof.Machine.execVmacDr t e s
  | .ftap t e => Sys2Proof.Machine.execFtap t e s
  | .ftapD t e => Sys2Proof.Machine.execFtapD t e s
  | .vclr t e => Sys2Proof.Machine.execVclr t e s
  | .vacc t e => Sys2Proof.Machine.execVacc t e s
  | .vadda t e => Sys2Proof.Machine.execVadda t e s
  | .vsuma t e => Sys2Proof.Machine.execVsuma t e s
  | .snop t e => Sys2Proof.Machine.execSnop t e s
  | .add t e => Sys2Proof.Machine.execAdd t e s
  | .addI t e => Sys2Proof.Machine.execAddI t e s
  | .sub t e => Sys2Proof.Machine.execSub t e s
  | .subI t e => Sys2Proof.Machine.execSubI t e s
  | .and t e => Sys2Proof.Machine.execAnd t e s
  | .andI t e => Sys2Proof.Machine.execAndI t e s
  | .or t e => Sys2Proof.Machine.execOr t e s
  | .orI t e => Sys2Proof.Machine.execOrI t e s
  | .xor t e => Sys2Proof.Machine.execXor t e s
  | .xorI t e => Sys2Proof.Machine.execXorI t e s
  | .mul t e => Sys2Proof.Machine.execMul t e s
  | .mulI t e => Sys2Proof.Machine.execMulI t e s
  | .shl t e => Sys2Proof.Machine.execShl t e s
  | .shlI t e => Sys2Proof.Machine.execShlI t e s
  | .shr t e => Sys2Proof.Machine.execShr t e s
  | .shrI t e => Sys2Proof.Machine.execShrI t e s
  | .sar t e => Sys2Proof.Machine.execSar t e s
  | .sarI t e => Sys2Proof.Machine.execSarI t e s
  | .slt t e => Sys2Proof.Machine.execSlt t e s
  | .sltI t e => Sys2Proof.Machine.execSltI t e s
  | .sltu t e => Sys2Proof.Machine.execSltu t e s
  | .sltuI t e => Sys2Proof.Machine.execSltuI t e s
  | .seq t e => Sys2Proof.Machine.execSeq t e s
  | .seqI t e => Sys2Proof.Machine.execSeqI t e s
  | .min t e => Sys2Proof.Machine.execMin t e s
  | .minI t e => Sys2Proof.Machine.execMinI t e s
  | .max t e => Sys2Proof.Machine.execMax t e s
  | .maxI t e => Sys2Proof.Machine.execMaxI t e s
  | .movG t e => Sys2Proof.Machine.execMovG t e s
  | .addG t e => Sys2Proof.Machine.execAddG t e s
  | .ldi t e => Sys2Proof.Machine.execLdi t e s
  | .lda t e => Sys2Proof.Machine.execLda t e s
  | .lds t e => Sys2Proof.Machine.execLds t e s
  | .sts t e => Sys2Proof.Machine.execSts t e s
  | .vld t e => Sys2Proof.Machine.execVld t e s
  | .vst t e => Sys2Proof.Machine.execVst t e s
  | .vldp t e => Sys2Proof.Machine.execVldp t e s
  | .vstS t e => Sys2Proof.Machine.execVstS t e s
  | .vstSRe t e => Sys2Proof.Machine.execVstSRe t e s
  | .nop t e => Sys2Proof.Machine.execNop t e s
  | .br t e => Sys2Proof.Machine.execBr t e s
  | .brz t e => Sys2Proof.Machine.execBrz t e s
  | .brnz t e => Sys2Proof.Machine.execBrnz t e s
  | .brlt t e => Sys2Proof.Machine.execBrlt t e s
  | .brge t e => Sys2Proof.Machine.execBrge t e s
  | .call t e => Sys2Proof.Machine.execCall t e s
  | .ret t e => Sys2Proof.Machine.execRet t e s
  | .rtt t e => Sys2Proof.Machine.execRtt t e s
  | .loop t e => Sys2Proof.Machine.execLoop t e s
  | .loopI t e => Sys2Proof.Machine.execLoopI t e s
  | .yield t e => Sys2Proof.Machine.execYield t e s
  | .exit t e => Sys2Proof.Machine.execExit t e s
  | .exitF t e => Sys2Proof.Machine.execExitF t e s
  -- Fixed-function engines
  | .matmul t e => Sys2Proof.Machine.execMatmul t e s
  | .gram t e => Sys2Proof.Machine.execGram t e s
  | .solve t e => Sys2Proof.Machine.execSolve t e s
  | .weights t e => Sys2Proof.Machine.execWeights t e s
  | .beamApply t e => Sys2Proof.Machine.execBeamApply t e s
  | .fft t e => Sys2Proof.Machine.execFft t e s
  | .ifft t e => Sys2Proof.Machine.execIfft t e s
  | .detect t e => Sys2Proof.Machine.execDetect t e s
  | .ldpcDecode t e => Sys2Proof.Machine.execLdpcDecode t e s
  | .ldpcEncode t e => Sys2Proof.Machine.execLdpcEncode t e s
  | .polarDecode t e => Sys2Proof.Machine.execPolarDecode t e s
  | .polarEncode t e => Sys2Proof.Machine.execPolarEncode t e s
  | .turboDecode t e => Sys2Proof.Machine.execTurboDecode t e s
  | .turboEncode t e => Sys2Proof.Machine.execTurboEncode t e s
  | .tbccDecode t e => Sys2Proof.Machine.execTbccDecode t e s
  | .combineNr t e => Sys2Proof.Machine.execCombineNr t e s
  | .combineLte t e => Sys2Proof.Machine.execCombineLte t e s
  -- DMA
  | .edmaGo t e c => Sys2Proof.Machine.execEdmaGo t e c s
  | .bdmaGo t blk c => Sys2Proof.Machine.execBdmaGo t blk c s
  | .bdmaArm t blk c => Sys2Proof.Machine.execBdmaArm t blk c s
  | .bdmaShadowWrite t blk c off bs atCompletion => Sys2Proof.Machine.execBdmaShadowWrite t blk c off bs atCompletion s
  | .dmaTransferDone t r env => Sys2Proof.Machine.execDmaTransferDone t r env s
  -- On-chip network
  | .meshRequest t r lost parity => Sys2Proof.Machine.execMeshRequest t r lost parity s
  | .meshResponse t blk init cls tag ns => Sys2Proof.Machine.execMeshResponse t blk init cls tag ns s
  | .rsv t blk init target cls n => Sys2Proof.Machine.execRsv t blk init target cls n s
  | .rsvReturn t target cls n => Sys2Proof.Machine.execRsvReturn t target cls n s
  | .gnt t blk target cls => Sys2Proof.Machine.execGnt t blk target cls s
  | .slotReturnTimeout t blk target cls => Sys2Proof.Machine.execSlotReturnTimeout t blk target cls s
  | .meshTimeout t blk init cls tag => Sys2Proof.Machine.execMeshTimeout t blk init cls tag s
  | .routeRefusedRetry t r => Sys2Proof.Machine.execRouteRefusedRetry t r s
  | .routerDrained t r => Sys2Proof.Machine.execRouterDrained t r s
  | .routerDrainTimeout t r => Sys2Proof.Machine.execRouterDrainTimeout t r s
  | .photometerPeriod t => Sys2Proof.Machine.execPhotometerPeriod t s
  -- Memory
  | .errlogCopy t r => Sys2Proof.Machine.execErrlogCopy t r s
  | .hbmRetrain t stack temp => Sys2Proof.Machine.execHbmRetrain t stack temp s
  | .hbmRetrainDone t stack => Sys2Proof.Machine.execHbmRetrainDone t stack s
  -- Power
  | .blockSleepAnswer t blk => Sys2Proof.Machine.execBlockSleepAnswer t blk s
  | .sleepAnswerTimeout t => Sys2Proof.Machine.execSleepAnswerTimeout t s
  | .idleEntry t r => Sys2Proof.Machine.execIdleEntry t r s
  | .throttleStep t r => Sys2Proof.Machine.execThrottleStep t r s
  | .urgentBurst t codes serves => Sys2Proof.Machine.execUrgentBurst t codes serves s
  | .watchWake t perst => Sys2Proof.Machine.execWatchWake t perst s
  -- Lanes
  | .losSet t n k => Sys2Proof.Machine.execLosSet t n k s
  | .losClear t n k => Sys2Proof.Machine.execLosClear t n k s
  | .lolSet t n k => Sys2Proof.Machine.execLolSet t n k s
  | .lolClear t n k => Sys2Proof.Machine.execLolClear t n k s
  | .lockComplete t n k freq => Sys2Proof.Machine.execLockComplete t n k freq s
  | .adaptationComplete t n k timeout taps => Sys2Proof.Machine.execAdaptationComplete t n k timeout taps s
  | .blockLock t n k inv => Sys2Proof.Machine.execBlockLock t n k inv s
  | .polarityDetect t n k inv => Sys2Proof.Machine.execPolarityDetect t n k inv s
  | .laneOrder t n nums => Sys2Proof.Machine.execLaneOrder t n nums s
  | .deskew t n arr => Sys2Proof.Machine.execDeskew t n arr s
  | .handshake t n => Sys2Proof.Machine.execHandshake t n s
  | .trainingBlockRx t n ctl b => Sys2Proof.Machine.execTrainingBlockRx t n ctl b s
  | .syncHeaderLoss t n k count => Sys2Proof.Machine.execSyncHeaderLoss t n k count s
  | .bringupTimeout t n => Sys2Proof.Machine.execBringupTimeout t n s
  | .bringupRestart t n => Sys2Proof.Machine.execBringupRestart t n s
  | .eqiUpdate t n k v => Sys2Proof.Machine.execEqiUpdate t n k v s
  -- Tvednas line format
  | .fawRx t n pos exact fn just chk => Sys2Proof.Machine.execFawRx t n pos exact fn just chk s
  | .tlfFrameRx t n line => Sys2Proof.Machine.execTlfFrameRx t n line s
  | .tlfFrameTx t n => Sys2Proof.Machine.execTlfFrameTx t n s
  | .tlfDefectSet t trail id d => Sys2Proof.Machine.execTlfDefectSet t trail id d s
  | .tlfDefectClear t trail id d => Sys2Proof.Machine.execTlfDefectClear t trail id d s
  | .sfHoldoffExpiry t n => Sys2Proof.Machine.execSfHoldoffExpiry t n s
  | .apsSwitched t n => Sys2Proof.Machine.execApsSwitched t n s
  | .wtrExpiry t n => Sys2Proof.Machine.execWtrExpiry t n s
  | .apsMismatch t n => Sys2Proof.Machine.execApsMismatch t n s
  | .tsiSwitched t n => Sys2Proof.Machine.execTsiSwitched t n s
  | .tsiCopyWindowEnd t n => Sys2Proof.Machine.execTsiCopyWindowEnd t n s
  | .pmSecond t => Sys2Proof.Machine.execPmSecond t s
  -- Ethernet
  | .ethFrameRx t n f env => Sys2Proof.Machine.execEthFrameRx t n f env s
  | .hostTxPoll t n desc => Sys2Proof.Machine.execHostTxPoll t n desc s
  | .hostTxFrame t n frame poison => Sys2Proof.Machine.execHostTxFrame t n frame poison s
  | .uplaneTx t id point => Sys2Proof.Machine.execUplaneTx t id point s
  | .cplaneTx t id => Sys2Proof.Machine.execCplaneTx t id s
  | .uplinkWindowClose t id point => Sys2Proof.Machine.execUplinkWindowClose t id point s
  | .peerRetransmit t d cls => Sys2Proof.Machine.execPeerRetransmit t d cls s
  | .peerKeepalive t d cls => Sys2Proof.Machine.execPeerKeepalive t d cls s
  | .damperCheck t trail id point => Sys2Proof.Machine.execDamperCheck t trail id point s
  -- Cluster and migration
  | .peerRequest t dev r mig lat => Sys2Proof.Machine.execPeerRequest t dev r mig lat s
  | .peerRelay t src dst hops cls tag packet => Sys2Proof.Machine.execPeerRelay t src dst hops cls tag packet s
  | .idleSummary t dev sm step rejoined => Sys2Proof.Machine.execIdleSummary t dev sm step rejoined s
  | .pathDown t dev => Sys2Proof.Machine.execPathDown t dev s
  | .migPair t id dev cell peerCell num toff sfnBase sfn => Sys2Proof.Machine.execMigPair t id dev cell peerCell num toff sfnBase sfn s
  | .migReadyToCopy t id => Sys2Proof.Machine.execMigReadyToCopy t id s
  | .migPrecopyDone t id => Sys2Proof.Machine.execMigPrecopyDone t id s
  | .migCommit t id => Sys2Proof.Machine.execMigCommit t id s
  | .migCommitAck t id => Sys2Proof.Machine.execMigCommitAck t id s
  | .migCommitPoint t id => Sys2Proof.Machine.execMigCommitPoint t id s
  | .migSwitch t id => Sys2Proof.Machine.execMigSwitch t id s
  | .migFinal t id => Sys2Proof.Machine.execMigFinal t id s
  | .migAbort t id told => Sys2Proof.Machine.execMigAbort t id told s
  -- Finderscope
  | .listenWindowOpen t n => Sys2Proof.Machine.execListenWindowOpen t n s
  | .listenWindowClose t n seen => Sys2Proof.Machine.execListenWindowClose t n seen s
  | .chimeSyncTimeout t n seen => Sys2Proof.Machine.execChimeSyncTimeout t n seen s
  | .chimeDecode t n seen llrs => Sys2Proof.Machine.execChimeDecode t n seen llrs s
  | .chimeLost t n seen => Sys2Proof.Machine.execChimeLost t n seen s
  | .prachWatchDetect t n samples => Sys2Proof.Machine.execPrachWatchDetect t n samples s
  | .energyEvent t n sum cnt => Sys2Proof.Machine.execEnergyEvent t n sum cnt s
  | .adcPassStart t => Sys2Proof.Machine.execAdcPassStart t s
  | .adcConversion t raw => Sys2Proof.Machine.execAdcConversion t raw s
  | .fscTimerExpiry t i1 => Sys2Proof.Machine.execFscTimerExpiry t i1 s
  | .timelineEvent t i1 => Sys2Proof.Machine.execTimelineEvent t i1 s
  -- Collimator and the Dome
  | .laneTapStep t n k est tap => Sys2Proof.Machine.execLaneTapStep t n k est tap s
  | .eyeSweep t n k w h => Sys2Proof.Machine.execEyeSweep t n k w h s
  | .arrayEstimate t cell est resid delays => Sys2Proof.Machine.execArrayEstimate t cell est resid delays s
  | .calPublish t cell => Sys2Proof.Machine.execCalPublish t cell s
  | .ageingRead t r drift => Sys2Proof.Machine.execAgeingRead t r drift s
  | .challengeExpiry t => Sys2Proof.Machine.execChallengeExpiry t s
  -- Faults
  | .engineFault t e ue => Sys2Proof.Machine.execEngineFault t e ue s
  | .engineRecoveryTimeout t e => Sys2Proof.Machine.execEngineRecoveryTimeout t e s
  | .blockFault t blk serves => Sys2Proof.Machine.execBlockFault t blk serves s
  | .fatalRegion t r cause serves => Sys2Proof.Machine.execFatalRegion t r cause serves s
  | .fatalChip t cause source serves => Sys2Proof.Machine.execFatalChip t cause source serves s
  | .dumpComplete t env => Sys2Proof.Machine.execDumpComplete t env s
  | .domeTakeover t watchdog => Sys2Proof.Machine.execDomeTakeover t watchdog s
  | .fenceWaitTimeout t => Sys2Proof.Machine.execFenceWaitTimeout t s
  | .bistDone t kind target words logic => Sys2Proof.Machine.execBistDone t kind target words logic s
  -- Pins, arrivals and completions
  | .vddAonInTolerance t => Sys2Proof.Machine.execVddAonInTolerance t s
  | .porNLow t => Sys2Proof.Machine.execPorNLow t s
  | .pciePerstNRelease t => Sys2Proof.Machine.execPciePerstNRelease t s
  | .msixMaskClear t fn vec => Sys2Proof.Machine.execMsixMaskClear t fn vec s
  | .jtagInstruction t op => Sys2Proof.Machine.execJtagInstruction t op s
  | .pcsUp t n => Sys2Proof.Machine.execPcsUp t n s
  | .prbsCheckerLock t n => Sys2Proof.Machine.execPrbsCheckerLock t n s
  | .prbsCheckerRelock t n => Sys2Proof.Machine.execPrbsCheckerRelock t n s
  | .remoteTaskArrival t dev rid desc region => Sys2Proof.Machine.execRemoteTaskArrival t dev rid desc region s
  | .remoteRevokeArrival t dev rid st => Sys2Proof.Machine.execRemoteRevokeArrival t dev rid st s
  | .commitArrival t id => Sys2Proof.Machine.execCommitArrival t id s
  | .regionActive t r => Sys2Proof.Machine.execRegionActive t r s
  | .levelChangeDone t r => Sys2Proof.Machine.execLevelChangeDone t r s
  | .adcCalibrationDone t offset gain => Sys2Proof.Machine.execAdcCalibrationDone t offset gain s
  | .commandCompletion t id => Sys2Proof.Machine.execCommandCompletion t id s
  | .leaveWaitRunsOut t => Sys2Proof.Machine.execLeaveWaitRunsOut t s
  | .joinKeepaliveTimeout t => Sys2Proof.Machine.execJoinKeepaliveTimeout t s
  | .watchWakeComplete t => Sys2Proof.Machine.execWatchWakeComplete t s
  | .returnToService t kind target => Sys2Proof.Machine.execReturnToService t kind target s

end Sys2Proof.Machine
end

