-- ==== Sys2Proof/Safety.lean ====
section
/-! DEFINITION. What counts as a safe run, and when a host command is carried out: the terms the claims use. -/

namespace Sys2Proof.Machine

/-- A step is safe when it neither faults nor is refused. -/
def StepSafe (s : State) : Prop := ∃ s', step s = .next s'

/-- A run of `n` steps is safe. -/
def RunSafe : Nat → State → Prop
  | 0, _ => True
  | n + 1, s => ∃ s', step s = .next s' ∧ RunSafe n s'

/-- The canonical form of memory: addresses strictly rising, no listed byte equal to what an unlisted address reads as (0, R456). -/
abbrev Memory.wf (m : Tab Byte) : Prop := Tab.wf (0 : Byte) m = true

/-- What holds in every state that steps reach from reset: memory in its canonical form, HOLD_MS within its range (R66), and the tables of
persistent ranges, retired pages, retired banks and region logs no longer than the manual's (R465, R468, R470). -/
structure State.Inv (s : State) : Prop where
  memory : Memory.wf s.mem.mem
  hold : s.host.holdMs ≤ 1000
  ranges : s.mem.ranges.length ≤ 1024
  pages : s.mem.retPages.length ≤ 4096
  banks : s.mem.retBanks.length ≤ 64
  logs : ∀ r, (s.log r).entries.length ≤ 256

/-- The host command that a row names waits, may start (R56), and meets every generic check (R630 items 1 to 4) at the row's FRC. -/
abbrev Ready (ly : Layout) (c : CmdRef) (s : State) (fl : Flight) : Prop :=
  (s.advance c.t).startable c.id ly.op = some fl ∧ genericCheck (s.advance c.t) fl ly c = none

/-- The host command that a row names may start, and a generic check refuses it with a status. -/
abbrev Refused (ly : Layout) (c : CmdRef) (s : State) (fl : Flight) (st : Status) : Prop :=
  (s.advance c.t).startable c.id ly.op = some fl ∧ genericCheck (s.advance c.t) fl ly c = some st

/-- The word of a row issues on engine `e`: a kernel runs there with its timer not out, the word at its offset is not poison or comes from the
repeat cache, and it has the row's format and opcode. `u` is the state in which it takes effect. -/
structure Issues (s : State) (t e fmt opc : Nat) (x : WordCtx) (u : State) : Prop where
  runs : (s.advance t).vdeRuns e = some (x.id, x.task, x.k)
  eng : x.e = e
  alt : x.alt = ((s.advance t).vde e).inAlt
  timer : (s.advance t).time.frc < ((s.advance t).vde e).bank.timerEnd
  hit : x.hit = ((s.advance t).vde e).bank.cacheHit
  clean : x.hit = false → (s.advance t).poisonIn (engBase e + x.k.codeBase + 8 * ((s.advance t).vde e).bank.pc) 8 = false
  word : x.w = leNat ((s.advance t).bytesAt (engBase e + x.k.codeBase + 8 * ((s.advance t).vde e).bank.pc) 8)
  fmt : wFmt x.w = fmt
  opc : wOpc x.w = opc
  read : u = if x.hit then s.advance t
    else (s.advance t).logRead ((s.advance t).taskWho x.id x.task (initEng e)) (engBase e + x.k.codeBase + 8 * ((s.advance t).vde e).bank.pc) 8

/-- The canonical form of a VDE register bank: registers in order and none listed that reads 0, poison marks in order. -/
abbrev Bank.wf (b : Bank) : Prop := b.g.wf 0 = true ∧ b.v.wf 0 = true ∧ b.a.wf 0 = true ∧ b.pois.sorted = true

/-- The layout and the command of a row of Table 2-14; the other rows are none. -/
def hostRow : Instr → Option (Layout × CmdRef)
  | .identify c => some (layIdentify, c)
  | .attach c => some (layAttach, c)
  | .detach c => some (layDetach, c)
  | .queueCreate c => some (layQueueCreate, c)
  | .queueDelete c => some (layQueueDelete, c)
  | .eventSubscribe c => some (layEventSubscribe, c)
  | .resetScope c => some (layResetScope, c)
  | .modeSet c => some (layModeSet, c)
  | .tenantConfig c => some (layTenantConfig, c)
  | .timeGet c => some (layTimeGet, c)
  | .timeAdjust c => some (layTimeAdjust, c)
  | .timelineAnchor c => some (layTimelineAnchor, c)
  | .ppsConfig c => some (layPpsConfig, c)
  | .graphDefine c => some (layGraphDefine, c)
  | .slotPlanSubmit c => some (laySlotPlan, c)
  | .epochCommit c => some (layEpochCommit, c)
  | .epochRevoke c => some (layEpochRevoke, c)
  | .flowConfig c => some (layFlowConfig, c)
  | .classReserve c => some (layClassReserve, c)
  | .ologConfig c => some (layOlogConfig, c)
  | .kernelLoad c => some (layKernelLoad, c)
  | .cellCreate c => some (layCellCreate, c)
  | .cellModify c => some (layCellModify, c)
  | .cellDelete c => some (layCellDelete, c)
  | .cellHibernate c => some (layCellHibernate, c)
  | .cellWake c => some (layCellWake, c)
  | .arrayCalConfig c => some (layArrayCalConfig, c)
  | .laneConfig c => some (layLaneConfig, c)
  | .laneStatus c => some (layLaneStatus, c)
  | .trailConfig c => some (layTrailConfig, c)
  | .tsiPageWrite c => some (layTsiPageWrite, c)
  | .tsiPageSeal c => some (layTsiPageSeal, c)
  | .tsiPageSwitch c => some (layTsiPageSwitch, c)
  | .apsConfig c => some (layApsConfig, c)
  | .pmRead c => some (layPmRead, c)
  | .ethPortConfig c => some (layEthPort, c)
  | .macsecSaInstall c => some (layMacsec, c)
  | .fhStreamConfig c => some (layFhStream, c)
  | .clusterJoin c => some (layClusterJoin, c)
  | .clusterLeave c => some (layClusterLeave, c)
  | .peerPortConfig c => some (layPeerPort, c)
  | .cellMigrate c => some (layMigrate, c)
  | .perfLevelSet c => some (layPerfLevelSet, c)
  | .regionSleep c => some (layRegionSleep, c)
  | .regionWake c => some (layRegionWake, c)
  | .retentionMap c => some (layRetentionMap, c)
  | .padRelease c => some (layPadRelease, c)
  | .watchEnter c => some (layWatchEnter, c)
  | .fscListenConfig c => some (layFscListenConfig, c)
  | .fscRulesLoad c => some (layFscRulesLoad, c)
  | .adcSeqConfig c => some (layAdcSeqConfig, c)
  | .adcSelfcal c => some (layAdcSelfcal, c)
  | .fscStatus c => some (layFscStatus, c)
  | .calStatus c => some (layCalStatus, c)
  | .calPolicy c => some (layCalPolicy, c)
  | .attest c => some (layAttest, c)
  | .imageStage c => some (layImageStage, c)
  | .imageCommit c => some (layImageCommit, c)
  | .keyEnroll c => some (layKeyEnroll, c)
  | .guardProfileLoad c => some (layGuardProfileLoad, c)
  | .debugUnlock c => some (layDebugUnlock, c)
  | .errlogRead c => some (layErrlogRead, c)
  | .pageRetire c => some (layPageRetire, c)
  | .fence c => some (layFence, c)
  | .unfence c => some (layUnfence, c)
  | .bistRun c => some (layBistRun, c)
  | .dumpRead c => some (layDumpRead, c)
  | .photometerRead c => some (layPhotometer, c)
  | .loopbackSet c => some (layLoopbackSet, c)
  | .dmaSubmit c => some (layDmaSubmit, c)
  | .regionTableSet c => some (layRegionTableSet, c)
  | .memRead c => some (layMemRead, c)
  | .memWrite c => some (layMemWrite, c)
  | _ => none

end Sys2Proof.Machine
end

