-- ==== Sys2Proof/Certificates/Slice0/Obligations.lean ====
section
/-! DEFINITION. The statements about the block, chapter by chapter, in terms of exec and step. -/

open Sys2Proof Sys2Proof.Machine

/-! ## The step and the host interface (chapter 02) -/

/-- A step takes the command at the front of the queue and carries it out with the queue's rest. -/
def Obligations.StepRunsFront : Prop :=
  ∀ (i : Instr) (rest : List Instr) (s : State),
    step { s with pending := i :: rest } = exec i { s with pending := rest }

/-- On an empty queue the block idles for one count of the FRC (the model's choice, log entry 2). -/
def Obligations.EmptyQueueTicks : Prop :=
  ∀ s : State, s.pending = [] → step s = .next { s with time := { s.time with frc := s.time.frc + 1 } }

/-- R630 items 1 to 4: which status the generic checks answer, each check when those before it hold; of the mode and attachment checks
the cases of QUEUE_CREATE and MODE_SET; of the command word every case of R54. -/
def Obligations.GenericChecksInOrder : Prop :=
  ∀ (s : State) (fl : Flight) (ly : Layout) (c : CmdRef),
    let p := fl.params c.buf
    let pf := opcodesPf.contains fl.op && fl.fn != 0
    let word := wordOk s fl ly (fl.op == 0x0002 || s.anyBuf)
    (opcodeKnown fl.op = false → genericCheck s fl ly c = some .badOpcode)
    ∧ (opcodeKnown fl.op = true → pf = true → genericCheck s fl ly c = some .notPermitted)
    ∧ (∀ st, opcodeKnown fl.op = true → pf = false → modeCheck s fl p = some st → genericCheck s fl ly c = some st)
    ∧ (opcodeKnown fl.op = true → pf = false → modeCheck s fl p = none → word = false →
        genericCheck s fl ly c = some .badParam)
    ∧ (opcodeKnown fl.op = true → pf = false → modeCheck s fl p = none → word = true → (fl.ext && c.poison) = false →
        chkAll p (ly.checks p) = false → genericCheck s fl ly c = some .badParam)
    ∧ (fl.op = 0x0008 → (s.func fl.fn).attached = false → s.host.server = .melvi → s.pow.mode = .ready →
        modeCheck s fl p = none)
    ∧ (fl.op = 0x0004 → (s.func fl.fn).attached = false → s.host.server = .melvi → s.pow.mode = .ready →
        modeCheck s fl p = some .notPermitted)
    ∧ (fl.op = 0x0004 → s.host.server = .melvi → s.pow.mode = .boot → modeCheck s fl p = some .notReady)
    ∧ (fl.op = 0x0004 → s.host.server = .melvi → s.pow.mode = .fault → modeCheck s fl p = some .notPermitted)
    ∧ (fl.tag = 0xFFFFFFFF → word = false) ∧ (fl.plen < ly.plen → word = false)
    ∧ (fl.ext = false → 48 < fl.plen → word = false) ∧ (fl.ext = false → ly.ext = true → word = false)
    ∧ (fl.ext = true → 16777216 < fld fl.cmd 24 4 → word = false)
    ∧ (fl.ext = true → fld fl.cmd 24 4 < fl.plen → word = false)

/-- Every host command that a generic check refuses completes with that check's status, and the completion is all that happens. -/
def Obligations.RefusedCommandOnlyCompletes : Prop :=
  ∀ (i : Instr) (ly : Layout) (c : CmdRef) (s : State) (fl : Flight) (st : Status),
    hostRow i = some (ly, c) → Refused ly c s fl st →
    exec i s = .next ((s.advance c.t).complete fl ly.op (.bare st))

/-- What posting a completion leaves as it was: everything but the outbox, the list of commands in progress, and of the sending function
its mailbox, its queue pairs' indices, its pending interrupts and its count of lost completions. -/
def Obligations.CompletionFrame : Prop :=
  ∀ (s : State) (fl : Flight) (op : Nat) (r : Reply),
    let u := s.complete fl op r
    u.time = s.time ∧ u.car = s.car ∧ u.cells = s.cells ∧ u.mem = s.mem ∧ u.pow = s.pow ∧ u.vdes = s.vdes ∧ u.kernels = s.kernels
    ∧ u.fault = s.fault ∧ u.bdma = s.bdma ∧ u.bdmaEng = s.bdmaEng ∧ u.line = s.line ∧ u.dome = s.dome ∧ u.clu = s.clu ∧ u.noc = s.noc ∧ u.fsc = s.fsc
    ∧ u.cal = s.cal ∧ u.pins = s.pins ∧ u.freeCtr = s.freeCtr ∧ u.pending = s.pending
    ∧ u.host.flights = s.host.flights.filter (fun f => f.id != fl.id)
    ∧ u.host.tenants = s.host.tenants ∧ u.host.holdMs = s.host.holdMs ∧ u.host.server = s.host.server
    ∧ u.host.dbgBase = s.host.dbgBase ∧ u.host.warmAt = s.host.warmAt
    ∧ ∀ fn, fn ≠ fl.fn → u.func fn = s.func fn

/-- The admin commands of Table 2-13 but RESET_SCOPE and TENANT_CONFIG: the state each leads to when no check refuses it. -/
def Obligations.AdminCommandsComplete : Prop :=
  ∀ (c : CmdRef) (s : State) (fl : Flight),
    let s₁ := s.advance c.t
    let p := fl.params c.buf
    let pair : QueuePair :=
      { entries := fld p 2 2, sqAddr := fld p 16 8, cqAddr := fld p 24 8, vector := fld p 4 2, urgent := fld p 6 1 == 0
        coalCount := fld p 7 1, coalUs := fld p 8 2, sqTail := 0, sqHead := 0, cqTail := 0, phase := true, cqHead := 0
        posted := 0, reserved := 0, unsignalled := 0, oldest := 0, stopped := false }
    -- IDENTIFY: the inline result; or the buffer of Table 2-13
    (Ready layIdentify c s fl → fld p 0 8 = 0 → exec (.identify c) s
      = .next (s₁.complete fl 0x0001 (.ok (leBytes 4 0x8128A100 ++ leBytes 4 s₁.fwVersion ++ leBytes 8 Config.serial))))
    ∧ (Ready layIdentify c s fl → fld p 0 8 ≠ 0 → exec (.identify c) s
      = .next (s₁.complete fl 0x0001 (.okBuf (fld p 0 8) (s₁.identityBuf fl.fn))))
    -- ATTACH (R63, R67, R69)
    ∧ (Ready layAttach c s fl → fld p 2 2 = 1 → exec (.attach c) s
      = .next ((s₁.modFunc fl.fn fun f => { f with
          qps := [], subs := [], attached := true, windows := (List.range (fld p 4 4)).map fun k => attachWin p k
          hold := .none, muted := false, complLost := 0, eventsLost := 0 }).complete fl 0x0002
            (.ok (leBytes 2 fl.fn ++ leBytes 2 s₁.clu.device))))
    ∧ (Ready layAttach c s fl → fld p 2 2 ≠ 1 → exec (.attach c) s = .next (s₁.complete fl 0x0002 (.bare .notPermitted)))
    -- DETACH stops fetching and waits (R71)
    ∧ (Ready layDetach c s fl → exec (.detach c) s
      = .next ((s₁.modFunc fl.fn fun f => { f with qps := f.qps.each fun _ q => { q with stopped := true } }).park fl.id .detach))
    -- QUEUE_CREATE (R47, R48, R70)
    ∧ (Ready layQueueCreate c s fl → fld p 16 8 % 64 = 0 → fld p 24 8 % 32 = 0
      → s₁.hostOk fl.fn (fld p 16 8) (64 * fld p 2 2) false = true → s₁.hostOk fl.fn (fld p 24 8) (32 * fld p 2 2) true = true
      → (s₁.func fl.fn).qps.has (fld p 0 2) = false → (s₁.func fl.fn).qps.length < s₁.queueQuota fl.fn
      → exec (.queueCreate c) s = .next ((s₁.modFunc fl.fn fun f => { f with qps := f.qps.set (fld p 0 2) pair }).complete fl 0x0004 (.ok [])))
    -- QUEUE_DELETE stops fetching and waits (R70)
    ∧ (Ready layQueueDelete c s fl → (s₁.func fl.fn).qps.has (fld p 0 2) = true → fl.src.pair ≠ some (fld p 0 2)
      → s₁.cqAwaited fl.fn (fld p 0 2) = false
      → exec (.queueDelete c) s = .next ((s₁.modFunc fl.fn fun f => { f with
          qps := f.qps.upd (fld p 0 2) fun q => { q with stopped := true } }).park fl.id (.queueDelete (fld p 0 2))))
    -- EVENT_SUBSCRIBE (R61): AREAS 0 removes every binding; else the named areas are bound
    ∧ (Ready layEventSubscribe c s fl → fld p 0 2 = 0 → exec (.eventSubscribe c) s
      = .next ((s₁.modFunc fl.fn fun f => { f with subs := [] }).complete fl 0x0006 (.ok [])))
    ∧ (Ready layEventSubscribe c s fl → fld p 0 2 ≠ 0 → bit (fld p 0 2) 0 = false → bit (fld p 0 2) 7 = false
      → (s₁.func fl.fn).qps.has (fld p 3 1) = true → exec (.eventSubscribe c) s
      = .next ((s₁.modFunc fl.fn fun f => { f with
          subs := (maskBits (fld p 0 2) 12).foldl (fun m a => m.set a ⟨fld p 3 1, fld p 2 1⟩) f.subs }).complete fl 0x0006 (.ok [])))
    -- MODE_SET (R476)
    ∧ (Ready layModeSet c s fl → s₁.pow.mode = .ready → fld p 0 1 = 3 → exec (.modeSet c) s
      = .next ((s₁.enterMode .service).complete fl 0x0008 (.ok [])))
    ∧ (Ready layModeSet c s fl → s₁.pow.mode = .service → fld p 0 1 = 2 → s₁.cells = [] → exec (.modeSet c) s
      = .next ((s₁.enterMode .ready).complete fl 0x0008 (.ok [])))
    ∧ (Ready layModeSet c s fl → s₁.pow.mode = .service → fld p 0 1 = 2 → s₁.cells ≠ [] → exec (.modeSet c) s
      = .next (s₁.complete fl 0x0008 (.bare .notPermitted)))
    ∧ (Ready layModeSet c s fl → s₁.pow.mode = .service → fld p 0 1 = 6 → exec (.modeSet c) s
      = .next ((s₁.enterMode .maint).complete fl 0x0008 (.ok [])))
    ∧ (Ready layModeSet c s fl → s₁.pow.mode = .maint → fld p 0 1 = 3 → s₁.fault.bists = [] → exec (.modeSet c) s
      = .next ((s₁.enterMode .service).complete fl 0x0008 (.ok [])))

/-- TENANT_CONFIG (R41, R42), and COMMAND_COMPLETION, the end of a command whose operation takes time. -/
def Obligations.TenantsAndCompletions : Prop :=
  (∀ (c : CmdRef) (s : State) (fl : Flight),
    let s₁ := s.advance c.t
    let p := fl.params c.buf
    let fn := fld p 0 1
    (Ready layTenantConfig c s fl → (s₁.func fn).attached = true → exec (.tenantConfig c) s
      = .next (s₁.complete fl 0x0009 (.bare .notPermitted)))
    ∧ (Ready layTenantConfig c s fl → (s₁.func fn).attached = false → fld p 1 1 = 0 → s₁.tenant? fn ≠ none
      → exec (.tenantConfig c) s = .next ((s₁.drainTenant fn).park fl.id (.tenant fn)))
    ∧ (Ready layTenantConfig c s fl → (s₁.func fn).attached = false → fld p 1 1 = 1 → (tenantOf p).fieldsOk = true
      → s₁.tenantTaken fn (tenantOf p) = false → (∀ f ∈ s₁.host.flights, f.wait ≠ some (.tenant fn))
      → exec (.tenantConfig c) s = .next ((s₁.assignTenant fn (tenantOf p)).park fl.id (.settled .success [])))
    ∧ (Ready layTenantConfig c s fl → (s₁.func fn).attached = false → fld p 1 1 = 1 → (tenantOf p).fieldsOk = false
      → exec (.tenantConfig c) s = .next (s₁.complete fl 0x0009 (.bare .badParam)))
    ∧ (Ready layTenantConfig c s fl → (s₁.func fn).attached = false → fld p 1 1 = 1 → (tenantOf p).fieldsOk = true
      → s₁.tenantTaken fn (tenantOf p) = true → exec (.tenantConfig c) s = .next (s₁.complete fl 0x0009 (.bare .noResource))))
  ∧ ∀ (t id : Nat) (s : State) (fl : Flight), (s.advance t).flight? id = some fl →
    let s₁ := s.advance t
    (∀ st res, fl.wait = some (.settled st res) → exec (.commandCompletion t id) s = .next (s₁.complete fl fl.op ⟨st, res, none⟩))
    -- R56: an entry that is no command ends once it may start
    ∧ (∀ op st, fl.wait = none → fl.bad = some (op, st) → exec (.commandCompletion t id) s
        = .next (if mayStart fl s₁.host.flights then s₁.complete fl op (.bare st) else s₁))
    ∧ (fl.wait = some .detach → (∀ f ∈ s₁.host.flights, f.fn = fl.fn → f.id ≠ fl.id → f.wait = some .detach)
      → exec (.commandCompletion t id) s = .next (s₁.finishDetach fl))
    ∧ (∀ q, fl.wait = some (.queueDelete q) → (∀ f ∈ s₁.host.flights, f.fn = fl.fn → f.id ≠ fl.id → f.src ≠ .sq q)
      → exec (.commandCompletion t id) s
        = .next ((s₁.complete fl 0x0005 (.bare .success)).modFunc fl.fn fun f => { f with
            qps := f.qps.del q, subs := f.subs.keep fun _ x => x.qp != q }))
    ∧ (∀ act res, fl.wait = some (.dome act res) → exec (.commandCompletion t id) s
        = .next ((s₁.domeFinish act res).1.complete fl fl.op (.ok (s₁.domeFinish act res).2)))
    ∧ (∀ fn x, fl.wait = some (.tenant fn) → s₁.tenantTasks fn = [] → s₁.tenant? fn = some x
      → exec (.commandCompletion t id) s = .next ((s₁.removeTenant fn x).complete fl fl.op (.bare .success)))

/-- The mailbox moves as Table 2-7 gives, for writes with GO and with ACK. -/
def Obligations.MailboxStates : Prop :=
  ∀ (t fn v : Nat) (s : State), fn < 8 → (s.advance t).barUp = true →
    let s₁ := s.advance t
    let m := (s₁.func fn).mbox
    let m' := { m with irqEn := bit v 2, goLost := m.goLost && !bit v 3 }
    -- ACK alone: DONE → ACKED, otherwise ignored
    (bit v 0 = false → bit v 1 = true → m.st = .done → exec (.mboxAck t fn v) s = .next (s₁.setMbox fn { m' with st := .acked }))
    ∧ (bit v 0 = false → bit v 1 = true → m.st ≠ .done → exec (.mboxAck t fn v) s = .next (s₁.setMbox fn m'))
    -- GO in BUSY, with or without ACK, and GO alone in DONE, are ignored and set GO_LOST
    ∧ (bit v 0 = true → m.st = .busy → exec (.mboxGo t fn v) s = .next (s₁.setMbox fn { m' with goLost := true }))
    ∧ (bit v 0 = true → bit v 1 = false → m.st = .done → exec (.mboxGo t fn v) s = .next (s₁.setMbox fn { m' with goLost := true }))
    -- GO in IDLE or ACKED, and ACK with GO in DONE, start the command in MBOX_CMD
    ∧ (bit v 0 = true → (m.st = .idle ∨ m.st = .acked ∨ (m.st = .done ∧ bit v 1 = true)) → s₁.host.server = .melvi
      → s₁.pow.mode ≠ .fault → opcodeKnown (fld m.cmd 0 2) = true
      → let u := s₁.setMbox fn { m' with st := .busy }
        exec (.mboxGo t fn v) s = .next { u with host := { u.host with
          flights := s₁.host.flights ++ [⟨s₁.host.nextFlight, fn, .mbox, m.cmd, 0, false, none⟩]
          nextFlight := s₁.host.nextFlight + 1 } })

/-- Doorbells (R49): a value below the queue size is taken; any other, or one of a pair that does not exist, posts DOORBELL_INVALID. -/
def Obligations.Doorbells : Prop :=
  ∀ (t fn qp v : Nat) (s : State), fn < 8 → qp < 64 → (s.advance t).barUp = true →
    let s₁ := s.advance t
    let i := v % 4096
    ((s₁.func fn).qps.find? qp = none →
      exec (.sqTailWrite t fn qp v) s = .next (s₁.post fn 0x0001 2 qp)
      ∧ exec (.cqHeadWrite t fn qp v) s = .next (s₁.post fn 0x0001 2 (qp + 256)))
    ∧ ∀ q, (s₁.func fn).qps.find? qp = some q →
      (q.entries ≤ i →
        exec (.sqTailWrite t fn qp v) s = .next (s₁.post fn 0x0001 2 qp)
        ∧ exec (.cqHeadWrite t fn qp v) s = .next (s₁.post fn 0x0001 2 (qp + 256)))
      ∧ (i < q.entries → exec (.sqTailWrite t fn qp v) s
          = .next (s₁.modFunc fn fun f => { f with qps := f.qps.upd qp fun q => { q with sqTail := i } }))
      ∧ (i < q.entries → q.posted < (i + q.entries - q.cqHead) % q.entries →
          exec (.cqHeadWrite t fn qp v) s = .next (s₁.post fn 0x0001 2 (qp + 256)))
      ∧ (i < q.entries → (i + q.entries - q.cqHead) % q.entries ≤ q.posted →
          exec (.cqHeadWrite t fn qp v) s = .next (s₁.modFunc fn fun f => { f with qps := f.qps.upd qp fun x =>
            { x with cqHead := i, posted := x.posted - (i + q.entries - q.cqHead) % q.entries } }))

/-- Accesses of the host to registers and memory, and its masks: REGISTER_WRITE, DEBUG_APERTURE_ACCESS, BAR2_ACCESS, MSIX_MASK_CLEAR, I3C_READ,
JTAG_INSTRUCTION. -/
def Obligations.HostAccesses : Prop :=
  (∀ (t off : Nat) (bs : List Byte) (s : State), (s.advance t).barUp = true →
    let s₁ := s.advance t
    -- HOLD_MS (Table 2-5, R9): a value above 1,000 leaves it; other functions' writes are ignored
    (bs.length = 4 → leNat bs % 1024 ≤ 1000 → exec (.registerWrite t 0 0x100018 bs false) s
      = .next { s₁ with host := { s₁.host with holdMs := leNat bs % 1024 } })
    ∧ (bs.length = 4 → 1000 < leNat bs % 1024 → exec (.registerWrite t 0 0x100018 bs false) s = .next s₁)
    ∧ (∀ fn, fn ≠ 0 → bs.length = 4 → exec (.registerWrite t fn 0x100018 bs false) s = .next s₁)
    -- MBOX_CMD (Table 2-6)
    ∧ (∀ fn, fn < 8 → off < 0x40 → off % 4 = 0 → bs.length = 4 → exec (.registerWrite t fn off bs false) s
      = .next (s₁.modFunc fn fun f => { f with mbox := { f.mbox with cmd := splice f.mbox.cmd off (leBytes 4 (leNat bs)) } }))
    -- R37: narrow writes, misaligned ones and ones longer than 8 bytes are ignored
    ∧ (∀ fn, fn < 8 → ¬(bs.length = 4 ∧ off % 4 = 0) → ¬(bs.length = 8 ∧ off % 8 = 0) →
      exec (.registerWrite t fn off bs false) s = .next s₁))
  ∧ (∀ (t fn off n : Nat) (s : State), fn < 8 → (s.advance t).barUp = true → (fn ≠ 0 ∨ (s.advance t).dome.debug = false) →
    -- R38: the aperture reads 0 and ignores writes
    exec (.debugApertureAccess t fn off n none) s = .next ((s.advance t).emit (.barRead fn 0 (0x1000000 + off) (zeros n) false))
    ∧ ∀ bs, exec (.debugApertureAccess t fn off n (some bs)) s = .next (s.advance t))
  ∧ (∀ (t fn off n : Nat) (bs : List Byte) (s : State), (s.advance t).barUp = true →
    let s₁ := s.advance t
    let ext := if fn = 0 then (0, 0xC00000000) else s₁.hbmExtent fn
    let w : Who := ⟨initPcie, none, false, none⟩
    -- R64: beyond the extent, Unsupported Request; inside, the HBM bytes at E + off
    (ext.2 < off + n → exec (.bar2Access t fn off n none) s = .next (s₁.emit (.unsupported fn 2 off)))
    ∧ (off + n ≤ ext.2 → s₁.retiredIn (ext.1 + off) n = false → exec (.bar2Access t fn off n none) s
      = .next (((s₁.clockFor (ext.1 + off)).logRead w (ext.1 + off) n).emit (.barRead fn 2 off (s₁.bytesAt (ext.1 + off) n) (s₁.poisonIn (ext.1 + off) n))))
    ∧ (ext.2 < off + bs.length → exec (.bar2Access t fn off n (some bs)) s = .next (s₁.emit (.unsupported fn 2 off)))
    ∧ (off + bs.length ≤ ext.2 → s₁.retiredIn (ext.1 + off) bs.length = false
      → overlaps (ext.1 + off) bs.length hbmCarillon (hbmEnd - hbmCarillon) = false
      → exec (.bar2Access t fn off n (some bs)) s = .next ((s₁.clockFor (ext.1 + off)).write w (ext.1 + off) bs false))
    ∧ (off + bs.length ≤ ext.2 → s₁.retiredIn (ext.1 + off) bs.length = false
      → overlaps (ext.1 + off) bs.length hbmCarillon (hbmEnd - hbmCarillon) = true
      → exec (.bar2Access t fn off n (some bs)) s = .next (s₁.emit (.unsupported fn 2 off))))
  ∧ (∀ (t fn : Nat) (s : State),
    (∀ v, exec (.msixMaskClear t fn (some v)) s = .next (((s.advance t).modFunc fn fun f => { f with
        msix := f.msix.mod MsixEntry.reset v fun x => { x with masked := false } }).flushMsix fn))
    ∧ exec (.msixMaskClear t fn none) s = .next (((s.advance t).modFunc fn fun f => { f with fnMask := false }).flushMsix fn))
  ∧ (∀ (t : Nat) (s : State), (s.advance t).host.server = .melvi → (s.advance t).pow.mode ≠ .watch → (s.advance t).pow.mode ≠ .off →
    (s.advance t).pow.heldCtrl = false → exec (.i3cRead t) s = .next ((s.advance t).emit (.i3cRead (s.advance t).i3cStatus)))
  ∧ (∀ (t : Nat) (s : State),
    let s₁ := s.advance t
    let u (x : Bool) : State := ({ s₁ with pins := { s₁.pins with extest := x } } : State).settleAllTx
    exec (.jtagInstruction t .idcode) s
      = .next ((u false).emit (.jtag (some (0x18128000 + 2 * (Config.jep106 % 2048) + 1))))
    ∧ exec (.jtagInstruction t .extest) s = .next ((u true).emit (.jtag none))
    ∧ (s₁.dome.debug = false → exec (.jtagInstruction t .debug) s = .next (u false)))

/-- Fetching a command (R51, R52, R57), coalesced interrupts (R62). -/
def Obligations.FetchAndCoalesce : Prop :=
  (∀ (t : Nat) (entry : List Byte) (s : State) (fn qp : Nat) (q : QueuePair),
    let s₁ := s.advance t
    let head := if q.sqHead + 1 = q.entries then 0 else q.sqHead + 1
    s₁.host.server = .melvi → s₁.pow.mode ≠ .fault → roundRobin 8 s₁.host.lastFn (fun g => (s₁.func g).nextPair.isSome) = some fn →
    (s₁.func fn).nextPair = some qp → (s₁.func fn).qps.find? qp = some q → opcodeKnown (fld (fit 64 entry) 0 2) = true →
    let u := s₁.modFunc fn fun f => { f with
      qps := f.qps.set qp { q with sqHead := head, reserved := q.reserved + 1 }
      lastUrgent := if q.urgent then qp else f.lastUrgent
      lastNormal := if q.urgent then f.lastNormal else qp }
    exec (.commandFetch t entry false) s = .next { u with host := { u.host with
      flights := s₁.host.flights ++ [⟨s₁.host.nextFlight, fn, .sq qp, fit 64 entry, head, false, none⟩]
      nextFlight := s₁.host.nextFlight + 1, lastFn := fn } })
  ∧ (∀ (t : Nat) (entry : List Byte) (po : Bool) (s : State), (∀ fn < 8, ∀ q ∈ (s.advance t).func fn |>.qps, q.2.free = 0) →
    exec (.commandFetch t entry po) s = .next (s.advance t))
  ∧ (∀ (t fn qp : Nat) (s : State) (q : QueuePair),
    let s₁ := s.advance t
    (s₁.func fn).qps.find? qp = some q → 0 < q.unsignalled →
    (s₁.time.frc < q.oldest + usToFrc q.coalUs → exec (.cqCoalesceTimeout t fn qp) s = .next s₁)
    ∧ (q.oldest + usToFrc q.coalUs ≤ s₁.time.frc → exec (.cqCoalesceTimeout t fn qp) s
        = .next ((s₁.modFunc fn fun f => { f with qps := f.qps.set qp { q with unsignalled := 0 } }).signal fn q.vector)))

/-- The resets of R65 and the headless hold of Table 2-12. -/
def Obligations.HostResets : Prop :=
  (∀ (t fn : Nat) (s : State), fn < 8 → s.host.funcs.wf Func.reset = true →
    ∃ u, exec (.functionLevelReset t fn) s = .next u
      ∧ (u.func fn).attached = false ∧ (u.func fn).qps = [] ∧ (u.func fn).windows = [] ∧ (u.func fn).subs = []
      ∧ (u.func fn).mbox = Mailbox.reset ∧ u.host.holdMs = s.host.holdMs ∧ u.host.tenants = s.host.tenants
      ∧ u.host.flights = s.host.flights.filter (fun x => x.fn != fn)
      ∧ (∀ g, g ≠ fn → u.func g = s.func g)
      ∧ u.cells = s.cells ∧ u.mem = s.mem ∧ u.pow = s.pow ∧ u.car.tasks = s.car.tasks)
  ∧ (∀ (t : Nat) (s : State), s.host.funcs.wf Func.reset = true →
    ∃ u, exec (.pcieReset t) s = .next u
      ∧ (∀ fn < 8, (u.func fn).attached = false ∧ (u.func fn).qps = [] ∧ (u.func fn).windows = [] ∧ (u.func fn).subs = []
          ∧ (u.func fn).mbox = Mailbox.reset ∧ (u.func fn).muted = (s.func fn).muted)
      ∧ u.host.holdMs = s.host.holdMs ∧ u.host.tenants = s.host.tenants ∧ (∀ x ∈ u.host.flights, 8 ≤ x.fn)
      ∧ u.cells = s.cells ∧ u.mem = s.mem ∧ u.pow = s.pow ∧ u.car.tasks = s.car.tasks)
  ∧ (∀ (t fn start : Nat) (s : State),
    let s₁ := s.advance t
    (s₁.func fn).hold = .holding start →
    (s₁.time.frc < start + msToFrc s₁.host.holdMs → exec (.headlessHoldEnd t fn) s = .next s₁)
    ∧ (start + msToFrc s₁.host.holdMs ≤ s₁.time.frc → exec (.headlessHoldEnd t fn) s
        = .next ((s₁.drainTenant fn).modFunc fn fun f => { f with
            hold := .drained, holdEvent := some (s₁.servedCells fn, s₁.time.frc) })))
/-! ## Time and the slot timeline (chapter 03) -/

/-- R80: every conversion of an FRC value at or after F uses the new values and the new epoch, which is one more; every conversion of an
earlier one the old. -/
def Obligations.AdjustmentSplitsAtF : Prop :=
  ∀ (t : Nat) (s : State) (a : PendAdj), s.time.pendAdj = some a → s.time.convs ≠ [] → a.f ≤ (s.advance t).time.frc →
    ∃ u, exec (.timeAdjustApply t none) s = .next u
      ∧ u.time.pendAdj = none
      ∧ (∀ f, a.f ≤ f → u.timeAt f = ((f * a.rate) / 4096 + a.offset) % 2 ^ 96 ∧ u.epochAt f = (s.conv.epoch + 1) % 65536)
      ∧ (∀ f, f < a.f → u.timeAt f = s.timeAt f ∧ u.epochAt f = s.epochAt f)

/-- TIME_GET, TIME_ADJUST, TIMELINE_ANCHOR and PPS_CONFIG: what each answers when no check refuses it. -/
def Obligations.TimeCommandsComplete : Prop :=
  ∀ (c : CmdRef) (s : State) (fl : Flight),
    let s₁ := s.advance c.t
    let p := fl.params c.buf
    let ns := s₁.timeAt s₁.time.frc / 4294967296
    -- TIME_GET (Table 3-6)
    (Ready layTimeGet c s fl → fld p 0 8 = 0 → exec (.timeGet c) s = .next (s₁.complete fl 0x0101 (.ok
      (leBytes 6 (ns / 1000000000) ++ leBytes 2 (s₁.epochAt s₁.time.frc) ++ leBytes 4 (ns % 1000000000) ++ leBytes 4 s₁.time.frc))))
    ∧ (Ready layTimeGet c s fl → fld p 0 8 ≠ 0 → exec (.timeGet c) s
      = .next (s₁.complete fl 0x0101 (.okBuf (fld p 0 8) s₁.timeBuffer)))
    -- TIME_ADJUST (R81): the adjustment is pending until F
    ∧ (Ready layTimeAdjust c s fl → s₁.underRoot = true → exec (.timeAdjust c) s = .next (s₁.complete fl 0x0102 (.bare .notPermitted)))
    ∧ (Ready layTimeAdjust c s fl → s₁.underRoot = false → fld p 8 8 ≠ 0 → fld p 8 8 < s₁.time.frc + 983 →
      exec (.timeAdjust c) s = .next (s₁.complete fl 0x0102 (.bare .badParam)))
    ∧ (Ready layTimeAdjust c s fl → s₁.underRoot = false → s₁.adjustBad p = false → s₁.time.pendAdj ≠ none →
      exec (.timeAdjust c) s = .next (s₁.complete fl 0x0102 (.bare .noResource)))
    ∧ (Ready layTimeAdjust c s fl → s₁.underRoot = false → s₁.adjustBad p = false → s₁.time.pendAdj = none → s₁.anchored = false →
      exec (.timeAdjust c) s = .next (({ s₁ with time := { s₁.time with
        pendAdj := some (s₁.adjustment p (s₁.adjustF p)) } }).park fl.id (.timeAdjust (s₁.adjustResult (s₁.adjustment p (s₁.adjustF p))))))
    -- TIMELINE_ANCHOR (R97, R98)
    ∧ (Ready layTimelineAnchor c s fl → s₁.ownsCell fl.fn (fld p 0 2) = true → s₁.cells.find? (fld p 0 2) = none → fld p 2 1 = 1
      → s₁.time.pendAnchors.has (fld p 0 2) = false → s₁.time.pendAdj = none →
      let a : PendAnchor := ⟨fld p 3 1, sfld p 4 4, fld p 8 2, frameFrom (sfld p 4 4) (s₁.theta (s₁.time.frc + 983040))⟩
      exec (.timelineAnchor c) s = .next (({ s₁ with time := { s₁.time with
        pendAnchors := s₁.time.pendAnchors.set (fld p 0 2) a } }).park fl.id (.anchor (fld p 0 2))))
    ∧ (∀ cell, Ready layTimelineAnchor c s fl → s₁.ownsCell fl.fn (fld p 0 2) = true → s₁.cells.find? (fld p 0 2) = some cell
      → cell.st ≠ .hibernated → exec (.timelineAnchor c) s = .next (s₁.complete fl 0x0103 (.bare .notPermitted)))
    ∧ (Ready layTimelineAnchor c s fl → s₁.ownsCell fl.fn (fld p 0 2) = true → s₁.cells.find? (fld p 0 2) = none → fld p 2 1 = 0
      → s₁.time.pendAnchors.has (fld p 0 2) = false → exec (.timelineAnchor c) s
      = .next (({ s₁ with time := { s₁.time with anchors := s₁.time.anchors.del (fld p 0 2) } }).settleResid.complete fl 0x0103
          (.ok (zeros 16))))
    -- PPS_CONFIG (Table 3-3)
    ∧ (Ready layPpsConfig c s fl → s₁.underRoot = false → exec (.ppsConfig c) s
      = .next (({ s₁ with time := { s₁.time with pps := { s₁.time.pps with
          enable := bit (fld p 0 1) 0, falling := bit (fld p 0 1) 1, events := bit (fld p 0 1) 2, windowUs := fld p 2 2
          cableNs := sfld p 4 4, last := none, due := 0, missing := 0 } } }).complete fl 0x0104 (.ok [])))

/-- The events of the Ephemeris (R77, R87, R89, R91, R94, R95, R97, R103). -/
def Obligations.TimeEvents : Prop :=
  ∀ (t : Nat) (s : State),
    let s₁ := s.advance t
    let now := s₁.time.frc
    (s₁.time.refLost = none → exec (.refclkLoss t) s
      = .next (({ s₁ with time := { s₁.time with refLost := some now } }).postAll 0x0104 3 0))
    ∧ (∀ f, s₁.time.refLost = some f → exec (.refclkRestored t) s
      = .next (({ s₁ with time := { s₁.time with refLost := none } }).postAll 0x0105 1 (sat32 ((now - f) * 100 / 98304))))
    -- a pulse under 100 ns is ignored; a captured edge counts
    ∧ (∀ w, w < 100 → exec (.ppsCapture t w) s = .next s₁)
    ∧ (∀ w, 100 ≤ w → s₁.time.pps.enable = true → s₁.time.pps.events = false → exec (.ppsCapture t w) s
      = .next { s₁ with time := { s₁.time with pps := { s₁.time.pps with
          edges := (s₁.time.pps.edges + 1) % 2 ^ 32, last := some now, due := now, missing := 0 } } })
    ∧ (s₁.time.pps.enable = true → s₁.time.pps.last ≠ none → s₁.time.pps.due + 983040000 + usToFrc s₁.time.pps.windowUs ≤ now →
      exec (.ppsMissing t) s = .next (({ s₁ with time := { s₁.time with pps := { s₁.time.pps with
        due := s₁.time.pps.due + 983040000, missing := s₁.time.pps.missing + 1 } } }).postAll 0x0102 1 (s₁.time.pps.missing + 1)))
    -- no strobe before its nominal time; the reference's strobe at the start of a radio frame slews S, others do not
    ∧ (let tl := s₁.time.refTl
       (s₁.thetaNow < nominal 0 tl.k tl.off → exec (.timelineStrobe t none) s = .next s₁)
       ∧ (nominal 0 tl.k tl.off ≤ s₁.thetaNow → tl.off ≠ 0 → exec (.timelineStrobe t none) s
          = .next { s₁ with time := { s₁.time with refTl := { tl with
              k := (nextStrobe tl.num tl.k tl.off).1, off := (nextStrobe tl.num tl.k tl.off).2 } } })
       ∧ (nominal 0 tl.k tl.off ≤ s₁.thetaNow → tl.off = 0 → s₁.time.lastAdj < s₁.frcOfTheta (nominal 0 tl.k 0) →
          let f := s₁.frcOfTheta (nominal 0 tl.k 0)
          let u := ({ s₁ with time := { s₁.time with
            refTl := { tl with k := (nextStrobe tl.num tl.k 0).1, off := (nextStrobe tl.num tl.k 0).2 } } } : State).setResid
              f (slewStep s₁.time.resid s₁.time.slew)
          exec (.timelineStrobe t none) s = .next (if u.refPassed f then u.skipRef f else u)))
    ∧ (∀ c tl, s₁.anchor? c = some tl → nominal tl.toff tl.k tl.off ≤ s₁.thetaNow → exec (.timelineStrobe t (some c)) s
      = .next ((({ s₁ with time := { s₁.time with anchors := s₁.time.anchors.set c { tl with
          k := (nextStrobe tl.num tl.k tl.off).1, off := (nextStrobe tl.num tl.k tl.off).2 } } }).openWindows c tl.num (tl.k, tl.off)).deadlines
            c (tl.k, tl.off)))
    -- a pending anchor takes effect at its radio-frame start
    ∧ (∀ c a, s₁.time.pendAnchors.find? c = some a → s₁.thetaNow < nominal a.toff a.k 0 → exec (.anchorEffect t c) s = .next s₁)
    ∧ (∀ c a, s₁.time.pendAnchors.find? c = some a → nominal a.toff a.k 0 ≤ s₁.thetaNow →
      let start := s₁.frcOfTheta (nominal a.toff a.k 0)
      exec (.anchorEffect t c) s = .next ((({ s₁ with time := { s₁.time with
        anchors := s₁.time.anchors.set c ⟨a.num, a.toff, a.sfnBase, start, a.k, 0⟩
        pendAnchors := s₁.time.pendAnchors.del c } }).completeWaits fun w => if w = Wait.anchor c then
          some (.ok (leBytes 2 (sfnOf a.sfnBase a.k) ++ leBytes 2 (slotsPer a.num) ++ zeros 4 ++ leBytes 8 start)) else none).settleWakes))
    -- the servo changes RATE at most once per ms and leaves the epoch; the tenth far measurement clears ALIGNED
    ∧ (∀ rate (off : Int) eth, s₁.time.member = true → off.natAbs ≤ 2 * (if eth then 50 else 20) → s₁.time.lastServo + 983040 ≤ now →
      rateOk rate = true → exec (.servoRateUpdate t rate off eth) s = .next { s₁ with time := { s₁.time with
        misses := 0, aligned := true, lastServo := now
        convs := ⟨now, rate, unsgn 96 ((s₁.conv.timeAt now : Int) - (now * rate / 4096 : Nat)), s₁.conv.epoch⟩ :: s₁.time.convs } })
    ∧ (∀ rate (off : Int) eth, s₁.time.member = true → 2 * (if eth then 50 else 20) < off.natAbs → s₁.time.misses = 9 →
      exec (.servoRateUpdate t rate off eth) s = .next (({ s₁ with time := { s₁.time with misses := 10, aligned := false } }).postAll
        0x0106 2 (unsgn 32 (clampI (-2147483648) 2147483647 off))))

/-- The count that one symbol lasts, as Table 3-4 lists it: code, slot in the radio frame, symbol. -/
def symLasts (num slot sym : Nat) : Nat :=
  match num with
  | 0x00 => if sym = 0 ∨ sym = 7 then 70656 else 70144
  | 0x01 => if sym = 0 then 35584 else 35072
  | 0x02 => if sym = 0 ∧ slot % 2 = 0 then 18048 else 17536
  | 0x03 => if sym = 0 ∧ slot % 4 = 0 then 9280 else 8768
  | 0x04 => if sym = 0 ∧ slot % 8 = 0 then 4896 else 4384
  | 0x05 => if sym = 0 ∧ slot % 16 = 0 then 2704 else 2192
  | 0x06 => if sym = 0 ∧ slot % 32 = 0 then 1608 else 1096
  | 0x12 => 20480
  | 0x20 => if sym = 0 then 70656 else 70144
  | 0x21 => 81920
  | _ => 270336

/-- R93 and R94: the symbols of a slot and the slots of a radio frame follow one another without gap, each as long as Table 3-4 says, but for
the gap of code 0x22, from the start of the radio frame to its end. -/
def Obligations.SymbolsFillTheFrame : Prop :=
  ∀ num ∈ numerologies, symOff num 0 0 = 0
    ∧ (∀ slot < slotsPer num, ∀ sym < symsPer num - 1, symOff num slot (sym + 1) = symOff num slot sym + symLasts num slot sym)
    ∧ (∀ slot < slotsPer num, symOff num (slot + 1) 0
        = symOff num slot (symsPer num - 1) + symLasts num slot (symsPer num - 1) + (if num = 0x22 then 73728 else 0))
    ∧ symOff num (slotsPer num) 0 = 9830400
/-! ## The Carillon task scheduler (chapter 04) -/

/-- A task was instantiated from node `j` of plan `pid`. -/
def taskOfNode (s : State) (pid j : Nat) : Prop := ∃ id t, s.car.tasks.find? id = some t ∧ t.plan = pid ∧ t.node = j

/-- R114: SLOT_PLAN_SUBMIT is all or nothing. With SUCCESS every node has become a task; with another status no task, gate, sequence
number or epoch is allocated. -/
def Obligations.PlanAllOrNothing : Prop :=
  ∀ (c : CmdRef) (s : State) (fl : Flight), Ready laySlotPlan c s fl →
    let s₁ := s.advance c.t
    let p := fl.params c.buf
    (∀ st, s₁.planCheck fl.fn p = some st →
      ∃ u, exec (.slotPlanSubmit c) s = .next u ∧ u = s₁.complete fl 0x0202 (.bare st) ∧ u.car = s₁.car)
    ∧ (s₁.planCheck fl.fn p = none → ∀ g tl, s₁.car.graphs.find? (fld p 0 2) = some g → s₁.anchor? (fld p 2 2) = some tl →
      ∃ u, exec (.slotPlanSubmit c) s = .next u ∧ u = (s₁.instantiate fl.fn p g tl).1.complete fl 0x0202 (.ok (s₁.instantiate fl.fn p g tl).2)
        ∧ ∀ j < g.nodes.length, taskOfNode u s₁.car.nextPlan j)

/-- GRAPH_DEFINE, the epochs, CLASS_RESERVE and OLOG_CONFIG (R112, R113, R121, R132 to R134, R137). -/
def Obligations.CarillonCommandsComplete : Prop :=
  ∀ (c : CmdRef) (s : State) (fl : Flight),
    let s₁ := s.advance c.t
    let p := fl.params c.buf
    let g := fld p 0 2
    let n := fld p 2 2
    let m := fld p 4 2
    let gates := (pieces 4 m (p.drop 16)).map leNat
    let nodes := pieces 64 n (p.drop (16 + 4 * m))
    let templates := gates.all gateTemplOk = true ∧ nodes.all (s₁.nodeOk fl.fn m) = true
    let key := epochKey fl.fn (fld p 0 2)
    let other (e : Epoch) (st : EpochSt) : State := s₁.modCar fun x => { x with epochs := x.epochs.set key { e with st := st } }
    -- GRAPH_DEFINE: a bad template, a graph in use, deletion, definition, the limits
    (Ready layGraphDefine c s fl → ¬ templates → exec (.graphDefine c) s = .next (s₁.complete fl 0x0201 (.bare .badParam)))
    ∧ (Ready layGraphDefine c s fl → templates → s₁.graphBusy g = true →
      exec (.graphDefine c) s = .next (s₁.complete fl 0x0201 (.bare .noResource)))
    ∧ (Ready layGraphDefine c s fl → templates → s₁.graphBusy g = false → n = 0 → exec (.graphDefine c) s
      = .next (({ s₁ with car := { s₁.car with graphs := s₁.car.graphs.del g } }).complete fl 0x0201 (.ok [])))
    ∧ (Ready layGraphDefine c s fl → templates → s₁.graphBusy g = false → n ≠ 0 → s₁.car.graphs.find? g = none →
      s₁.car.graphs.length < 1024 → s₁.nodeCount + n ≤ 65536 → exec (.graphDefine c) s
      = .next (({ s₁ with car := { s₁.car with graphs := s₁.car.graphs.set g ⟨fl.fn, gates, nodes⟩ } }).complete fl 0x0201 (.ok [])))
    ∧ (Ready layGraphDefine c s fl → templates → s₁.graphBusy g = false → n ≠ 0 → s₁.car.graphs.find? g = none →
      1024 ≤ s₁.car.graphs.length ∨ 65536 < s₁.nodeCount + n →
      exec (.graphDefine c) s = .next (s₁.complete fl 0x0201 (.bare .noResource)))
    -- EPOCH_COMMIT and EPOCH_REVOKE: the first of them to execute takes effect
    ∧ (Ready layEpochCommit c s fl → s₁.car.epochs.find? key = none →
      exec (.epochCommit c) s = .next (s₁.complete fl 0x0203 (.bare .notReady)))
    ∧ (∀ e, Ready layEpochCommit c s fl → s₁.car.epochs.find? key = some e → e.st ≠ .opened →
      exec (.epochCommit c) s = .next (s₁.complete fl 0x0203 (.bare .notPermitted)))
    ∧ (∀ e, Ready layEpochCommit c s fl → s₁.car.epochs.find? key = some e → e.st = .opened → exec (.epochCommit c) s
      = .next (((other e .committed).settleEpoch fl.fn (fld p 0 2)).complete fl 0x0203 (.ok (leBytes 4 e.live ++ leBytes 4 e.released))))
    ∧ (Ready layEpochRevoke c s fl → s₁.car.epochs.find? key = none →
      exec (.epochRevoke c) s = .next (s₁.complete fl 0x0204 (.bare .notReady)))
    ∧ (∀ e, Ready layEpochRevoke c s fl → s₁.car.epochs.find? key = some e → e.st ≠ .opened →
      exec (.epochRevoke c) s = .next (s₁.complete fl 0x0204 (.bare .notPermitted)))
    ∧ (∀ e, Ready layEpochRevoke c s fl → s₁.car.epochs.find? key = some e → e.st = .opened →
      let u := ((other e .revoked).revokeAll (s₁.epochTasks fl.fn (fld p 0 2))).settleEpoch fl.fn (fld p 0 2)
      let res := leBytes 4 e.live ++ leBytes 4 e.released
      exec (.epochRevoke c) s = .next (if u.car.epochs.has key then u.park fl.id (.epochRevoke fl.fn (fld p 0 2) res)
        else u.complete fl 0x0204 (.ok res)))
    -- CLASS_RESERVE
    ∧ (Ready layClassReserve c s fl →
      let u : State := { s₁ with car := { s₁.car with
        reserves := s₁.car.reserves.put ⟨0, false⟩ (fld p 0 1 * 16 + fld p 1 1) ⟨fld p 2 1, bit (fld p 3 1) 0⟩ } }
      exec (.classReserve c) s = .next (u.complete fl 0x0206 (.ok (leBytes 1 (u.inForce (fld p 0 1) (fld p 1 1))))))
    -- OLOG_CONFIG
    ∧ (Ready layOlogConfig c s fl → bit (fld p 12 1) 0 = true →
      (s₁.heldByOther fun x => overlaps (fld p 0 8) (64 + 32 * fld p 8 4) x.hbmBase x.hbmSize) = true →
      exec (.ologConfig c) s = .next (s₁.complete fl 0x0207 (.bare .notPermitted)))
    ∧ (let o (en : Bool) : Olog := ⟨fld p 0 8, fld p 8 4, en, bit (fld p 12 1) 1, fld p 13 1, fld p 14 2, fld p 16 2, fld p 18 2,
        fld p 20 2, 0, 0⟩
      (Ready layOlogConfig c s fl → bit (fld p 12 1) 0 = true →
        (s₁.heldByOther fun x => overlaps (fld p 0 8) (64 + 32 * fld p 8 4) x.hbmBase x.hbmSize) = false →
        exec (.ologConfig c) s = .next ((({ s₁ with car := { s₁.car with olog := o true } }).write
          ⟨initMelvi, none, false, none⟩ (fld p 0 8) (zeros 12) false).complete fl 0x0207 (.ok [])))
      ∧ (Ready layOlogConfig c s fl → bit (fld p 12 1) 0 = false → exec (.ologConfig c) s
        = .next (({ s₁ with car := { s₁.car with olog := o false } }).complete fl 0x0207 (.ok []))))

/-- R124: FLOW_CONFIG with the layout of Table 4-7, refused while the flow holds unreleased tasks. -/
def Obligations.FlowConfigRule : Prop :=
  ∀ (c : CmdRef) (s : State) (fl : Flight), Ready layFlowConfig c s fl →
    let s₁ := s.advance c.t
    let p := fl.params c.buf
    let f := fld p 0 2
    let set (x : Flow) : State := { s₁ with car := { s₁.car with flows := s₁.car.flows.set f x } }
    (s₁.ownsFlow fl.fn f = false → exec (.flowConfig c) s = .next (s₁.complete fl 0x0205 (.bare .notPermitted)))
    ∧ (∀ x, s₁.ownsFlow fl.fn f = true → s₁.car.flows.find? f = some x → x.unreleased ≠ 0 →
      exec (.flowConfig c) s = .next (s₁.complete fl 0x0205 (.bare .noResource)))
    ∧ (s₁.ownsFlow fl.fn f = true → (∀ x, s₁.car.flows.find? f = some x → x.unreleased = 0) → fld p 2 1 = 1 →
      exec (.flowConfig c) s = .next ((set ⟨true, fld p 3 1 == 1, fld p 4 2, fld p 4 2, 0, []⟩).complete fl 0x0205
        (.ok (leBytes 2 (fld p 4 2) ++ leBytes 2 0))))
    ∧ (s₁.ownsFlow fl.fn f = true → (∀ x, s₁.car.flows.find? f = some x → x.unreleased = 0) → fld p 2 1 = 0 →
      ∃ h, (∀ x, s₁.car.flows.find? f = some x → h = x.head) ∧ exec (.flowConfig c) s
        = .next ((set ⟨false, fld p 3 1 == 1, h, h, 0, []⟩).complete fl 0x0205 (.ok (leBytes 2 h ++ leBytes 2 0))))

/-- The cell commands (R141 to R143, R488, Tables 4-13 and 4-14). -/
def Obligations.CellCommandsComplete : Prop :=
  ∀ (c : CmdRef) (s : State) (fl : Flight),
    let s₁ := s.advance c.t
    let p := fl.params c.buf
    let k := fld p 0 2
    let owns := s₁.ownsCell fl.fn k = true
    let put (x : Cell) : State := { s₁ with cells := s₁.cells.set k x }
    -- CELL_CREATE
    (∀ tl, Ready layCellCreate c s fl → owns → s₁.pow.mode = .service ∨ s₁.pow.mode = .maint → s₁.cells.find? k = none →
      s₁.cells.length < 384 → s₁.acsOver k (fld p 6 2) (fld p 8 2) = false → s₁.anchor? k = some tl →
      exec (.cellCreate c) s = .next ((put ⟨.service, fld p 2 1, fld p 3 1, fld p 4 2, fld p 6 2, fld p 8 2, fld p 10 1, fld p 11 1,
        fld p 12 2, fld p 14 1, tl.num, false, false⟩).complete fl 0x0301 (.ok [])))
    ∧ (Ready layCellCreate c s fl → owns → s₁.pow.mode = .service ∨ s₁.pow.mode = .maint → s₁.cells.find? k = none →
      384 ≤ s₁.cells.length ∨ s₁.acsOver k (fld p 6 2) (fld p 8 2) = true →
      exec (.cellCreate c) s = .next (s₁.complete fl 0x0301 (.bare .noResource)))
    ∧ (Ready layCellCreate c s fl → owns → s₁.pow.mode = .service ∨ s₁.pow.mode = .maint → s₁.cells.find? k = none →
      s₁.cells.length < 384 → s₁.acsOver k (fld p 6 2) (fld p 8 2) = false → s₁.anchor? k = none →
      exec (.cellCreate c) s = .next (s₁.complete fl 0x0301 (.bare .notReady)))
    -- CELL_MODIFY: only the masked fields; in SERVICE only HOME
    ∧ (∀ x, Ready layCellModify c s fl → owns → s₁.cells.find? k = some x → x.st = .service → fld p 2 2 &&& 0xFF7F ≠ 0 →
      exec (.cellModify c) s = .next (s₁.complete fl 0x0302 (.bare .notPermitted)))
    ∧ (∀ x, Ready layCellModify c s fl → owns → s₁.cells.find? k = some x →
      x.st = .hibernated ∨ (x.st = .service ∧ fld p 2 2 &&& 0xFF7F = 0) → s₁.acsOver k (modCell p x).acsDl (modCell p x).acsUl = false →
      exec (.cellModify c) s = .next ((put (modCell p x)).complete fl 0x0302 (.ok [])))
    ∧ (∀ x, Ready layCellModify c s fl → s₁.cells.find? k = some x →
      (modCell p x).st = x.st ∧ (modCell p x).num = x.num ∧ (fld p 2 2 &&& 0xFF7F = 0 → { modCell p x with home := x.home } = x))
    -- CELL_DELETE
    ∧ (∀ x, Ready layCellDelete c s fl → owns → s₁.cells.find? k = some x → x.st ≠ .hibernating → s₁.cellTasks k = true →
      exec (.cellDelete c) s = .next (s₁.complete fl 0x0303 (.bare .noResource)))
    ∧ (∀ x, Ready layCellDelete c s fl → owns → s₁.cells.find? k = some x → x.st ≠ .hibernating → s₁.cellTasks k = false →
      exec (.cellDelete c) s = .next (({ s₁ with
        cells := s₁.cells.del k, cal := { s₁.cal with arrays := s₁.cal.arrays.del k } }).complete fl 0x0303 (.ok [])))
    -- CELL_HIBERNATE: waits for the cell's last task
    ∧ (∀ x, Ready layCellHibernate c s fl → owns → s₁.cells.find? k = some x → x.st ≠ .service →
      exec (.cellHibernate c) s = .next (s₁.complete fl 0x0304 (.bare .notPermitted)))
    ∧ (∀ x, Ready layCellHibernate c s fl → owns → s₁.cells.find? k = some x → x.st = .service → s₁.cellTasks k = true →
      exec (.cellHibernate c) s
        = .next ((put { x with st := .hibernating, watchPrach := bit (fld p 2 1) 0 }).park fl.id (.cellIdle k)))
    -- CELL_WAKE: home regions are roused; SERVICE at once, or when they are ACTIVE
    ∧ (∀ x, Ready layCellWake c s fl → owns → s₁.cells.find? k = some x → x.st = .hibernated →
      let u := (homeRegions x.home).foldl (fun s r => s.rouse r) s₁
      (u.wakeReady k x = true → exec (.cellWake c) s = .next (({ u with
        cells := u.cells.set k { x with st := .service, failed := false } }).complete fl 0x0305 (.ok (leBytes 4 (u.firstSlot k)))))
      ∧ (u.wakeReady k x = false → exec (.cellWake c) s = .next (u.park fl.id (.cellWake k))))
    -- and in no other state does a cell command succeed
    ∧ (Ready layCellDelete c s fl → s₁.cells.find? k = none → exec (.cellDelete c) s = .next (s₁.complete fl 0x0303 (.bare .notPermitted)))
    ∧ (Ready layCellHibernate c s fl → s₁.cells.find? k = none →
      exec (.cellHibernate c) s = .next (s₁.complete fl 0x0304 (.bare .notPermitted)))
    ∧ (∀ x, Ready layCellWake c s fl → s₁.cells.find? k = some x → x.st ≠ .hibernated →
      exec (.cellWake c) s = .next (s₁.complete fl 0x0305 (.bare .notPermitted)))

/-- Release in order (R125, R126), and what a failed or clean release leaves in memory. -/
def Obligations.ReleaseInOrder : Prop :=
  ∀ (t id : Nat) (s : State) (k : Task), (s.advance t).stopped = false → (s.advance t).task? id = some k →
    let s₁ := s.advance t
    let turn := k.st = .doneHeld ∧ k.origin = none ∧ (∃ f, s₁.car.flows.find? k.flow = some f ∧ f.head = k.seq)
      ∧ (k.fail ≠ none ∨ s₁.speculative k = false)
    (¬ turn → exec (.release t id) s = .next s₁)
    ∧ (turn → exec (.release t id) s = .next (s₁.release id k))
    -- a release as failed: FAILED to OUT_GATE, the completion, FREE; nothing of its lines is written
    ∧ (∀ st, turn → k.fail = some st → exec (.release t id) s
      = .next (((((s₁.ologTask 3 id k st.code 0).signalGates (sig k.outGate (some st))).taskDone id k st)).freeTask id k true))
    -- a clean release without HARQ: lines drained first, then OUT_GATE, then the completion
    ∧ (turn → k.fail = none → k.harq = false →
      let st : Status := if k.late then .deadlineMissed else .success
      exec (.release t id) s = .next ((((((s₁.drainLines id k).settleLines id true).ologTask 3 id k st.code 0).signalGates
        (sig k.outGate none)).taskDone id k st).freeTask id k true))

/-- The other scheduler events (R113, R119, R122, R130, R153, R169). -/
def Obligations.SchedulerEvents : Prop :=
  ∀ (t : Nat) (s : State), (s.advance t).stopped = false →
    let s₁ := s.advance t
    -- TIMED_GATE_EXPIRY: not before the strobe plus the delay; then one signal
    (∀ g gt sym us p tl, s₁.car.gates.find? g = some gt → gt.timed = some (sym, us) → s₁.car.plans.find? gt.plan = some p →
      s₁.anchor? p.cell = some tl → gt.fired = false →
      let at_ := s₁.frcOfPos tl p.k (symOff tl.num p.slot sym) + usToFrc us
      (s₁.time.frc < at_ → exec (.timedGateExpiry t g) s = .next s₁)
      ∧ (at_ ≤ s₁.time.frc → exec (.timedGateExpiry t g) s = .next (s₁.signalGates [(g, none)])))
    -- DISPATCH: an engine not able to take work is given none; an able one the task R119 picks
    ∧ (∀ e, s₁.ableEngine e = false → exec (.dispatch t e) s = .next s₁)
    ∧ (∀ e id k, s₁.ableEngine e = true → s₁.pickTask e = some (id, k) → s₁.poisonIn (hbmCarillon + 64 * id) 64 = false →
      exec (.dispatch t e) s = .next ((s₁.startOn e id k).olog 0 id k (some e) (engRegion e) 0 ((s₁.time.frc - k.readyAt) * 3125 / 3072)))
    -- TASK_FINISH: DONE_HELD with the DONE_GATE signalled, clean or with FAILED and the failing status
    ∧ (∀ e id k, (s₁.eng e).task = some id → (s₁.eng e).ended = some .success → (s₁.vde e).bank.lateErr = none → s₁.task? id = some k →
      s₁.edmaQuiet e = true → k.leave = .no → k.origin = none → exec (.taskFinish t e) s
      = .next (((s₁.vacate e).modTask id fun k => { k with st := .doneHeld, engine := none, region := none }).signalGates (sig k.doneGate none)))
    ∧ (∀ e id k st, (s₁.eng e).task = some id → (s₁.eng e).ended = some st → st ≠ .success → s₁.task? id = some k →
      s₁.edmaQuiet e = true → k.leave = .no → k.origin = none → exec (.taskFinish t e) s
      = .next (((s₁.vacate e).modTask id fun k => k.failHeld st).signalGates (sig k.doneGate (some st))))
    -- ENGINE_ZEROING_DONE: idle again; the main bank resumes a suspended task; the mesh requests held for the zeroing are served (R153)
    ∧ (∀ e, (s₁.eng e).zAlt = false → (s₁.eng e).zMain = true → exec (.engineZeroingDone t e) s
      = .next ((s₁.modEng e fun r => { r with zMain := false }).releaseMesh fun h => h == .zeroing e))
    ∧ (∀ e id, (s₁.eng e).zAlt = true → (s₁.eng e).suspended = some id → (s₁.eng e).dropSusp = false →
      exec (.engineZeroingDone t e) s
      = .next (((((s₁.modVde e fun v => { v with inAlt := false }).modEng e fun r => { r with
          zAlt := false, suspended := none, task := some id, lastYield := s₁.time.frc, trapAt := none }).modVde e fun v => { v with
            main := { v.main with timerEnd := s₁.time.frc + 9831 } }).modTask id fun k => { k with suspended := false }).releaseMesh
          fun h => h == .zeroing e))
    -- UNIT_BOUNDARY: a fixed-function engine yields; a task that leaves runs its operation to that boundary
    ∧ (∀ e, engType e ≠ some 1 → (s₁.eng e).ended = none →
      (∀ j f, s₁.leaving? e = some (j, f) → exec (.unitBoundary t e) s = .next (f j s₁))
      ∧ (s₁.leaving? e = none → exec (.unitBoundary t e) s = .next (s₁.yieldAt e)))
    ∧ (∀ e id k, (s₁.eng e).task = some id → s₁.task? id = some k → k.leave ≠ .no →
      s₁.yieldAt e = (s₁.olog 1 id k (some e) (engRegion e) 0 0).leaveEngine e id k)
    ∧ (∀ e id k, engType e ≠ some 1 → (s₁.eng e).ended = none → (s₁.eng e).task = some id → s₁.task? id = some k → k.leave = .no →
      (s₁.region (engRegion e)).prepare = false → s₁.preemptBy e k = none → exec (.unitBoundary t e) s
      = .next ((s₁.modEng e fun r => { r with lastYield := s₁.time.frc, trapAt := none }).olog 1 id k (some e) (engRegion e) 0 0))
    ∧ (∀ e id k v, engType e ≠ some 1 → (s₁.eng e).ended = none → (s₁.eng e).task = some id → s₁.task? id = some k → k.leave = .no →
      (s₁.region (engRegion e)).prepare = false → s₁.preemptBy e k = some v → exec (.unitBoundary t e) s
      = .next (s₁.preempt e id k v))

/-- R115: SLOT_PLAN_SUBMIT answers the first failing status of its list. -/
def Obligations.PlanChecksInOrder : Prop :=
  ∀ (s : State) (fn : Nat) (p : List Byte) (g : Graph) (nodes : List (List Byte)),
    s.car.graphs.find? (fld p 0 2) = some g → nodes = g.nodes →
    let cell := fld p 2 2
    let flows := (usedFlows nodes).map (mappedFlow p)
    let bufs := nodes.flatMap fun n => [rebase p (fld n 32 8), rebase p (fld n 40 8), rebase p (fld n 48 8)]
    let key := epochKey fn (fld p 8 2)
    let item1 := s.ownsCell fn cell = true ∧ (∀ f ∈ flows, s.ownsFlow fn f = true) ∧ (∀ b ∈ bufs, s.bufInTenant fn b = true)
      ∧ s.planCellOk cell (fld p 4 4) = true
    -- 1
    (¬ item1 → s.planCheck fn p = some .notPermitted)
    -- 2
    ∧ (item1 → s.anchor? cell = none → s.planCheck fn p = some .notReady)
    ∧ ∀ tl, s.anchor? cell = some tl → item1 →
      let pt := fld p 4 4
      let k := tpFrame tl s.thetaNow pt
      let n := slotNow tl s.thetaNow
      let item3 := tpValid tl.num pt = true ∧ s.thetaNow ≤ nominal tl.toff k (symOff tl.num (tpSlot pt) 0)
        ∧ (k - n.1) * slotsPer tl.num + ((tpSlot pt : Int) - n.2) ≤ 16
        ∧ (∀ f ∈ flows, ∃ x, s.car.flows.find? f = some x ∧ x.enabled = true)
        ∧ (∀ j < nodes.length, fld p 12 4 + j ≠ 0xFFFFFFFF)
        ∧ (∀ x ∈ g.gates, gtTimed x = true → gtSym x < symsPer tl.num)
        ∧ (∀ x ∈ nodes, bits (fld x 12 4) 11 8 < symsPer tl.num)
      let item5 := (s.tenantTasks fn).length + nodes.length ≤ s.taskQuota fn
        ∧ s.car.tasks.length + nodes.length ≤ 262144 ∧ s.car.gates.length + g.gates.length ≤ 1048576
        ∧ (fld p 8 2 ≠ 0 → s.car.epochs.find? key = none → (s.car.epochs.count fun _ e => e.st == .opened) < 4096)
        ∧ (∀ f ∈ flows, ∀ x, s.car.flows.find? f = some x →
            x.unreleased + (nodes.filter fun n => mappedFlow p (fld n 4 2 % 4) == f).length ≤ 256)
        ∧ ((nodes.filter fun n => bit (fld n 30 1) 0).length = 0
            ∨ ∃ q, (s.func fn).qps.find? (fld p 10 1) = some q ∧ (nodes.filter fun n => bit (fld n 30 1) 0).length ≤ q.free)
      (¬ item3 → s.planCheck fn p = some .badParam)
      ∧ (item3 → ∀ e, s.car.epochs.find? key = some e → e.st = .revoked → s.planCheck fn p = some .notPermitted)
      ∧ (item3 → (∀ e, s.car.epochs.find? key = some e → e.st ≠ .revoked) → ¬ item5 → s.planCheck fn p = some .noResource)
      ∧ (item3 → (∀ e, s.car.epochs.find? key = some e → e.st ≠ .revoked) → item5 → s.planCheck fn p = none)
/-! ## The vector DSP engines (chapters 05, 06) -/

/-- Rows of Tables 6-6 and 6-7: the command, FMT, OPC, the operation. -/
def vsWords : List ((Nat → Nat → Instr) × Nat × Nat × (Nat → Uop)) :=
  [(Instr.vnop, 0, 0x00, vnopOp), (Instr.vadd, 0, 0x01, vaddOp), (Instr.vsub, 0, 0x02, vsubOp), (Instr.vaddS, 0, 0x03, vaddSOp), (Instr.vsubS, 0, 0x04, vsubSOp),
   (Instr.vand, 0, 0x05, vandOp), (Instr.vor, 0, 0x06, vorOp), (Instr.vxor, 0, 0x07, vxorOp), (Instr.vmov, 0, 0x08, vmovOp), (Instr.vshr, 0, 0x09, vshrOp),
   (Instr.vshlS, 0, 0x0A, vshlSOp), (Instr.vmin, 0, 0x0B, vminOp), (Instr.vmax, 0, 0x0C, vmaxOp), (Instr.vconj, 0, 0x0D, vconjOp), (Instr.vmulH, 0, 0x0E, vmulHOp),
   (Instr.vcmulH, 0, 0x0F, vcmulHOp), (Instr.vsplat, 0, 0x10, vsplatOp), (Instr.vget, 0, 0x11, vgetOp)]
  ++ [(Instr.vmac, 0, 0x20, vmacOp), (Instr.vmacC, 0, 0x21, vmacCOp), (Instr.vmsu, 0, 0x22, vmsuOp), (Instr.vmacR, 0, 0x23, vmacROp), (Instr.vmul, 0, 0x24, vmulOp),
   (Instr.vmacP, 0, 0x25, vmacPOp), (Instr.vmacD, 0, 0x26, vmacDOp), (Instr.vmacDc, 0, 0x27, vmacDcOp), (Instr.vmacDr, 0, 0x28, vmacDrOp),
   (Instr.ftap, 0, 0x29, ftapOp1), (Instr.ftapD, 0, 0x2A, ftapOp2), (Instr.vclr, 0, 0x2B, vclrOp), (Instr.vacc, 0, 0x2C, vaccOp), (Instr.vadda, 0, 0x2D, vaddaOp),
   (Instr.vsuma, 0, 0x2E, vsumaOp)]
  ++ [(Instr.snop, 1, 0x00, snopOp), (Instr.add, 1, 0x01, sOp fAdd), (Instr.sub, 1, 0x02, sOp fSub), (Instr.and, 1, 0x03, sOp fAnd), (Instr.or, 1, 0x04, sOp fOr),
   (Instr.xor, 1, 0x05, sOp fXor), (Instr.mul, 1, 0x06, sOp fMul), (Instr.shl, 1, 0x07, sOp fShl), (Instr.shr, 1, 0x08, sOp fShr), (Instr.sar, 1, 0x09, sOp fSar),
   (Instr.slt, 1, 0x0A, sOp fSlt), (Instr.sltu, 1, 0x0B, sOp fSltu), (Instr.seq, 1, 0x0C, sOp fSeq), (Instr.min, 1, 0x0D, sOp fMin), (Instr.max, 1, 0x0E, sOp fMax)]
  ++ [(Instr.addI, 1, 0x41, sOpI fAdd), (Instr.subI, 1, 0x42, sOpI fSub), (Instr.andI, 1, 0x43, sOpI fAnd), (Instr.orI, 1, 0x44, sOpI fOr),
   (Instr.xorI, 1, 0x45, sOpI fXor), (Instr.mulI, 1, 0x46, sOpI fMul), (Instr.shlI, 1, 0x47, sOpI fShl), (Instr.shrI, 1, 0x48, sOpI fShr),
   (Instr.sarI, 1, 0x49, sOpI fSar), (Instr.sltI, 1, 0x4A, sOpI fSlt), (Instr.sltuI, 1, 0x4B, sOpI fSltu), (Instr.seqI, 1, 0x4C, sOpI fSeq),
   (Instr.minI, 1, 0x4D, sOpI fMin), (Instr.maxI, 1, 0x4E, sOpI fMax), (Instr.movG, 1, 0x20, gOp id),
   (Instr.addG, 1, 0x21, fun w => gOp (fun v => v + wImm6 w) w)]

/-- Rows of Tables 6-9 and 6-10: the command, FMT, OPC, what its word does. -/
def mcWords : List ((Nat → Nat → Instr) × Nat × Nat × (WordCtx → State → State)) :=
  [(Instr.ldi, 3, 0x01, ldiAct), (Instr.lda, 3, 0x02, ldaAct), (Instr.lds, 3, 0x08, runM [] ldsAct),
   (Instr.sts, 3, 0x09, fun x => runM [(wReg x.w, .any)] stsAct x), (Instr.vld, 3, 0x10, runM [] vldAct),
   (Instr.vst, 3, 0x11, fun x => runM [(rV (wRegV x.w), .any)] vstAct x), (Instr.vldp, 3, 0x12, runM [] vldpAct),
   (Instr.vstS, 3, 0x18, fun x => runM [(rA (wRegA x.w), .narrow)] vstSAct x),
   (Instr.vstSRe, 3, 0x19, fun x => runM [(rA (wRegA x.w), .narrow)] vstSReAct x)]
  ++ [(Instr.nop, 2, 0x00, nopAct), (Instr.br, 2, 0x01, brAct), (Instr.brz, 2, 0x02, brzAct), (Instr.brnz, 2, 0x03, brnzAct), (Instr.brlt, 2, 0x04, brltAct),
   (Instr.brge, 2, 0x05, brgeAct), (Instr.call, 2, 0x08, callAct), (Instr.ret, 2, 0x09, retAct), (Instr.rtt, 2, 0x0A, rttAct), (Instr.loop, 2, 0x10, loopAct),
   (Instr.loopI, 2, 0x11, loopIAct), (Instr.yield, 2, 0x18, yieldAct), (Instr.exit, 2, 0x1C, exitAct), (Instr.exitF, 2, 0x1D, exitFAct)]

/-- Every word of Tables 6-6, 6-7, 6-9 and 6-10 issues under its FMT and OPC and takes its own effect; while no kernel runs, or its
timer has run out, or another word stands at its offset, only time goes on; a poisoned word stops the kernel (R165, R175). -/
def Obligations.VdeWordsIssue : Prop :=
  (∀ r ∈ vsWords, ∀ (t e : Nat) (s u : State) (x : WordCtx), Issues s t e r.2.1 r.2.2.1 x u →
    exec (r.1 t e) s = .next (runVS (r.2.2.2 x.w) x u))
  ∧ (∀ r ∈ mcWords, ∀ (t e : Nat) (s u : State) (x : WordCtx), Issues s t e r.2.1 r.2.2.1 x u → exec (r.1 t e) s = .next (r.2.2.2 x u))
  ∧ ∀ i ∈ vsWords.map (fun r => (r.1, r.2.1, r.2.2.1)) ++ mcWords.map (fun r => (r.1, r.2.1, r.2.2.1)), ∀ (t e : Nat) (s : State),
      let s₁ := s.advance t
      let b := (s₁.vde e).bank
      (s₁.vdeRuns e = none → exec (i.1 t e) s = .next s₁)
      ∧ ∀ id tk k, s₁.vdeRuns e = some (id, tk, k) →
        let a := engBase e + k.codeBase + 8 * b.pc
        let w := leNat (s₁.bytesAt a 8)
        (b.timerEnd ≤ s₁.time.frc → exec (i.1 t e) s = .next s₁)
        ∧ (s₁.time.frc < b.timerEnd → b.cacheHit = false → s₁.poisonIn a 8 = true →
            exec (i.1 t e) s = .next ((s₁.logRead (s₁.taskWho id tk (initEng e)) a 8).stopKernel e .poisoned))
        ∧ (s₁.time.frc < b.timerEnd → b.cacheHit = true ∨ s₁.poisonIn a 8 = false → wFmt w ≠ i.2.1 ∨ wOpc w ≠ i.2.2 →
            exec (i.1 t e) s = .next s₁)

/-- Operations of real lanes: the operation, whether it saturates, and its exact result in lane `j` from the two sources. -/
def laneOps : List ((Nat → Uop) × Bool × (Nat → (Nat → Int) → (Nat → Int) → Nat → Int)) :=
  [(vaddOp, false, fun _ a b j => a j + b j), (vsubOp, false, fun _ a b j => a j - b j),
   (vaddSOp, true, fun _ a b j => a j + b j), (vsubSOp, true, fun _ a b j => a j - b j),
   (vshrOp, true, fun w a _ j => a j / 2 ^ bits w 38 34), (vshlSOp, true, fun w a _ j => a j * 2 ^ bits w 38 34),
   (vminOp, false, fun _ a b j => min (a j) (b j)), (vmaxOp, false, fun _ a b j => max (a j) (b j)),
   (vconjOp, true, fun _ a _ j => if j % 2 = 0 then a j else -(a j)), (vmulHOp, true, fun _ a b j => a j * b j / 2 ^ 15),
   (vcmulHOp, true, fun _ a b j => let k := j / 2 * 2
      if j % 2 = 0 then (a k * b k - a (k + 1) * b (k + 1)) / 2 ^ 15 else (a k * b (k + 1) + a (k + 1) * b k) / 2 ^ 15)]

/-- Vector operations into V registers (R159, R183, Table 6-6): every lane of the result, SAT, poison, and what stays. -/
def Obligations.VectorResults : Prop :=
  ∀ (w : Nat) (p : Nat × Bool) (b : Bank), b.wf →
    let d := bits w 53 49
    let va := bits w 48 44
    let vb := bits w 43 39
    let a : Nat → Int := lane (b.getV va)
    let c : Nat → Int := lane (b.getV vb)
    (∀ r ∈ laneOps,
      let b' := (r.1 w).eff p b
      let f := r.2.2 w a c
      (∀ j < 32, lane (b'.getV d) j = if r.2.1 then max (-32768) (min 32767 (f j)) else sgn 16 (unsgn 16 (f j)))
      ∧ (b'.sat = true ↔ b.sat = true ∨ (r.2.1 = true ∧ ∃ j < 32, f j < -32768 ∨ 32767 < f j))
      ∧ (∀ n, n ≠ d → b'.getV n = b.getV n) ∧ (∀ n, n ≠ rV d → b'.poisoned n = b.poisoned n)
      ∧ b' = { b with v := b'.v, pois := b'.pois, sat := b'.sat })
    ∧ (∀ r ∈ [(vandOp, fun x y => x &&& y), (vorOp, fun x y => x ||| y), (vxorOp, fun x y => x ^^^ y), (vmovOp, fun x _ => x)],
      let b' := (r.1 w).eff p b
      b'.getV d = r.2 (b.getV va) (b.getV vb) ∧ (∀ n, n ≠ d → b'.getV n = b.getV n)
        ∧ b' = { b with v := b'.v, pois := b'.pois })
    -- the result is poisoned exactly when a source is
    ∧ (∀ op ∈ [vaddOp, vsubOp, vaddSOp, vsubSOp, vandOp, vorOp, vxorOp, vminOp, vmaxOp, vmulHOp, vcmulHOp],
      ((op w).eff p b).poisoned (rV d) = (b.poisoned (rV va) || b.poisoned (rV vb)))
    ∧ (∀ op ∈ [vmovOp, vshrOp, vshlSOp, vconjOp], ((op w).eff p b).poisoned (rV d) = b.poisoned (rV va))
    -- VSPLAT and VGET
    ∧ (let b' := (vsplatOp w).eff p b
       let x := (b.getG va).toNat
       (∀ j < 32, lane (b'.getV d) j = sgn 16 (if bit w 34 && j % 2 == 1 then x / 65536 else x)) ∧ b' = { b with v := b'.v, pois := b'.pois }
         ∧ b'.poisoned (rV d) = b.poisoned va)
    ∧ (let b' := (vgetOp w).eff p b
       let l := bits w 37 34
       sgn 16 (b'.getG d).toNat = lane (b.getV va) (2 * l) ∧ sgn 16 ((b'.getG d).toNat / 65536) = lane (b.getV va) (2 * l + 1)
         ∧ b' = { b with g := b'.g, pois := b'.pois } ∧ (∀ n, n ≠ d → b'.getG n = b.getG n) ∧ b'.poisoned d = b.poisoned (rV va))

/-- Real and imaginary part of u × w, and of u × conj(w), in complex lane `i / 2` (R160, R183). -/
def mulPart (u w : Nat → Int) (i : Nat) : Int :=
  let k := i / 2 * 2
  if i % 2 = 0 then u k * w k - u (k + 1) * w (k + 1) else u k * w (k + 1) + u (k + 1) * w k
def conjPart (u w : Nat → Int) (i : Nat) : Int :=
  let k := i / 2 * 2
  if i % 2 = 0 then u k * w k + u (k + 1) * w (k + 1) else u (k + 1) * w k - u k * w (k + 1)

/-- Accumulation of 32 exact terms: every part modulo 2^40, AOV when one wraps, poison kept and added, nothing else (R160, R164). -/
def accumulates (b b' : Bank) (acc : Nat) (f : Nat → Int) (pois : Bool) : Prop :=
  (∀ i < 32, accPart (b'.getA acc) i = sgn 40 (unsgn 40 (accPart (b.getA acc) i + f i)))
  ∧ (b'.aov = true ↔ b.aov = true ∨ ∃ i < 32, accPart (b.getA acc) i + f i < -(2 ^ 39) ∨ 2 ^ 39 ≤ accPart (b.getA acc) i + f i)
  ∧ b'.poisoned (rA acc) = (b.poisoned (rA acc) || pois) ∧ (∀ n, n ≠ acc → b'.getA n = b.getA n)
  ∧ b' = { b with a := b'.a, pois := b'.pois, aov := b'.aov }

/-- The accumulating operations (R160, R161, R163, R183, Table 6-6). -/
def Obligations.AccumulatorResults : Prop :=
  ∀ (w : Nat) (p : Nat × Bool) (b : Bank), b.wf →
    let ac := bits w 53 51
    let ab := bits w 50 48
    let va := bits w 48 44
    let vb := bits w 43 39
    let a : Nat → Int := lane (b.getV va)
    let c : Nat → Int := lane (b.getV vb)
    let po := b.poisoned (rV va) || b.poisoned (rV vb)
    let pv : Nat → Int := lane (BitVec.ofNat 512 p.1)
    accumulates b ((vmacOp w).eff p b) ac (mulPart a c) po
    ∧ accumulates b ((vmacCOp w).eff p b) ac (conjPart a c) po
    ∧ accumulates b ((vmsuOp w).eff p b) ac (fun i => -(mulPart a c i)) po
    ∧ accumulates b ((vmacROp w).eff p b) ac (fun j => a j * c j) po
    ∧ accumulates b ((vmacPOp w).eff p b) ac (mulPart a pv) (b.poisoned (rV va) || p.2)
    ∧ accumulates b ((vaccOp w).eff p b) ac (fun i => a i * 2 ^ bits w 38 34) (b.poisoned (rV va))
    ∧ accumulates b ((vaddaOp w).eff p b) ac (fun i => accPart (b.getA ab) i) (b.poisoned (rA ab))
    -- VMUL and VCLR replace
    ∧ (let b' := (vmulOp w).eff p b
       (∀ i < 32, accPart (b'.getA ac) i = sgn 40 (unsgn 40 (mulPart a c i))) ∧ b'.poisoned (rA ac) = po
         ∧ b' = { b with a := b'.a, pois := b'.pois })
    ∧ (let b' := (vclrOp w).eff p b
       b'.getA ac = 0 ∧ b'.poisoned (rA ac) = false ∧ b' = { b with a := b'.a, pois := b'.pois })
    -- VSUMA: the lanes of Ab summed into lane 0, the other lanes 0
    ∧ (let b' := (vsumaOp w).eff p b
       (∀ h < 2, accPart (b'.getA ac) h = sgn 40 (unsgn 40 (((List.range 16).map fun k => accPart (b.getA ab) (2 * k + h)).sum)))
         ∧ (∀ i < 32, 2 ≤ i → accPart (b'.getA ac) i = 0) ∧ b'.poisoned (rA ac) = b.poisoned (rA ab)
         ∧ b' = { b with a := b'.a, pois := b'.pois, aov := b'.aov })
    -- the dual forms: Aa from the Y-bus weight, then Ab from the P-bus operand
    ∧ (let u : Nat → Int := lane (b.getV (bits w 47 43))
       let y : Nat → Int := lane (b.getV (bits w 42 38))
       let pu := b.poisoned (rV (bits w 47 43))
       let py := b.poisoned (rV (bits w 42 38))
       ∀ r ∈ [(vmacDOp, mulPart), (vmacDcOp, conjPart), (vmacDrOp, fun u w j => u j * w j)],
         ∃ m, accumulates b m ac (r.2 u y) (pu || py) ∧ accumulates m ((r.1 w).eff p b) ab (r.2 u pv) (pu || p.2))
    -- FTAP and FTAP.D: one tap into Aa (two into Aa and Ab), then the window moves by one element
    ∧ (let v := bits w 47 43
       let tap (sh : Nat) (i : Nat) : Int := mulPart (fun j => lane (b.getV v) j)
         (fun j => if j % 2 = 0 then sgn 16 (p.1 >>> sh) else sgn 16 (p.1 >>> (sh + 16))) i
       let moved (m b' : Bank) : Prop :=
         (∀ j < 30, lane (b'.getV v) j = lane (b.getV v) (j + 2) ∧ lane (b'.getV (v + 1)) j = lane (b.getV (v + 1)) (j + 2))
         ∧ (∀ j < 2, lane (b'.getV v) (30 + j) = lane (b.getV (v + 1)) j ∧ lane (b'.getV (v + 1)) (30 + j) = 0)
         ∧ (∀ n, n ≠ v → n ≠ v + 1 → b'.getV n = b.getV n) ∧ b' = { m with v := b'.v, pois := b'.pois }
       (∃ m, accumulates b m ac (tap 0) (b.poisoned (rV v) || p.2) ∧ moved m ((ftapOp1 w).eff p b))
       ∧ ∃ m m', accumulates b m ac (tap 0) (b.poisoned (rV v) || p.2) ∧ accumulates m m' ab (tap 32) (b.poisoned (rV v) || p.2)
           ∧ moved m' ((ftapOp2 w).eff p b))

/-- The scalar operations of two registers, and of one register and IMM10, with their functions (Table 6-7). -/
def scalarFns : List (((Nat → Uop) × (Nat → Uop)) × (Word → Word → Word)) :=
  [((sOp fAdd, sOpI fAdd), fun a b => a + b), ((sOp fSub, sOpI fSub), fun a b => a - b), ((sOp fAnd, sOpI fAnd), fun a b => a &&& b),
   ((sOp fOr, sOpI fOr), fun a b => a ||| b), ((sOp fXor, sOpI fXor), fun a b => a ^^^ b), ((sOp fMul, sOpI fMul), fun a b => a * b),
   ((sOp fShl, sOpI fShl), fun a b => a <<< (b.toNat % 32)), ((sOp fShr, sOpI fShr), fun a b => a >>> (b.toNat % 32)),
   ((sOp fSar, sOpI fSar), fun a b => a.sshiftRight (b.toNat % 32)), ((sOp fSlt, sOpI fSlt), fun a b => if a.toInt < b.toInt then 1 else 0),
   ((sOp fSltu, sOpI fSltu), fun a b => if a < b then 1 else 0), ((sOp fSeq, sOpI fSeq), fun a b => if a = b then 1 else 0),
   ((sOp fMin, sOpI fMin), fun a b => if a.toInt < b.toInt then a else b), ((sOp fMax, sOpI fMax), fun a b => if a.toInt < b.toInt then b else a)]

/-- The scalar operations (R164, R185, Table 6-7): the destination, its poison, and nothing else of the bank. -/
def Obligations.ScalarResults : Prop :=
  ∀ (w : Nat) (p : Nat × Bool) (b : Bank), b.wf →
    let onlyG (d : Nat) (v : Word) (q : Bool) (b' : Bank) : Prop :=
      b'.getG d = v ∧ b'.poisoned d = q ∧ (∀ n, n ≠ d → b'.getG n = b.getG n ∧ b'.poisoned n = b.poisoned n)
        ∧ b' = { b with g := b'.g, pois := b'.pois }
    let sd := bits w 53 49
    let sa := bits w 48 44
    (∀ r ∈ scalarFns,
      onlyG sd (r.2 (b.getG sa) (b.getG (bits w 43 39))) (b.poisoned sa || b.poisoned (bits w 43 39)) ((r.1.1 w).eff p b)
      ∧ onlyG sd (r.2 (b.getG sa) (BitVec.ofInt 32 (sgn 10 (bits w 43 34)))) (b.poisoned sa) ((r.1.2 w).eff p b))
    ∧ onlyG (bits w 53 47) (b.getG (bits w 46 40)) (b.poisoned (bits w 46 40)) ((gOp id w).eff p b)
    ∧ onlyG (bits w 53 47) (b.getG (bits w 46 40) + BitVec.ofInt 32 (sgn 6 (bits w 39 34))) (b.poisoned (bits w 46 40))
        ((gOp (fun v => v + wImm6 w) w).eff p b)
    ∧ (snopOp w).eff p b = b ∧ (vnopOp w).eff p b = b

/-- The pointer after a use (R158): linear; circular stays in the buffer when it is in it; bit-reversed counts in reversed order. -/
def Obligations.PointerUpdate : Prop :=
  ∀ p m l b : Word,
    (∀ md, ptrUpdate 0 p m l b = p + m ∧ ptrUpdate md p m 0 b = p + m)
    ∧ (0 < l.toNat → b.toNat + l.toNat ≤ 2 ^ 32 → b.toNat ≤ p.toNat → p.toNat < b.toNat + l.toNat → m.toInt.natAbs ≤ l.toNat →
        let q := ptrUpdate 1 p m l b
        b.toNat ≤ q.toNat ∧ q.toNat < b.toNat + l.toNat ∧ ((q.toNat : Int) - (p.toNat + m.toInt)) % l.toNat = 0)
    ∧ (0 < l.toNat →
        let k := Nat.log2 l.toNat
        let q := ptrUpdate 2 p m l b
        let o := (p - b).toNat % 2 ^ k
        let o' := (q - b).toNat
        o' < 2 ^ k ∧ bitRev k o' = (bitRev k o + bitRev k (m.toNat % 2 ^ k)) % 2 ^ k ∧ bitRev k (bitRev k o) = o)

/-- Words of formats V and S complete (R178, R190, R195): the operation, its moves, then the pointers, then the next word; the frame
of an operation without moves is the bank of its engine. -/
def Obligations.OperationsAndMoves : Prop :=
  ∀ r ∈ vsWords, ∀ (t e : Nat) (s u : State) (x : WordCtx), Issues s t e r.2.1 r.2.2.1 x u →
    let o := r.2.2.2 x.w
    let b := (u.vde e).bank
    let who := u.taskWho x.id x.task (initEng e)
    let next (c i : Nat) (v : State) : State := v.goOn x i c (v.vde e).bank.fall.1 (v.vde e).bank.fall.2
    -- no move
    (o.pwidth = 0 → moveOf (wX x.w) = none → moveOf (wY x.w) = none →
      let i := b.cycles + b.stall o.reads
      exec (r.1 t e) s = .next (next 1 i (u.modBank e fun b => (o.eff (0, false) b).wrote i o.writes)))
    -- one move, a load from X-RAM: the operation's result, then the register loaded and its pointer
    ∧ (∀ m d, o.pwidth = 0 → moveOf (wX x.w) = some m → moveOf (wY x.w) = none → m.load = true → m.ptr.bad b = false →
        (b.getG (rP m.ptr.p)).toNat % 2 = 0 → localPlace e x.alt (b.getG (rP m.ptr.p)).toNat 64 = .xram d →
        let i := b.cycles + b.stall (o.reads ++ (m.ptr.regs b).map fun r => (r, .addr))
        let v := u.modBank e fun b => (o.eff (0, false) b).wrote i o.writes
        let tk := (v.task? x.id).getD x.task
        let c := crosses (b.getG (rP m.ptr.p)).toNat 64
        v.access (v.taskWho x.id x.task (initEng e)) d 64 false = .success →
        exec (r.1 t e) s = .next (next (1 + b2n c) i (putPtr x b m.ptr
          ((v.logRead (v.taskWho x.id x.task (initEng e)) d 64).modBank e fun b =>
            (b.setV m.v (bytesVec (v.taskBytes tk d 64)) (v.taskPoison tk d 64)).wrote i [(rV m.v, some (if c then .load4 else .load3))]))))
    -- one move, a store to X-RAM: the register as it was read before the operation
    ∧ (∀ m d v', o.pwidth = 0 → moveOf (wX x.w) = some m → moveOf (wY x.w) = none → m.load = false → m.ptr.bad b = false →
        (b.getG (rP m.ptr.p)).toNat % 8 = 0 → localPlace e x.alt (b.getG (rP m.ptr.p)).toNat 64 = .xram d → b.poisoned (rV m.v) = false →
        let i := b.cycles + b.stall (o.reads ++ (rV m.v, .any) :: (m.ptr.regs b).map fun r => (r, .addr))
        (u.modBank e fun b => (o.eff (0, false) b).wrote i o.writes).taskWrite x.id (initEng e) d (vecBytes (b.getV m.v)) false = (v', .success) →
        exec (r.1 t e) s = .next (next (1 + b2n (crosses (b.getG (rP m.ptr.p)).toNat 64)) i (putPtr x b m.ptr v')))
    -- a P-bus operand, and no move: read with its poison, used, its pointer updated
    ∧ (0 < o.pwidth → moveOf (wX x.w) = none → moveOf (wY x.w) = none →
        let q := pbUse (wPb x.w)
        let a := (b.getG (rP q.p)).toNat
        q.bad b = false → a % o.pwidth = 0 → within a o.pwidth x.k.codeBase (x.k.dataBase + x.k.dataBytes - x.k.codeBase) = true →
        u.access who (engBase e + a) o.pwidth false = .success →
        let i := b.cycles + b.stall (o.reads ++ (q.regs b).map fun r => (r, .addr))
        let tk := (u.task? x.id).getD x.task
        exec (r.1 t e) s = .next (next (1 + b2n (!x.hit)) i (putPtr x b q ((u.logRead who (engBase e + a) o.pwidth).modBank e fun b =>
          (o.eff (leNat (u.taskBytes tk (engBase e + a) o.pwidth), u.taskPoison tk (engBase e + a) o.pwidth) b).wrote i o.writes))))

/-- Format M words (R149 to R151, R162, R164, R165, R186, Table 6-9), at an address in X-RAM: what a load leaves in its register, what a
store leaves in memory; every other byte of memory stays. -/
def Obligations.MemoryWords : Prop :=
  ∀ (t e : Nat) (s u : State) (x : WordCtx) (opc : Nat), Issues s t e 3 opc x u →
    let b := (u.vde e).bank
    let q := memUse x.w
    let a := (b.getG (rP q.p)).toNat
    let tk := (u.task? x.id).getD x.task
    let who := u.taskWho x.id x.task (initEng e)
    let cy (rs : List (Nat × RegUse)) := b.cycles + b.stall (rs ++ (q.regs b).map fun r => (r, .addr))
    let next (c i : Nat) (v : State) : State := v.goOn x i c (v.vde e).bank.fall.1 (v.vde e).bank.fall.2
    -- constants
    (let put (v : Nat) (c : Producer) := u.modBank e fun b => (b.setG (wReg x.w) (BitVec.ofNat 32 v) false).wrote b.cycles [(wReg x.w, some c)]
     let c : Producer := if wReg x.w < 32 then .scalar else .gwrite
     (opc = 0x01 → exec (.ldi t e) s = .next (next 1 b.cycles (put (bits x.w 31 0) c)))
     ∧ (opc = 0x02 → exec (.lda t e) s = .next (next 1 b.cycles (put (x.k.dataBase + bits x.w 31 0) c))))
    -- loads
    ∧ (∀ d, q.bad b = false → localPlace e x.alt a 4 = .xram d → a % 4 = 0 → u.access who d 4 false = .success → opc = 0x08 →
        exec (.lds t e) s = .next (next 1 (cy []) (putPtr x b q ((u.logRead who d 4).modBank e fun b =>
          (b.setG (wReg x.w) (BitVec.ofNat 32 (leNat (u.taskBytes tk d 4))) (u.taskPoison tk d 4)).wrote (cy []) [(wReg x.w, some .load3)]))))
    ∧ (∀ d, q.bad b = false → localPlace e x.alt a 64 = .xram d → a % 2 = 0 → u.access who d 64 false = .success → opc = 0x10 →
        exec (.vld t e) s = .next (next (1 + b2n (crosses a 64)) (cy []) (putPtr x b q ((u.logRead who d 64).modBank e fun b =>
          (b.setV (wRegV x.w) (bytesVec (u.taskBytes tk d 64)) (u.taskPoison tk d 64)).wrote (cy [])
            [(rV (wRegV x.w), some (if crosses a 64 then .load4 else .load3))]))))
    ∧ (q.bad b = false → a % 64 = 0 → within a 64 x.k.codeBase (x.k.dataBase + x.k.dataBytes - x.k.codeBase) = true →
        u.access who (engBase e + a) 64 false = .success → opc = 0x12 →
        exec (.vldp t e) s = .next (next (1 + b2n (!x.hit)) (cy []) (putPtr x b q ((u.logRead who (engBase e + a) 64).modBank e fun b =>
          (b.setV (wRegV x.w) (BitVec.ofNat 512 (leNat (u.taskBytes tk (engBase e + a) 64))) (u.taskPoison tk (engBase e + a) 64)).wrote (cy [])
            [(rV (wRegV x.w), some .load3)]))))
    -- stores
    ∧ (∀ d u', q.bad b = false → localPlace e x.alt a 4 = .xram d → a % 4 = 0 → b.poisoned (wReg x.w) = false → opc = 0x09 →
        u.taskWrite x.id (initEng e) d (leBytes 4 (b.getG (wReg x.w)).toNat) false = (u', .success) →
        exec (.sts t e) s = .next (next 3 (cy [(wReg x.w, .any)]) (putPtr x b q u')))
    ∧ (∀ d u', q.bad b = false → localPlace e x.alt a 64 = .xram d → a % 2 = 0 → b.poisoned (rV (wRegV x.w)) = false → opc = 0x11 →
        u.taskWrite x.id (initEng e) d (leBytes 64 (b.getV (wRegV x.w)).toNat) false = (u', .success) →
        exec (.vst t e) s = .next (next (1 + (b2n (crosses a 64) + 2 * b2n (a % 8 != 0))) (cy [(rV (wRegV x.w), .any)]) (putPtr x b q u')))
    ∧ (let part (i : Nat) : Int := accPart (b.getA (wRegA x.w)) i / 2 ^ wShift x.w
       let sat (y : Int) : Int := max (-32768) (min 32767 y)
       let flag (i : List Nat) (v : State) : State :=
         if i.any fun i => part i < -32768 || 32767 < part i then v.modBank e fun b => { b with sat := true } else v
       ∀ d u', q.bad b = false → a % 2 = 0 → b.poisoned (rA (wRegA x.w)) = false →
         (localPlace e x.alt a 64 = .xram d → opc = 0x18 →
          u.taskWrite x.id (initEng e) d ((List.range 32).flatMap fun i => leBytes 2 (unsgn 16 (sat (part i)))) false = (u', .success) →
          exec (.vstS t e) s = .next (next (1 + (b2n (crosses a 64) + 2 * b2n (a % 8 != 0))) (cy [(rA (wRegA x.w), .narrow)])
            (putPtr x b q (flag (List.range 32) u'))))
         ∧ (localPlace e x.alt a 32 = .xram d → opc = 0x19 →
          u.taskWrite x.id (initEng e) d ((List.range 16).flatMap fun k => leBytes 2 (unsgn 16 (sat (part (2 * k))))) false = (u', .success) →
          exec (.vstSRe t e) s = .next (next (1 + (b2n (crosses a 32) + 2 * b2n (a % 8 != 0))) (cy [(rA (wRegA x.w), .narrow)])
            (putPtr x b q (flag ((List.range 16).map fun k => 2 * k) u')))))
    -- a poisoned address register, a misaligned or an unmapped address stops the kernel and writes nothing
    ∧ (∀ r ∈ [(Instr.lds, 0x08, 4, 4), (Instr.sts, 0x09, 4, 4), (Instr.vld, 0x10, 2, 64), (Instr.vst, 0x11, 2, 64)], opc = r.2.1 →
        (q.bad b = true → exec (r.1 t e) s = .next (u.stopKernel e .poisoned))
        ∧ (q.bad b = false → a % r.2.2.1 ≠ 0 ∨ localPlace e x.alt a r.2.2.2 = .none → exec (r.1 t e) s = .next (u.stopKernel e .busError)))

/-- A store of a task to local memory of its engine (R14, R129): the bytes stored read back, every other byte stays as it was, and no
register, no task and no other engine changes. -/
def Obligations.TaskStores : Prop :=
  ∀ (u u' : State) (id e d : Nat) (bs : List Byte) (p : Bool),
    Memory.wf u.mem.mem → u.taskWrite id (initEng e) d bs p = (u', .success) →
    u'.vdes = u.vdes ∧ u'.time = u.time ∧ u'.cells = u.cells
    ∧ ∀ tk, u.task? id = some tk → u.speculative tk = false → u.clu.migs = [] → u.real d = d → d < peerBase → u.marksIn d bs.length = [] → p = false →
      u'.car = u.car
      ∧ (∀ i (h : i < bs.length), u'.mem.mem.get 0 (d + i) = bs[i])
      ∧ (∀ a, a < d ∨ d + bs.length ≤ a → u'.mem.mem.get 0 a = u.mem.mem.get 0 a)

/-- Format C words and the yield trap (R165 to R168, R187 to R196, Table 6-10): where the kernel goes on, at what cost, with which loops;
what a yield, the trap and the abort do. -/
def Obligations.ControlWords : Prop :=
  (∀ (t e : Nat) (s u : State) (x : WordCtx) (opc : Nat), Issues s t e 2 opc x u →
    let b := (u.vde e).bank
    let br := b.cycles + b.stall [(wSa x.w, .branch)]
    let loopsTo (n : Nat) := if b.trap.isSome then b.loops else loopJump n b.loops
    let follow (c : Nat) (i : Nat) := u.goOn x i c b.fall.1 b.fall.2
    let jump (i n : Nat) (v : State) := v.goOn x i 3 n (loopsTo n)
    let v := b.getG (wSa x.w)
    (opc = 0x00 → exec (.nop t e) s = .next (follow 1 b.cycles))
    ∧ (opc = 0x01 → exec (.br t e) s = .next (jump b.cycles (wTgt x.w) u))
    ∧ (∀ r ∈ [(Instr.brz, 0x02, v == 0), (Instr.brnz, 0x03, v != 0), (Instr.brlt, 0x04, decide (v.toInt < 0)), (Instr.brge, 0x05, decide (0 ≤ v.toInt))],
        opc = r.2.1 →
        exec (r.1 t e) s = .next (if b.poisoned (wSa x.w) then u.stopKernel e .poisoned else if r.2.2 then jump br (wTgt x.w) u else follow 1 br))
    ∧ (opc = 0x08 → exec (.call t e) s = .next (jump b.cycles (wTgt x.w)
        (u.modBank e fun c => (c.setG 31 (BitVec.ofNat 32 (b.pc + 1)) false).wrote b.cycles [(31, some .scalar)])))
    ∧ (opc = 0x09 → exec (.ret t e) s = .next (
        if b.poisoned 31 then u.stopKernel e .poisoned
        else if x.k.codeWords ≤ (b.getG 31).toNat then u.stopKernel e .busError
        else jump (b.cycles + b.stall [(31, .branch)]) (b.getG 31).toNat u))
    ∧ (opc = 0x0A → (b.trap = none → exec (.rtt t e) s = .next (u.stopKernel e .busError))
        ∧ ∀ o, b.trap = some o → exec (.rtt t e) s = .next ((u.goOn x b.cycles 3 o b.loops).modBank e fun c => { c with trap := none }))
    ∧ (∀ r ∈ [(Instr.loop, 0x10, v.toNat, br), (Instr.loopI, 0x11, wCount x.w, b.cycles)], opc = r.2.1 → (opc = 0x10 → b.poisoned (wSa x.w) = false) →
        (b.trap ≠ none → exec (r.1 t e) s = .next (u.stopKernel e .notPermitted))
        ∧ (b.trap = none → r.2.2.1 = 0 → exec (r.1 t e) s = .next (u.goOn x r.2.2.2 3 (wTgt x.w + 1) (loopJump (wTgt x.w + 1) b.loops)))
        ∧ (b.trap = none → 0 < r.2.2.1 → 3 ≤ b.loops.length → exec (r.1 t e) s = .next (u.stopKernel e .notPermitted))
        ∧ (b.trap = none → 0 < r.2.2.1 → b.loops.length < 3 →
            exec (r.1 t e) s = .next (u.goOn x r.2.2.2 1 (b.pc + 1) (⟨b.pc + 1, wTgt x.w, r.2.2.1⟩ :: b.loops))))
    ∧ (opc = 0x18 →
        let y := (follow 4 b.cycles).modBank e fun c => { c with cache := [], timerEnd := (follow 4 b.cycles).time.frc + 9831 }
        exec (.yield t e) s = .next (if (y.eng e).ended.isSome then y else y.yieldAt e))
    ∧ (opc = 0x1C → exec (.exit t e) s = .next ((u.modBank e fun c => { c with cycles := b.cycles + 1 }).endWork e (if b.poisonStored then .poisoned else .success)))
    ∧ (opc = 0x1D → exec (.exitF t e) s = .next ((u.modBank e fun c => { c with cycles := b.cycles + 1 }).endWork e (statusOf (wTgt x.w)))))
  -- going on: the bank's offset, loops and cycles, nothing else; past the last code word the task fails
  ∧ (∀ (u : State) (x : WordCtx) (i c n : Nat) (ls : List Loop), ∃ cache : Bank → List Nat,
      let u' := u.modBank x.e fun b => { b with cycles := i + c, cache := cache b, pc := n, loops := ls }
      u.goOn x i c n ls = if x.k.codeWords ≤ n then u'.stopKernel x.e .busError else u')
  -- the yield timer: the first end of it enters the trap handler, the second aborts the kernel
  ∧ (∀ (t e : Nat) (s : State) (r : Nat × Task × Kernel),
      let s₁ := s.advance t
      let b := (s₁.vde e).bank
      s₁.vdeRuns e = some r → b.timerEnd ≤ s₁.time.frc →
      ((s₁.eng e).trapAt = none → exec (.yieldTrap t e) s = .next ((s₁.modEng e fun g => { g with trapAt := some s₁.time.frc }).modBank e fun c =>
        { c with trap := some c.pc, pc := r.2.2.trap, cycles := c.cycles + 3, timerEnd := s₁.time.frc + 394 }))
      ∧ ((s₁.eng e).trapAt ≠ none → exec (.yieldAbort t e) s = .next (s₁.stopKernel e .deadlineMissed)))

/-- KERNEL_LOAD (R197 to R202): a kernel is kept at the lowest free place of its part of P-RAM, written into every VDE that is awake and
not fenced, and measured; what refuses a load or an unload. -/
def Obligations.KernelLoads : Prop :=
  ∀ (c : CmdRef) (s : State) (fl : Flight), Ready layKernelLoad c s fl →
    let s₁ := s.advance c.t
    let p := fl.params c.buf
    let id := fld p 2 2
    let m := (p.drop 16).take (fld p 4 4)
    let n := kiLen m - 1408
    let part := kiPre m
    let refused (st : Status) := exec (.kernelLoad c) s = .next (s₁.complete fl 0x0208 (.bare st))
    (fld p 0 1 ≠ 1 →
      (s₁.kernels.has id = true → refused .noResource)
      -- authentication is an opaque answer of the Dome: both answers are named
      ∧ (s₁.kernels.has id = false → exec (.kernelLoad c) s = .next (
          if s₁.trailerAuth useKernel (m.take n) (m.drop n) = false then s₁.complete fl 0x0208 (.bare .authFail)
          else if codeSectionOk (kiSection m) (fld m 16 4) (fld m 20 4) = false then s₁.complete fl 0x0208 (.bare .badParam)
          else match s₁.pramPlace part ((m.take n).drop 64).length with
          | none => s₁.complete fl 0x0208 (.bare .noResource)
          | some base =>
            let k : Kernel := ⟨fl.fn, part, base, kiWords m, kiData m, fld m 16 4, fld m 20 4, (m.drop n).take 64, (m.take n).drop 64⟩
            let u := ({ s₁ with kernels := s₁.kernels.set id k }.spreadKernel k).chainKernel ((m.drop n).take 64)
            u.complete fl 0x0208 (.ok (leBytes 4 base ++ leBytes 4 (u.pramFree part) ++ (m.drop n).take 8)))))
    ∧ (fld p 0 1 = 1 →
      (s₁.kernels.find? id = none → refused .badParam)
      ∧ ∀ k, s₁.kernels.find? id = some k →
        (k.fn ≠ fl.fn → refused .notPermitted)
        ∧ (k.fn = fl.fn → s₁.kernelUsed id = true → refused .noResource)
        ∧ (k.fn = fl.fn → s₁.kernelUsed id = false →
            let u := { s₁ with kernels := s₁.kernels.del id }
            exec (.kernelLoad c) s = .next (u.complete fl 0x0208 (.ok (leBytes 4 0 ++ leBytes 4 (u.pramFree k.preempting) ++ k.digest.take 8)))))
    -- the place: in its part, free, aligned, and the lowest such
    ∧ ∀ (pre : Bool) (z a : Nat), s₁.pramPlace pre z = some a →
        let lo := (pramPart pre).1
        lo ≤ a ∧ (a - lo) % 64 = 0 ∧ a + z ≤ lo + (pramPart pre).2 ∧ (∀ k ∈ s₁.kernels, overlaps a z k.2.codeBase k.2.body.length = false)
        ∧ ∀ y, lo ≤ y → (y - lo) % 64 = 0 → y < a → lo + (pramPart pre).2 < y + z ∨ ∃ k ∈ s₁.kernels, overlaps y z k.2.codeBase k.2.body.length = true
/-! ## Matrix, transform and coding engines (chapters 07 to 09) -/

/-- The operations of Tables 7-2, 8-1, 8-2, 9-1: the row, engine type, KERNEL, size of the parameter block, checks, and operation. -/
def engOps : List ((Nat → Nat → Instr) × Nat × Nat × (List Byte → Nat) × (Job → State → List Byte → Option Status) × (Job → State → State × Option Status)) :=
  let done (op : Job → State → State × Status) (j : Job) (s : State) : State × Option Status := ((op j s).1, some (op j s).2)
  [(Instr.matmul, 2, 1, fun _ => 128, fun j _ p => layMatmul.check j p, done (meOp layMatmul runMatmul)),
   (Instr.gram, 2, 2, fun _ => 128, fun j _ p => layGram.check j p, done (meOp layGram runGram)),
   (Instr.solve, 2, 3, fun _ => 128, fun j _ p => laySolve.check j p, done (meOp laySolve runSolve)),
   (Instr.weights, 2, 4, fun _ => 64, fun j _ p => layWeights.check j p, done (meOp layWeights runWeights)),
   (Instr.beamApply, 2, 5, fun _ => 64, fun j _ p => beamFirst j p, done beamOp),
   (Instr.fft, 10, 1, fun _ => 64, fun j s p => xfCheck j false s p, done (xfOp false)),
   (Instr.ifft, 10, 2, fun _ => 64, fun j s p => xfCheck j true s p, done (xfOp true)),
   (Instr.detect, 11, 1, fun _ => 64, fun j _ p => prachFirst j p, done prachOp)]
  ++ [(Instr.ldpcDecode, 3, 1, hdrSize, fun j s p => hdrCheck .ldpcDec j s p, codeOp .ldpcDec),
   (Instr.ldpcEncode, 4, 1, hdrSize, fun j s p => hdrCheck .ldpcEnc j s p, codeOp .ldpcEnc),
   (Instr.turboDecode, 7, 1, hdrSize, fun j s p => hdrCheck .turboDec j s p, codeOp .turboDec),
   (Instr.turboEncode, 7, 2, hdrSize, fun j s p => hdrCheck .turboEnc j s p, codeOp .turboEnc),
   (Instr.combineNr, 9, 1, hdrSize, fun j s p => hdrCheck .nrComb j s p, codeOp .nrComb),
   (Instr.combineLte, 9, 2, hdrSize, fun j s p => hdrCheck .lteComb j s p, codeOp .lteComb),
   (Instr.polarDecode, 5, 1, bkSize, fun j _ p => bkCheck .polarDec j p, done (bkOp .polarDec)),
   (Instr.polarEncode, 6, 1, bkSize, fun j _ p => bkCheck .polarEnc j p, done (bkOp .polarEnc)),
   (Instr.tbccDecode, 8, 1, bkSize, fun j _ p => bkCheck .tbcc j p, done (bkOp .tbcc))]

/-- The rows of the fixed-function engines (R213 to R215, R228, R233, R239, R240, R243, R252, R261, R276, R277): an engine without such a task
lets only time pass; a task runs its operation and the engine's work ends with its status, the checks failing in their order with nothing
written; with a revoke or skip pending the operation ends at a unit boundary (how many units come before is free, log entry 31). -/
def Obligations.EngineTasks : Prop :=
  (∀ r ∈ engOps, ∀ (t e : Nat) (s : State),
    let s₁ := s.advance t
    let op := r.2.2.2.2.2
    (s₁.job e r.2.1 r.2.2.1 = none → exec (r.1 t e) s = .next s₁)
    ∧ (∀ j st, s₁.job e r.2.1 r.2.2.1 = some j → j.task.leave = .no → (op j s₁).2 = some st → st ≠ .revoked →
        exec (r.1 t e) s = .next ((op j s₁).1.endWork e st))
    ∧ (∀ j, s₁.job e r.2.1 r.2.2.1 = some j → j.task.leave = .no → (op j s₁).2 = none → exec (r.1 t e) s = .next (op j s₁).1)
    ∧ (∀ j st, s₁.job e r.2.1 r.2.2.1 = some j → j.task.leave ≠ .no →
        let y := op { j with quota := some s₁.draw.1 } s₁.draw.2
        y.2 = some st → exec (r.1 t e) s = .next (if st = .revoked then y.1.yieldAt e else y.1.endWork e st)))
  ∧ (∀ r ∈ engOps, ∀ (j : Job) (s : State), (s.eng j.e).prog = none →
    let op := r.2.2.2.2.2
    let a := j.task.param.addr
    let n := r.2.2.2.1 (j.bytes s a 64)
    let u := (s.clockFor a).logRead j.who a n
    (a % 64 ≠ 0 → op j s = (s, some .busError))
    ∧ (∀ st, a % 64 = 0 → s.access j.who a n false = st → st ≠ .success → st ≠ .notReady → s.retiredIn a n = false → op j s = (s, some st))
    ∧ (∀ st, a % 64 = 0 → s.access j.who a n false = .success → j.bad u a n = false → st ≠ .notReady →
        r.2.2.2.2.1 j u (j.bytes u a n) = some st → op j s = (u, some st)))
  -- units of work: before the boundary they count down, at it the operation ends, and without one they are all done
  ∧ (∀ x : Work, x.stop = none →
      (x.quota = none → x.unit = x) ∧ (x.quota = some 0 → x.unit = { x with stop := some .revoked })
      ∧ ∀ n, x.quota = some (n + 1) → x.unit = { x with quota := some n })
  -- a run-ahead task waits only for a code block whose soft values its counter has not reached, and yields at each read of it
  ∧ (∀ (k : CodeKind) (j : Job) (p : List Byte) (n : Nat) (y : RxRun) (i : Nat), y.wait = false → (nrStep k j p (some n) y i).wait = true →
      let t := nrTb (hdrTb p i)
      ∃ r, n < ((List.range i).map fun i => (nrTb (hdrTb p i)).g).sum + llrOffset (t.derive.getD []) (r + 1))
  ∧ (∀ (k : CodeKind) (j : Job) (p : List Byte) (y : RxRun) (i : Nat), y.wait = false → (nrStep k j p none y i).wait = false)
  ∧ (∀ (t e : Nat) (s : State),
      let s₁ := s.advance t
      (s₁.waiting? e = none → exec (.runAheadPoll t e) s = .next s₁)
      ∧ ∀ j k, s₁.waiting? e = some (j, k) →
        exec (.runAheadPoll t e) s = .next ((if j.task.leave = .no then s₁.yieldAt e else s₁).runCode j k))

/-- BFP16 and solver arithmetic (R210 to R212, R217, R218): the exponent and the parts of a sum, NORMALISE, a covariance element, and the
24-bit numbers of the solver. -/
def Obligations.MatrixArithmetic : Prop :=
  -- a sum: the largest exponent of its products, and the floored parts added, none above 2^47 - 1
  (∀ (l : List Elt) (a : Elt), let x := a :: l
    let r := sumElts x
    (∀ p ∈ x, p.ex ≤ r.1.ex) ∧ (∃ p ∈ x, p.ex = r.1.ex) ∧ (r.1.bad = true ↔ ∃ p ∈ x, p.bad = true)
      ∧ (r.2 = false → r.1.re = (x.map fun p => p.re / 2 ^ (r.1.ex - p.ex).toNat).sum ∧ r.1.im = (x.map fun p => p.im / 2 ^ (r.1.ex - p.ex).toNat).sum)
      ∧ r.1.re < 2 ^ 47 ∧ r.1.im < 2 ^ 47)
  -- NORMALISE: E in its range, every mantissa in 16 bits, the smallest shift that fits
  ∧ (∀ (g : List Part) (a : Part), (∀ p ∈ a :: g, -(2 ^ 100) ≤ p.1 ∧ p.1 < 2 ^ 100) →
      let n := normalise (a :: g)
      let emax := ((a :: g).map Prod.snd).foldl max a.2
      let ys := (a :: g).map fun p => p.1 / (2 : Int) ^ (emax - p.2).toNat
      n.1.length = g.length + 1 ∧ -16 ≤ n.2.1 ∧ n.2.1 ≤ 15 ∧ (∀ m ∈ n.1, -32768 ≤ m ∧ m ≤ 32767)
        ∧ (n.2.2.1 = false → n.1 = ys.map fun y => y / (2 : Int) ^ (n.2.1 - emax).toNat)
        ∧ (n.2.2 = (false, false) → emax < n.2.1 → ∃ y ∈ ys, y / (2 : Int) ^ (n.2.1 - emax - 1).toNat < -32768 ∨ 32767 < y / (2 : Int) ^ (n.2.1 - emax - 1).toNat)
        ∧ (n.2.2.1 = true → n.2.1 = 15) ∧ (n.2.2.2 = true → n.2.1 = -16))
  -- GRAM: below the diagonal the exact conjugate, on it an imaginary part of exactly 0
  ∧ (∀ (f : Nat → Nat → Elt) (n r c : Nat), r < c → (gramElt f n c r).1 = (gramElt f n r c).1.conj)
  ∧ (∀ (f : Nat → Nat → Elt) (n r : Nat), (gramElt f n r r).1.im = 0)
  -- the solver's numbers
  ∧ (∀ x e : Int, x ≠ 0 →
      let a := snNorm x e
      let k := a.e - e
      (-(2 ^ 23) ≤ a.m ∧ a.m < 2 ^ 23) ∧ a.m = shiftBy x k ∧ (shiftBy x (k - 1) < -(2 ^ 23) ∨ 2 ^ 23 ≤ shiftBy x (k - 1)))
  ∧ (∀ a b : Machine.SNum, a.m ≠ 0 → b.m ≠ 0 → a.mul b = snNorm (a.m * b.m) (a.e + b.e) ∧ (⟨0, a.e⟩ : Machine.SNum).add b = b ∧ a.add ⟨0, b.e⟩ = a)

/-- The transforms keep the tolerances of R238: an IFFT part lies within 2 of the floored and saturated reference, an FFT mantissa within 2
of the reference scaled to its exponent. -/
def Obligations.TransformTolerances : Prop :=
  (∀ (v : Int) (sh : Nat) (x : XfWork),
    let r := ifftPart v sh x
    let ref := max (-32768) (min 32767 (floorFix v (272 + sh)))
    (r.1 - ref).natAbs ≤ 2 ∧ -32768 ≤ r.1 ∧ r.1 ≤ 32767 ∧ r.2.sat = x.sat + (if ref = floorFix v (272 + sh) then 0 else 1) ∧ r.2.w.s.mem = x.w.s.mem)
  ∧ (∀ (v : Int) (e : Nat) (s : State),
      let m := (fftPart v e s).1
      let lo := floorFix v (256 + e)
      (-32768 ≤ m ∧ m ≤ 32767) ∧ (m = -32768 ∨ m = 32767 ∨ (lo - (if exactFix v (256 + e) then 2 else 1) ≤ m ∧ m ≤ lo + 2)) ∧ (fftPart v e s).2.mem = s.mem)

/-- IQ compression on the line (R247, R249): unpacking a compressed PRB gives back its exponent and its 24 parts, for every width, exponent
and parts that the width holds; compression uses the smallest exponent, at most 16 − W. -/
def Obligations.CompressionRoundTrip : Prop :=
  ∀ w ∈ [8, 9, 12, 14, 16],
    (∀ (e : Nat) (ms : List Int), e < 16 → (w = 16 → e = 0) → ms.length = 24 → (∀ m ∈ ms, -(2 ^ (w - 1)) ≤ m ∧ m < 2 ^ (w - 1)) →
      (prbLine w e ms).length = prbBytes w ∧ prbParts w (prbLine w e ms) = (e, ms))
    ∧ ∀ ts : List Int, (∀ t ∈ ts, -32768 ≤ t ∧ t ≤ 32767) →
        let e := lineExp w ts
        e ≤ 16 - w ∧ (∀ t ∈ ts, -(2 ^ (w - 1)) ≤ t / 2 ^ e ∧ t / 2 ^ e < 2 ^ (w - 1))
          ∧ ∀ k < e, ∃ t ∈ ts, t / 2 ^ k < -(2 ^ (w - 1)) ∨ 2 ^ (w - 1) ≤ t / 2 ^ k

/-- Soft values and their storage (R253, R255, R258, R264, R265): combining saturates, a stored record reads back as its truncated values,
and data followed by its CRC checks. -/
def Obligations.SoftValues : Prop :=
  (∀ b : Byte, -31 ≤ llrOf b ∧ llrOf b ≤ 31 ∧ (b.toInt.natAbs ≤ 31 → llrOf b = b.toInt))
  ∧ (∀ (b : CodeBlock) (st : List Int) (val : Nat → Int), (∀ l ∈ st, -31 ≤ l ∧ l ≤ 31) →
      (combine b st val).length = st.length ∧ ∀ l ∈ combine b st val, -31 ≤ l ∧ l ≤ 31)
  ∧ (∀ (b : CodeBlock) (buf : List Int), buf.length = b.ncb → b.ncb < 2 ^ 32 → (∀ l ∈ buf, -31 ≤ l ∧ l ≤ 31) →
      let rec_ := recOf b buf
      let vs := recValues rec_ b.ncb
      let sh := fld rec_ 4 1
      rec_.length % 64 = 0 ∧ fld rec_ 0 4 = b.ncb ∧ sh ≤ 2 ∧ vs.length = b.ncb
        ∧ ∀ i < b.ncb, vs.getD i 0 = if b.filler.contains i then 0 else (buf.getD i 0).sign * ((buf.getD i 0).natAbs / 2 ^ sh * 2 ^ sh : Nat))
  ∧ (∀ c ∈ [1, 2, 3, 4, 5, 6, 7], ∀ (g : Nat × Nat) (bs : List Bool), crcCode c = some g → crcOk g (bs ++ crcBits g bs) = true)
/-! ## Serial lanes and peer ports (chapter 10) -/

/-- The receiver's events (R287 to R299, Table 10-3, Table 10-4): each takes a lane or peer port that is powered from its stage to the next, back
to the stage of a loss, or into the hold before a restart. -/
def Obligations.LaneEvents : Prop :=
  ∀ (t n k : Nat) (s : State),
    let s₁ := s.advance t
    let l := s₁.lane n
    let pr := isPeer n
    s₁.laneLive n = true →
    -- LOS and LOL: raw states, set and cleared by what the receiver measures; past stage 2 they restart it from stage 1 and from stage 2
    (∀ mv ns, l.los.testBit k = false → mv < l.cfg.losMv → 1000 < ns →
      let u := (s₁.modLane n fun l => { l with los := l.los ||| 1 <<< k, losCount := sat32 (l.losCount + 1) }).noteLane n
      exec (.losSet t n ⟨k, mv, ns⟩) s = .next (if l.past pr k 2 then u.restart1 n 1 else u))
    ∧ (∀ mv ns, l.cfg.losMv ≤ mv ∨ ns ≤ 1000 → exec (.losSet t n ⟨k, mv, ns⟩) s = .next s₁)
    ∧ (∀ mv ns, l.los.testBit k = true → l.cfg.losMv + 20 < mv → 1000 ≤ ns → exec (.losClear t n ⟨k, mv, ns⟩) s = .next ((s₁.modLane n fun l => { l with los := l.los - 1 <<< k }).laneSettle n))
    ∧ (∀ off ns sat, l.lol.testBit k = false → (30000 < Int.natAbs off ∧ 10000 ≤ ns) ∨ 1000 ≤ sat →
      let u := s₁.modLane n fun l => { l with lol := l.lol ||| 1 <<< k, lolCount := sat32 (l.lolCount + 1) }
      exec (.lolSet t n ⟨k, off, ns, sat⟩) s = .next (if l.past pr k 2 then u.restartFrom n k 2 2 else u))
    ∧ (∀ off ns, l.lol.testBit k = true → Int.natAbs off ≤ 20000 → 10000 ≤ ns → exec (.lolClear t n ⟨k, off, ns, 0⟩) s = .next (s₁.modLane n fun l => { l with lol := l.lol - 1 <<< k }))
    ∧ (∀ c, l.past pr k 4 = true →
      let u := s₁.modLane n fun l => { l with hdrErr := sat32 (l.hdrErr + c) }
      exec (.syncHeaderLoss t n k c) s = .next (if c < 16 then u else u.restartFrom n k 4 3))
    -- stages 2 to 5 of one physical lane
    ∧ (∀ f, s₁.inStage n k 2 = true → l.lol.testBit k = false →
      (pr = true → l.lol.testBit 16 = false) → (pr = false → l.lolOff.getD k 0 + usToFrc 10 ≤ s₁.time.frc) → exec (.lockComplete t n k f) s
      = .next ((s₁.modLane n fun l => { l.toStage pr k 3 with freq := unsgn 16 f }).laneSettle n))
    ∧ (∀ to_ taps, s₁.inStage n k 3 = true →
      (l.good ≤ l.eqis.getD k 0 → l.goodAt.getD k 0 + msToFrc 1 ≤ s₁.time.frc → exec (.adaptationComplete t n k to_ taps) s = .next ((s₁.adapted n k taps).laneSettle n))
      ∧ (l.eqis.getD k 0 < l.good → l.floor ≤ l.eqis.getD k 0 → to_ = true →
          l.began pr k + msToFrc (if pr then 5 else 20) ≤ s₁.time.frc → exec (.adaptationComplete t n k to_ taps) s
          = .next (((s₁.adapted n k taps).postLane n 0x0403 1 (n + 65536 * l.eqis.getD k 0)).laneSettle n))
      ∧ (l.eqis.getD k 0 < l.good → l.eqis.getD k 0 < l.floor → to_ = true →
          l.began pr k + msToFrc (if pr then 5 else 20) ≤ s₁.time.frc → exec (.adaptationComplete t n k to_ taps) s = .next (s₁.bringupFail n 3)))
    ∧ (∀ inv, s₁.inStage n k 4 = true → exec (.blockLock t n k inv) s = .next ((s₁.modLane n fun l =>
        let l := l.toStage pr k 5
        if pam4 l.cfg.rate && l.cfg.polMode = 0 then l.setInv k inv else l).laneSettle n))
    -- 64 blocks show the polarity (R291): all data blocks whose inverse is a training block, or all training blocks
    ∧ (∀ inv bs, s₁.inStage n k 5 = true → l.cfg.mode ≠ 2 → bs.length = 64 →
        (∀ b ∈ bs, if inv then b.1 = false ∧ trainingOk true (b.2.map fun x => ~~~x) = true else trainingOk b.1 b.2 = true) →
        exec (.polarityDetect t n k bs) s = .next ((s₁.modLane n fun l => (l.toStage pr k 6).setInv k inv).laneSettle n))
    -- stages 6 and 7 of the port: every logical number exactly once; a spread of at most 128 UI
    ∧ (∀ nums, pr = true → l.holding = false → l.stage = 6 → l.subDone = true → isPerm16 nums = true → exec (.laneOrder t n nums) s
      = .next ((s₁.modLane n fun l => { l with stage := 7, map := (List.range 16).map fun i => nums.findIdx (· == i) }).laneSettle n))
    ∧ (∀ nums, pr = true → isPerm16 nums = false → exec (.laneOrder t n nums) s = .next s₁)
    ∧ (∀ nums, pr = false → s₁.inStage n 0 6 = true → s₁.multiLane n = true → exec (.laneOrder t n nums) s
      = .next ((s₁.modLane n fun l => { l with stage := 7 }).laneSettle n))
    ∧ (∀ arr : List Nat, pr = true → s₁.inStage n 0 7 = true → arr.length = 16 →
      let hi := arr.foldl max 0
      exec (.deskew t n arr) s = .next (if hi - arr.foldl min hi ≤ 128
        then (s₁.modLane n fun l => { l with stage := 8, skew := arr.map fun a => hi - a }).laneSettle n else s₁))
    -- stage 8: the handshake of R288, training blocks
    ∧ (l.holding = false → l.cfg.txEn = true → l.farReady = true → l.cfg.mode = 1 ∨ l.cfg.mode = 4 → l.stage = 8 ∨ l.stage = 9 →
      let u := s₁.modLane n fun l => { l with traffic := true }
      exec (.handshake t n) s = .next ((if pr && l.stage == 8 then u.laneUp n else u).settleTx n))
    ∧ (∀ b : List Byte, l.cfg.noHs = false → l.cfg.mode = 1 ∨ l.cfg.mode = 4 → 5 ≤ l.report pr → l.stage ≠ 14 → b.length = 8 → fld b 0 1 = 0xB4 →
        fld b 7 1 = 255 - ((b.take 7).foldl (fun x c => x ^^^ c.toNat) 0) → fld b 2 1 % 2 = 1 →
        exec (.trainingBlockRx t n true b) s
          = .next (s₁.modLane n fun l => { l with
              farReady := true, farDevice := fld b 4 2 % 1024, farPort := fld b 6 1, marker := if pr then some s₁.time.frc else l.marker }))
    ∧ (∀ b : List Byte, fld b 7 1 ≠ 255 - ((b.take 7).foldl (fun x c => x ^^^ c.toNat) 0) ∨ fld b 0 1 ≠ 0xB4 → ∀ ctl, exec (.trainingBlockRx t n ctl b) s = .next s₁)
    -- time-outs, the end of the hold, EQI, Ethernet's PCS
    ∧ (l.holding = false → l.stage ≠ 14 → hasTimeout pr (l.report pr) = true → l.overdue pr (l.report pr) s₁.time.frc = true →
      (l.report pr = 3 → l.aboveFloor pr = false) →
      exec (.bringupTimeout t n) s = .next (s₁.bringupFail n (l.report pr)))
    ∧ (l.holding = true → exec (.bringupRestart t n) s = .next (if l.holdAt + msToFrc 1 ≤ s₁.time.frc then s₁.restart1 n 5 else s₁))
    -- EQI: the largest n up to 255 with 10^(n/80) ≤ d² / mean(e²), once per millisecond
    ∧ (∀ d e, l.cfg.mode ≠ 0 → l.eqiAt.getD k 0 = 0 ∨ l.eqiAt.getD k 0 + msToFrc 1 ≤ s₁.time.frc →
      let q := eqiOf ⟨d, e⟩
      exec (.eqiUpdate t n k ⟨d, e⟩) s = .next (s₁.modLane n fun l => { l with
        eqis := l.eqis.set k q, eqiAt := l.eqiAt.set k s₁.time.frc
        goodAt := if l.good ≤ q && l.eqis.getD k 0 < l.good then l.goodAt.set k s₁.time.frc else l.goodAt }))
    ∧ (∀ d e, 0 < (e.map fun x => Int.natAbs x ^ 2).sum →
      let q := eqiOf ⟨d, e⟩
      let num := Int.natAbs d ^ 2 * e.length
      let den := (e.map fun x => Int.natAbs x ^ 2).sum
      q ≤ 255 ∧ (q = 0 ∨ 10 ^ q * den ^ 80 ≤ num ^ 80) ∧ (q = 255 ∨ num ^ 80 < 10 ^ (q + 1) * den ^ 80))
    ∧ (s₁.lanePort n = none → l.stage = 8 → l.cfg.mode = 2 → exec (.pcsUp t n) s = .next (s₁.laneUp n))
    -- a checker of R299 locks on 64 bits that follow the sequence, and hunts again after 64 errors within 1,024 bits
    ∧ (∀ bits, l.chk ≠ 0 → l.stage = 14 → k < (if pr then 16 else 1) → prbsClean l.chk l.invert bits = true →
      exec (.prbsCheckerLock t ⟨n, k, bits⟩) s = .next ((s₁.readPrbs n).modLane n fun l => { l with prbsLock := l.prbsLock ||| 1 <<< k }))
    ∧ (∀ bits, l.chk ≠ 0 → l.stage = 14 → k < (if pr then 16 else 1) → l.prbsLock.testBit k = true → bits.length ≤ 1024 → 64 ≤ bits.count true →
      exec (.prbsCheckerRelock t ⟨n, k, bits⟩) s = .next ((s₁.readPrbs n).modLane n fun l => { l with prbsLock := l.prbsLock - 1 <<< k }))

/-- LANE_CONFIG, LANE_STATUS and LOOPBACK_SET (R280, R282, R300 to R305). -/
def Obligations.LaneCommands : Prop :=
  ∀ (c : CmdRef) (s : State) (fl : Flight),
    let s₁ := s.advance c.t
    let p := fl.params c.buf
    let n := fld p 0 2
    let l := s₁.lane n
    let cfg := laneCfgOf p
    let changes := l.cfg.mode != cfg.mode || l.cfg.rate != cfg.rate || l.cfg.rxEn != cfg.rxEn
    let cut := l.cfg.mode != cfg.mode || l.cfg.rate != cfg.rate || (l.cfg.txEn && !cfg.txEn) || (l.cfg.rxEn && !cfg.rxEn)
    (Ready layLaneConfig c s fl → s₁.mayLane fl.fn n = false → exec (.laneConfig c) s = .next (s₁.complete fl 0x0401 (.bare .notPermitted)))
    ∧ (Ready layLaneConfig c s fl → cut = true → (if isPeer n then s₁.portEnabled (n - 256) else s₁.laneServes n) = true →
        exec (.laneConfig c) s = .next (s₁.complete fl 0x0401 (.bare .notPermitted)))
    ∧ (Ready layLaneConfig c s fl → s₁.mayLane fl.fn n = true → (if isPeer n then s₁.portEnabled (n - 256) else s₁.laneServes n) = false →
        isPeer n = false → s₁.pllClash n cfg.rate = true → exec (.laneConfig c) s = .next (s₁.complete fl 0x0401 (.bare .noResource)))
    -- transmit fields and thresholds alone: at once, without a restart
    ∧ (Ready layLaneConfig c s fl → s₁.mayLane fl.fn n = true → changes = false → cut = false → (!isPeer n && s₁.pllClash n cfg.rate) = false →
        exec (.laneConfig c) s = .next (((s₁.modLane n fun l => { l with
          cfg := cfg, traffic := if cfg.noHs then cfg.txEn else l.traffic && cfg.txEn }).settleTx n).complete fl 0x0401 (.ok [])))
    -- MODE or RATE changes: the lane goes down and restarts from stage 1 unless it is in TEST
    ∧ (Ready layLaneConfig c s fl → s₁.mayLane fl.fn n = true → (if isPeer n then s₁.portEnabled (n - 256) else s₁.laneServes n) = false →
        (!isPeer n && s₁.pllClash n cfg.rate) = false → l.cfg.mode ≠ cfg.mode →
        let u := s₁.modLane n fun l => { l with cfg := cfg, traffic := cfg.noHs && cfg.txEn, everUp := false }
        let u := if isPeer n then u else u.modTlf n fun t => { t with tx := none, rxSlots := [], farAps := none }
        let u := if (u.lane n).stage = 14 then u.settleTx n else u.restart1 n 5
        exec (.laneConfig c) s = .next (u.complete fl 0x0401 (.ok [])))
    -- LANE_STATUS
    ∧ (Ready layLaneStatus c s fl → s₁.mayLane fl.fn n = false → exec (.laneStatus c) s = .next (s₁.complete fl 0x0402 (.bare .notPermitted)))
    ∧ (Ready layLaneStatus c s fl → s₁.mayLane fl.fn n = true →
        let u := s₁.readPrbs n
        let v := if bit (fld p 2 1) 0 then u.modLane n fun l =>
          { l with restarts := 0, hdrErr := 0, losCount := 0, lolCount := 0, prbsBits := 0, prbsErrors := 0 } else u
        exec (.laneStatus c) s = .next (v.complete fl 0x0402 (if fld p 8 8 = 0 then .ok ((u.lane n).inline_ (isPeer n))
          else .okBuf (fld p 8 8) ((u.lane n).buffer (isPeer n) u.time.frc))))
    -- LOOPBACK_SET: barred lanes; a test starts; a test ends and the lane restarts
    ∧ (Ready layLoopbackSet c s fl → s₁.mayLane fl.fn n = true → fld p 2 1 ≠ 0 ∨ fld p 3 1 ≠ 0 ∨ fld p 4 1 ≠ 0 → s₁.testBarred n = true →
        exec (.loopbackSet c) s = .next (s₁.complete fl 0x0A08 (.bare .notPermitted)))
    ∧ (Ready layLoopbackSet c s fl → s₁.mayLane fl.fn n = true → fld p 2 1 ≠ 0 ∨ fld p 3 1 ≠ 0 ∨ fld p 4 1 ≠ 0 → s₁.testBarred n = false →
        l.loop ≠ fld p 2 1 → bit (fld p 5 1) 2 = false →
        let u := (((s₁.readPrbs n).laneDown n 5).modLane n fun l => { l with
          loop := fld p 2 1, gen := fld p 3 1, chk := fld p 4 1, invert := bit (fld p 5 1) 0, txKeep := bit (fld p 5 1) 1
          stage := 14, holding := false, prbsLock := 0 }).losesFrame n
        let u := (u.testMember n true).settleTx n
        let u := if bit (fld p 5 1) 3 && fld p 3 1 != 0 then u.emit (.inject n) else u
        exec (.loopbackSet c) s = .next (u.complete fl 0x0A08 (.ok ((u.lane n).inline_ (isPeer n)))))
    ∧ (Ready layLoopbackSet c s fl → s₁.mayLane fl.fn n = true → fld p 2 1 = 0 → fld p 3 1 = 0 → fld p 4 1 = 0 → l.stage = 14 → l.loop ≠ 0 →
        bit (fld p 5 1) 2 = false →
        let u := (s₁.readPrbs n).modLane n fun l => { l with
          loop := 0, gen := 0, chk := 0, invert := bit (fld p 5 1) 0, txKeep := bit (fld p 5 1) 1, stage := 0, holding := false, prbsLock := 0 }
        let u := ((u.testMember n false).restart1 n 5).settleTx n
        exec (.loopbackSet c) s = .next (u.complete fl 0x0A08 (.ok ((u.lane n).inline_ (isPeer n)))))
/-! ## Tvednas line format (chapter 11) -/

/-- Blocks of a frame (R286, R308, R309, R311, R312, R314, Table 11-1): scrambling is undone, CHECK holds on what is sent, one wrong bit changes
one bit of BIP16, a trail's payload comes back from its slots, a frame is N + J blocks long. -/
def Obligations.TlfBlocks : Prop :=
  (∀ (bs : List Nat) (st : Nat), (∀ b ∈ bs, b < 2 ^ 65) →
    scrBlocks true (scrBlocks false bs st).1 st = (bs, (scrBlocks false bs st).2))
  ∧ (∀ b : List Byte, blkOk (chkBlk b) = true ∧ (blkBytes (chkBlk b)).take 7 = fit 7 b)
  ∧ (∀ (b c : List Byte) (i : Nat) (front back : List Nat), front.length = i → back.length = 63 → i < 64 →
      overBlk (front ++ chkBlk b :: back) i = some (blkBytes (chkBlk b))
      ∧ ∀ bad : Nat, blkOk bad = false → overBlk (front ++ bad :: (back ++ chkBlk c :: [])) i = some (blkBytes (chkBlk c)))
  ∧ (∀ (l r : List Nat) (b i : Nat), i < 64 → bip16 (l ++ (b ^^^ 2 ^ i) :: r) = bip16 (l ++ b :: r) ^^^ 2 ^ (i % 16))
  ∧ (∀ (n : Nat) (p : List Byte), p.length = 512 * n →
      slotPayload ((List.range n).map fun i => (List.range 64).map fun r => payloadBlk p n i r) = p)
  ∧ (∀ (s : State) (n : Nat) (page : Tab Nat) (tx : TlfTx) (j : Int) (mcs : List (List Byte)), (s.lane n).cfg.rate ∈ [1, 2, 3] → -8 ≤ j → j ≤ 8 →
      let rate := (s.lane n).cfg.rate
      ((s.txOverhead n page tx j mcs).length : Int) + 64 * tlfSlots rate = tlfBlocks rate + j)
  ∧ (∀ (rate : Nat) (own blocks : List Nat), own.length = 3 → 128 ≤ blocks.length →
      (withOwn rate own blocks).length = blocks.length ∧ ∀ i, ((withOwn rate own blocks).getD i 0 =
        if 2 ≤ i ∧ i < 5 then own.getD (i - 2) 0 else if rate = 3 ∧ 66 ≤ i ∧ i < 69 then own.getD (i - 66) 0 else blocks.getD i 0))

/-- Performance monitoring (R336, R337): a second of an object monitored without a break, inside its bins. -/
def Obligations.Monitoring : Prop :=
  ∀ (p : Pm) (sec : Nat) (es ses : Bool), p.cur.start = sec → p.quarter.start / 900 = sec / 900 → p.day.start / 86400 = sec / 86400 →
    (sec + 1) % 900 ≠ 0 → (∀ x ∈ p.hist, x.sec < sec ∧ x.sec / 900 = sec / 900 ∧ (x.ses = true → x.es = true)) →
    let severe := p.severe || (0 < p.frames && 3 * p.frames ≤ 10 * p.cur.eframes)
    let errored := p.bad || severe
    let u := (p.second sec es ses).1
    -- available: ES and SES count
    (p.unavail = false → (p.hist.length < 9 ∨ severe = false ∨ ∃ x ∈ p.hist.take 9, x.ses = false) →
      u.quarter.es = p.quarter.es + b2n errored ∧ u.quarter.ses = p.quarter.ses + b2n severe ∧ u.quarter.uas = p.quarter.uas ∧ u.unavail = false)
    -- the tenth consecutive SES: the ten become UAS
    ∧ (p.unavail = false → severe = true → 9 ≤ p.hist.length → (∀ x ∈ p.hist.take 9, x.ses = true) → 9 ≤ p.quarter.es → 9 ≤ p.quarter.ses →
      u.quarter.es = p.quarter.es - 9 ∧ u.quarter.ses = p.quarter.ses - 9 ∧ u.quarter.uas = p.quarter.uas + 10 ∧ u.unavail = true)
    -- unavailable: UAS only
    ∧ (p.unavail = true → (p.hist.length < 9 ∨ severe = true ∨ ∃ x ∈ p.hist.take 9, x.ses = true) →
      u.quarter.es = p.quarter.es ∧ u.quarter.ses = p.quarter.ses ∧ u.quarter.uas = p.quarter.uas + 1 ∧ u.unavail = true)
    -- the tenth consecutive second that is not SES: the ten leave UAS, those errored count as ES
    ∧ (p.unavail = true → severe = false → 9 ≤ p.hist.length → (∀ x ∈ p.hist.take 9, x.ses = false) → 9 ≤ p.quarter.uas →
      u.quarter.es = p.quarter.es + ((p.hist.take 9).map fun x => b2n x.es).sum + b2n errored ∧ u.quarter.ses = p.quarter.ses
        ∧ u.quarter.uas = p.quarter.uas - 9 ∧ u.unavail = false)
    ∧ u.frames = 0 ∧ u.bad = es ∧ u.severe = ses ∧ u.cur.start = sec + 1

/-- The framer, frames, defects, protection, page switches and the monitoring second as events (R309 to R338, Tables 11-5 to 11-10). -/
def Obligations.LineEvents : Prop :=
  ∀ (t n : Nat) (s : State),
    let s₁ := s.advance t
    let l := s₁.lane n
    let x := s₁.tlf n
    let f := x.framer
    let len := tlfBlocks l.cfg.rate
    let framed (g : Framer) := (s₁.modTlf n fun y => { y with framer := g, bip := if g.sync && f.sync then y.bip else none }).noteLane n
    (s₁.laneLive n = true → s₁.isTlf n = true → l.stage = 8 → f.sync = false →
      (∀ pos fn j, f.cands.find? (fun c => c.pos == pos) = none → f.cands.length < 4 →
        exec (.fawRx t n pos true fn j true) s = .next (framed { f with cands := f.cands ++ [⟨((pos : Int) + len + j).toNat, fn, 1⟩] }))
      ∧ (∀ pos fn j c, f.cands.find? (fun c => c.pos == pos) = some c → fn = (c.fn + 1) % 80 → c.sightings = 2 →
        exec (.fawRx t n pos true fn j true) s = .next ((framed ⟨true, [], ((pos : Int) + len + j).toNat, fn, j, 0⟩).laneUp n))
      ∧ (∀ pos fn j chk c, f.cands.find? (fun c => c.pos == pos) = some c →
        exec (.fawRx t n pos false fn j chk) s = .next (framed { f with cands := f.cands.filter fun d => d.pos != pos })))
    ∧ (s₁.laneLive n = true → s₁.isTlf n = true → l.stage = 9 → f.sync = true →
      (∀ pos exact fn j chk, pos ≠ f.pos → exec (.fawRx t n pos exact fn j chk) s = .next s₁)
      ∧ (∀ fn j, exec (.fawRx t n f.pos true fn j true) s = .next (framed { f with pos := ((f.pos : Int) + len + j).toNat, fn := fn, just := j, errs := 0 }))
      ∧ (∀ fn j, f.errs < 3 → exec (.fawRx t n f.pos false fn j false) s
          = .next (framed { f with pos := ((f.pos : Int) + len + f.just).toNat, fn := (f.fn + 1) % 80, errs := f.errs + 1 }))
      ∧ (∀ fn j, f.errs = 3 → exec (.fawRx t n f.pos false fn j false) s
          = .next (((framed { Framer.reset with just := f.just }).laneDown n 0).modLane n fun l => { l with stage := 8 })))
    -- a frame received in SYNC
    ∧ (∀ line, s₁.laneLive n = true → s₁.isTlf n = true → l.stage = 9 → f.sync = true →
      let d := scrBlocks true line x.rxScr
      let u := s₁.rxOverhead t n line d.1 d.2
      let v := if x.mc then u.ringPut x.mcRx (mcOf l.cfg.rate d.1) else u
      (u.tlf n).bip = some (bip16 line) ∧ (u.tlf n).rxCount = x.rxCount + 1
        ∧ (∀ b, x.bip = some b → (u.tlf n).rei = ones16 (b ^^^ fld (blkBytes ((d.1.take (tlfOver l.cfg.rate)).getD 2 0)) 0 2))
        ∧ exec (.tlfFrameRx t n line) s = .next (((v.trailsOf n).foldl (fun s id => s.rxTrail id (s.tlf n).rxFn n (s.tlf n).rxSlots) v).rxGroup n))
    -- a frame sent; a protection lane sends its working lane's content with it; a member in test sends unequipped slots
    ∧ (s₁.txRuns n = true → s₁.pow.mode ≠ .fault →
      (x.mc = false →
        let u := (s₁.takeInputs n x.active).txTrails ((s₁.txStart n).next3 / 3) (pageTrails x.active)
        let v := u.2.sendFrame n x.active u.1 [[], []]
        (s₁.laneGroup n = none → exec (.tlfFrameTx t n) s = .next v)
        ∧ (∀ k g, s₁.laneGroup n = some (k, g) → g.work = n → g.prot ≠ n → l.stage ≠ 14 →
          exec (.tlfFrameTx t n) s = .next (if v.bridged g.prot then
              v.sendCopy u.2 n g.prot (u.2.frameBlocks n x.active u.1 [[], []]) else v)))
      ∧ (∀ k g, s₁.laneGroup n = some (k, g) → g.work = n → l.stage = 14 → exec (.tlfFrameTx t n) s = .next (s₁.sendFrame n [] [] [])))
    -- defects: RDI and the trail defects; LOS, LOF and AIS put the lane in SF; nothing before its time
    ∧ (∀ on, s₁.isTlf n = true → s₁.laneLive n = true → x.blind = false →
      (x.defects.getD 3 Defect.none_).due on (x.times.getD (6 + b2n (!on)) 0) s₁.time.frc = true →
      let u := (s₁.modTlf n fun x => { x with defects := x.defects.modify 3 fun q => { q with set := on } }).postDefect false n 3 on
      exec (if on then .tlfDefectSet t false n 3 else .tlfDefectClear t false n 3) s = .next u)
    ∧ (∀ d < 3, s₁.isTlf n = true → s₁.laneLive n = true → x.blind = false →
      (x.defects.getD d Defect.none_).due true (x.times.getD (2 * d) 0) s₁.time.frc = true →
      let u := s₁.modTlf n fun x => { x with
        defects := x.defects.modify d fun q => { q with set := true }, pm := { x.pm with bad := true, severe := true } }
      let u := (u.trailsOf n).foldl (fun s i => s.modTrail i fun t => { t with pm := { t.pm with bad := true, severe := true } }) u
      exec (.tlfDefectSet t false n d) s = .next ((u.sfChanged n).postDefect false n d true))
    ∧ (∀ d on, (x.defects.getD d Defect.none_).due on (x.times.getD (2 * d + b2n (!on)) 0) s₁.time.frc = false →
      exec (if on then .tlfDefectSet t false n d else .tlfDefectClear t false n d) s = .next s₁)
    ∧ (∀ tr, s₁.line.trails.find? n = some tr → tr.tx = false → (s₁.tlf (s₁.member? tr.lane)).blind = false → s₁.laneLive (s₁.member? tr.lane) = true →
      ∀ d < 2, ∀ on, (tr.defects.getD d Defect.none_).due on (if d = 0 then 5 else (s₁.tlf (s₁.member? tr.lane)).times.getD (if on then 8 else 9) 48)
          s₁.time.frc = true →
        let u := s₁.modTrail n fun t => { t with
          defects := t.defects.modify d fun q => { q with set := on }, pm := { t.pm with bad := t.pm.bad || on, severe := t.pm.severe } }
        exec (if on then .tlfDefectSet t true n d else .tlfDefectClear t true n d) s = .next ((u.putStatus n).postDefect true n d on))
    -- protection
    ∧ (∀ k g since, s₁.laneGroup n = some (k, g) → x.sfSince = some since → x.sf = true → since + msToFrc (100 * g.holdOff) ≤ s₁.time.frc →
      exec (.sfHoldoffExpiry t n) s = .next (s₁.sfRequest n true))
    ∧ (∀ g, s₁.line.groups.find? n = some g →
      (∀ sel code, g.target = some (sel, code) →
        let u := (s₁.dropParts g.work).modLine fun l => { l with groups := l.groups.set n { g with
          sel := sel, target := none, switches := g.switches + 1, wtr := if sel = 0 then none else g.wtr, dnr := sel != 0 && g.dnr } }
        let u := [g.work, g.prot].foldl (fun u m => u.modTlf m fun x => { x with pm := x.pm.bump fun b => { b with events := b.events + 1 } }) u
        exec (.apsSwitched t n) s = .next ((u.postLane g.work 0x0412 1 (g.work + 65536 * sel + 1048576 * code + 16777216 * n)).apsUpdate n))
      ∧ (∀ since, g.wtr = some since → since + msToFrc (1000 * g.wtrS) ≤ s₁.time.frc →
        exec (.wtrExpiry t n) s = .next ((s₁.modLine fun l => { l with groups := l.groups.set n { g with wtr := none } }).apsUpdate n))
      ∧ (g.uni = false → ((s₁.farReq g).any (fun a => !bit a.2.2 2) || g.mismatch.any fun f => f + msToFrc 50 ≤ s₁.time.frc) = true →
        exec (.apsMismatch t n) s = .next (((s₁.modLine fun l => { l with groups := l.groups.set n { g with uni := true } }).postLane
          g.work 0x0413 2 (g.work + 16777216 * n)).apsUpdate n)))
    -- page switches
    ∧ (∀ p, x.pend = some p → fawNominal x.txOffset p.k 0 ≤ s₁.thetaNow → exec (.tsiSwitched t n) s
      = .next ((s₁.modTlf n fun x => { x with active := x.standby, pend := none, copying := some p.cmd, taken := [] }).postLane n 0x0414 0
          (n + 65536 * p.mfn)))
    ∧ (∀ cmd, x.copying = some cmd → exec (.tsiCopyWindowEnd t n) s
      = .next ((s₁.modTlf n fun x => { x with standby := x.active, sealed := false, copying := none }).settleSwitch cmd none))
    -- the monitoring second
    ∧ (let sec := s₁.secAt s₁.time.frc - 1
       let u := (s₁.line.tlf.keys.filter fun n => s₁.isTlf n && s₁.laneLive n).foldl (State.laneSecond sec) s₁
       exec (.pmSecond t) s = .next (u.line.trails.keys.foldl (State.trailSecond sec) u))

/-- TRAIL_CONFIG, the TSI page commands, APS_CONFIG and PM_READ (R333 to R344, Table 11-10). -/
def Obligations.LineCommands : Prop :=
  ∀ (c : CmdRef) (s : State) (fl : Flight),
    let s₁ := s.advance c.t
    let p := fl.params c.buf
    let mask := maskLanes p
    let own := mask.all (fun n => s₁.ownsLane fl.fn n && s₁.isTlf n)
    let x := s₁.tlf (fld p 0 2)
    -- TRAIL_CONFIG: delete, a new receive trail, lane times, thresholds
    (Ready layTrailConfig c s fl → fld p 0 1 = 0 → fld p 1 1 = 0 → s₁.ownsTrail fl.fn (fld p 2 2) = true →
      (∀ tr, s₁.line.trails.find? (fld p 2 2) = some tr → s₁.trailInUse (fld p 2 2) tr = true →
        exec (.trailConfig c) s = .next (s₁.complete fl 0x0403 (.bare .notPermitted)))
      ∧ ((s₁.line.trails.find? (fld p 2 2)).any (fun tr => s₁.trailInUse (fld p 2 2) tr) = false →
        exec (.trailConfig c) s = .next ((s₁.modLine fun l => { l with trails := l.trails.del (fld p 2 2) }).complete fl 0x0403 (.ok []))))
    ∧ (Ready layTrailConfig c s fl → fld p 0 1 = 0 → fld p 1 1 = 1 → fld p 6 1 = 0 → 0x80 ≤ fld p 7 1 → s₁.line.trails.find? (fld p 2 2) = none →
      s₁.ownsTrail fl.fn (fld p 2 2) = true → fld p 4 2 ≤ 127 → s₁.ownsLane fl.fn (fld p 4 2) = true → s₁.isTlf (fld p 4 2) = true →
      s₁.isProt (fld p 4 2) = false → fld p 8 2 + fld p 10 2 ≤ s₁.slotsOf (fld p 4 2) →
      (s₁.line.trails.some? fun i o => i != fld p 2 2 && !o.tx && o.lane == fld p 4 2 && overlaps (fld p 8 2) (fld p 10 2) o.first o.count) = false →
      exec (.trailConfig c) s = .next ((s₁.modLine fun l => { l with
        trails := l.trails.set (fld p 2 2) { trailOf p with pm := Pm.reset.startAt (s₁.secAt s₁.time.frc) } }).complete fl 0x0403 (.ok [])))
    ∧ (Ready layTrailConfig c s fl → fld p 0 1 = 1 → fld p 1 1 = 1 → s₁.isTlf (fld p 2 2) = true → s₁.ownsLane fl.fn (fld p 2 2) = true →
      s₁.isProt (fld p 2 2) = false →
      exec (.trailConfig c) s = .next ((s₁.modTlf (fld p 2 2) fun x => { x with
        txOffset := sfld p 4 4, times := (List.range 10).map fun i => fld p (8 + 2 * i) 2, mc := bit (fld p 28 1) 0
        mcRx := fld p 32 8, mcTx := fld p 40 8 }).complete fl 0x0403 (.ok [])))
    ∧ (Ready layTrailConfig c s fl → fld p 0 1 = 2 → fld p 1 1 = 1 → fld p 4 1 = 1 → s₁.ownsLane fl.fn (fld p 2 2) = true → s₁.isProt (fld p 2 2) = false →
      exec (.trailConfig c) s = .next ((s₁.modTlf (fld p 2 2) fun x => { x with
        pm := { x.pm with th := [fld p 6 2, fld p 8 2, fld p 10 2] } }).complete fl 0x0403 (.ok [])))
    -- the page rules of Table 11-10
    ∧ (Ready layTsiPageWrite c s fl → s₁.isTlf (fld p 0 2) = true → fld p 2 2 + fld p 4 2 ≤ s₁.slotsOf (fld p 0 2) → s₁.ownsLane fl.fn (fld p 0 2) = true →
      ((x.sealed = true ∨ x.pend ≠ none ∨ x.copying ≠ none) → exec (.tsiPageWrite c) s = .next (s₁.complete fl 0x0404 (.bare .pageSealed)))
      ∧ (x.sealed = false → x.pend = none → x.copying = none →
        exec (.tsiPageWrite c) s = .next ((s₁.modTlf (fld p 0 2) fun x => { x with
          standby := (List.range (fld p 4 2)).foldl (fun m k => m.put 0 (fld p 2 2 + k) (fld p (8 + 4 * k) 4)) x.standby }).complete fl 0x0404 (.ok []))))
    ∧ (Ready layTsiPageSeal c s fl →
      (own = false → exec (.tsiPageSeal c) s = .next (s₁.complete fl 0x0405 (.bare .notPermitted)))
      ∧ (own = true → fld p 0 1 = 1 → (∀ n ∈ mask, (s₁.tlf n).sealed = false ∧ (s₁.tlf n).pend = none ∧ (s₁.tlf n).copying = none) →
        (∀ n sl st, s₁.sealFail fl.fn mask = some (n, sl, st) →
          exec (.tsiPageSeal c) s = .next (s₁.complete fl 0x0405 ⟨st, leBytes 2 n ++ leBytes 2 sl, none⟩))
        ∧ (s₁.sealFail fl.fn mask = none → exec (.tsiPageSeal c) s
          = .next ((mask.foldl (fun s n => s.modTlf n fun x => { x with sealed := true }) s₁).complete fl 0x0405 (.ok (leBytes 2 0xFFFF ++ leBytes 2 0)))))
      ∧ (own = true → fld p 0 1 = 0 → (∃ n ∈ mask, (s₁.tlf n).pend ≠ none) →
        exec (.tsiPageSeal c) s = .next (s₁.complete fl 0x0405 (.bare .noResource))))
    ∧ (Ready layTsiPageSwitch c s fl → own = true → fld p 0 1 = 1 →
      ((∃ n ∈ mask, (s₁.tlf n).sealed = false ∨ (s₁.tlf n).copying ≠ none) → exec (.tsiPageSwitch c) s = .next (s₁.complete fl 0x0406 (.bare .pageNotSealed)))
      ∧ ((∀ n ∈ mask, (s₁.tlf n).sealed = true ∧ (s₁.tlf n).copying = none) → (∃ n ∈ mask, (s₁.tlf n).pend ≠ none) →
        exec (.tsiPageSwitch c) s = .next (s₁.complete fl 0x0406 (.bare .noResource)))
      ∧ ((∀ n ∈ mask, (s₁.tlf n).sealed = true ∧ (s₁.tlf n).copying = none ∧ (s₁.tlf n).pend = none) →
        let k := sfnFrom (s₁.thetaNow + 2000000 * nsUnit) (fld p 2 2)
        let frc := s₁.frcOfTheta (fawNominal (s₁.tlf (mask.headD 0)).txOffset k 0)
        exec (.tsiPageSwitch c) s = .next ((mask.foldl (fun s n => s.modTlf n fun x => { x with pend := some ⟨k, fld p 2 2, fl.id⟩ }) s₁).park fl.id
          (.tsiSwitch (maskOf mask) (zeros 8 ++ leBytes 8 frc)))))
    ∧ (Ready layTsiPageSwitch c s fl → own = true → fld p 0 1 = 0 → (∃ n ∈ mask, ∃ q, (s₁.tlf n).pend = some q
        ∧ fawNominal (s₁.tlf n).txOffset q.k 0 < s₁.thetaNow + 1000000 * nsUnit) →
      exec (.tsiPageSwitch c) s = .next (s₁.complete fl 0x0406 (.bare .notPermitted)))
    -- APS_CONFIG
    ∧ (Ready layApsConfig c s fl → fld p 1 1 = 2 → ∀ g, s₁.line.groups.find? (fld p 0 1) = some g → s₁.ownsLane fl.fn g.work = true →
      (fld p 7 1 ≠ 0 → cmdCode (fld p 7 1) < g.localReq → exec (.apsConfig c) s = .next (s₁.complete fl 0x0407 (.bare .notPermitted)))
      ∧ ((fld p 7 1 = 0 ∨ g.localReq ≤ cmdCode (fld p 7 1)) →
        let u := (s₁.modLine fun l => { l with groups := l.groups.set (fld p 0 1) { g with cmd := fld p 7 1 } }).apsUpdate (fld p 0 1)
        exec (.apsConfig c) s = .next (u.complete fl 0x0407 (.ok (u.apsResult (fld p 0 1))))))
    ∧ (Ready layApsConfig c s fl → fld p 1 1 = 0 → ∀ g, s₁.line.groups.find? (fld p 0 1) = some g → s₁.ownsLane fl.fn g.work = true →
        exec (.apsConfig c) s
          = .next (((if g.sel = 0 then s₁ else s₁.dropParts g.work).modLine fun l => { l with groups := l.groups.del (fld p 0 1) }).complete fl 0x0407 (.ok (s₁.apsResult (fld p 0 1)))))
    -- PM_READ of a lane
    ∧ (Ready layPmRead c s fl → fld p 0 1 = 1 →
      (s₁.ownsLane fl.fn (fld p 2 2) = false → exec (.pmRead c) s = .next (s₁.complete fl 0x0408 (.bare .notPermitted)))
      ∧ (s₁.ownsLane fl.fn (fld p 2 2) = true →
        let y := s₁.tlf (fld p 2 2)
        let b := (y.pm.bin (fld p 1 1) (fld p 4 2)).bytes y.pm.unavail y.rtd true
        exec (.pmRead c) s = .next (s₁.complete fl 0x0408 (if fld p 8 8 = 0 then .ok (b.take 16) else .okBuf (fld p 8 8) b))))
/-! ## Ethernet, packet fronthaul and MACsec (chapter 12) -/

/-- The U-plane frames of one symbol (R360, R363): PRBs in order, as many in each frame as fit, none longer than MAX_FRAME. -/
def Obligations.SymbolFrames : Prop :=
  ∀ (x : FhStream) (e : EthPort) (num point fuel seq first : Nat) (prbs : List (List Byte)),
    let head := 16 + 2 * b2n x.compHdr
    let per := min 255 ((e.maxFrame - 22 - head) / prbBytes x.width)
    let skip := (if x.untagged then 14 else 18) + head
    let fs := uplaneFrames x e num point fuel seq first prbs
    (∀ p ∈ prbs, p.length = prbBytes x.width) → 0 < per → prbs.length < fuel →
      fs.length = (prbs.length + per - 1) / per
      ∧ (prbs.length = x.prbCount → fs.length = uplaneCount x e)
      ∧ (∀ f ∈ fs, f.length ≤ e.maxFrame - 4)
      ∧ (fs.flatMap fun f => f.drop skip) = prbs.flatten
      ∧ (∀ i < fs.length, let f := fs.getD i []
          let o := skip - head
          -- eCPRI revision 1, message type 0, payload size; eAxC; sequence count, E with subsequence 0
          befld f o 1 = 0x10 ∧ befld f (o + 1) 1 = 0 ∧ befld f (o + 2) 2 = (f.length - o - 4) % 65536 ∧ befld f (o + 4) 2 = x.eaxc % 65536
            ∧ befld f (o + 6) 1 = (seq + i) % 256 ∧ befld f (o + 7) 1 = 0x80
            -- sectionId, rb 0, symInc 0, startPrbu; numPrbu
            ∧ befld f (o + 12) 3 = (x.section_ * 4096 + first + i * per) % 2 ^ 24
            ∧ befld f (o + 15) 1 = min per (prbs.length - i * per))

/-- Frames received and sent, the host rings, fronthaul and peer transport as events (R350 to R365). -/
def Obligations.EthernetEvents : Prop :=
  ∀ (t n : Nat) (s : State),
    let s₁ := s.advance t
    s₁.stopped = false →
    -- a received frame: FCS, size, MAC control, then rule 1, then rules 2 to 9
    (∀ e f env, s₁.line.ports.find? n = some e → s₁.portRuns n = true →
      let u := (s₁.portCount n 13 env.fecOk).portCount n 14 env.fecBad
      let v := (u.portCount n cRxFrames 1).portCount n cRxBytes (f.length + 4)
      (env.fcsOk = false → exec (.ethFrameRx t n f env) s = .next (u.portCount n cFcs 1))
      ∧ (env.fcsOk = true → (f.length < 60 ∨ e.maxFrame < f.length + 4) → exec (.ethFrameRx t n f env) s = .next (u.portCount n cSize 1))
      ∧ (env.fcsOk = true → 60 ≤ f.length → f.length + 4 ≤ e.maxFrame →
        (befld f 12 2 = 0x8808 → exec (.ethFrameRx t n f env) s = .next (v.portCount n cUnmatched 1))
        ∧ (befld f 12 2 = 0x88E5 → e.macsec = true → exec (.ethFrameRx t n f env) s
            = .next (match v.openFrame n e f with
              | (none, w) => w
              | (some (g, sec), w) => w.classify n e g sec env))
        ∧ (befld f 12 2 = 0x888E → exec (.ethFrameRx t n f env) s = .next (v.toHost n e f false env.desc))
        ∧ (befld f 12 2 ∉ [0x8808, 0x888E] → (e.macsec = false ∨ befld f 12 2 ≠ 0x88E5) →
          (e.validate = 2 → exec (.ethFrameRx t n f env) s = .next (v.portCount n cUnsecured 1))
          ∧ (e.validate ≠ 2 → e.ptpMcast = false → f.take 6 ≠ e.mac → f.take 6 ≠ List.replicate 6 255 →
            exec (.ethFrameRx t n f env) s = .next (v.portCount n cAddr 1))
          ∧ (e.validate ≠ 2 → f.take 6 = e.mac →
            let o := (etherType f).2
            ((etherType f).1 = 0xAEFE → befld f (o + 1) 1 = 0 ∨ befld f (o + 1) 1 = 2 → exec (.ethFrameRx t n f env) s = .next (v.ecpriRx n f o))
            ∧ (e.peer = true → e.etype = 0 → (etherType f).1 = 0x88B5 → exec (.ethFrameRx t n f env) s = .next (v.peerRx f o env))
            ∧ (e.peer = false → (etherType f).1 ≠ 0xAEFE → (isPtp f (etherType f).1 o || e.hostRx) = true →
              exec (.ethFrameRx t n f env) s = .next (v.toHost n e f false env.desc))
            ∧ (e.peer = false → (etherType f).1 ≠ 0xAEFE → (isPtp f (etherType f).1 o || e.hostRx) = false →
              exec (.ethFrameRx t n f env) s = .next (v.portCount n cUnmatched 1))))))
    -- no receive descriptor: dropped and counted; else buffer, descriptor, next index
    ∧ (∀ (e : EthPort) f sec (d : List Byte), (e.rings = false ∨ bit (fld (fit 32 d) 10 2) 0 = false) → s.toHost n e f sec d = s.portCount n cHostDrops 1)
    -- transmit descriptors and frames
    ∧ (∀ e (d : List Byte), (s₁.rxReady n).line.ports.find? n = some e → e.rings = true → e.txEntries ≠ 0 → e.txDesc = none →
        (s₁.rxReady n).portRuns n = true → (s₁.rxReady n).ringOk n (e.txRing + 32 * e.txIdx) 32 false = true →
        (∀ f, e.pollAt = some f → f + usToFrc 10 ≤ (s₁.rxReady n).time.frc) →
        exec (.hostTxPoll t n d) s = .next ((s₁.rxReady n).modPort n fun e => if bit (fld d 10 2) 0
          then { e with txDesc := some (fit 32 d), pollAt := none } else { e with pollAt := some (s₁.rxReady n).time.frc }))
    ∧ (∀ e d (frame : List Byte), s₁.line.ports.find? n = some e → e.txDesc = some d → e.rings = true → s₁.portRuns n = true →
        14 ≤ fld d 8 2 → fld d 8 2 ≤ e.maxFrame - 4 → s₁.ringOk n (fld d 0 8) (fld d 8 2) false = true →
        let at_ := e.txRing + 32 * e.txIdx
        let back (s : State) (flags : Nat) (ts : List Byte) : State :=
          (s.emit (.hostWrite (s.ringFn n at_ 32 false) at_ (descBytes d (fld d 8 2) flags ts) false)).modPort n fun e =>
            { e with txDesc := none, txIdx := (e.txIdx + 1) % e.txEntries }
        (txRefused e (fit (fld d 8 2) frame) = true → exec (.hostTxFrame t n frame false) s
          = .next (back (s₁.portCount n cTxRefused 1) (fld d 10 2 % 8 - fld d 10 2 % 2 + 16) (zeros 8)))
        ∧ (txRefused e (fit (fld d 8 2) frame) = false → bit (fld d 10 2) 2 = false →
          let u := s₁.ethSend n (fit (fld d 8 2) frame)
          exec (.hostTxFrame t n frame false) s = .next (if bit (fld d 10 2) 1 then back u (fld d 10 2 % 8 - fld d 10 2 % 2 + 8) (u.ts32 u.time.frc)
            else back u (fld d 10 2 % 8 - fld d 10 2 % 2) (zeros 8))))
    -- fronthaul transmission: U-plane at TX_ADVANCE_NS before the strobe, C-plane messages in ring order
    ∧ (∀ point x tl, n < 4096 → s₁.line.streams.find? (4096 + n) = some x → s₁.anchor? x.cell = some tl → s₁.line.ports.has x.port = true →
        s₁.l0Runs = true → s₁.cellActs x.cell = true → tpValid tl.num point = true →
        let nom := nominal tl.toff (tpFrame tl s₁.thetaNow point) (symOff tl.num (tpSlot point) (tpSym point))
        let as := (List.range x.prbCount).map fun i => recordAddr x.area x.ring x.prbStride (tpSlot point) (tpSym point) (x.prbFirst + i)
        nom - x.advance * nsUnit ≤ s₁.thetaNow → as.any s₁.lineReady = true →
        ∃ e, s₁.line.ports.find? x.port = some e ∧
          let r := s₁.compressed x.width as
          let u := ((s₁.streamCount (4096 + n) 3 r.2.1).poisonEgress (s₁.cellOwner x.cell) 1 n r.2.2).takeLines as
          exec (.uplaneTx t n point) s = .next ((u.modStream (4096 + n) fun y => { y with txSeq := (y.txSeq + uplaneCount x e) % 256 }).hold
            ⟨4096 + n, point, s₁.frcOfTheta nom, x.txSeq, r.1, []⟩))
    ∧ (∀ x tl, n < 4096 → s₁.line.streams.find? (8192 + n) = some x → s₁.anchor? x.cell = some tl → s₁.l0Runs = true → s₁.cellActs x.cell = true →
        x.entries ≠ 0 →
        let wr := leNat (s₁.bytesAt x.area 4)
        let rd := leNat (s₁.bytesAt (x.area + 4) 4)
        let a := x.area + 64 + 1024 * (rd % x.entries)
        let slot := s₁.bytesAt a 1024
        let msg := (slot.drop 8).take (fld slot 0 2)
        let next (s : State) : State := s.write whoL0 (x.area + 4) (leBytes 4 (rd + 1)) false
        (wr = rd → exec (.cplaneTx t n) s = .next s₁)
        ∧ (wr ≠ rd → s₁.poisonIn a 1024 = false → 1000 < fld slot 0 2 ∨ fld msg 5 1 ∉ [0, 1, 3] → exec (.cplaneTx t n) s = .next ((next s₁).streamCount (8192 + n) 2 1))
        ∧ (wr ≠ rd → s₁.poisonIn a 1024 = false → fld slot 0 2 ≤ 1000 → fld msg 5 1 ∈ [0, 1, 3] → tpValid tl.num (fld slot 4 4) = true →
          let nom := nominal tl.toff (tpFrame tl s₁.thetaNow (fld slot 4 4)) (symOff tl.num (tpSlot (fld slot 4 4)) (tpSym (fld slot 4 4)))
          nom - x.advance * nsUnit ≤ s₁.thetaNow →
          let u := if nom < s₁.thetaNow then s₁.streamCount (8192 + n) 1 1 else s₁
          exec (.cplaneTx t n) s = .next ((next (u.modStream (8192 + n) fun y => { y with txSeq := (y.txSeq + 1) % 256 })).hold
            ⟨8192 + n, fld slot 4 4, (next (u.modStream (8192 + n) fun y => { y with txSeq := (y.txSeq + 1) % 256 })).frcOfTheta nom, x.txSeq, [], msg⟩)))
    -- the window of a slot closes
    ∧ (∀ point x tl, n < 4096 → s₁.line.streams.find? n = some x → s₁.anchor? x.cell = some tl → s₁.l0Runs = true →
        let key := tpMake (tpSfn point) (tpSlot point) 0
        let last := symsPer tl.num - 1
        tpValid tl.num key = true →
        nominal tl.toff (tpFrame tl s₁.thetaNow key) (symOff tl.num (tpSlot point) last) + x.winEnd * nsUnit ≤ s₁.thetaNow →
        let sl := x.slots.get ⟨[], false, false⟩ key
        let all := (List.range (last + 1)).all fun i => (sl.got.get [] i).length == x.prbCount
        let u := s₁.modStream n fun y => { y with slots := y.slots.del key }
        exec (.uplinkWindowClose t n point) s = .next (if x.status = 0 then u
          else u.write whoL0 x.status (leBytes 4 key ++ leBytes 1 (b2n all + 2 * b2n sl.late + 4 * b2n sl.gap) ++ zeros 3) false))
    -- peer transport
    ∧ (∀ cls m, s₁.clu.members.find? n = some m →
        let x := s₁.peerTx (n * 4 + cls)
        (x.unacked ≠ [] → x.lost = false → x.progress + usToFrc 50 ≤ s₁.time.frc → x.tries < 16 → exec (.peerRetransmit t n cls) s
          = .next (((s₁.modPeerTx (n * 4 + cls) fun x => { x with tries := x.tries + 1, progress := s₁.time.frc }).portCount m.port cPeerRetx
              (min 256 x.unacked.length)).peerPush n m cls 0))
        ∧ (x.unacked ≠ [] → x.lost = false → x.progress + usToFrc 50 ≤ s₁.time.frc → 16 ≤ x.tries →
          let u := (s₁.modPeerTx (n * 4 + cls) fun x => { x with lost := true }).postAll 0x0425 2 (n + 4096 * cls)
          exec (.peerRetransmit t n cls) s
            = .next (if m.up && (List.range 4).all fun c => (u.peerTx (n * 4 + c)).lost then u.loseMember n else u))
        ∧ (let kept (u : State) := u.modClu fun c => { c with members := c.members.upd n fun m => { m with sent := u.time.frc, kept := u.time.frc } }
           (m.path = 2 → s₁.keepDue n m = true → exec (.peerKeepalive t n cls) s = .next (kept (s₁.peerFrame n m 2 cls 0 0 [])))
           ∧ (m.path = 1 → s₁.keepDue n m = true → exec (.peerKeepalive t n cls) s = .next (kept (s₁.emit (.peerMsg n .keepalive))))
           ∧ (s₁.time.frc < m.sent + usToFrc 100 → s₁.clu.migs = [] → exec (.peerKeepalive t n cls) s = .next s₁)))

/-- ETH_PORT_CONFIG, FH_STREAM_CONFIG and MACSEC_SA_INSTALL (R366 to R371). -/
def Obligations.EthernetCommands : Prop :=
  ∀ (c : CmdRef) (s : State) (fl : Flight),
    let s₁ := s.advance c.t
    let p := fl.params c.buf
    let n := fld p 0 1
    let e := portOf fl.fn p
    let free (u : State) (pn : Nat) := leBytes 2 (512 - u.line.sas.length) ++ zeros 6 ++ leBytes 8 pn
    -- ports
    (Ready layEthPort c s fl →
      (fld p 1 1 = 1 → s₁.portFits n e = false → exec (.ethPortConfig c) s = .next (s₁.complete fl 0x0409 (.bare .badParam)))
      ∧ ((fld p 1 1 = 1 → s₁.portFits n e = true) → s₁.ownsMac fl.fn n = false →
        exec (.ethPortConfig c) s = .next (s₁.complete fl 0x0409 (.bare .notPermitted)))
      ∧ (fld p 1 1 = 0 → s₁.line.ports.has n = true → (s₁.line.streams.some? fun _ x => x.port == n) = true →
        exec (.ethPortConfig c) s = .next (s₁.complete fl 0x0409 (.bare .notPermitted)))
      ∧ (fld p 1 1 = 0 → s₁.ownsMac fl.fn n = true → (s₁.line.streams.some? fun _ x => x.port == n) = false →
        exec (.ethPortConfig c) s = .next ((s₁.modLine fun l => { l with ports := l.ports.del n }).complete fl 0x0409 (.ok [])))
      ∧ (fld p 1 1 = 1 → s₁.portFits n e = true → s₁.ownsMac fl.fn n = true → e.lanes.all (s₁.ownsLane fl.fn) = true → (e.peer = true → fl.fn = 0) →
          (s₁.line.streams.some? fun _ x => x.port == n) = false →
        exec (.ethPortConfig c) s = .next (if s₁.portRoom n e
          then (s₁.modLine fun l => { l with ports := l.ports.set n (e.kept (s₁.line.ports.find? n)) }).complete fl 0x0409 (.ok [])
          else s₁.complete fl 0x0409 (.bare .noResource)))
      ∧ (∀ x, fld p 1 1 = 2 → s₁.ownsMac fl.fn n = true → s₁.line.ports.find? n = some x →
        exec (.ethPortConfig c) s
          = .next ((s₁.modPort n fun x => { x with cnt := [] }).complete fl 0x0409 (.okBuf (fld p 24 8) x.counters))))
    -- fronthaul streams
    ∧ (Ready layFhStream c s fl →
      let k := fld p 3 1 * 4096 + fld p 0 2
      let x := streamOf p
      (fld p 2 1 = 1 → s₁.streamFits (fld p 3 1) x = false → exec (.fhStreamConfig c) s = .next (s₁.complete fl 0x040B (.bare .badParam)))
      ∧ (fld p 2 1 = 1 → s₁.streamFits (fld p 3 1) x = true → s₁.line.streams.find? k = none → s₁.cellLive x.cell = true →
        exec (.fhStreamConfig c) s = .next (s₁.complete fl 0x040B (.bare .notPermitted)))
      ∧ (fld p 2 1 = 1 → s₁.streamFits (fld p 3 1) x = true → s₁.line.streams.find? k = none → s₁.cellLive x.cell = false →
          s₁.ownsCell fl.fn x.cell = true → s₁.ownsMac fl.fn x.port = true →
          ((s₁.line.ports.find? x.port).any fun e => e.lanes.any fun m => (s₁.lane m).stage == 14) = false →
        exec (.fhStreamConfig c) s = .next (
          if fld p 3 1 = 0 && s₁.line.streams.some? (fun j y => j < 4096 && j != k && y.port == x.port && y.key == x.key)
          then s₁.complete fl 0x040B (.bare .noResource)
          else (s₁.modLine fun l => { l with streams := l.streams.set k x }).complete fl 0x040B (.ok (zeros 16))))
      ∧ (∀ o, s₁.line.streams.find? k = some o → s₁.ownsCell fl.fn o.cell = true →
        (fld p 2 1 = 0 → s₁.cellLive o.cell = false → exec (.fhStreamConfig c) s
          = .next ((s₁.modLine fun l => { l with streams := l.streams.del k }).complete fl 0x040B (.ok (zeros 16))))
        ∧ (fld p 2 1 = 0 → s₁.cellLive o.cell = true → exec (.fhStreamConfig c) s = .next (s₁.complete fl 0x040B (.bare .notPermitted)))
        ∧ (fld p 2 1 = 2 → exec (.fhStreamConfig c) s = .next ((s₁.modStream k fun y => { y with cnt := [0, 0, 0, 0] }).complete fl 0x040B
            (.ok (o.cnt.flatMap fun v => leBytes 4 v))))))
    -- secure associations
    ∧ (Ready layMacsec c s fl → s₁.ownsMac fl.fn n = true →
      (∀ a, fld p 1 1 = 2 → fld p 2 1 = 1 → s₁.line.sas.find? (saNamed p) = some a → exec (.macsecSaInstall c) s
        = .next ((s₁.modPort n fun e => { e with txAn := some a.an }).complete fl 0x040A (.ok (free s₁ a.nextPn))))
      ∧ (fld p 1 1 ≤ 1 → fld p 2 1 = 1 → (s₁.line.sas.find? (saNamed p)).isSome = true →
          (s₁.line.ports.find? n).any (fun e => e.txAn == some (fld p 3 1)) = true →
        exec (.macsecSaInstall c) s = .next (s₁.complete fl 0x040A (.bare .notPermitted)))
      ∧ (fld p 1 1 = 0 → fld p 2 1 = 0 →
        let u := s₁.modLine fun l => { l with sas := l.sas.filter fun a => !saNamed p a }
        exec (.macsecSaInstall c) s = .next (u.complete fl 0x040A (.ok (free u 0))))
      ∧ (fld p 1 1 = 1 → s₁.line.sas.find? (saNamed p) = none → 512 ≤ s₁.line.sas.length →
        exec (.macsecSaInstall c) s = .next (s₁.complete fl 0x040A (.bare .noResource)))
      ∧ (∀ kek, fld p 1 1 = 1 → fld p 2 1 = 1 → s₁.line.sas.find? (saNamed p) = none → s₁.line.sas.length < 512 →
          s₁.dome.keks.find? (s₁.macOwner n) = some kek →
        exec (.macsecSaInstall c) s = .next (match Config.keyUnwrap (nats kek) (nats ((p.drop 40).take 40)) with
          | none => s₁.complete fl 0x040A (.bare .authFail)
          | some key =>
            let a : MacSa := ⟨n, true, fld p 3 1, fld p 4 1, bit (fld p 5 1) 0, bit (fld p 5 1) 1, (p.drop 8).take 8, fld p 16 8, fld p 24 4,
              (p.drop 28).take 12, fit 32 (bytesOf key), false, false⟩
            let u := s₁.modLine fun l => { l with sas := l.sas ++ [a] }
            u.complete fl 0x040A (.ok (free u (fld p 16 8))))))
/-! ## Cluster pooling and cell migration (chapter 13) -/

/-- Membership, peer ports, requests between members and remote dispatch (R374 to R386). -/
def Obligations.ClusterMembers : Prop :=
  ∀ (c : CmdRef) (s : State) (fl : Flight),
    let s₁ := s.advance c.t
    let p := fl.params c.buf
    -- CLUSTER_JOIN: the first failing item of R379, the root at once, others wait for their parent
    (Ready layClusterJoin c s fl →
      (fld p 10 1 = 0 → s₁.member = true → exec (.clusterJoin c) s = .next (s₁.complete fl 0x0501 (.bare .notPermitted)))
      ∧ (fld p 10 1 = 1 → s₁.member = false → exec (.clusterJoin c) s = .next (s₁.complete fl 0x0501 (.bare .notPermitted)))
      ∧ (fld p 10 1 = 0 → s₁.member = false → s₁.clu.joining = none → fld p 4 2 ≠ fld p 6 2 → s₁.time.anchors ≠ [] →
        exec (.clusterJoin c) s = .next (s₁.complete fl 0x0501 (.bare .notPermitted)))
      ∧ (fld p 10 1 = 0 → s₁.member = false → s₁.clu.joining = none → s₁.time.anchors = [] →
        ((joinBad p || s₁.tableBad p) = true → exec (.clusterJoin c) s = .next (s₁.complete fl 0x0501 (.bare .badParam)))
        ∧ ((joinBad p || s₁.tableBad p) = false → fld p 4 2 = fld p 6 2 →
          exec (.clusterJoin c) s = .next ((s₁.setCluster p).complete fl 0x0501 (.ok ((s₁.setCluster p).joinResult 0))))
        ∧ ((joinBad p || s₁.tableBad p) = false → fld p 4 2 ≠ fld p 6 2 →
          exec (.clusterJoin c) s = .next ((s₁.modClu fun c => { c with joining := some (p, s₁.time.frc) }).park fl.id .join))))
    ∧ (∀ q f, s₁.stopped = false → s₁.clu.joining = some (q, f) → f + msToFrc 100 ≤ s₁.time.frc →
        exec (.joinKeepaliveTimeout c.t) s = .next (s₁.joinEnd .notReady []))
    -- CLUSTER_LEAVE
    ∧ (Ready layClusterLeave c s fl →
      ((s₁.member = false ∨ s₁.migrating = true) → exec (.clusterLeave c) s = .next (s₁.complete fl 0x0502 (.bare .notPermitted)))
      ∧ (s₁.member = true → s₁.migrating = false → (bit (fld p 0 1) 0 = true ∨ (s₁.car.tasks.some? fun _ t => t.remote) = false) →
        exec (.clusterLeave c) s = .next (((s₁.endRemote fun _ => true).leaveCluster).complete fl 0x0502 (.ok [])))
      ∧ (s₁.member = true → s₁.migrating = false → bit (fld p 0 1) 0 = false → (s₁.car.tasks.some? fun _ t => t.remote) = true →
        exec (.clusterLeave c) s = .next ((s₁.modClu fun c => { c with leaving := some (c.leaving.getD s₁.time.frc) }).park fl.id .leave)))
    ∧ (∀ f, s₁.stopped = false → s₁.clu.leaving = some f → f + msToFrc 100 ≤ s₁.time.frc →
        let u := s₁.endRemote fun _ => true
        exec (.leaveWaitRunsOut c.t) s = .next (if u.clu.leaving.isSome then u.leaveCluster else u))
    ∧ (s.leaveCluster.clu.members = [] ∧ s.leaveCluster.clu.exports = [] ∧ s.leaveCluster.clu.id = 0 ∧ s.leaveCluster.clu.device = 0)
    -- PEER_PORT_CONFIG
    ∧ (Ready layPeerPort c s fl →
      let n := fld p 0 1
      let l := s₁.lane (256 + n)
      let res := leBytes 2 l.farDevice ++ leBytes 1 l.farPort ++ leBytes 1 (b2n (l.stage == 9))
      (fld p 1 1 = 1 → l.cfg.mode ≠ 4 → exec (.peerPortConfig c) s = .next (s₁.complete fl 0x0503 (.bare .badParam)))
      ∧ (fld p 1 1 = 1 → l.cfg.mode = 4 → exec (.peerPortConfig c) s
          = .next ((s₁.modClu fun c => { c with ports := c.ports.set n (bit (fld p 2 1) 0) }).complete fl 0x0503 (.ok res)))
      ∧ (fld p 1 1 = 0 → (s₁.clu.members.some? fun _ m => m.path == 1 && m.port == n) = true →
          exec (.peerPortConfig c) s = .next (s₁.complete fl 0x0503 (.bare .notPermitted)))
      ∧ (fld p 1 1 = 0 → (s₁.clu.members.some? fun _ m => m.path == 1 && m.port == n) = false →
          exec (.peerPortConfig c) s = .next ((s₁.modClu fun c => { c with ports := c.ports.del n }).complete fl 0x0503 (.ok res))))
    -- what a member hears; silence for 200 µs loses it
    ∧ (∀ dev sm step m, s₁.stopped = false → (s₁.heardFrom dev step).clu.members.find? dev = some m → dev ≠ (s₁.heardFrom dev step).deviceId →
        let h := s₁.heardFrom dev step
        let due : Bool := m.told + usToFrc (if m.path = 2 then 20 else 2) ≤ h.time.frc
        let u := h.modClu fun c => { c with members := c.members.set dev { m with summary := sm, told := if due then h.time.frc else m.told } }
        exec (.idleSummary c.t dev sm step false) s = .next (if due then u.emit (.peerMsg dev (.summary u.mySummary)) else u))
    ∧ (∀ dev m, s₁.stopped = false → s₁.clu.members.find? dev = some m → m.up = true →
        (m.heard + usToFrc 200 ≤ s₁.time.frc → exec (.pathDown c.t dev) s = .next (s₁.loseMember dev))
        ∧ (s₁.time.frc < m.heard + usToFrc 200 → m.path = 2 → exec (.pathDown c.t dev) s = .next s₁))
    -- a peer's request: admitted inside an export range, a remote task's buffer or a migration, else NOT_PERMITTED
    ∧ (∀ dev m r₀ mig lat, s₁.stopped = false → s₁.clu.members.find? dev = some m → dev ≠ s₁.deviceId →
        let u := s₁.modClu fun c => { c with members := c.members.set dev { m with heard := s₁.time.frc } }
        let r := { r₀ with addr := u.real r₀.addr }
        let f : MeshFl := { req := r, peer := some dev, arrived := true, ans := none, lat := lat }
        let v := u.photo (photoKey true (0x3B0 + r.cls) r.cls) fun p => p.sent r.write
        exec (.peerRequest c.t dev r₀ mig lat) s = .next (if inPeerWindow r.addr r.len = false then v.meshReply f .busError []
          else if v.admitPeer dev r mig then v.meshArrive f else v.meshReply f .notPermitted []))
    ∧ (∀ (u : State) dev r mig, (u.clu.exports.any fun e => within r.addr r.len e.1 e.2) = true → u.admitPeer dev r mig = true)
    ∧ (∀ (u : State) dev r, (u.clu.exports.any fun e => within r.addr r.len e.1 e.2) = false → r.task = none → u.admitPeer dev r none = false)
    ∧ (∀ src dst hops cls tag packet m, s₁.stopped = false → dst ≠ s₁.deviceId → s₁.clu.members.find? dst = some m →
        (m.path = 1 → hops + m.hops ≤ 3 → exec (.peerRelay c.t src dst hops cls tag packet) s = .next (s₁.emit (.relay dst m.port cls packet)))
        ∧ (3 < hops + m.hops → exec (.peerRelay c.t src dst hops cls tag packet) s = .next (s₁.emit (.peerMsg src (.answer tag Status.busError.code [])))))
    -- remote dispatch
    ∧ (∀ id tk d region, s₁.stopped = false → s₁.task? id = some tk → s₁.remoteOk tk = true → s₁.speculative tk = false → s₁.shadowHeld id tk = false →
        s₁.remoteTarget tk = some (d, region) →
        let u := s₁.modTask id fun x => { x with st := .running, engine := none, region := none, peer := some d, shadow := x.harq, commitBlk := none }
        exec (.remoteDispatch c.t id) s
          = .next ((u.olog 6 id tk none (s₁.taskRegion tk) 0 d).emit (.peerMsg d (.task id (s₁.remoteDesc tk) region))))
    ∧ (∀ id tk d, s₁.stopped = false → s₁.task? id = some tk → tk.peer = some d → tk.st = .running → tk.engine = none →
        (tk.leave = .no → exec (.remoteFinish c.t id .success) s
            = .next ((s₁.modTask id fun x => { x with st := .doneHeld }).signalGates (sig tk.doneGate none)))
        ∧ (tk.leave = .no → ∀ st, st ≠ .success → exec (.remoteFinish c.t id st) s = .next (s₁.failTask id tk st))
        ∧ (tk.leave = .revoked → ∀ st, exec (.remoteFinish c.t id st) s = .next (s₁.dropRevoked id tk)))
    ∧ (∀ dev rid desc region, s₁.stopped = false → s₁.clu.members.has dev = true → dev ≠ s₁.deviceId →
        let tk := remoteTask (fit 64 desc) dev rid region s₁.car.headReady s₁.time.frc
        (s₁.clu.accept = false → exec (.remoteTaskArrival c.t dev rid desc region) s
          = .next (s₁.emit (.peerMsg dev (.finish rid Status.notPermitted.code))))
        ∧ (s₁.clu.accept = true → s₁.clu.leaving = none → s₁.clu.types.testBit tk.type = true → enginesOf region tk.type ≠ [] → s₁.car.tasks = [] →
          exec (.remoteTaskArrival c.t dev rid desc region) s = .next (((s₁.modCar fun c => { c with
            tasks := [(0, tk)], headReady := c.headReady - 1 }).write ⟨initId 15 3 0, none, false, some 0⟩ (taskAddr 0) tk.bytes false).clockUp region)))
    ∧ (∀ dev rid st id tk, s₁.stopped = false → (s₁.car.tasks.first fun _ tk => tk.origin == some (dev, rid)) = some (id, tk) →
        exec (.remoteRevokeArrival c.t dev rid st) s = .next (s₁.pullTask id tk (leaveOf st)))

/-- CELL_MIGRATE and the steps of Table 13-6 (R387 to R394). -/
def Obligations.Migration : Prop :=
  ∀ (c : CmdRef) (s : State) (fl : Flight) (id : Nat),
    let s₁ := s.advance c.t
    let p := fl.params c.buf
    let t := c.t
    let lanes := migLanes p
    (Ready layMigrate c s fl → fld p 4 1 ≠ 2 →
      (s₁.migMay fl.fn p = false → exec (.cellMigrate c) s = .next (s₁.complete fl 0x0504 (.bare .notPermitted)))
      ∧ (s₁.migMay fl.fn p = true → migBad p = true → exec (.cellMigrate c) s = .next (s₁.complete fl 0x0504 (.bare .badParam)))
      ∧ (∀ tl k, s₁.migMay fl.fn p = true → migBad p = false → s₁.anchor? (fld p 6 2) = some tl → s₁.migFrame (fld p 6 2) (fld p 12 2) = some k →
        (fld p 16 16 = 0 ∨ tl.toff = 0) →
        ((∃ n ∈ lanes, (s₁.tlf n).sealed = false ∨ (s₁.tlf n).copying ≠ none) → exec (.cellMigrate c) s = .next (s₁.complete fl 0x0504 (.bare .pageNotSealed)))
        ∧ ((∀ n ∈ lanes, (s₁.tlf n).sealed = true ∧ (s₁.tlf n).copying = none) → (∃ n ∈ lanes, (s₁.tlf n).pend ≠ none) →
          exec (.cellMigrate c) s = .next (s₁.complete fl 0x0504 (.bare .noResource)))
        ∧ ((∀ n ∈ lanes, (s₁.tlf n).sealed = true ∧ (s₁.tlf n).copying = none ∧ (s₁.tlf n).pend = none) → (s₁.clu.migs.some? fun _ m => m.cell == fld p 6 2) = false →
            s₁.clu.migs.has (fld p 0 4) = false → s₁.clu.migs.length < 8 →
          let m : Mig := ⟨fld p 4 1 == 0, fld p 6 2, fld p 8 2, fld p 10 2, fld p 12 2, k, fld p 16 16, migRanges p, .pairing, 0, false, fl.id⟩
          let u := lanes.foldl (fun s n => s.modTlf n fun x => { x with pend := some ⟨k, sfnOf 0 k, fl.id⟩ }) s₁
          let u := u.modClu fun c => { c with migs := c.migs.set (fld p 0 4) m }
          exec (.cellMigrate c) s = .next ((if fld p 4 1 = 0
            then u.emit (.peerMsg m.dev (.pair (fld p 0 4) m.cell m.peerCell tl.num tl.toff tl.sfnBase m.sfn)) else u).park fl.id (.migrate (fld p 0 4))))))
    ∧ (Ready layMigrate c s fl → fld p 4 1 = 2 →
      (∀ m, s₁.mig? (fld p 0 4) = some m → m.past = false → s₁.ownsCell fl.fn m.cell = true →
        exec (.cellMigrate c) s = .next ((s₁.migAbort (fld p 0 4) m 4).complete fl 0x0504 (.ok (zeros 16))))
      ∧ (∀ m, s₁.mig? (fld p 0 4) = some m → m.past = true → exec (.cellMigrate c) s = .next (s₁.complete fl 0x0504 (.bare .notPermitted))))
    ∧ (s₁.stopped = false → ∀ m, s₁.mig? id = some m →
      -- pairing, mirror, pre-copy, READY
      (∀ cell peerCell num toff base sfn, m.source = false → m.stage = .pairing →
        exec (.migPair t id m.dev cell peerCell num toff base sfn) s = .next (
          if s₁.migAt m 5000 then s₁.migAbort id m 1 else if m.cell == peerCell && m.peerCell == cell && m.sfn == sfn
              && (s₁.anchor? m.cell).any (fun tl => tl.num == num && tl.toff == toff && tl.sfnBase == base)
          then (s₁.modMig id fun m => { m with stage := .copying }).emit (.peerMsg m.dev (.readyToCopy id)) else s₁.migAbort id m 6))
      ∧ (m.source = true → m.stage = .pairing → s₁.migAt m 5000 = false → exec (.migReadyToCopy t id) s = .next (match s₁.precopy id m m.ranges with
          | some u => u.modMig id fun m' => { m' with stage := .copying, copiedKib := (m.ranges.map fun r => r.2.2.1).sum / 1024 }
          | none => s₁.migAbort id m 5))
      ∧ (m.source = true → m.stage = .copying → exec (.migPrecopyDone t id) s = .next (s₁.modMig id fun m => { m with stage := .ready }))
      ∧ (m.source = false → m.stage = .copying → s₁.migAt m 2000 = false → (maskBits m.lanes 128).all (fun n => (s₁.tlf n).sealed) = true →
        exec (.migPrecopyDone t id) s = .next ((s₁.modMig id fun m => { m with stage := .ready }).emit (.peerMsg m.dev (.ready id))))
      -- COMMIT 1.5 ms before the switch, the commit point 1 ms before it
      ∧ (m.source = true → s₁.migAt m 1500 = true →
        (m.stage = .ready → exec (.migCommit t id) s = .next ((s₁.modMig id fun m => { m with stage := .commitSent }).emit (.peerMsg m.dev (.commit id))))
        ∧ (m.stage = .copying → exec (.migCommit t id) s = .next (s₁.migAbort id m 2)))
      ∧ (m.source = false → m.stage = .ready → s₁.migAt m 1000 = false →
        exec (.commitArrival t id) s = .next ((s₁.modMig id fun m => { m with stage := .acked }).emit (.peerMsg m.dev (.commitAck id))))
      ∧ (m.source = true → m.stage = .commitSent → s₁.migAt m 1000 = false → exec (.migCommitAck t id) s = .next (s₁.modMig id fun m => { m with stage := .acked }))
      ∧ (s₁.migAt m 1000 = true →
        (m.stage = .acked → exec (.migCommitPoint t id) s = .next ((s₁.modMig id fun m => { m with stage := .committed }).post (s₁.cellOwner m.cell)
          0x0503 1 (m.cell + 4096 * b2n (!m.source))))
        ∧ (m.stage ≠ .acked → m.past = false → m.stage ≠ .pairing → m.stage ≠ .copying →
          exec (.migCommitPoint t id) s = .next (s₁.migAbort id m 3)))
      -- switch and Final
      ∧ (m.stage = .committed → s₁.migAt m 0 = true → m.source = true →
        exec (.migSwitch t id) s = .next (s₁.modMig id fun m => { m with stage := .switched }))
      ∧ (m.stage = .committed → s₁.migAt m 0 = true → m.source = false → m.lost = false →
        let u := s₁.modMig id fun m => { m with stage := .switched }
        exec (.migSwitch t id) s = .next { u with cells := u.cells.upd m.cell fun c => { c with st := .service, failed := false } })
      ∧ (m.stage = .switched → m.source = false → exec (.migFinal t id) s = .next (s₁.migEnd id m .success 0))
      ∧ (m.stage = .switched → m.source = true → m.lost = false →
        ((s₁.car.tasks.some? fun _ tk => tk.cell == m.cell && tk.origin.isNone) = true → exec (.migFinal t id) s = .next s₁)
        ∧ ((s₁.car.tasks.some? fun _ tk => tk.cell == m.cell && tk.origin.isNone) = false →
          let u : State := { s₁ with cells := s₁.cells.upd m.cell fun c => { c with st := .hibernated } }
          exec (.migFinal t id) s = .next ((u.emit (.peerMsg m.dev (.final id))).migEnd id m .success 0)))
      -- aborts
      ∧ (m.past = false → ∀ cause, 1 ≤ cause → cause ≤ 6 → exec (.migAbort t id (some cause)) s = .next (s₁.migAbort id m cause))
      ∧ (m.past = true → ∀ told, exec (.migAbort t id told) s = .next s₁)
      ∧ (m.stage = .pairing → s₁.migAt m 5000 = true → exec (.migAbort t id none) s = .next (s₁.migAbort id m 1)))
    ∧ abortStatus 3 = .busError ∧ abortStatus 1 = .notReady ∧ abortStatus 2 = .notReady ∧ abortStatus 4 = .notPermitted
    ∧ abortStatus 5 = .badParam ∧ abortStatus 6 = .badParam

/-! ## On-chip network, DMA and memories (chapters 14 to 16) -/

/-- Requests, responses, slots, refused routes, drains and the Photometer (R399 to R424). -/
def Obligations.Network : Prop :=
  ∀ (c : CmdRef) (s : State) (fl : Flight),
    let s₁ := s.advance c.t
    let p := fl.params c.buf
    let t := c.t
    (s₁.stopped = false →
      -- a request, as its block port injects it: a class-0 request above 256 bytes is turned away, any other waits for a slot and space
      (∀ r lost par, unitThere r.blk ((s₁.injected r).init % 64) = true → (s₁.injected r).cls ≤ 3 → r.fits = true →
        let q := s₁.injected r
        s₁.meshFind r.blk q.init q.cls r.tag = none →
        (s₁.noc.waiting.any fun w => w.req.blk == r.blk && w.req.init == q.init && w.req.cls == q.cls && w.req.tag == r.tag) = false →
        (q.cls = 0 → 256 < r.len → exec (.meshRequest t r lost par) s = .next (s₁.emit (.portAnswer r.blk q.init q.cls r.tag .badParam)))
        ∧ ((q.cls ≠ 0 ∨ r.len ≤ 256) →
          exec (.meshRequest t r lost par) s = .next ((s₁.modNoc fun n => { n with waiting := n.waiting ++ [⟨q, lost, par⟩] }).meshRuns r.blk)))
      -- its response is counted once; after the time-out there is none to count
      ∧ (∀ blk init cls tag ns f st, s₁.meshFind blk init cls tag = some f → f.ans = some st →
        exec (.meshResponse t blk init cls tag ns) s
          = .next (((s₁.meshDrop f).photo f.photo fun x => x.answered f.req.write f.req.len st ns).meshRuns blk))
      ∧ (∀ blk init cls tag ns, s₁.meshFind blk init cls tag = none → exec (.meshResponse t blk init cls tag ns) s = .next s₁)
      ∧ (∀ blk init tag f, s₁.meshFind blk init 0 tag = some f → f.ans = none →
        let u := (s₁.meshDrop f).modNoc fun n => { n with held := n.held.map fun x => (if x.1.same blk init 0 tag then { x.1 with late := true } else x.1, x.2) }
        exec (.meshTimeout t blk init 0 tag) s = .next (if s₁.time.frc < f.sent + usToFrc 1000 then s₁ else
          ((((u.emit (.portAnswer blk init 0 tag .busError)).logMesh (blk / 4) 4 f.req).photo f.photo fun x =>
            { x with errors := sat32 (x.errors + 1) }).slotFreed blk (meshTarget (s₁.real f.req.addr)) 0).meshRuns blk))
      -- a refused route: the alternate from now on; refused there, the initiator is told, and the slot stays
      ∧ (∀ r f, s₁.meshFind r.blk r.init r.cls r.tag = some f → f.refused = true →
        let u := s₁.photo f.photo fun x => { x with refused := sat32 (x.refused + 1) }
        let dest := s₁.meshDest (s₁.real f.req.addr)
        (f.onAlt = true → exec (.routeRefusedRetry t r) s
          = .next ((((u.meshDrop f).slotKept f.req).emit (.portAnswer r.blk r.init r.cls r.tag .routeRefused)).meshRuns r.blk))
        ∧ (f.onAlt = false → (r.poison.filter fun i => !f.req.poison.contains i) = [] → u.noc.alts.contains (r.blk, dest) = false →
            (u.noc.routes.any fun e => e.blk == r.blk && e.dest == dest) = true →
          exec (.routeRefusedRetry t r) s
            = .next ((u.modNoc fun n => { n with alts := (r.blk, dest) :: n.alts }).meshCross f none [])))
      -- slots: asked for, granted when the target has one, used, given back after 10 µs
      ∧ (∀ blk init target cls n, 1 ≤ cls → cls ≤ 3 → 1 ≤ n → n ≤ 8 → (s₁.noc.rsvs.any fun x => x.same blk target cls) = false →
        (s₁.noc.grants.any fun x => x.same blk target cls) = false →
        let u := s₁.photo (photoKey false init cls) fun x => { x with rsvs := sat32 (x.rsvs + 1) }
        let done (v : State) (st : Status) : State := (v.emit (.grant blk target cls 0 st)).photo (photoKey false init cls) fun x => x.ended st
        (16 < target → exec (.rsv t blk init target cls n) s = .next (done u .busError))
        ∧ (target ≤ 16 → (u.walkTo blk target).done = none → u.noc.alts.contains (blk, target) = true → exec (.rsv t blk init target cls n) s
            = .next ((u.photo (photoKey false init cls) fun x => x.ended .routeRefused).emit (.grant blk target cls 0 .routeRefused)))
        ∧ ((u.walkTo blk target).done.isSome = true → target < 16 → u.asleep target = true → exec (.rsv t blk init target cls n) s = .next (done u .domainAsleep))
        ∧ ((u.walkTo blk target).done.isSome = true → target < 16 → u.asleep target = false → s₁.noc.rsvs = [] →
          let v := u.modNoc fun x => { x with rsvs := [⟨blk, target, cls, n, u.time.frc⟩] }
          let free := Config.meshSlots target cls - u.noc.given.get 0 (target * 4 + cls)
          exec (.rsv t blk init target cls n) s = .next (if free = 0 then v else
            (v.modNoc fun x => { x with rsvs := [], grants := x.grants ++ [⟨blk, target, cls, min free n, u.time.frc⟩]
                                        given := x.given.put 0 (target * 4 + cls) (x.given.get 0 (target * 4 + cls) + min free n) }).emit
              (.grant blk target cls (min free n) .success))))
      ∧ (∀ blk target cls x, (s₁.noc.grants.find? fun x => x.same blk target cls) = some x →
        let u := s₁.modNoc fun c => { c with grants := c.grants.erase x }
        exec (.gnt t blk target cls) s = .next ((u.setSlots blk target cls (u.slotsHeld blk target cls + x.n)).meshRuns blk))
      ∧ (∀ blk target cls x, (s₁.noc.slots.find? fun x => x.same blk target cls) = some x →
        (x.used + usToFrc 10 ≤ s₁.time.frc → exec (.slotReturnTimeout t blk target cls) s = .next ((s₁.setSlots blk target cls 0).emit (.slotReturn blk target cls x.n)))
        ∧ (s₁.time.frc < x.used + usToFrc 10 → exec (.slotReturnTimeout t blk target cls) s = .next s₁))
      -- a draining router is switched when empty, or after 100 µs
      ∧ (∀ r f, s₁.noc.draining.find? r = some f →
        exec (.routerDrained t r) s = .next (if s₁.routerEmpty r then s₁.switchRouter r else s₁)
        ∧ exec (.routerDrainTimeout t r) s = .next (if s₁.time.frc < f + usToFrc 100 then s₁ else s₁.switchRouter r))
      -- the Photometer's period
      ∧ (s₁.noc.enable = true → exec (.photometerPeriod t) s = .next (if s₁.time.frc < periodEnd s₁.noc.periodUs s₁.noc.since then s₁
          else s₁.modNoc fun n => { n with snap := n.sets, sets := [], snapFrc := periodEnd s₁.noc.periodUs s₁.noc.since, since := s₁.time.frc })))
    ∧ (∀ target cls n, exec (.rsvReturn t target cls n) s = .next (if s₁.stopped then s₁ else s₁.slotsBack target cls n))
    -- a request that waits alone leaves once it may, and follows the route in use to its target, or is refused there
    ∧ (∀ (u : State) (w : MeshWait), u.noc.waiting = [w] → w.req.cls ≤ 3 →
      (u.mayLeave w.req = false → u.meshRuns w.req.blk = u)
      ∧ (u.mayLeave w.req = true → ∃ wt li, u.meshRuns w.req.blk
          = (u.modNoc fun n => { n with waiting := [], weights := wt, lastInit := li }).meshLeave w))
    ∧ (∀ (u : State) (f : MeshFl),
      let dest := u.meshDest (u.real f.req.addr)
      let k := u.walkTo f.req.blk dest
      let g : MeshFl := { f with path := k.path, back := k.back, refused := false, onAlt := u.noc.alts.contains (f.req.blk, dest) }
      (k.done = none → u.meshCross f none [] = u.meshSet { g with refused := true })
      ∧ (k.done ≠ none → u.meshCross f none []
          = (u.meshSet { g with arrived := true, req := { f.req with poison := f.req.poison ++ [] } }).meshArrive
              { g with arrived := true, req := { f.req with poison := f.req.poison ++ [] } }))
    -- the routes that Melvi loads keep the rules of R402, and its division of the class-0 slots keeps R407
    ∧ (∀ avoid n blk dest,
      let e := pickRoutes avoid n blk dest
      (e.primary ≠ [] → legalRoute avoid (blk / 4) dest e.primary = true)
      ∧ (e.alternate ≠ [] → legalRoute avoid (blk / 4) dest e.alternate = true ∧ e.alternate.length ≤ e.primary.length + 2))
    ∧ (∀ target, (∀ blk, 2 ≤ slotShare target blk) ∧ (allBlocks.map (slotShare target)).sum ≤ 512)
    -- a target serves what it may, and answers the rest with the status that refuses it
    ∧ (∀ (u : State) (f : MeshFl), u.peerOf f = none →
      let st := u.access (u.meshWho f) f.req.addr f.req.len f.req.write
      (st = .success → f.req.write = false → u.csrReq f = false →
        let v := u.logRead (u.meshWho f) f.req.addr f.req.len
        u.meshServe f = v.meshReply f .success (v.readFor f))
      ∧ (st ≠ .success → u.retiredIn f.req.addr f.req.len = false → u.meshServe f = u.meshReply f st []))
    ∧ (Ready layPhotometer c s fl →
      (fld p 0 1 = 0 → exec (.photometerRead c) s = .next ((s₁.modNoc fun n => { n with
          enable := bit (fld p 1 1) 0, periodUs := fld p 8 4, sets := [], since := periodEnd (fld p 8 4) s₁.time.frc }).complete fl 0x0A07
            (.ok (zeros 8 ++ leBytes 8 s₁.noc.snapFrc))))
      ∧ (fld p 0 1 = 1 →
        let sel := s₁.noc.snap.filter fun e => photoMatch p e.1
        let recs := sel.take (fld p 12 4 / 128)
        exec (.photometerRead c) s = .next ((s₁.hostRuns fl.fn (fld p 16 8) [(recs.flatMap fun e => photoRecord e.1 e.2, false)]).complete fl 0x0A07
          (.ok (leBytes 4 recs.length ++ leBytes 4 sel.length ++ leBytes 8 s₁.noc.snapFrc)))))

/-- DMA channels and the memory commands (R430 to R450, R463 to R473). -/
def Obligations.DmaAndMemory : Prop :=
  ∀ (c : CmdRef) (s : State) (fl : Flight),
    let s₁ := s.advance c.t
    let p := fl.params c.buf
    let t := c.t
    -- load checks
    (∀ d e, (dBad d e = true → dCheck d e = some .badParam)
      ∧ (dBad d e = false → dShares d = true → dOverlapOk d = false → dCheck d e = some .overlap)
      ∧ (dBad d e = false → dShares d = true → dContiguous d = false → dCheck d e = some .overlap)
      ∧ (dBad d e = false → (dShares d = false ∨ (dOverlapOk d = true ∧ dContiguous d = true)) → dCheck d e = none))
    ∧ (∀ (u : State) r d, (chanCheck r d = none → u.chanStart r d = u.modChan r fun x => { x with
          active := d, busy := true, descending := dDescending d, poisonSeen := false, bytesDone := 0, faultAddr := 0, moved := 0, buf := [] })
      ∧ (∀ st, chanCheck r d = some st → (u.chan r).cmd = none → u.chanStart r d = u.modChan r fun x => { x with
          active := d, busy := false, done := true, status := st.code, descending := false, poisonSeen := false, bytesDone := 0, faultAddr := 0
          cmd := none, owner := 255 }))
    -- GO, ARM and shadow writes
    ∧ (s₁.stopped = false → ∀ e k x, s₁.vdeRuns e = some x → (bankChans (s₁.vde e).inAlt).contains k = true →
      exec (.edmaGo t e k) s = .next (if (s₁.chan (.edma e k)).busy then s₁.modChan (.edma e k) fun x => { x with goLost := true }
        else (s₁.edmaShare e k).chanStart (.edma e k) (s₁.chan (.edma e k)).active))
    ∧ (s₁.stopped = false → ∀ blk k, s₁.bdmaThere blk k = true →
      let r := DmaRef.bdma blk k
      let start := ((s₁.bdmaShare blk k).modChan r fun x => { x with handed := false }).chanStart r (s₁.chan r).shadow
      exec (.bdmaGo t blk k) s = .next (if (s₁.chan r).busy then s₁.modChan r fun x => { x with goLost := true } else start)
      ∧ exec (.bdmaArm t blk k) s = .next (if (s₁.chan r).busy then s₁.modChan r fun x => { x with arm := true } else start)
      ∧ (∀ off bs at_, off + bs.length ≤ 48 → exec (.bdmaShadowWrite t blk k off bs at_) s
          = .next (if (s₁.chan r).arm && (s₁.chan r).busy && at_ then (s₁.modChan r fun x => { x with collide := true }).emit (.shadowRefused blk k .shadowCollide)
            else s₁.modChan r fun x => { x with arm := false, shadow := splice x.shadow off bs })))
    -- the end of a transfer; hand-over after SUCCESS only
    ∧ (s₁.stopped = false → ∀ blk k env, (s₁.chan (.bdma blk k)).busy = true →
      let r := DmaRef.bdma blk k
      let x := (s₁.othersShare r).runXfer r env
      (x.fail = none → x.late = none → exec (.dmaTransferDone t r env) s
        = .next ((x.s.modChan r fun c => { c with bytesDone := x.bytes, poisonSeen := x.poison, faultAddr := 0 }).chanDone r .success))
      ∧ (∀ st a, x.fail = some (st, a, true) → exec (.dmaTransferDone t r env) s
        = .next (((x.s.modChan r fun c => { c with bytesDone := x.bytes, poisonSeen := x.poison, faultAddr := a }).chanDone r st).stopSiblings blk k st a)))
    ∧ (∀ (u : State) blk k st, let r := DmaRef.bdma blk k
      let end_ := (u.modChan r fun x => { x with
          busy := false, done := true, status := st.code, arm := false, cmd := none, owner := 255, moved := 0, buf := [] }).leaveBuffer blk k
      (u.chan r).cmd = none →
      ((u.chan r).cmdNext = none → st ≠ .success ∨ (u.chan r).arm = false →
        u.chanDone r st = end_.modChan r fun x => { x with cmdNext := none, ownerNext := 255 })
      ∧ (st = .success → (u.chan r).arm = true →
        u.chanDone r st = (end_.modChan r fun x => { x with
          cmd := (u.chan r).cmdNext, cmdNext := none, owner := (u.chan r).ownerNext, ownerNext := 255, handed := true }).chanStart r (u.chan r).shadow))
    -- DMA_SUBMIT: what the generic checks ask of its parameters, and its own checks after them
    ∧ (∀ q, chkAll q (layDmaSubmit.checks q) = true ↔
        (fld q 4 4 = 0 ∧ fld q 3 1 ≤ 1 ∧ fld q 14 2 &&& 0xFFF0 = 0 ∧ fld q 22 2 = 0 ∧ fld q 30 2 = 0 ∧ fld q 48 8 = 0)
          ∧ (fld q 0 1 < 16 ∧ fld q 1 1 < regBlocks (fld q 0 1)) ∧ (fld q 2 1 < 16 ∨ fld q 2 1 = 255))
    ∧ (Ready layDmaSubmit c s fl →
      let d := (p.drop 8).take 48
      let blk := fld p 0 1 * 4 + fld p 1 1
      let k := fld p 2 1
      let ch := s₁.chan (.bdma blk k)
      (fl.fn ≠ 0 → dClass d = 0 → exec (.dmaSubmit c) s = .next (s₁.complete fl 0x0B01 (.bare .notPermitted)))
      ∧ ((s₁.mayExtent fl.fn (dSrcExt d) false && s₁.mayExtent fl.fn (dDstExt d) true) = false →
        exec (.dmaSubmit c) s = .next (s₁.complete fl 0x0B01 (.bare .notPermitted)))
      ∧ ((fl.fn = 0 ∨ dClass d ≠ 0) → s₁.mayExtent fl.fn (dSrcExt d) false = true → s₁.mayExtent fl.fn (dDstExt d) true = true →
          (fld p 3 1 = 1 → k < 16 → ch.busy = true → ch.owner = fl.fn ∨ 8 ≤ ch.owner) →
        ((k = 255 ∧ fld p 3 1 = 1) ∨ dBad d false = true →
          exec (.dmaSubmit c) s = .next (s₁.complete fl 0x0B01 (.bare .badParam)))
        ∧ (fld p 0 1 < 16 → fld p 1 1 < regBlocks (fld p 0 1) → k < 16 → fld p 3 1 ≤ 1 → dBad d false = false →
          (∀ st, dCheck d false = some st → exec (.dmaSubmit c) s = .next (s₁.complete fl 0x0B01 (.bare st)))
          ∧ (dCheck d false = none → s₁.asleep (fld p 0 1) = true → exec (.dmaSubmit c) s = .next (s₁.complete fl 0x0B01 (.bare .domainAsleep)))
          ∧ (dCheck d false = none → s₁.asleep (fld p 0 1) = false → ch.busy = true → (fld p 3 1 = 0 ∨ ch.arm = true) →
            exec (.dmaSubmit c) s = .next (s₁.complete fl 0x0B01 (.bare .noResource)))
          ∧ (dCheck d false = none → s₁.asleep (fld p 0 1) = false → ch.busy = true → fld p 3 1 = 1 → ch.arm = false →
            exec (.dmaSubmit c) s = .next (((s₁.clockUp (fld p 0 1)).modChan (.bdma blk k) fun x => { x with
              shadow := d, arm := true, cmdNext := some fl.id, ownerNext := fl.fn }).park fl.id (.dma blk k)))
          ∧ (dCheck d false = none → s₁.asleep (fld p 0 1) = false → ch.busy = false → ch.arm = false →
            exec (.dmaSubmit c) s = .next (((((s₁.clockUp (fld p 0 1)).bdmaShare blk k).modChan (.bdma blk k) fun x => { x with
              shadow := d, cmd := some fl.id, owner := fl.fn, handed := false }).chanStart (.bdma blk k) d).park fl.id (.dma blk k))))))
    -- REGION_TABLE_SET
    ∧ (Ready layRegionTableSet c s fl →
      let base := fld p 8 8
      let len := fld p 16 8
      let mine := s₁.mem.ranges.filter fun r => r.fn == fl.fn
      let put (rs : List PersRange) : State := { s₁ with mem := { s₁.mem with ranges := rs } }
      let res (u : State) : List Byte := leBytes 2 (u.mem.ranges.filter fun r => r.fn == fl.fn).length ++ leBytes 2 (1024 - u.mem.ranges.length)
      (s₁.rangePlace fl.fn base len = false → exec (.regionTableSet c) s = .next (s₁.complete fl 0x0B02 (.bare .notPermitted)))
      ∧ (s₁.rangePlace fl.fn base len = true → base % 65536 = 0 → len % 65536 = 0 → 65536 ≤ len → len ≤ 17179869184 →
        (fld p 0 1 = 1 → (mine.any fun r => overlaps base len r.base r.len) = true → exec (.regionTableSet c) s = .next (s₁.complete fl 0x0B02 (.bare .badParam)))
        ∧ (fld p 0 1 = 1 → s₁.mem.ranges.length = 1024 → (mine.any fun r => overlaps base len r.base r.len) = false →
          exec (.regionTableSet c) s = .next (s₁.complete fl 0x0B02 (.bare .noResource)))
        ∧ (fld p 0 1 = 1 → (s₁.mem.ranges.any fun r => overlaps base len r.base r.len) = false → (mine.any fun r => overlaps base len r.base r.len) = false →
            s₁.mem.ranges.length < 1024 →
          let u := put (⟨fl.fn, base, len⟩ :: s₁.mem.ranges)
          exec (.regionTableSet c) s = .next (u.complete fl 0x0B02 (.ok (res u))))
        ∧ (fld p 0 1 = 0 → (mine.any fun r => r.base == base && r.len == len) = true →
          let u := put (s₁.mem.ranges.filter fun r => !(r.fn == fl.fn && r.base == base && r.len == len))
          exec (.regionTableSet c) s = .next (if s₁.rangeInUse fl.fn base len then s₁.complete fl 0x0B02 (.bare .noResource) else u.complete fl 0x0B02 (.ok (res u))))))
    -- PAGE_RETIRE of an HBM page
    ∧ (Ready layPageRetire c s fl → fld p 1 1 = 0 →
      let a := fld p 8 8
      let res (u : State) (n : Nat) : List Byte := leBytes 2 u.mem.retPages.length ++ leBytes 2 u.mem.retBanks.length ++ leBytes 4 n
      (fld p 0 1 ≠ 2 → retireBase 0 a = false → exec (.pageRetire c) s = .next (s₁.complete fl 0x0A02 (.bare .badParam)))
      ∧ (fld p 0 1 ≠ 2 → retireBase 0 a = true → retireBarred 0 a = true → exec (.pageRetire c) s = .next (s₁.complete fl 0x0A02 (.bare .notPermitted)))
      ∧ (fld p 0 1 = 1 → retireBase 0 a = true → retireBarred 0 a = false →
        exec (.pageRetire c) s = .next (if s₁.mem.retPages.has a then s₁.complete fl 0x0A02 (.ok (res s₁ 0))
          else if 4096 ≤ s₁.mem.retPages.length then s₁.complete fl 0x0A02 (.bare .noResource)
          else
            let u : State := { s₁ with mem := { s₁.mem with retPages := s₁.mem.retPages.set a () } }
            u.complete fl 0x0A02 (.ok (res u 0))))
      ∧ (fld p 0 1 = 0 → retireBase 0 a = true → retireBarred 0 a = false → s₁.mem.retPages.has a = true →
        let u := ({ s₁ with mem := { s₁.mem with retPages := s₁.mem.retPages.del a } } : State).zeroMem a 65536
        exec (.pageRetire c) s = .next (u.complete fl 0x0A02 (.ok (res u 0))))
      ∧ (fld p 0 1 = 2 →
        let l := s₁.mem.retPages.keys.take (fld p 4 4 / 8)
        exec (.pageRetire c) s = .next ((s₁.emit (.hostWrite fl.fn (fld p 16 8) (l.flatMap (leBytes 8)) false)).complete fl 0x0A02 (.ok (res s₁ l.length)))))
    -- MEM_READ and MEM_WRITE of the device's own memory
    ∧ (Ready layMemRead c s fl →
      let a := fld p 0 8
      let n := fld p 8 4
      (s₁.mayName fl.fn a n false true = false → exec (.memRead c) s = .next (s₁.complete fl 0x0B03 (.bare .notPermitted)))
      ∧ (s₁.mayName fl.fn a n false true = true → (spanAt a).place ≠ .host → s₁.access (cmdWho fl.fn true) a n false = .success →
        let us := (s₁.clockFor a).unitsAt 64 (n / 64 + 1) a n
        let k := (us.filter fun u => u.2).length
        exec (.memRead c) s = .next (((((s₁.clockFor a).logRead (cmdWho fl.fn true) a n).hostRuns fl.fn (fld p 16 8) us)).complete fl 0x0B03
          ⟨if k = 0 then .success else .poisoned, leBytes 4 n ++ leBytes 4 k, none⟩)))
    ∧ (Ready layMemWrite c s fl →
      let a := fld p 0 8
      let n := fld p 8 4
      let f := fld p 12 1
      let whole : Bool := (maskBits f 3).length == 1 && a % wordSize a == 0 && n % wordSize a == 0 && (spanAt a).place != .host
      (f ≠ 0 → whole = false → exec (.memWrite c) s = .next (s₁.complete fl 0x0B04 (.bare .badParam)))
      ∧ (f = 0 ∨ whole = true → s₁.mayName fl.fn a n true false = false → exec (.memWrite c) s = .next (s₁.complete fl 0x0B04 (.bare .notPermitted)))
      ∧ (f ≠ 0 → whole = true → fl.fn ≠ 0 → exec (.memWrite c) s = .next (s₁.complete fl 0x0B04 (.bare .notPermitted)))
      ∧ (s₁.mayName fl.fn a n true false = true → (spanAt a).place ≠ .host → s₁.access (cmdWho fl.fn false) a n true = .success →
        (f = 0 → exec (.memWrite c) s = .next (((s₁.clockFor a).write (cmdWho fl.fn false) a ((p.drop 16).take n) false).complete fl 0x0B04 (.ok [])))
        ∧ (f = 1 → fl.fn = 0 → a % wordSize a = 0 → n % wordSize a = 0 →
          exec (.memWrite c) s = .next (((wordsOf a n).foldl (fun u w => u.poisonWord w) (s₁.clockFor a)).complete fl 0x0B04 (.ok [])))))
    -- the error logs, and retraining
    ∧ (∀ r, s₁.host.server = .melvi →
      let l := s₁.log r
      let u := (l.entries.take (l.entries.length - l.copied)).reverse.foldl (fun u e => u.copyEntry e) s₁
      exec (.errlogCopy t r) s = .next { u with mem := { u.mem with logs := u.mem.logs.upd r fun l => { l with copied := l.entries.length } } })
    ∧ (∀ stack temp, stack < 2 → s₁.dark = false → exec (.hbmRetrain t stack temp) s
      = .next (if s₁.retrainDue stack temp = false then s₁ else ({ s₁ with mem := { s₁.mem with
          retraining := s₁.mem.retraining.set stack (), trained := s₁.mem.trained.set stack (sgn 8 temp) } } : State).postAll 0x0B05 0 (stack + 256 * (temp % 256))))
    ∧ (∀ stack, exec (.hbmRetrainDone t stack) s
      = .next (({ s₁ with mem := { s₁.mem with retraining := s₁.mem.retraining.del stack } } : State).releaseMesh fun h => h == .retrain stack))

/-- A one-run transfer between places of HBM that function 0 may use, neither retired nor poisoned, with no other channel of the BDMA
busy, copies the run and nothing else (R428, R433, R441, R458). -/
def Obligations.DmaCopies : Prop :=
  ∀ (t blk k : Nat) (env : DmaEnv) (s : State),
    let s₁ := s.advance t
    let r := DmaRef.bdma blk k
    let ch := s₁.chan r
    let a := dSrc ch.active
    let b := dDst ch.active
    let n := dRun ch.active
    s₁.stopped = false → ch.busy = true → ch.arm = false → ch.cmd = none → ch.cmdNext = none → ch.owner = 0 →
    ch.moved = 0 → ch.buf = [] → (∀ j, j < 32 → j ≠ k → (s₁.chan (.bdma blk j)).busy = false) →
    dCount1 ch.active = 1 → dCount2 ch.active = 1 → 0 < n → dShares ch.active = false →
    s₁.ownsHbm 0 a n = true → s₁.ownsHbm 0 b n = true → s₁.retiredIn a n = false → s₁.retiredIn b n = false →
    s₁.marksIn a n = [] → s₁.marksIn b n = [] → s₁.clu.migs = [] → s₁.fault.lost = [] → Memory.wf s₁.mem.mem →
    ∃ u, exec (.dmaTransferDone t r env) s = .next u
      ∧ (∀ i, i < n → u.byteAt (b + i) = s₁.byteAt (a + i))
      ∧ (∀ x, x < b ∨ b + n ≤ x → u.byteAt x = s₁.byteAt x)
      ∧ (u.chan r).busy = false ∧ (u.chan r).done = true ∧ (u.chan r).status = 0 ∧ (u.chan r).bytesDone = n
      ∧ u.vdes = s₁.vdes ∧ u.car = s₁.car ∧ u.host = s₁.host ∧ u.outs = s₁.outs

/-! ## Modes, power, resets and supplies (chapters 17 and 22) -/

/-- Levels, sleep, wake, retention, pads and the entry to WATCH (R480 to R498). -/
def Obligations.Power : Prop :=
  ∀ (c : CmdRef) (s : State) (fl : Flight),
    let s₁ := s.advance c.t
    let p := fl.params c.buf
    let t := c.t
    -- PERF_LEVEL_SET: every named region takes the ceiling; done when no level is changing
    (Ready layPerfLevelSet c s fl →
      let u := (maskRegions (fld p 0 2)).foldl (fun s r => s.modRegion r fun g => g.toCeiling (fld p 2 1) (fld p 3 1) (g.st == .active || g.st == .idle)) s₁
      exec (.perfLevelSet c) s = .next (if u.levelsSet (fld p 0 2) then u.complete fl 0x0601 (.ok u.levelsWord) else u.park fl.id (.perfLevel (fld p 0 2))))
    ∧ (∀ g : Region, ∀ x tc aw, (g.toCeiling x tc aw).ceiling = x ∧ (g.toCeiling x tc aw).throttleC = (if tc = 0 then g.throttleC else tc)
        ∧ (aw = true → g.level ≤ g.ceiling → (g.toCeiling x tc aw).level = x) ∧ (aw = true → x ≤ (g.toCeiling x tc aw).level) ∧ (aw = false → (g.toCeiling x tc aw).level = g.level))
    ∧ (∀ r, s.host.flights = [] → exec (.levelChangeDone t r) s = .next (s₁.modRegion r fun g => { g with changing := false }))
    -- throttling: down a level while the sensor reads above THROTTLE_C, up again after 1 ms 3 °C below
    ∧ (∀ r, r ≤ 12 → s₁.asleep r = false → s₁.dark = false →
      let g := s₁.region r
      let v := thermSixteenths (s₁.fsc.adc.therm.getD (sensorOf r) 0)
      let d := 256 * unsgn 8 (v / 16)
      (16 * (g.throttleC : Int) < v → exec (.throttleStep t r) s = .next (if g.level < 7 && g.lastStep + usToFrc 100 ≤ s₁.time.frc
        then (s₁.modRegion r fun g => { g with level := g.level + 1, lastStep := s₁.time.frc, changing := true }).postAll 0x0602 1 (r + 16 * (g.level + 1) + d)
        else s₁))
      ∧ (v ≤ 16 * (g.throttleC : Int) → 16 * (g.throttleC : Int) < v + 48 → exec (.throttleStep t r) s = .next s₁)
      ∧ (v + 48 ≤ 16 * (g.throttleC : Int) → g.ceiling < g.level → g.lastStep + msToFrc 1 ≤ s₁.time.frc → ∀ f, g.coolAt = some f → f + msToFrc 1 ≤ s₁.time.frc →
        exec (.throttleStep t r) s = .next ((s₁.modRegion r fun g => { g with level := g.level - 1, lastStep := s₁.time.frc, changing := true }).postAll 0x0602 1
          (r + 16 * (g.level - 1) + d + 65536))))
    -- REGION_SLEEP
    ∧ (Ready layRegionSleep c s fl →
      let m := fld p 0 2
      let rs := maskRegions m
      let l0 := m.testBit 13 && ((s₁.cells.some? fun _ c => c.st != .hibernated) || s₁.peerEnabled || s₁.member)
      (l0 = true → exec (.regionSleep c) s = .next (s₁.complete fl 0x0602 (.bare .notPermitted)))
      ∧ (fld p 2 1 = 2 → (∃ r ∈ rs, s₁.asleep r = true) → exec (.regionSleep c) s = .next (s₁.complete fl 0x0602 (.bare .notPermitted)))
      ∧ (fld p 2 1 = 3 → (∃ r ∈ rs, (s₁.region r).st = .off) → exec (.regionSleep c) s = .next (s₁.complete fl 0x0602 (.bare .notPermitted)))
      ∧ (l0 = false → fld p 2 1 = 1 → (∃ r ∈ rs, s₁.inSleep r = true) → exec (.regionSleep c) s = .next (s₁.complete fl 0x0602 (.bare .noResource)))
      ∧ (l0 = false → fld p 2 1 = 1 → (∀ r ∈ rs, s₁.inSleep r = false) → exec (.regionSleep c) s
          = .next ((rs.foldl (fun s r => s.modRegion r fun g => { g with idleHold := some (fld p 4 2) }) s₁).complete fl 0x0602 (.ok (leBytes 2 0xFFFF))))
      ∧ (l0 = false → 2 ≤ fld p 2 1 → (∀ r ∈ rs, s₁.inSleep r = false ∧ s₁.asleep r = false) → (∃ r, r ∈ rs) → exec (.regionSleep c) s
          = .next ((s₁.prepareSleep ⟨m, if fld p 2 1 = 2 then .nap else .off, bit (fld p 3 1) 0, s₁.time.frc, fl.id, [], [], [], false, s₁.pow.mode⟩).park fl.id .sleep)))
    -- the answers: the first refusal aborts, the last agreement commits; silence for 100 µs refuses
    ∧ (s₁.stopped = false → ∀ blk op, (s₁.pow.sleeps.find? fun o => o.pendBlocks.contains blk) = some op →
      (s₁.sleepAnswer op blk = some false → exec (.blockSleepAnswer t blk) s = .next (s₁.abortSleep op blk))
      ∧ (s₁.sleepAnswer op blk = some true →
        let op' := { op with pendBlocks := op.pendBlocks.filter (· != blk) }
        exec (.blockSleepAnswer t blk) s = .next (if op'.pendBlocks = [] then s₁.commitSleep op'
          else { s₁ with pow := { s₁.pow with sleeps := s₁.pow.sleeps.map fun o => if o.cmd = op.cmd then op' else o } })))
    ∧ (∀ (u : State) op blk, u.blkFenced blk = false → (u.bdmaBusy blk = true → u.sleepAnswer op blk = some false)
        ∧ (op.touched = [] → u.bdmaBusy blk = false → u.blockBusy blk = false → u.commitHeld blk = true → u.sleepAnswer op blk = some false)
        ∧ (op.touched = [] → u.bdmaBusy blk = false → u.blockBusy blk = false → u.commitHeld blk = false → u.meshQuiet blk = true → u.sleepAnswer op blk = some true))
    ∧ (s₁.stopped = false → ∀ op, (s₁.pow.sleeps.find? fun o => o.start + usToFrc 100 ≤ s₁.time.frc) = some op →
      exec (.sleepAnswerTimeout t) s = .next (s₁.abortSleep op (op.pendBlocks.headD 0)))
    ∧ (∀ (u : State) op r, (u.sleepRegion r .nap op).region r = { u.region r with
          st := .nap, prepare := false, idleHold := none, autoWake := op, changing := false, waking := none } ∨ r = 13)
    -- IDLE under its policy
    ∧ (s₁.stopped = false → ∀ r h, (s₁.region r).idleHold = some h → (s₁.region r).st = .active → (s₁.region r).prepare = false →
      (s₁.car.tasks.some? fun _ t => t.st == .ready && t.region == some r) = false →
      ((∀ b < regBlocks r, s₁.blockBusy (r * 4 + b) = false ∧ s₁.bdmaBusy (r * 4 + b) = false ∧ s₁.commitHeld (r * 4 + b) = false ∧ s₁.meshQuiet (r * 4 + b) = true) →
        exec (.idleEntry t r) s = .next (s₁.modRegion r fun g => { g with st := .idle }))
      ∧ (∀ b < regBlocks r, s₁.blockBusy (r * 4 + b) = true → exec (.idleEntry t r) s = .next s₁))
    -- REGION_WAKE, and the end of a wake
    ∧ (Ready layRegionWake c s fl →
      let u := (maskRegions (fld p 0 2)).foldl (fun s r => if s.inSleep r then s else (s.rouse r).modRegion r fun g => { g with idleHold := none }) s₁
      exec (.regionWake c) s = .next (if u.allUp (fld p 0 2) then u.complete fl 0x0603 (.ok []) else u.park fl.id (.regionWake (fld p 0 2))))
    ∧ (s₁.stopped = false → ∀ r f, (s₁.region r).waking = some f → s₁.asleep r = true →
      exec (.regionActive t r) s = .next ((((s₁.regionUp r).postRegion r).takeHeld r).settleRegions))
    -- retention and pads
    ∧ (Ready layRetentionMap c s fl →
      let r := fld p 0 1
      let u := s₁.modRegion r fun g => { g with retention := fld p 8 16 }
      let all := (maskBits (fld p 8 16) (retBanks r)).length
      ((s₁.region r).st = .nap → exec (.retentionMap c) s = .next (s₁.complete fl 0x0604 (.bare .notPermitted)))
      ∧ ((s₁.region r).st ≠ .nap → exec (.retentionMap c) s
          = .next (u.complete fl 0x0604 (.ok (leBytes 2 (u.keptBanks r).length ++ leBytes 2 (all - (u.keptBanks r).length))))))
    ∧ (Ready layPadRelease c s fl →
      (s₁.asleep 13 = true → (fld p 0 4 ≠ 0 ∨ fld p 4 1 ≠ 0) → exec (.padRelease c) s = .next (s₁.complete fl 0x0605 (.bare .notPermitted)))
      ∧ (s₁.asleep 13 = false →
        let u : State := { s₁ with pow := { s₁.pow with
          heldQuads := maskMinus s₁.pow.heldQuads (fld p 0 4), heldPeer := maskMinus s₁.pow.heldPeer (fld p 4 1)
          heldCtrl := s₁.pow.heldCtrl && !bit (fld p 5 1) 0, heldGpio := maskMinus s₁.pow.heldGpio (fld p 6 2) } }
        exec (.padRelease c) s = .next (u.settleAllTx.complete fl 0x0605
          (.ok (leBytes 4 u.pow.heldQuads ++ leBytes 1 u.pow.heldPeer ++ leBytes 1 (b2n u.pow.heldCtrl) ++ leBytes 2 u.pow.heldGpio)))))
    -- WATCH_ENTER
    ∧ (Ready layWatchEnter c s fl →
      let retain := bit (fld p 0 1) 0
      let may := (s₁.pow.mode = .ready ∨ s₁.pow.mode = .service) ∧ (s₁.cells.some? fun _ c => c.st != .hibernated) = false ∧ s₁.migrating = false
        ∧ s₁.member = false ∧ (retain = true ∨ s₁.cells = [])
      (¬ may → exec (.watchEnter c) s = .next (s₁.complete fl 0x0606 (.bare .notPermitted)))
      ∧ (may → s₁.pow.sleeps ≠ [] → exec (.watchEnter c) s = .next (s₁.complete fl 0x0606 (.bare .noResource)))
      ∧ (may → s₁.pow.sleeps = [] → exec (.watchEnter c) s
          = .next (((s₁.enterMode .drain).prepareSleep ⟨65535, .watch, false, s₁.time.frc, fl.id, [], [], [], retain, s₁.pow.mode⟩).park fl.id .sleep)))
    -- RESET_SCOPE and the return to service
    ∧ (Ready layResetScope c s fl →
      let kind := 2 * fld p 0 1
      let x := fld p 2 2
      let r := targetRegion kind x
      (fld p 0 1 = 2 → exec (.resetScope c) s = .next ((s₁.modHost fun h => { h with warmAt := some (h.warmAt.getD (s₁.time.frc + msToFrc 1)) }).complete fl 0x0007 (.ok [])))
      ∧ (fld p 0 1 ≠ 2 → targetPop kind x = false → exec (.resetScope c) s = .next (s₁.complete fl 0x0007 (.bare .badParam)))
      ∧ (fld p 0 1 ≠ 2 → targetPop kind x = true → 14 ≤ r → exec (.resetScope c) s = .next (s₁.complete fl 0x0007 (.bare .notPermitted)))
      ∧ (fld p 0 1 ≠ 2 → targetPop kind x = true → r < 14 → ((s₁.region r).prepare || s₁.bistOn kind x) = true →
          exec (.resetScope c) s = .next (s₁.complete fl 0x0007 (.bare .noResource)))
      ∧ (fld p 0 1 ≠ 2 → targetPop kind x = true → r < 14 → (s₁.region r).prepare = false → s₁.bistOn kind x = false →
          exec (.resetScope c) s = .next (if s₁.asleep r then s₁.complete fl 0x0007 (.bare .domainAsleep)
            else ((s₁.logMelvi r (targetUnit kind x).1 (targetUnit kind x).2).startReset kind x).park fl.id (.reset kind x))))
    ∧ (s₁.stopped = false → ∀ kind target, s₁.fault.resetAt.has (targetKey kind target) = true → s₁.host.flights = [] → s₁.kernels = [] →
      let u := (targetEngines kind target).foldl (fun s e => s.modEng e fun r => { r with down := false }) s₁
      exec (.returnToService t kind target) s
        = .next (u.modFault fun f => { f with resetAt := f.resetAt.keep fun k _ => !targetIn (k / 4096) (k % 4096) kind target }))

/-- Supplies, POR, WARM, boot and the wake from WATCH (R477, R496, R499, R561, R562, R616 to R619, Table 17-7). -/
def Obligations.SuppliesAndBoot : Prop :=
  ∀ (t : Nat) (s : State),
    let s₁ := s.advance t
    -- POR: BOOT when the rails are in tolerance, else OFF with TOCSIN_N low; everything as after POR but OTP, flash and what has left
    (∀ raw, s.pins.porN = false → s.pins.vddAon = true →
      let u : State := { s.off with pins := ⟨true, true, true, none, none, false⟩ }
      exec (.por t raw) s = .next (if railsOk (u.railCodes raw) then u.enterBoot else u))
    ∧ (s.off.time = TimeSt.reset ∧ s.off.car = Carillon.reset ∧ s.off.cells = [] ∧ s.off.mem = MemSt.reset ∧ s.off.host = HostIf.reset ∧ s.off.pow.mode = .off
      ∧ s.off.vdes = [] ∧ s.off.kernels = [] ∧ s.off.line = LineSt.reset ∧ s.off.clu = Cluster.reset ∧ s.off.bdma = [] ∧ s.off.dome.otp = s.dome.otp
      ∧ s.off.dome.flash = s.dome.flash ∧ s.off.outs = s.outs ∧ s.off.pending = s.pending)
    ∧ exec (.porNLow t) s = .next { s₁.off with pins := ⟨s₁.pins.vddAon, false, s₁.pins.vddAon, none, none, false⟩ }
    ∧ exec (.aonUndervoltage t) s = .next { s₁.off with pins := ⟨false, s₁.pins.porN, false, none, none, false⟩ }
    ∧ (s₁.pins.vddAon = false → exec (.vddAonInTolerance t) s = .next { s₁ with pins := { s₁.pins with vddAon := true, tocsin := !s₁.pins.porN } })
    -- the monitored rails: 2 ms in tolerance before BOOT, 1 ms out of it before RAIL_FAULT
    ∧ (∀ raw sv, s₁.pins.vddAon = true → s₁.pins.porN = true →
      let good := railsOk (s₁.railCodes raw)
      (s₁.pow.mode = .off → good = true → s₁.pins.okSince = none →
        exec (.railMonitorPoll t raw sv) s = .next { s₁ with pins := { s₁.pins with okSince := some s₁.time.frc } })
      ∧ (s₁.pow.mode = .off → good = true → ∀ f, s₁.pins.okSince = some f →
        exec (.railMonitorPoll t raw sv) s = .next (if f + msToFrc 2 ≤ s₁.time.frc then s₁.enterBoot else s₁))
      ∧ (s₁.pow.mode = .off → good = false → exec (.railMonitorPoll t raw sv) s = .next { s₁ with pins := { s₁.pins with okSince := none } })
      ∧ (s₁.pow.mode ≠ .off → good = true → exec (.railMonitorPoll t raw sv) s = .next { s₁ with pins := { s₁.pins with badSince := none } })
      ∧ (s₁.pow.mode ≠ .off → good = false → s₁.pins.badSince = none →
        exec (.railMonitorPoll t raw sv) s = .next { s₁ with pins := { s₁.pins with badSince := some s₁.time.frc } })
      ∧ (s₁.pow.mode ≠ .off → good = false → ∀ f, s₁.pins.badSince = some f → f + msToFrc 1 ≤ s₁.time.frc →
        exec (.railMonitorPoll t raw sv) s
          = .next (({ s₁ with pins := { s₁.pins with badSince := none } } : State).fatalChip 2 (initId 15 0 0) sv)))
    -- WARM: what Table 17-7 keeps, and what it clears
    ∧ (s₁.pow.mode ≠ .off → exec (.warmReset t true) s = .next s₁.warm)
    ∧ (s₁.pow.mode ≠ .off → (∃ f, s₁.host.warmAt = some f ∧ f ≤ s₁.time.frc) → exec (.warmReset t false) s = .next s₁.warm)
    ∧ (s₁.host.warmAt = none → exec (.warmReset t false) s = .next s₁)
    ∧ (s.warm.time.frc = s.time.frc ∧ s.warm.time.convs = s.time.convs ∧ s.warm.time.anchors = [] ∧ s.warm.pow.mode = .boot ∧ s.warm.cells = [] ∧ s.warm.kernels = []
      ∧ s.warm.car = Carillon.reset ∧ s.warm.host.tenants = [] ∧ s.warm.host.holdMs = 40 ∧ s.warm.mem.ranges = [] ∧ s.warm.mem.logs = s.mem.logs
      ∧ s.warm.mem.retPages = s.mem.retPages ∧ s.warm.mem.retBanks = s.mem.retBanks ∧ s.warm.pow.heldQuads = s.pow.heldQuads ∧ s.warm.pow.heldPeer = s.pow.heldPeer
      ∧ s.warm.pow.heldGpio = s.pow.heldGpio ∧ s.warm.pow.heldCtrl = s.pow.heldCtrl ∧ s.warm.dome.otp = s.dome.otp ∧ s.warm.dome.debug = false
      ∧ s.warm.fsc.rules = s.fsc.rules ∧ s.warm.line = LineSt.reset ∧ s.warm.clu = Cluster.reset ∧ s.warm.noc = Noc.reset)
    -- boot
    ∧ (s₁.pow.mode = .boot → s₁.host.server = .nobody → exec (.domeBoot t) s = .next s₁.bootMelvi)
    ∧ (∀ x, s₁.dome.slot = some x → s₁.pow.mode = .boot → s₁.host.server = .melvi → s₁.dome.startAt + msToFrc 2000 ≤ s₁.time.frc →
      exec (.bootFallback t) s = .next (if !headerConfirmed (s₁.slotHeader x) && s₁.slotOk (1 - x) then (s₁.erase (slotBase x) 4096).bootMelvi else s₁))
    ∧ (s₁.pow.mode = .boot → s₁.host.server = .melvi →
      exec (.bootComplete t) s = .next ((if fld (s₁.bytesAt (hbmDump + 16) 4) 0 4 = 1 then s₁ else s₁.write melviWho hbmDump s₁.logHeader false).divideSlots.enterMode .ready))
    -- the wake from WATCH
    ∧ (∀ w perst, s₁.pow.watch = some w → s₁.pow.mode = .watch → w.waking = none → (perst || s₁.fsc.wakeReq) = true →
      (w.hbmRetain = true → exec (.watchWake t perst) s = .next { s₁ with pow := { s₁.pow with watch := some { w with waking := some s₁.time.frc } } })
      ∧ (w.hbmRetain = false → exec (.watchWake t perst) s = .next s₁.wakeToBoot))
    ∧ (∀ w f, s₁.pow.watch = some w → s₁.pow.mode = .watch → w.waking = some f →
      let u := (List.range 14).foldl (fun s r => s.regionFromWatch r) s₁
      let u : State := { u with pow := { u.pow with watch := none } }
      let u := u.modHost fun h => { h with server := .melvi }
      let u := u.enterMode (if u.cells.isEmpty then .ready else .service)
      exec (.watchWakeComplete t) s
        = .next (u.modFsc fun f => { f with wakeReq := false, deferred := 0, pcieWake := f.pcieWake || bit f.deferred 1 }).settleWakes)
    ∧ (s₁.pow.watch = none → exec (.pciePerstNRelease t) s = .next (s₁.modFsc fun x => { x with pcieWake := false }))

/-! ## The Finderscope (chapter 18) -/

/-- What a stream's samples do to its reception (Table 18-4), how a rule takes an event (R522, R524), and every row and command of the
Finderscope. Which samples were seen, decoded and converted are the rows' operands. -/
def Obligations.Finderscope : Prop :=
  -- Table 18-4, a row each
  (∀ (u : State) (n : Nat) (x : FscStream), u.fsc.streams.find? n = some x → x.opened = true → x.chime = true →
    -- invalid samples are ignored (R506), and samples that have not come
    (∀ ev, (ev.frc < x.validAt ∨ u.time.frc < ev.frc) → u.chimeEv n ev = u)
    ∧ (∀ f num den sum g, x.validAt ≤ f → f ≤ u.time.frc → 0 < den → fld x.cfg 22 1 * den ≤ num * 256 →
      let y := { x with
        rx := .syncWait, detAt := f, latched := powerLevel sum 128, gain := some (min g 60), agc := min g 60
        validAt := if x.agc = min g 60 then x.validAt else max x.validAt (f + 4 * (512 * fld x.cfg 5 1)) }
      (x.rx = .search → u.chimeEv n (.detect f num den sum g) = (u.fscCount n 0).putFsc n y)
      ∧ (x.rx ≠ .search → x.latched + fld x.cfg 7 1 ≤ powerLevel sum 128 → u.chimeEv n (.detect f num den sum g) = (u.fscCount n 3).putFsc n y)
      ∧ (x.rx ≠ .search → powerLevel sum 128 < x.latched + fld x.cfg 7 1 → u.chimeEv n (.detect f num den sum g) = u.fscCount n 4))
    ∧ (∀ f num den sum g, x.validAt ≤ f → f ≤ u.time.frc → num * 256 < fld x.cfg 22 1 * den → u.chimeEv n (.detect f num den sum g) = u)
    ∧ (∀ f w sum, x.validAt ≤ f → f ≤ u.time.frc → x.rx = .syncWait →
      (f ≤ x.detAt + usToFrc 400 → (maskBits (w ^^^ 0xC35A1E6D) 32).length ≤ 3 → u.chimeEv n (.sync f w sum)
        = u.putFsc n { x with rx := .receive, syncAt := f, rssi := powerLevel sum 256, latched := powerLevel sum 256 })
      ∧ ((3 < (maskBits (w ^^^ 0xC35A1E6D) 32).length ∨ x.detAt + usToFrc 400 < f) → u.chimeEv n (.sync f w sum) = u))
    ∧ (∀ f sum, x.validAt ≤ f → f ≤ u.time.frc → x.rx ≠ .search → powerLevel sum 128 + 20 < x.latched → u.chimeEv n (.level f sum)
        = (u.fscCount n 2).putFsc n { x with rx := .search, gain := none }))
  -- R522, R524: a rule that is not enabled ignores the event; inside the gap it is limited; else it fires at COUNT in an admitted mode
  ∧ (∀ (r : FscRule) (i : Nat) (ev : FscEv) (f : Nat) (m : ChipMode),
    (bit r.ctrl 0 = false → r.take i ev f m = (r, .nothing))
    ∧ (bit r.ctrl 0 = true → (r.meets i ev).1 = false → r.take i ev f m = ((r.meets i ev).2, .nothing))
    ∧ (bit r.ctrl 0 = true → (r.meets i ev).1 = true →
      let q := (r.meets i ev).2
      ((∃ g, q.gaps.find? ev.gapBy = some g ∧ f < g + msToFrc (fld q.raw 6 2)) → r.take i ev f m = (q, .limited))
      ∧ ((∀ g, q.gaps.find? ev.gapBy = some g → g + msToFrc (fld q.raw 6 2) ≤ f) →
        let past := (q.times.filter fun g => fld q.raw 4 2 == 0 || f ≤ g + msToFrc (fld q.raw 4 2)).length
        (fld q.raw 3 1 ≤ past + 1 → q.admits m = true → r.take i ev f m = ({ q with times := [], gaps := q.gaps.set ev.gapBy f }, .fires))
        ∧ ((past + 1 < fld q.raw 3 1 ∨ q.admits m = false) → (r.take i ev f m).2 = .nothing ∧ (r.take i ev f m).1.raw = r.raw))))
  ∧ (∀ r : FscRule, r.admits .boot = false ∧ r.admits .fault = false ∧ (r.admits .watch = bit r.ctrl 1) ∧ (r.admits .service = bit r.ctrl 2)
      ∧ (r.admits .drain = (bit r.ctrl 1 || bit r.ctrl 2)))
  -- the rows
  ∧ (∀ (t n : Nat) (s : State),
    let s₁ := s.advance t
    (∀ x, s₁.fsc.streams.find? n = some x →
      -- windows
      (x.opened = false → s₁.windowNow x = true → exec (.listenWindowOpen t n) s
        = .next (s₁.putFsc n { x with
          rx := .search, gain := none, opened := true, energyAt := s₁.time.frc, chainAt := s₁.time.frc
          validAt := max x.validAt (s₁.time.frc + 96 * (512 * fld x.cfg 5 1)) }))
      ∧ (x.opened = true → s₁.windowNow x = false → exec (.listenWindowClose t n []) s
        = .next ((s₁.loseReception n).modFsc fun y => { y with streams := y.streams.upd n fun z =>
            { z with opened := false, energy := z.energy + (s₁.time.frc - z.energyAt) } }).rcTail)
      -- the ends of a reception
      ∧ (x.rx = .syncWait → x.detAt + usToFrc 400 ≤ s₁.time.frc → exec (.chimeSyncTimeout t n []) s
        = .next ((s₁.fscCount n 2).putFsc n { x with rx := .search, gain := none }))
      ∧ (s₁.deaf x = true → exec (.chimeLost t n []) s = .next (s₁.loseReception n))
      ∧ (∀ llrs, x.rx = .receive → x.syncAt + usToFrc 800 ≤ s₁.time.frc →
        let bs := (ccSearch ((List.range 64).map fun k => (List.range 3).map fun i => llrs.getD (3 * k + i) 0)).1
        let y := { x with rx := .search, gain := none }
        exec (.chimeDecode t n [] llrs) s = .next (if crcOk crc16 bs then (s₁.putFsc n y).deliverChime n y bs else (s₁.fscCount n 2).putFsc n y))
      -- energy of the open window
      ∧ (∀ sum cnt, x.energyOn = true → x.opened = true → msToFrc (fld x.cfg 23 1) ≤ x.energy + (s₁.time.frc - x.energyAt) →
        let u := s₁.putFsc n { x with energy := x.energy + (s₁.time.frc - x.energyAt) - msToFrc (fld x.cfg 23 1), energyAt := s₁.time.frc }
        exec (.energyEvent t n sum cnt) s = .next (if 0 < cnt ∧ x.validAt < s₁.time.frc ∧ sfld x.cfg 24 1 ≤ powerLevel sum cnt then u.fscEvent ⟨3, n, n, 0, 0, none, none, none, 0⟩ else u))
      -- PRACH: the last occasion whose window has closed is evaluated once
      ∧ (∀ data o, (s₁.closedOccasions x).getLast? = some o → s₁.deaf x = false →
        let h := watchHits [fld x.cfg 25 1, 0, fld x.cfg 30 2, 1, fld x.cfg 28 2] (x.mixed data) (fld x.cfg 38 2)
          ((List.range (watchPlan x).length).zip (watchPlan x)) (s₁.putFsc n { x with occ := some o.1 })
        exec (.prachWatchDetect t n data) s = .next (h.1.foldl (fun s i =>
          (s.fscCount n 8).fscEvent ⟨2, n, n, 0, 0, some x.cell, none, none, x.cell + 65536 * i⟩) h.2)))
    -- the ADC
    ∧ (s₁.fsc.adc.num ≠ 0 → s₁.fsc.adc.calibrating = false → s₁.fsc.adc.passUs = 0 → s₁.fsc.adc.running = none →
      exec (.adcPassStart t) s = .next (s₁.modAdc fun a => { a with running := some 0, convAt := s₁.time.frc }))
    ∧ (s₁.fsc.adc.num ≠ 0 → s₁.fsc.adc.calibrating = false → s₁.fsc.adc.passUs ≠ 0 →
      let us := s₁.time.frc * 100 / 98304
      us % s₁.fsc.adc.passUs = 0 → s₁.fsc.adc.lastPass ≠ some (us / s₁.fsc.adc.passUs) →
      exec (.adcPassStart t) s = .next (s₁.modAdc fun a => { a with
        lastPass := some (us / a.passUs), running := if a.running.isSome then a.running else some 0
        convAt := if a.running.isSome then a.convAt else s₁.time.frc }))
    ∧ (∀ e raw, s₁.fsc.adc.running = some e → s₁.fsc.adc.calibrating = false → s₁.fsc.adc.convAt + usToFrc 1 ≤ s₁.time.frc →
      let x := (s₁.fsc.adc.entries.get AdcEntry.reset e).result (s₁.fsc.adc.cal raw)
      let u := s₁.modAdc fun a => { a with entries := a.entries.set e x, running := if s₁.fsc.adc.num ≤ e + 1 then none else some (e + 1), convAt := s₁.time.frc }
      exec (.adcConversion t raw) s = .next ((if s₁.fsc.adc.num ≤ e + 1 then u.rcTail else u).fscEvent
        ⟨4, e, e, 0, 0, none, if x.invalid then none else some x.value, none, x.value⟩))
    ∧ (n < 32 →
      let x := s₁.fsc.adc.entries.get AdcEntry.reset n
      exec (.adcResultRead t n) s = .next ((s₁.emit (.csrRead (fscBase + 0x100 + 4 * n)
          (x.value + 4096 * b2n x.new + 8192 * b2n x.invalid + 65536 * x.seq))).modAdc fun a =>
        { a with entries := a.entries.upd n fun x => { x with new := false } }))
    ∧ (∀ off gain, s₁.fsc.adc.calibrating = true → s₁.fsc.adc.calAt + usToFrc 1200 ≤ s₁.time.frc →
      let o := sgn 12 (unsgn 12 off)
      let u := s₁.modAdc fun a => { a with offset := o, gain := gain % 65536, calibrated := true, calibrating := false, convAt := s₁.time.frc }
      exec (.adcCalibrationDone t off gain) s = .next (u.rcTail.completeWaits fun w =>
        if w = .adcCal then some (.ok (leBytes 2 (unsgn 16 o) ++ leBytes 2 (gain % 65536))) else none))
    -- the urgent burst; 110 °C or more is THERMAL_TRIP
    ∧ (∀ codes sv, s₁.pow.mode ≠ .off →
      let cal := (List.range 12).map fun i => s₁.fsc.adc.cal (codes.getD i 0)
      let u := (s₁.modAdc fun a => { a with therm := cal, burstAt := some s₁.time.frc, convAt := s₁.time.frc }).rcTail.coolRegions
      ((∀ i < 12, cal.getD i 0 < 2784) → exec (.urgentBurst t codes sv) s = .next u)
      ∧ (∀ i, ((List.range 12).find? fun i => 2784 ≤ cal.getD i 0) = some i → ∃ r, r < 16
          ∧ exec (.urgentBurst t codes sv) s = .next (u.fatalChip 1 (initId r 0 0) sv)))
    -- timers and timeline points
    ∧ (∀ x, s₁.fsc.timers[n]? = some x → x.on = true → x.start + msToFrc (bits x.cfg 23 0) ≤ s₁.time.frc →
      exec (.fscTimerExpiry t n) s = .next ((s₁.modFsc fun y => { y with timers := (y.timers.set n
        { x with start := x.start + msToFrc (bits x.cfg 23 0), on := bit x.cfg 30 }) }).fscEvent ⟨6, n, n, 0, 0, none, none, none, 0⟩))
    ∧ (∀ r tl, s₁.fsc.rules[n]? = some r → s₁.anchor? (fld r.raw 14 2) = some tl → r.event = 7 →
      let p := fld r.raw 24 4
      let off := symOff tl.num (tpSlot p) (tpSym p)
      let ahead := s₁.thetaNow + (fld r.raw 30 2 * 1000 : Nat) * nsUnit
      let k := if nominal tl.toff (frameAt tl.toff ahead) off ≤ ahead then frameAt tl.toff ahead else frameAt tl.toff ahead - 1
      tpValid tl.num p = true → sfnOf tl.sfnBase k % (max 1 (fld r.raw 28 2)) = tpSfn p % (max 1 (fld r.raw 28 2)) → r.lastK ≠ some k →
      s₁.thetaNow ≤ nominal tl.toff k off →
      exec (.timelineEvent t n) s = .next ((s₁.modFsc fun y => { y with rules := y.rules.set n { r with lastK := some k } }).fscEvent
        ⟨7, 0, fld r.raw 14 2, 0, 0, none, none, some n, 0⟩)))
  -- the commands
  ∧ (∀ (c : CmdRef) (s : State) (fl : Flight),
    let s₁ := s.advance c.t
    let p := fl.params c.buf
    (Ready layFscListenConfig c s fl →
      let n := fld p 0 1
      (fld p 1 1 = 0 → exec (.fscListenConfig c) s
        = .next (((s₁.loseReception n).modFsc fun x => { x with streams := x.streams.del n }).complete fl 0x0701 (.ok [])))
      ∧ (fld p 1 1 ≠ 0 → s₁.listens (fld p 2 2) = false → exec (.fscListenConfig c) s = .next (s₁.complete fl 0x0701 (.bare .badParam)))
      ∧ (fld p 1 1 ≠ 0 → s₁.listens (fld p 2 2) = true →
        let u := s₁.loseReception n
        let old := u.fsc.streams.find? n
        let x : FscStream := ⟨fit 48 p, false, .search, 0, 0, 0, 0, none, old.bind FscStream.last, 0, u.time.frc, none,
          ncoIncrement (sfld p 8 4), u.time.frc, 0, 0⟩
        let x := { x with opened := u.windowNow x }
        let put (y : FscStream) := exec (.fscListenConfig c) s = .next ((u.putFsc n y).complete fl 0x0701 (.ok []))
        (x.opened = false → put x)
        ∧ (x.opened = true → (∀ o, old = some o → o.opened = false ∨ o.trail ≠ x.trail) →
            put { x with validAt := u.time.frc + 96 * (512 * fld x.cfg 5 1) })
        ∧ (∀ o, x.opened = true → old = some o → o.opened = true → o.trail = x.trail → o.phi = x.phi → fld o.cfg 5 1 = fld x.cfg 5 1 →
            put { x with chainAt := o.chainAt, validAt := o.validAt, agc := o.agc })
        ∧ (∀ o, x.opened = true → old = some o → o.opened = true → o.trail = x.trail → o.phi ≠ x.phi → fld o.cfg 5 1 = fld x.cfg 5 1 →
            put { x with chainAt := o.chainAt, validAt := max o.validAt (u.time.frc + 48 * (512 * fld x.cfg 5 1)), agc := o.agc })))
    ∧ (Ready layFscRulesLoad c s fl →
      let n := fld p 0 2
      let ws := (List.range 8).map fun k => fld p (8 + 4 * k) 4
      let good := n ≤ 64 ∧ 64 + 32 * n ≤ p.length ∧ allZero ((p.drop 2).take 6) = true ∧ allZero ((p.drop 40).take 24) = true
        ∧ (∀ w ∈ ws, fscTimerOk w = true) ∧ (∀ k < n, fscRuleOk (fscRuleAt p k) = true ∧ s₁.fscPointOk (fscRuleAt p k) = true)
      (¬ good → exec (.fscRulesLoad c) s = .next (s₁.complete fl 0x0702 (.bare .badParam)))
      ∧ (good → s₁.pow.mode = .drain → exec (.fscRulesLoad c) s = .next (s₁.complete fl 0x0702 (.bare .notPermitted)))
      ∧ (good → s₁.pow.mode ≠ .drain → exec (.fscRulesLoad c) s = .next ((s₁.modFsc fun x => { x with
          rules := (List.range n).map fun k => ⟨fscRuleAt p k, [], [], true, none⟩
          timers := ws.map fun w => ⟨w, s₁.time.frc, bit w 31⟩ }).complete fl 0x0702 (.ok []))))
    ∧ (Ready layAdcSeqConfig c s fl → exec (.adcSeqConfig c) s = .next ((s₁.modAdc fun a => { a with
        num := fld p 0 1, finish := fld p 1 1 == 1, passUs := fld p 4 4, running := none, lastPass := none
        entries := (List.range (fld p 0 1)).foldl (fun t e =>
          t.set e ((t.get AdcEntry.reset e).configure (fld p (16 + 4 * e) 1) (fld p (17 + 4 * e) 1))) a.entries }).complete fl 0x0703 (.ok [])))
    ∧ (Ready layAdcSelfcal c s fl → exec (.adcSelfcal c) s = .next ((s₁.modAdc fun a => { a with calibrating := true, calAt := if a.calibrating then a.calAt else s₁.time.frc }).park fl.id .adcCal))
    ∧ (Ready layFscStatus c s fl →
      let buf := fld p 0 8
      (buf = 0 → bit (fld p 12 1) 0 = false → exec (.fscStatus c) s = .next (s₁.complete fl 0x0705 (.ok s₁.fscInline)))
      ∧ (buf = 0 → bit (fld p 12 1) 0 = true → exec (.fscStatus c) s
          = .next ((s₁.modFsc fun x => { x with wakes := 0 }).complete fl 0x0705 (.ok s₁.fscInline)))
      ∧ (buf ≠ 0 → bit (fld p 12 1) 0 = false → fl.fn ≠ 0 → exec (.fscStatus c) s = .next (s₁.complete fl 0x0705 (.okBuf buf (s₁.fscBuffer fl.fn))))
      ∧ (buf ≠ 0 → bit (fld p 12 1) 0 = false → fl.fn = 0 → exec (.fscStatus c) s = .next ((s₁.modAdc fun a =>
          { a with entries := a.entries.each fun _ x => { x with newSt := false } }).complete fl 0x0705 (.okBuf buf (s₁.fscBuffer 0))))
      ∧ (buf ≠ 0 → bit (fld p 12 1) 0 = true → ∃ u : State, exec (.fscStatus c) s = .next (u.complete fl 0x0705 (.okBuf buf (s₁.fscBuffer fl.fn)))
          ∧ u.fsc.streams = s₁.fsc.streams ∧ u.fsc.rules = s₁.fsc.rules ∧ u.mem = s₁.mem
          ∧ (∀ n, (s₁.fscSeen fl.fn).contains n = true → u.fsc.counts.find? n = none) ∧ (fl.fn = 0 → u.fsc.rateLimited = 0 ∧ u.fsc.wakes = 0))))

/-! ## The Collimator (chapter 19) -/

/-- Targets, learning and steps of lanes and arrays, ageing, and the calibration commands. Estimates are operands of the rows; the units are
those of log entry 17. -/
def Obligations.Collimator : Prop :=
  -- R535: no set LEARNED gives none (the default), one set gives itself, beyond the outermost that one, between two a straight line
  (∀ arc tc, interpolate arc tc [] = none)
  ∧ (∀ arc tc a, interpolate arc tc [a] = some a.2)
  ∧ (∀ tc (a b : Int × Int), a.1 < b.1 →
    (tc < a.1 → interpolate false tc [a, b] = some a.2) ∧ (b.1 < tc → interpolate false tc [a, b] = some b.2)
    ∧ (a.1 < tc → tc < b.1 → interpolate false tc [a, b] = some (a.2 + (b.2 - a.2) * (tc - a.1) / (b.1 - a.1))))
  -- R536: an EMPTY set takes the estimate and becomes LEARNED; every other set stays
  ∧ (∀ (a : ArrayCal) sh est, let n := nearestSet (clampTemp a.tObj)
      n < 4 ∧ (a.sets.length = 4 → a.sets.getD n none = none → (a.learn sh est).sets.getD n none = some est)
      ∧ (∀ k, k ≠ n → (a.learn sh est).sets.getD k none = a.sets.getD k none))
  -- R543: a gain moves by at most 0.05 dB towards its target and stays there; a phase by at most 0.3 degrees along the shorter arc
  ∧ (∀ lim cur tgt : Int, 0 ≤ lim →
      (stepTo false lim cur tgt - cur ≤ lim ∧ cur - stepTo false lim cur tgt ≤ lim) ∧ (tgt - cur ≤ lim → cur - tgt ≤ lim → stepTo false lim cur tgt = tgt)
      ∧ (lim < tgt - cur → stepTo false lim cur tgt = cur + lim) ∧ (lim < cur - tgt → stepTo false lim cur tgt = cur - lim))
  -- R538: a tap moves by at most one LSB, and no other tap with it
  ∧ (∀ (c : LaneCal) tc i, (∀ v, c.taps[i]? = some v → ∃ w, (c.moveTap tc i).taps[i]? = some w ∧ w ≤ v + 1 ∧ v ≤ w + 1)
      ∧ (∀ k, k ≠ i → (c.moveTap tc i).taps[k]? = c.taps[k]?) ∧ (c.moveTap tc i).sets = c.sets)
  -- the rows
  ∧ (∀ (t n k : Nat) (s : State),
    let s₁ := s.advance t
    let l := s₁.lane n
    (s₁.cal.policy.lanes = true → 4 ≤ l.stageOf (isPeer n) k → l.stageOf (isPeer n) k ≠ 14 → (dataLanes n).contains k = true →
      let c := (s₁.laneCal n k).since l.upAt
      (∀ f, c.stepAt = some f → f + msToFrc 1 ≤ s₁.time.frc) → s₁.cal.policy.parallel = false →
      let tc := clampTemp (s₁.laneTemp n)
      (∀ tap, exec (.laneTapStep t n k none tap) s = .next (s₁.setLaneCal n k { c.moveTap tc tap with stepAt := some s₁.time.frc }))
      ∧ (∀ est tap, exec (.laneTapStep t n k (some est) tap) s
          = .next (s₁.setLaneCal n k { (c.learn (s₁.laneTemp n) s₁.cal.policy.laneShift est).moveTap tc tap with stepAt := some s₁.time.frc })))
    ∧ ((s₁.cal.policy.lanes = false ∨ l.stageOf (isPeer n) k < 4 ∨ l.stageOf (isPeer n) k = 14) → ∀ est tap, exec (.laneTapStep t n k est tap) s = .next s₁)
    ∧ (∀ w h, isPeer n = false → l.stage = 9 → (∀ f, (s₁.laneCal n 0).sweepAt = some f → f + msToFrc 100 ≤ s₁.time.frc) →
      exec (.eyeSweep t n 0 w h) s = .next ((s₁.setLaneCal n 0 { s₁.laneCal n 0 with
        sweepAt := some s₁.time.frc, eyeW := w % 65536, eyeH := h % 65536 }).modLane n fun l => { l with eyeW := min 65535 (w % 65536), eyeH := min 65535 (h % 65536) }))
    -- arrays: n is the cell
    ∧ (s₁.stopped = false → ∀ a, s₁.cal.arrays.find? n = some a → s₁.cal.policy.arrays = true →
      (∀ est resid delays, s₁.calPaused n a = true → exec (.arrayEstimate t n est resid delays) s = .next s₁)
      ∧ (∀ est resid delays, s₁.calPaused n a = false → a.since + s₁.slotsFrc n a.avg ≤ s₁.time.frc →
        let ds := (List.range a.size).map fun e => delays.getD e 0
        let b := { (a.learn s₁.cal.policy.arrayShift (pinned a est)) with
          resid := clampI (-32768) 32767 resid, delays := ds.map (clampI (-32768) 32767), since := s₁.time.frc }
        let u := s₁.modCal fun x => { x with arrays := x.arrays.set n b }
        exec (.arrayEstimate t n est resid delays) s = .next (if s₁.cal.policy.delayPs < (worstDelay ds).2
          then u.post (u.cellOwner n) 0x0801 1 (n + 65536 * ((worstDelay ds).1 % 256)) else u))
      ∧ (a.stepAt + msToFrc 10 ≤ s₁.time.frc → exec (.calPublish t n) s
          = .next (s₁.modCal fun x => { x with arrays := x.arrays.set n { a.step with stepAt := s₁.time.frc } })))
    -- ageing: n is the region
    ∧ (s₁.stopped = false → s₁.cal.policy.ageing = true → n < 13 → (s₁.region n).st = .active →
      let a := s₁.ageing n
      (∀ f, a.readAt = some f → f + msToFrc 60000 ≤ s₁.time.frc) → ∀ drift,
      let b := { a with drift := drift, readAt := some s₁.time.frc }
      (-2000 * ((a.trim : Int) + 1) ≤ drift → a.trim ≤ s₁.cal.policy.trimMax → exec (.ageingRead t n drift) s
        = .next (s₁.modCal fun x => { x with ageing := x.ageing.set n b }))
      ∧ (drift < -2000 * ((a.trim : Int) + 1) → a.trim + 1 < s₁.cal.policy.trimMax → exec (.ageingRead t n drift) s
        = .next (((s₁.modCal fun x => { x with ageing := x.ageing.set n { b with trim := a.trim + 1 } }).modRegion n fun g => { g with changing := true }).postAll
            0x0802 1 (ageWord n { b with trim := a.trim + 1 })))
      ∧ (drift < -2000 * ((s₁.cal.policy.trimMax : Int) + 1) → a.trim = s₁.cal.policy.trimMax → a.warnAt = none → exec (.ageingRead t n drift) s
        = .next ((s₁.modCal fun x => { x with ageing := x.ageing.set n { b with warnAt := some s₁.time.frc } }).postAll
            0x0802 2 (ageWord n { b with warnAt := some s₁.time.frc })))))
  -- the commands
  ∧ (∀ (c : CmdRef) (s : State) (fl : Flight),
    let s₁ := s.advance c.t
    let p := fl.params c.buf
    (Ready layArrayCalConfig c s fl →
      let cell := fld p 0 2
      let act := fld p 2 1
      let bad := s₁.arrayCalBad (fl.input c)
      (bad = true → exec (.arrayCalConfig c) s = .next (s₁.complete fl 0x0306 (.bare .badParam)))
      ∧ (bad = false → s₁.ownsCell fl.fn cell = false → exec (.arrayCalConfig c) s = .next (s₁.complete fl 0x0306 (.bare .notPermitted)))
      ∧ (bad = false → s₁.ownsCell fl.fn cell = true → ∀ x, s₁.cells.find? cell = some x →
        (act = 0 → x.st = .service → exec (.arrayCalConfig c) s = .next (s₁.complete fl 0x0306 (.bare .notPermitted)))
        ∧ (act = 0 → x.st ≠ .service → exec (.arrayCalConfig c) s
            = .next ((s₁.modCal fun y => { y with arrays := y.arrays.del cell }).complete fl 0x0306 (.ok [])))
        ∧ (act = 1 → exec (.arrayCalConfig c) s = .next ((s₁.modCal fun y =>
            { y with arrays := y.arrays.set cell (arrayOf (s₁.cal.arrays.find? cell) p s₁.time.frc) }).complete fl 0x0306 (.ok [])))
        ∧ (2 ≤ act → s₁.cal.arrays.find? cell = none → exec (.arrayCalConfig c) s = .next (s₁.complete fl 0x0306 (.bare .notReady)))
        ∧ (∀ a, s₁.cal.arrays.find? cell = some a →
          (act = 2 → exec (.arrayCalConfig c) s = .next ((s₁.modCal fun y =>
            { y with arrays := y.arrays.set cell { a with temp := sfld p 10 2, tempAt := some s₁.time.frc } }).complete fl 0x0306 (.ok [])))
          ∧ (act = 3 → exec (.arrayCalConfig c) s = .next ((s₁.modCal fun y =>
            { y with arrays := y.arrays.set cell { a with sets := a.sets.set (fld p 7 1) (some ((calData p a.size).map polarOf)) } }).complete fl 0x0306 (.ok []))))))
    ∧ (Ready layCalStatus c s fl →
      let id := fld p 2 2
      (fld p 0 1 = 0 → s₁.ownsLane fl.fn id = false → exec (.calStatus c) s = .next (s₁.complete fl 0x0801 (.bare .notPermitted)))
      ∧ (fld p 0 1 = 0 → s₁.ownsLane fl.fn id = true → exec (.calStatus c) s = .next (s₁.complete fl 0x0801 (.ok (s₁.calLane id))))
      ∧ (fld p 0 1 = 2 → fl.fn ≠ 0 → exec (.calStatus c) s = .next (s₁.complete fl 0x0801 (.bare .notPermitted)))
      ∧ (fld p 0 1 = 2 → fl.fn = 0 → exec (.calStatus c) s = .next (s₁.complete fl 0x0801 (.ok (s₁.calAgeing id))))
      ∧ (fld p 0 1 = 1 → s₁.ownsCell fl.fn id = false → fld p 4 4 = 0 → fld p 8 8 = 0 → exec (.calStatus c) s = .next (s₁.complete fl 0x0801 (.bare .notPermitted)))
      ∧ (fld p 0 1 = 1 → s₁.ownsCell fl.fn id = true → fld p 4 4 = 0 → fld p 8 8 = 0 → exec (.calStatus c) s = .next (s₁.complete fl 0x0801 (.ok (s₁.calArray id))))
      ∧ (fld p 0 1 = 1 → fld p 8 8 ≠ 0 → fld p 4 4 < 16 + 32 * s₁.calSize id → exec (.calStatus c) s = .next (s₁.complete fl 0x0801 (.bare .badParam)))
      ∧ (fld p 0 1 = 1 → s₁.ownsCell fl.fn id = true → fld p 8 8 ≠ 0 → 16 + 32 * s₁.calSize id ≤ fld p 4 4 → exec (.calStatus c) s
          = .next (s₁.complete fl 0x0801 (.okBuf (fld p 8 8) (s₁.calArray id ++ ((s₁.cal.arrays.find? id).map ArrayCal.buffer).getD [])))))
    ∧ (Ready layCalPolicy c s fl →
      let x := fld p 0 1
      exec (.calPolicy c) s = .next ((s₁.modCal fun y => { y with
        policy := ⟨bit x 0, bit x 1, bit x 2, bit x 3, fld p 1 1, fld p 2 1, fld p 3 1, fld p 4 4⟩ }).complete fl 0x0802 (.ok []))))

/-! ## The Dome and the Damper (chapter 20) -/

/-- OTP, key slots, the Dome's commands and what they do at their completion, and what the Damper does with each symbol (R556, R557, R564 to
R571, R575 to R581). The hash and signature functions are those of Config: the outside standards' (log entry 7). -/
def Obligations.DomeAndDamper : Prop :=
  -- R556: a burned bit stays burned, and what is burned is set; R557: what a usable slot needs
  (∀ (u : State) (a x k : Nat) (bs : List Byte), (u.otpByte x).testBit k = true → ((u.burn a bs).otpByte x).testBit k = true)
  ∧ (∀ (u : State) (a : Nat) (b : Byte) (k : Nat), b.toNat.testBit k = true → ((u.burn a [b]).otpByte a).testBit k = true)
  ∧ (∀ (u : State) (k use : Nat) (d sig : List Byte), u.sigOk k use d sig = true ↔ k ≤ 4 ∧ u.slotValid k = true ∧ u.slotRevoked k = false
      ∧ (u.slotUse k).testBit use = true ∧ shake (u.slotKey k) = u.slotDigest k ∧ Config.falconVerify (nats (u.slotKey k)) (nats d) (nats sig) = true)
  -- R579, R580: admissions up to MAX_STREAMS; the sixteenth violation within 1 s blocks; R577: the order of the steps
  ∧ (∀ (u : State) (fn : Nat) (e : List Byte) (n : Nat),
    let l := (u.guard fn).admitted.get [] (ceCarrier e)
    (l.contains n = true → u.admitted? fn true e n = (true, u))
    ∧ (l.contains n = false → fld e 4 2 ≤ l.length → u.admitted? fn true e n = (false, u))
    ∧ (l.contains n = false → l.length < fld e 4 2 → (u.admitted? fn true e n).1 = true
        ∧ (((u.admitted? fn true e n).2.guard fn).admitted.get [] (ceCarrier e)) = l ++ [n]))
  ∧ (∀ (u : State) (fn n cause : Nat) (e : List Byte),
    let g := u.streamGuard n
    let recent := (g.times.filter fun f => u.time.frc < f + 983040000).length
    (15 ≤ recent → ((u.violate fn e n cause).streamGuard n).blocked = true)
    ∧ (recent < 15 → ((u.violate fn e n cause).streamGuard n).blocked = g.blocked))
  ∧ (∀ (u : State) (fn n w num point prb : Nat) (e : List Byte) (ps : List (List Byte)),
    ((u.streamGuard n).blocked = true → u.judgeRecord fn true e n w num point prb ps = (none, u))
    ∧ ((u.streamGuard n).blocked = false → (u.admitted? fn true e n).1 = false →
        u.judgeRecord fn true e n w num point prb ps = (none, (u.admitted? fn true e n).2.violate fn e n 4))
    ∧ (∀ xs : List Int, tddOk e num point = false → (∃ x ∈ xs, x ≠ 0) → u.judgeLevels fn e n num point xs = (true, u.violate fn e n 1))
    ∧ (∀ (k : Nat) lim, levelAbove k ps.length (lim + 1) = true → 0 < k → levelAbove k ps.length (lim - 1) = true → u.levelBreaks k ps.length lim = (true, u))
    ∧ (∀ (k : Nat) lim, levelAbove k ps.length (lim - 1) = false → u.levelBreaks k ps.length lim = (false, u)))
  -- the rows
  ∧ (∀ (t id point : Nat) (s : State),
    let s₁ := s.advance t
    (s₁.asleep 13 = false → s₁.stopped = false →
      (∀ x tl, s₁.line.trails.find? id = some x → s₁.anchor? x.cell = some tl → x.tx = true → tpValid tl.num point = true → s₁.trailLanes id ≠ [] →
        let k := tpFrame tl s₁.thetaNow point
        let strobe := s₁.frcOfPos tl k (symOff tl.num (tpSlot point) (tpSym point))
        (isIq x.label = true → exec (.damperCheck t true id point) s = .next (s₁.damperTrail id x tl.num point strobe))
        ∧ (x.label = 5 → exec (.damperCheck t true id point) s = .next (s₁.damperSamples id x tl.num k point strobe)))
      ∧ (∀ h, (s₁.line.held.find? fun h => h.stream == id) = some h →
        exec (.damperCheck t false id point) s = .next ((s₁.modLine fun l => { l with held := l.held.erase h }).damperStream h)))
    ∧ (∀ (u : State) (x : Trail) (num strobe : Nat), u.carrierEntry x.cell strobe = none →
        ∃ v : State, u.damperTrail id x num point strobe = v.queueRecord id point x.prbFirst (List.replicate x.prbCount (zeros (prbBytes (labelWidth x.label)))))
    ∧ (∀ b f, s₁.dome.challenge = some (b, f) → exec (.challengeExpiry t) s
        = .next (if f + msToFrc 60000 ≤ s₁.time.frc then s₁.modDome fun d => { d with challenge := none } else s₁)))
  -- the commands
  ∧ (∀ (c : CmdRef) (s : State) (fl : Flight),
    let s₁ := s.advance c.t
    let p := fl.params c.buf
    (Ready layAttest c s fl →
      let bs := s₁.attestation fl.fn (p.take 32) (bit (fld p 32 1) 0)
      exec (.attest c) s = .next ((s₁.emit (.hostWrite fl.fn (fld p 40 8) bs false)).complete fl 0x0901 (.ok (leBytes 4 bs.length))))
    ∧ (Ready layImageStage c s fl →
      let x := s₁.inactiveSlot
      let u := if s₁.dome.staging then s₁ else (s₁.erase (slotBase x) 4096).modDome fun d => { d with staging := true }
      (s₁.domeBusy [0x0902, 0x0903] = true → exec (.imageStage c) s = .next (s₁.complete fl 0x0902 (.bare .noResource)))
      ∧ (s₁.domeBusy [0x0902, 0x0903] = false → exec (.imageStage c) s
          = .next ((u.program (slotBase x + 4096 + fld p 0 4) ((p.drop 16).take (fld p 4 4))).park fl.id (.dome .none []))))
    ∧ (Ready layImageCommit c s fl →
      let x := s₁.inactiveSlot
      let h := commitHeader p (shake (s₁.slotImage x (fld p 4 4))) s₁.nextSeq
      (fld p 0 1 = 0 → exec (.imageCommit c) s = .next (if s₁.headerAuth x h
          then (((s₁.erase (slotBase x) 4096).program (slotBase x) h).modDome fun d => { d with staging := false }).park fl.id
              (.dome (.seal x) (leBytes 4 s₁.nextSeq))
          else s₁.complete fl 0x0903 (.bare .authFail)))
      ∧ (fld p 0 1 = 1 → s₁.dome.slot = none → exec (.imageCommit c) s = .next (s₁.complete fl 0x0903 (.bare .notPermitted)))
      ∧ (fld p 0 1 = 1 → ∀ r, s₁.dome.slot = some r →
        let v := headerVersion (s₁.slotHeader r)
        exec (.imageCommit c) s = .next ((s₁.program (slotBase r + 4028) (zeros 4)).park fl.id
          (.dome (.confirm v (headerSeq (s₁.slotHeader r))) (leBytes 1 (max s₁.fwCounter v)))))
      ∧ (fld p 0 1 = 2 → exec (.imageCommit c) s = .next ((s₁.erase (slotBase x) 4096).park fl.id (.dome .none []))))
    ∧ (Ready layKeyEnroll c s fl →
      let slot := fld p 1 1
      let use := fld p 2 1
      let d := shake ((p.drop 1296).take 1793)
      let sig := (p.drop 16).take (fld p 4 2)
      let by_ := fld p 3 1
      let signed (dig : List Byte) (ctx : Nat) : Bool := by_ != slot && s₁.sigOk by_ useEnroll (enrolMessage slot use dig ctx) sig
      let open_ : Bool := !s₁.slotValid slot && bitsWithin (s₁.slotDigest slot) d && (s₁.slotUse slot &&& (255 - use)) == 0
      let left : Bool := (List.range 5).any fun k => k != slot && s₁.slotValid k && !s₁.slotRevoked k && (s₁.slotUse k).testBit useFirmware
      (fld p 0 1 = 0 → exec (.keyEnroll c) s = .next (if signed d 0x45 = false then s₁.complete fl 0x0904 (.bare .authFail)
          else if open_ = false then s₁.complete fl 0x0904 (.bare .notPermitted)
          else (((s₁.program (2048 * slot) (fit 2048 ((p.drop 1296).take 1793))).burn (64 * slot) d).burn (0x140 + slot - 1) (leBytes 1 use)).park
              fl.id (.dome (.enrol slot) [])))
      ∧ (fld p 0 1 = 1 → exec (.keyEnroll c) s = .next (if signed (zeros 64) 0x52 = false then s₁.complete fl 0x0904 (.bare .authFail)
          else if left = false then s₁.complete fl 0x0904 (.bare .notPermitted) else s₁.park fl.id (.dome (.revoke slot) [])))
      ∧ (fld p 0 1 = 2 → exec (.keyEnroll c) s = .next (s₁.complete fl 0x0904 (.ok s₁.keyState)))
      ∧ (fld p 0 1 = 3 → exec (.keyEnroll c) s = .next ((s₁.modDome fun d => { d with
          keks := d.keks.set (fld p 6 1) ((p.drop 1296).take 32) }).complete fl 0x0904 (.ok s₁.keyState))))
    ∧ (Ready layGuardProfileLoad c s fl →
      let g := s₁.guard fl.fn
      let b := p.drop 16
      let n := b.length - 1408
      let auth : Bool := trailerOk (b.drop n) && s₁.trailerAuth useProfile (b.take n) (b.drop n)
      let may : Bool := fld b 6 1 == fl.fn && (fld b 8 8 == 0 || fld b 8 8 == Config.serial % 2 ^ 64) && decide (s₁.profileFloor ≤ fld b 20 1)
        && (!g.present || decide (g.seq ≤ fld b 16 4))
      (fld p 0 1 = 0 → ∃ u : State, exec (.guardProfileLoad c) s = .next (u.complete fl 0x0905 (.ok [])) ∧ (u.guard fl.fn).present = false
          ∧ (u.guard fl.fn).entries = [] ∧ (u.guard fl.fn).since = s₁.time.frc)
      ∧ (fld p 0 1 = 1 → exec (.guardProfileLoad c) s = .next (if auth = false then s₁.complete fl 0x0905 (.bare .authFail)
          else if may = false then s₁.complete fl 0x0905 (.bare .notPermitted)
          else if s₁.domeBusy [0x0905] then s₁.complete fl 0x0905 (.bare .noResource) else s₁.park fl.id (.dome (.profile fl.fn b) [])))
      ∧ (fld p 0 1 = 2 →
        let n := fld p 2 2 + (if fld p 1 1 = 1 then 4096 else 0)
        exec (.guardProfileLoad c) s = .next (if s₁.guardOwner n = fl.fn
          then (s₁.modDome fun d => { d with streams := d.streams.upd n fun g => ⟨[], g.eventAt, false⟩ }).complete fl 0x0905 (.ok []) else s₁.complete fl 0x0905 (.bare .notPermitted)))
      ∧ (fld p 0 1 = 3 → exec (.guardProfileLoad c) s = .next (s₁.complete fl 0x0905 (.ok (leBytes 4 g.seq ++ leBytes 2 g.entries.length
          ++ leBytes 2 (s₁.dome.streams.filter fun e => e.2.blocked && s₁.guardOwner e.1 == fl.fn).length ++ leBytes 4 g.viols)))))
    ∧ (Ready layDebugUnlock c s fl →
      (fld p 0 1 = 0 → exec (.debugUnlock c) s = .next (((s₁.random 16).2.modDome fun d =>
          { d with challenge := some ((s₁.random 16).1, (s₁.random 16).2.time.frc) }).complete fl 0x0906 (.ok (s₁.random 16).1)))
      ∧ (fld p 0 1 = 1 → s₁.dome.challenge = none → exec (.debugUnlock c) s = .next (s₁.complete fl 0x0906 (.bare .notReady)))
      ∧ (fld p 0 1 = 1 → ∀ b f, s₁.dome.challenge = some (b, f) →
        (f + msToFrc 60000 ≤ s₁.time.frc → exec (.debugUnlock c) s = .next (s₁.complete fl 0x0906 (.bare .notReady)))
        ∧ (s₁.time.frc < f + msToFrc 60000 → exec (.debugUnlock c) s
            = .next (if s₁.sigOk (fld p 1 1) useDebug (shake (leBytes 8 Config.serial ++ b ++ leBytes 1 0x44)) ((p.drop 5).take (fld p 3 2))
              then ((s₁.modDome fun d => { d with challenge := none, debug := true, debugEver := true }).postAll 0x0903 1 (fld p 1 1)).complete fl 0x0906 (.ok [])
              else s₁.complete fl 0x0906 (.bare .authFail))))
      ∧ (fld p 0 1 = 2 → exec (.debugUnlock c) s = .next ((s₁.modDome fun d => { d with debug := false }).complete fl 0x0906 (.ok [])))))
  -- what a command does at its completion
  ∧ (∀ (u : State) (res : List Byte) (k : Nat),
    ((u.domeFinish (.seal k) res).1 = u.program (slotBase k + 4032) (shake (u.flashBytes (slotBase k) 4028)))
    ∧ (∀ v q, (u.domeFinish (.confirm v q) res).1 = (u.burnTo 0x150 v).postAll 0x0904 0 (v + 65536 * (q % 65536)))
    ∧ (((u.domeFinish (.revoke k) res).1 = u.burn 0x145 (leBytes 1 (2 ^ k))) ∧ (u.domeFinish (.enrol k) res).1 = u.burn 0x144 (leBytes 1 (2 ^ k)))
    ∧ (∀ fn b, (u.domeFinish (.profile fn b) res).1 = u.putProfile fn b))

/-! ## Faults, fences, self-test and the dump (chapter 21) -/

/-- What the error rows and commands do: engine and block faults, FATAL-REGION, FATAL-CHIP, the dump, the Dome's takeover, FENCE, UNFENCE,
BIST_RUN, DUMP_READ and ERRLOG_READ (R583 to R600). -/
def Obligations.FaultsAndFences : Prop :=
  (∀ (t e r cause : Nat) (ue sv : Bool) (s : State),
    let s₁ := s.advance t
    -- an engine fault: logged, the engine reset, ENGINE_RECOVERED; the third within 60 s fences it
    (engPop e = true → s₁.stopped = false → s₁.asleep (engRegion e) = false →
      let u := if ue then (s₁.logError (engRegion e) ⟨0, 2, 8, initEng e, engBase e, 1, 0, initEng e, 0, s₁.time.frc⟩).1
        else s₁.logMelvi (engRegion e) (initEng e) (engBase e)
      let times := ((u.fault.recov.get [] e).filter fun f => u.time.frc < f + 58982400000) ++ [u.time.frc]
      let v := ((u.startReset 0 e).modFault fun f => { f with recov := f.recov.set e times }).postAll 0x0A01 1 (e + 4096 * min 15 times.length)
      exec (.engineFault t e ue) s = .next (if 3 ≤ times.length then v.autoFence 0 e else v))
    ∧ (s₁.stopped = false → ∀ f, s₁.fault.resetAt.find? (targetKey 0 e) = some f → (s₁.fault.recov.get [] e).contains f = true →
      exec (.engineRecoveryTimeout t e) s = .next (if f + msToFrc 2 ≤ s₁.time.frc then s₁.autoFence 0 e else s₁))
    ∧ (∀ u : State, u.fenceOf 0 e = some true → u.autoFence 0 e = u) ∧ (∀ u : State, u.fenceOf 0 e ≠ some true → u.autoFence 0 e = u.setFence 0 e true)
    -- a block fault: an automatic fence with FORCE; the second of a region within 60 s is FATAL-REGION 0x0105
    ∧ (s₁.stopped = false → ∀ b, targetPop 1 b = true →
      let u := (s₁.logMelvi (b / 4) (initId (b / 4) (b % 4) 0) (blkBase (b / 4) (b % 4))).fenceBlockAuto b
      let times := ((u.fault.blkFences.get [] (b / 4)).filter fun f => u.time.frc < f + 58982400000) ++ [u.time.frc]
      let v := u.modFault fun f => { f with blkFences := f.blkFences.set (b / 4) times }
      exec (.blockFault t b sv) s = .next (if 2 ≤ times.length then v.fatalRegion (b / 4) 0x0105 sv else v))
    -- FATAL-REGION: cause 7 of FATAL-CHIP in L0, H0 and C0; only logged in a fenced region; else the region is fenced and its work moved
    ∧ (s₁.stopped = false → r < 16 → 0x0101 ≤ cause → cause ≤ 0x0105 → (cause = 0x0103 → (s₁.region r).st = .active) → exec (.fatalRegion t r cause sv) s = .next (s₁.fatalRegion r cause sv))
    ∧ (∀ u : State, 13 ≤ r → u.fatalRegion r cause sv = (u.logMelvi r (initId r 0 0) (regBase r)).fatalChip 7 (initId r 0 0) sv)
    ∧ (∀ u : State, r < 13 → (u.logMelvi r (initId r 0 0) (regBase r)).fault.fencedReg.has r = true →
        u.fatalRegion r cause sv = u.logMelvi r (initId r 0 0) (regBase r))
    ∧ (∀ (u : State) c x, u.cells.find? c = some x → ∃ v : State, u.failCell c r = v.post (v.cellOwner c) 0x0A04 3 (c + 4096 * r))
    -- FATAL-CHIP: from any mode but OFF the chip is in FAULT with TOCSIN_N asserted
    ∧ (1 ≤ cause → cause ≤ 9 → exec (.fatalChip t cause e sv) s = .next (s₁.fatalChip cause (e % 4096) sv))
    ∧ (∀ u : State, u.pow.mode = .off → u.fatalChip cause e sv = u)
    ∧ (∀ u : State, u.pow.mode ≠ .off → u.fault.chip = none → (u.fatalChip cause e sv).pow.mode = .fault ∧ (u.fatalChip cause e sv).pins.tocsin = true)
    -- the dump, and the Dome's takeover 10 ms on
    ∧ (∀ x, s₁.fault.chip = some x → s₁.pow.mode = .fault →
      (s₁.host.server = .melvi → x.dumping = true → ∀ env, ∃ u : State, exec (.dumpComplete t env) s = .next u ∧ u.fault.chip = some { x with dumping := false })
      ∧ (s₁.host.server ≠ .domeFault → ((x.served = false ∧ x.frc + msToFrc 10 ≤ s₁.time.frc) ∨ (x.dumping = true ∧ sv = true)) →
        ∃ u : State, exec (.domeTakeover t sv) s = .next u ∧ u.host.server = .domeFault ∧ u.host.flights = []))
    -- WAIT_MS over: an empty target is fenced, FORCE empties it, otherwise the fence is withdrawn
    ∧ (s₁.stopped = false → ∀ op, (s₁.fault.fences.find? fun f => f.due ≤ s₁.time.frc && (!f.forced || s₁.targetEmpty f.kind f.target)) = some op →
      (s₁.targetEmpty op.kind op.target = true → exec (.fenceWaitTimeout t) s
          = .next (((s₁.dropFence op).setFence op.kind op.target op.cmd.isNone).fenceReply op .success (leBytes 4 op.failed)))
      ∧ (s₁.targetEmpty op.kind op.target = false → op.force = false → exec (.fenceWaitTimeout t) s = .next (s₁.withdrawFence op))
      ∧ (s₁.targetEmpty op.kind op.target = false → op.force = true →
        let f := s₁.forceTarget op.kind op.target
        let op' := { op with forced := true, failed := f.2 }
        exec (.fenceWaitTimeout t) s = .next ((f.1.modFault fun x => { x with
          fences := x.fences.map fun o => if o.kind == op.kind && o.target == op.target then op' else o }).settleFence op')))
    -- a self-test ends: the command completes with what it found
    ∧ (s₁.stopped = false → ∀ b fl, (s₁.fault.bists.find? fun b => b.kind == e && b.target == r) = some b → s₁.flight? b.cmd = some fl → b.tests = 3 →
      ∃ u : State, exec (.bistDone t e r [] []) s = .next u ∧ u.fault.bists = s₁.fault.bists.filter fun o => !(o.kind == e && o.target == r)))
  ∧ (∀ (c : CmdRef) (s : State) (fl : Flight),
    let s₁ := s.advance c.t
    let p := fl.params c.buf
    let kind := fld p 0 1
    let x := fld p 2 2
    (Ready layFence c s fl →
      let r := targetRegion kind x
      (targetPop kind x = false → exec (.fence c) s = .next (s₁.complete fl 0x0A03 (.bare .badParam)))
      ∧ (targetPop kind x = true → s₁.fenceBarred kind x = true → exec (.fence c) s = .next (s₁.complete fl 0x0A03 (.bare .notPermitted)))
      ∧ (targetPop kind x = true → s₁.fenceBarred kind x = false → s₁.asleep r = true → exec (.fence c) s = .next (s₁.complete fl 0x0A03 (.bare .domainAsleep)))
      ∧ (targetPop kind x = true → s₁.fenceBarred kind x = false → s₁.asleep r = false →
        let busy := (s₁.fault.fences.any fun f => spansMeet (fenceSpan f.kind f.target) (fenceSpan kind x)) || s₁.reserveBroken kind x
        let u := s₁.clockUp r
        (busy = true → exec (.fence c) s = .next (s₁.complete fl 0x0A03 (.bare .noResource)))
        ∧ (busy = false → (s₁.fenceOf kind x).isSome = true → exec (.fence c) s = .next (s₁.complete fl 0x0A03 (.ok (leBytes 4 0))))
        ∧ (busy = false → s₁.fenceOf kind x = none → u.targetEmpty kind x = true → exec (.fence c) s
            = .next ((if kind = 2 then (u.setFence kind x false).unlist x else u.setFence kind x false).complete fl 0x0A03 (.ok (leBytes 4 0))))
        ∧ (busy = false → s₁.fenceOf kind x = none → u.targetEmpty kind x = false →
          let v := u.modFault fun f => { f with fences := f.fences ++ [⟨kind, x, bit (fld p 1 1) 0, u.time.frc + msToFrc (fld p 4 4), false, some fl.id, 0⟩] }
          exec (.fence c) s = .next ((if kind = 2 then v.unlist x else v).park fl.id .fence))))
    ∧ (Ready layUnfence c s fl →
      (targetPop kind x = false → exec (.unfence c) s = .next (s₁.complete fl 0x0A04 (.bare .badParam)))
      ∧ (targetPop kind x = true → s₁.fenceOf kind x = none → exec (.unfence c) s = .next (s₁.complete fl 0x0A04 (.ok [])))
      ∧ (targetPop kind x = true → s₁.fenceOf kind x = some true → s₁.fault.tested.has (targetKey kind x) = false →
          exec (.unfence c) s = .next (s₁.complete fl 0x0A04 (.bare .notPermitted)))
      ∧ (targetPop kind x = true → ∀ a, s₁.fenceOf kind x = some a → (a = false ∨ s₁.fault.tested.has (targetKey kind x) = true) → s₁.bistOn kind x = false →
          exec (.unfence c) s = .next ((s₁.startReset kind x).park fl.id (.unfence kind x))))
    ∧ (Ready layBistRun c s fl →
      (targetPop kind x = false → exec (.bistRun c) s = .next (s₁.complete fl 0x0A05 (.bare .badParam)))
      ∧ (targetPop kind x = true → (s₁.pow.mode ≠ .maint ∨ s₁.coveredBy kind x = false) → exec (.bistRun c) s = .next (s₁.complete fl 0x0A05 (.bare .notPermitted)))
      ∧ (targetPop kind x = true → s₁.pow.mode = .maint → s₁.coveredBy kind x = true → s₁.bistOn kind x = false → exec (.bistRun c) s
          = .next ((s₁.modFault fun f => { f with bists := f.bists ++ [⟨kind, x, fld p 1 1, fl.id⟩] }).park fl.id .bist)))
    ∧ (Ready layDumpRead c s fl → s₁.host.server = .melvi →
      (kind = 0 → exec (.dumpRead c) s = .next (s₁.complete fl 0x0A06 (.ok s₁.dumpInfo)))
      ∧ (kind = 1 → s₁.dumpLength < fld p 8 8 + fld p 4 4 → exec (.dumpRead c) s = .next (s₁.complete fl 0x0A06 (.bare .badParam)))
      ∧ (kind = 1 → fld p 8 8 + fld p 4 4 ≤ s₁.dumpLength → fld p 16 8 = 0 → s₁.poisonIn (dumpBase + fld p 8 8) (fld p 4 4) = false →
          exec (.dumpRead c) s = .next (s₁.complete fl 0x0A06 (.ok (s₁.bytesAt (dumpBase + fld p 8 8) (fld p 4 4)))))
      ∧ (kind = 2 → exec (.dumpRead c) s = .next (if s₁.hostOk 0 (fld p 16 8) (fld p 24 4) true
          then (s₁.modFault fun f => { f with dumpWin := some (fld p 16 8, fld p 24 4) }).complete fl 0x0A06 (.ok []) else s₁.complete fl 0x0A06 (.bare .badParam)))
      ∧ (kind = 3 → exec (.dumpRead c) s = .next (if s₁.dumpState = 1 then s₁.complete fl 0x0A06 (.bare .notPermitted)
          else (s₁.setDumpState 3).complete fl 0x0A06 (.ok [])))
      ∧ (kind = 4 → s₁.gaspValid (fld p 1 1) = false → exec (.dumpRead c) s = .next (s₁.complete fl 0x0A06 (.bare .notReady)))
      ∧ (kind = 4 → s₁.gaspValid (fld p 1 1) = true → fld p 16 8 = 0 → s₁.poisonIn (lastGaspBase + 4096 * fld p 1 1) 16 = false →
          exec (.dumpRead c) s = .next (s₁.complete fl 0x0A06 (.ok (s₁.bytesAt (lastGaspBase + 4096 * fld p 1 1) 16)))))
    ∧ (Ready layErrlogRead c s fl →
      (fld p 16 8 = 0 → exec (.errlogRead c) s = .next (s₁.complete fl 0x0A01 (.ok (leBytes 8 s₁.mem.written ++ leBytes 4 0 ++ leBytes 4 s₁.mem.overflow))))
      ∧ (fld p 16 8 ≠ 0 →
        let r := s₁.scanLog fl.fn (fld p 8 4) 65536 (max (fld p 0 8) (s₁.mem.written - 65536))
        let u := r.1.foldl (fun s n => s.logRead ⟨initCmd, none, false, none⟩ (logAddr n) 32) s₁
        exec (.errlogRead c) s = .next ((u.hostRuns fl.fn (fld p 16 8) ((leBytes 8 r.2 ++ zeros 8, false) :: r.1.map fun n =>
            (s₁.bytesAt (logAddr n) 32, s₁.poisonIn (logAddr n) 32))).complete fl 0x0A01
          (.ok (leBytes 8 s₁.mem.written ++ leBytes 4 r.1.length ++ leBytes 4 s₁.mem.overflow))))))

/-! ## The whole device -/

/-- What POR leaves (Table 17-7 and the reset columns): boot mode, nobody serving, the FRC and every table at 0 or empty, the defaults of
TIME, LANE_CONFIG, HOLD_MS, CAL_POLICY, the ADC and PHOTOMETER, THROTTLE_C 100 and P0; and the invariant holds there. The round-robin
starts and what else the manual gives no value for are left out. -/
def Obligations.ResetState : Prop :=
  let s := State.reset
  s.pow.mode = .boot ∧ s.host.server = .nobody ∧ s.host.holdMs = 40 ∧ (∀ n, (s.func n).attached = false ∧ (s.func n).mbox.st = .idle)
  ∧ s.time.frc = 0 ∧ s.time.anchors = [] ∧ s.car = Carillon.reset ∧ s.cells = [] ∧ s.kernels = [] ∧ s.vdes = [] ∧ s.pending = [] ∧ s.outs = []
  ∧ (∀ a < peerBase, s.byteAt a = 0) ∧ s.mem.ranges = [] ∧ s.mem.retPages = [] ∧ s.mem.retBanks = [] ∧ (∀ r, (s.log r).entries = [])
  ∧ (∀ r, (s.region r).st = .active ∧ (s.region r).level = 0 ∧ (s.region r).throttleC = 100)
  ∧ (∀ n, (s.lane n).cfg.mode = 0 ∧ (s.lane n).stage = 0 ∧ (s.lane n).cfg.losMv = 50) ∧ s.line.trails = [] ∧ s.line.ports = [] ∧ s.line.streams = []
  ∧ s.clu.id = 0 ∧ s.fsc.rules = [] ∧ s.fsc.streams = [] ∧ s.fsc.adc.offset = 0 ∧ s.fsc.adc.gain = 0x8000
  ∧ s.cal.policy = ⟨true, true, true, false, 6, 4, 6, 1000⟩ ∧ s.dome.debug = false ∧ s.dome.guards = [] ∧ s.fault.seq = 0
  ∧ s.Inv

/-- A step keeps the invariant, keeps the queue's rest, and never moves the FRC back but by a loss of power (POR, POR_N low, VDD_AON out of
tolerance). -/
def Obligations.StepKeepsInvariant : Prop :=
  ∀ s s' : State, step s = .next s' →
    (s.Inv → s'.Inv) ∧ s'.pending = s.pending.tail
    ∧ ((∀ t raw, s.pending.head? ≠ some (.por t raw)) → (∀ t, s.pending.head? ≠ some (.porNLow t)) → (∀ t, s.pending.head? ≠ some (.aonUndervoltage t)) →
      s.time.frc ≤ s'.time.frc)
end

