-- ==== Sys2Proof/Laws/Cmd.lean ====
section
/-! SUPPORT. What carrying out a host command can do, once for every command (R56, R630). -/

namespace Sys2Proof.Machine

variable {ly : Layout} {c : CmdRef} {body : CmdIn → State → Ans} {s s' : State} {fl : Flight}

/-- With no such command waiting, only time goes on. -/
theorem runCmd_absent (h : (s.advance c.t).startable c.id ly.op = none) : runCmd ly c body s = s.advance c.t := by
  simp [runCmd, h]

/-- A generic check that fails completes the command with its status, and that is all. -/
theorem runCmd_refused {st : Status} (h : Refused ly c s fl st) :
    runCmd ly c body s = (s.advance c.t).complete fl ly.op (.bare st) := by
  simp [runCmd, h.1, h.2]

/-- A command that may run and whose body answers is completed with that answer. -/
theorem runCmd_done {r : Reply} (h : Ready ly c s fl) (hb : body (fl.input c) (s.advance c.t) = (s', .done r)) :
    runCmd ly c body s = s'.complete fl ly.op r := by
  simp only [runCmd, h.1, h.2, hb]

/-- A command that may run and whose body starts something waits. -/
theorem runCmd_later {w : Wait} (h : Ready ly c s fl) (hb : body (fl.input c) (s.advance c.t) = (s', .later w)) :
    runCmd ly c body s = s'.park fl.id w := by
  simp only [runCmd, h.1, h.2, hb]

/-- The four things that a host command's row can do. -/
theorem runCmd_cases (ly : Layout) (c : CmdRef) (body : CmdIn → State → Ans) (s : State) :
    ((s.advance c.t).startable c.id ly.op = none ∧ runCmd ly c body s = s.advance c.t)
    ∨ (∃ fl st, Refused ly c s fl st ∧ runCmd ly c body s = (s.advance c.t).complete fl ly.op (.bare st))
    ∨ (∃ fl s' r, Ready ly c s fl ∧ body (fl.input c) (s.advance c.t) = (s', .done r)
        ∧ runCmd ly c body s = s'.complete fl ly.op r)
    ∨ (∃ fl s' w, Ready ly c s fl ∧ body (fl.input c) (s.advance c.t) = (s', .later w)
        ∧ runCmd ly c body s = s'.park fl.id w) := by
  cases h1 : (s.advance c.t).startable c.id ly.op with
  | none => exact .inl ⟨rfl, runCmd_absent h1⟩
  | some fl =>
    cases h2 : genericCheck (s.advance c.t) fl ly c with
    | some st => exact .inr (.inl ⟨fl, st, ⟨h1, h2⟩, runCmd_refused ⟨h1, h2⟩⟩)
    | none =>
      have h : Ready ly c s fl := ⟨h1, h2⟩
      match hb : body (fl.input c) (s.advance c.t) with
      | (s', .done r) => exact .inr (.inr (.inl ⟨fl, s', r, h, hb, runCmd_done h hb⟩))
      | (s', .later w) => exact .inr (.inr (.inr ⟨fl, s', w, h, hb, runCmd_later h hb⟩))

end Sys2Proof.Machine
end

