-- ==== Sys2Proof/Laws/State.lean ====
section
/-! SUPPORT. What each update of the state changes and what it leaves: one law per field per update. -/

namespace Sys2Proof.Machine

variable (s : State)

/-! ### advance -/
theorem State.advance_host (t : Nat) : (s.advance t).host = s.host := by unfold State.advance; split <;> rfl
theorem State.advance_car (t : Nat) : (s.advance t).car = s.car := by unfold State.advance; split <;> rfl
theorem State.advance_cells (t : Nat) : (s.advance t).cells = s.cells := by unfold State.advance; split <;> rfl
theorem State.advance_mem (t : Nat) : (s.advance t).mem = s.mem := by unfold State.advance; split <;> rfl
theorem State.advance_pow (t : Nat) : (s.advance t).pow = s.pow := by unfold State.advance; split <;> rfl
theorem State.advance_vdes (t : Nat) : (s.advance t).vdes = s.vdes := by unfold State.advance; split <;> rfl
theorem State.advance_kernels (t : Nat) : (s.advance t).kernels = s.kernels := by unfold State.advance; split <;> rfl
theorem State.advance_fault (t : Nat) : (s.advance t).fault = s.fault := by unfold State.advance; split <;> rfl
theorem State.advance_bdma (t : Nat) : (s.advance t).bdma = s.bdma := by unfold State.advance; split <;> rfl
theorem State.advance_bdmaEng (t : Nat) : (s.advance t).bdmaEng = s.bdmaEng := by unfold State.advance; split <;> rfl
theorem State.advance_line (t : Nat) : (s.advance t).line = s.line := by unfold State.advance; split <;> rfl
theorem State.advance_dome (t : Nat) : (s.advance t).dome = s.dome := by unfold State.advance; split <;> rfl
theorem State.advance_clu (t : Nat) : (s.advance t).clu = s.clu := by unfold State.advance; split <;> rfl
theorem State.advance_noc (t : Nat) : (s.advance t).noc = s.noc := by unfold State.advance; split <;> rfl
theorem State.advance_fsc (t : Nat) : (s.advance t).fsc = s.fsc := by unfold State.advance; split <;> rfl
theorem State.advance_cal (t : Nat) : (s.advance t).cal = s.cal := by unfold State.advance; split <;> rfl
theorem State.advance_pins (t : Nat) : (s.advance t).pins = s.pins := by unfold State.advance; split <;> rfl
theorem State.advance_outs (t : Nat) : (s.advance t).outs = s.outs := by unfold State.advance; split <;> rfl
theorem State.advance_freeCtr (t : Nat) : (s.advance t).freeCtr = s.freeCtr := by unfold State.advance; split <;> rfl
theorem State.advance_pending (t : Nat) : (s.advance t).pending = s.pending := by unfold State.advance; split <;> rfl

/-! ### idle -/
@[simp] theorem State.idle_host : (s.idle).host = s.host := rfl
@[simp] theorem State.idle_time : (s.idle).time = { s.time with frc := s.time.frc + 1 } := rfl
@[simp] theorem State.idle_car : (s.idle).car = s.car := rfl
@[simp] theorem State.idle_cells : (s.idle).cells = s.cells := rfl
@[simp] theorem State.idle_mem : (s.idle).mem = s.mem := rfl
@[simp] theorem State.idle_pow : (s.idle).pow = s.pow := rfl
@[simp] theorem State.idle_vdes : (s.idle).vdes = s.vdes := rfl
@[simp] theorem State.idle_kernels : (s.idle).kernels = s.kernels := rfl
@[simp] theorem State.idle_fault : (s.idle).fault = s.fault := rfl
@[simp] theorem State.idle_bdma : (s.idle).bdma = s.bdma := rfl
@[simp] theorem State.idle_bdmaEng : (s.idle).bdmaEng = s.bdmaEng := rfl
@[simp] theorem State.idle_line : (s.idle).line = s.line := rfl
@[simp] theorem State.idle_dome : (s.idle).dome = s.dome := rfl
@[simp] theorem State.idle_clu : (s.idle).clu = s.clu := rfl
@[simp] theorem State.idle_noc : (s.idle).noc = s.noc := rfl
@[simp] theorem State.idle_fsc : (s.idle).fsc = s.fsc := rfl
@[simp] theorem State.idle_cal : (s.idle).cal = s.cal := rfl
@[simp] theorem State.idle_pins : (s.idle).pins = s.pins := rfl
@[simp] theorem State.idle_outs : (s.idle).outs = s.outs := rfl
@[simp] theorem State.idle_freeCtr : (s.idle).freeCtr = s.freeCtr := rfl
@[simp] theorem State.idle_pending : (s.idle).pending = s.pending := rfl

/-! ### emit -/
@[simp] theorem State.emit_host (o : Out) : (s.emit o).host = s.host := rfl
@[simp] theorem State.emit_time (o : Out) : (s.emit o).time = s.time := rfl
@[simp] theorem State.emit_car (o : Out) : (s.emit o).car = s.car := rfl
@[simp] theorem State.emit_cells (o : Out) : (s.emit o).cells = s.cells := rfl
@[simp] theorem State.emit_mem (o : Out) : (s.emit o).mem = s.mem := rfl
@[simp] theorem State.emit_pow (o : Out) : (s.emit o).pow = s.pow := rfl
@[simp] theorem State.emit_vdes (o : Out) : (s.emit o).vdes = s.vdes := rfl
@[simp] theorem State.emit_kernels (o : Out) : (s.emit o).kernels = s.kernels := rfl
@[simp] theorem State.emit_fault (o : Out) : (s.emit o).fault = s.fault := rfl
@[simp] theorem State.emit_bdma (o : Out) : (s.emit o).bdma = s.bdma := rfl
@[simp] theorem State.emit_bdmaEng (o : Out) : (s.emit o).bdmaEng = s.bdmaEng := rfl
@[simp] theorem State.emit_line (o : Out) : (s.emit o).line = s.line := rfl
@[simp] theorem State.emit_dome (o : Out) : (s.emit o).dome = s.dome := rfl
@[simp] theorem State.emit_clu (o : Out) : (s.emit o).clu = s.clu := rfl
@[simp] theorem State.emit_noc (o : Out) : (s.emit o).noc = s.noc := rfl
@[simp] theorem State.emit_fsc (o : Out) : (s.emit o).fsc = s.fsc := rfl
@[simp] theorem State.emit_cal (o : Out) : (s.emit o).cal = s.cal := rfl
@[simp] theorem State.emit_pins (o : Out) : (s.emit o).pins = s.pins := rfl
@[simp] theorem State.emit_freeCtr (o : Out) : (s.emit o).freeCtr = s.freeCtr := rfl
@[simp] theorem State.emit_pending (o : Out) : (s.emit o).pending = s.pending := rfl

/-! ### dropFlight -/
@[simp] theorem State.dropFlight_host (id : Nat) : (s.dropFlight id).host = { s.host with flights := s.host.flights.filter fun f => f.id != id } := rfl
@[simp] theorem State.dropFlight_time (id : Nat) : (s.dropFlight id).time = s.time := rfl
@[simp] theorem State.dropFlight_car (id : Nat) : (s.dropFlight id).car = s.car := rfl
@[simp] theorem State.dropFlight_cells (id : Nat) : (s.dropFlight id).cells = s.cells := rfl
@[simp] theorem State.dropFlight_mem (id : Nat) : (s.dropFlight id).mem = s.mem := rfl
@[simp] theorem State.dropFlight_pow (id : Nat) : (s.dropFlight id).pow = s.pow := rfl
@[simp] theorem State.dropFlight_vdes (id : Nat) : (s.dropFlight id).vdes = s.vdes := rfl
@[simp] theorem State.dropFlight_kernels (id : Nat) : (s.dropFlight id).kernels = s.kernels := rfl
@[simp] theorem State.dropFlight_fault (id : Nat) : (s.dropFlight id).fault = s.fault := rfl
@[simp] theorem State.dropFlight_bdma (id : Nat) : (s.dropFlight id).bdma = s.bdma := rfl
@[simp] theorem State.dropFlight_bdmaEng (id : Nat) : (s.dropFlight id).bdmaEng = s.bdmaEng := rfl
@[simp] theorem State.dropFlight_line (id : Nat) : (s.dropFlight id).line = s.line := rfl
@[simp] theorem State.dropFlight_dome (id : Nat) : (s.dropFlight id).dome = s.dome := rfl
@[simp] theorem State.dropFlight_clu (id : Nat) : (s.dropFlight id).clu = s.clu := rfl
@[simp] theorem State.dropFlight_noc (id : Nat) : (s.dropFlight id).noc = s.noc := rfl
@[simp] theorem State.dropFlight_fsc (id : Nat) : (s.dropFlight id).fsc = s.fsc := rfl
@[simp] theorem State.dropFlight_cal (id : Nat) : (s.dropFlight id).cal = s.cal := rfl
@[simp] theorem State.dropFlight_pins (id : Nat) : (s.dropFlight id).pins = s.pins := rfl
@[simp] theorem State.dropFlight_outs (id : Nat) : (s.dropFlight id).outs = s.outs := rfl
@[simp] theorem State.dropFlight_freeCtr (id : Nat) : (s.dropFlight id).freeCtr = s.freeCtr := rfl
@[simp] theorem State.dropFlight_pending (id : Nat) : (s.dropFlight id).pending = s.pending := rfl

/-! ### park -/
@[simp] theorem State.park_time (id : Nat) (w : Wait) : (s.park id w).time = s.time := rfl
@[simp] theorem State.park_car (id : Nat) (w : Wait) : (s.park id w).car = s.car := rfl
@[simp] theorem State.park_cells (id : Nat) (w : Wait) : (s.park id w).cells = s.cells := rfl
@[simp] theorem State.park_mem (id : Nat) (w : Wait) : (s.park id w).mem = s.mem := rfl
@[simp] theorem State.park_pow (id : Nat) (w : Wait) : (s.park id w).pow = s.pow := rfl
@[simp] theorem State.park_vdes (id : Nat) (w : Wait) : (s.park id w).vdes = s.vdes := rfl
@[simp] theorem State.park_kernels (id : Nat) (w : Wait) : (s.park id w).kernels = s.kernels := rfl
@[simp] theorem State.park_fault (id : Nat) (w : Wait) : (s.park id w).fault = s.fault := rfl
@[simp] theorem State.park_bdma (id : Nat) (w : Wait) : (s.park id w).bdma = s.bdma := rfl
@[simp] theorem State.park_bdmaEng (id : Nat) (w : Wait) : (s.park id w).bdmaEng = s.bdmaEng := rfl
@[simp] theorem State.park_line (id : Nat) (w : Wait) : (s.park id w).line = s.line := rfl
@[simp] theorem State.park_dome (id : Nat) (w : Wait) : (s.park id w).dome = s.dome := rfl
@[simp] theorem State.park_clu (id : Nat) (w : Wait) : (s.park id w).clu = s.clu := rfl
@[simp] theorem State.park_noc (id : Nat) (w : Wait) : (s.park id w).noc = s.noc := rfl
@[simp] theorem State.park_fsc (id : Nat) (w : Wait) : (s.park id w).fsc = s.fsc := rfl
@[simp] theorem State.park_cal (id : Nat) (w : Wait) : (s.park id w).cal = s.cal := rfl
@[simp] theorem State.park_pins (id : Nat) (w : Wait) : (s.park id w).pins = s.pins := rfl
@[simp] theorem State.park_outs (id : Nat) (w : Wait) : (s.park id w).outs = s.outs := rfl
@[simp] theorem State.park_freeCtr (id : Nat) (w : Wait) : (s.park id w).freeCtr = s.freeCtr := rfl
@[simp] theorem State.park_pending (id : Nat) (w : Wait) : (s.park id w).pending = s.pending := rfl

/-! ### modHost -/
@[simp] theorem State.modHost_host (f : HostIf → HostIf) : (s.modHost f).host = f s.host := rfl
@[simp] theorem State.modHost_time (f : HostIf → HostIf) : (s.modHost f).time = s.time := rfl
@[simp] theorem State.modHost_car (f : HostIf → HostIf) : (s.modHost f).car = s.car := rfl
@[simp] theorem State.modHost_cells (f : HostIf → HostIf) : (s.modHost f).cells = s.cells := rfl
@[simp] theorem State.modHost_mem (f : HostIf → HostIf) : (s.modHost f).mem = s.mem := rfl
@[simp] theorem State.modHost_pow (f : HostIf → HostIf) : (s.modHost f).pow = s.pow := rfl
@[simp] theorem State.modHost_vdes (f : HostIf → HostIf) : (s.modHost f).vdes = s.vdes := rfl
@[simp] theorem State.modHost_kernels (f : HostIf → HostIf) : (s.modHost f).kernels = s.kernels := rfl
@[simp] theorem State.modHost_fault (f : HostIf → HostIf) : (s.modHost f).fault = s.fault := rfl
@[simp] theorem State.modHost_bdma (f : HostIf → HostIf) : (s.modHost f).bdma = s.bdma := rfl
@[simp] theorem State.modHost_bdmaEng (f : HostIf → HostIf) : (s.modHost f).bdmaEng = s.bdmaEng := rfl
@[simp] theorem State.modHost_line (f : HostIf → HostIf) : (s.modHost f).line = s.line := rfl
@[simp] theorem State.modHost_dome (f : HostIf → HostIf) : (s.modHost f).dome = s.dome := rfl
@[simp] theorem State.modHost_clu (f : HostIf → HostIf) : (s.modHost f).clu = s.clu := rfl
@[simp] theorem State.modHost_noc (f : HostIf → HostIf) : (s.modHost f).noc = s.noc := rfl
@[simp] theorem State.modHost_fsc (f : HostIf → HostIf) : (s.modHost f).fsc = s.fsc := rfl
@[simp] theorem State.modHost_cal (f : HostIf → HostIf) : (s.modHost f).cal = s.cal := rfl
@[simp] theorem State.modHost_pins (f : HostIf → HostIf) : (s.modHost f).pins = s.pins := rfl
@[simp] theorem State.modHost_outs (f : HostIf → HostIf) : (s.modHost f).outs = s.outs := rfl
@[simp] theorem State.modHost_freeCtr (f : HostIf → HostIf) : (s.modHost f).freeCtr = s.freeCtr := rfl
@[simp] theorem State.modHost_pending (f : HostIf → HostIf) : (s.modHost f).pending = s.pending := rfl

/-! ### modFunc -/
@[simp] theorem State.modFunc_host (fn : Nat) (f : Func → Func) : (s.modFunc fn f).host = { s.host with funcs := s.host.funcs.mod Func.reset fn f } := rfl
@[simp] theorem State.modFunc_time (fn : Nat) (f : Func → Func) : (s.modFunc fn f).time = s.time := rfl
@[simp] theorem State.modFunc_car (fn : Nat) (f : Func → Func) : (s.modFunc fn f).car = s.car := rfl
@[simp] theorem State.modFunc_cells (fn : Nat) (f : Func → Func) : (s.modFunc fn f).cells = s.cells := rfl
@[simp] theorem State.modFunc_mem (fn : Nat) (f : Func → Func) : (s.modFunc fn f).mem = s.mem := rfl
@[simp] theorem State.modFunc_pow (fn : Nat) (f : Func → Func) : (s.modFunc fn f).pow = s.pow := rfl
@[simp] theorem State.modFunc_vdes (fn : Nat) (f : Func → Func) : (s.modFunc fn f).vdes = s.vdes := rfl
@[simp] theorem State.modFunc_kernels (fn : Nat) (f : Func → Func) : (s.modFunc fn f).kernels = s.kernels := rfl
@[simp] theorem State.modFunc_fault (fn : Nat) (f : Func → Func) : (s.modFunc fn f).fault = s.fault := rfl
@[simp] theorem State.modFunc_bdma (fn : Nat) (f : Func → Func) : (s.modFunc fn f).bdma = s.bdma := rfl
@[simp] theorem State.modFunc_bdmaEng (fn : Nat) (f : Func → Func) : (s.modFunc fn f).bdmaEng = s.bdmaEng := rfl
@[simp] theorem State.modFunc_line (fn : Nat) (f : Func → Func) : (s.modFunc fn f).line = s.line := rfl
@[simp] theorem State.modFunc_dome (fn : Nat) (f : Func → Func) : (s.modFunc fn f).dome = s.dome := rfl
@[simp] theorem State.modFunc_clu (fn : Nat) (f : Func → Func) : (s.modFunc fn f).clu = s.clu := rfl
@[simp] theorem State.modFunc_noc (fn : Nat) (f : Func → Func) : (s.modFunc fn f).noc = s.noc := rfl
@[simp] theorem State.modFunc_fsc (fn : Nat) (f : Func → Func) : (s.modFunc fn f).fsc = s.fsc := rfl
@[simp] theorem State.modFunc_cal (fn : Nat) (f : Func → Func) : (s.modFunc fn f).cal = s.cal := rfl
@[simp] theorem State.modFunc_pins (fn : Nat) (f : Func → Func) : (s.modFunc fn f).pins = s.pins := rfl
@[simp] theorem State.modFunc_outs (fn : Nat) (f : Func → Func) : (s.modFunc fn f).outs = s.outs := rfl
@[simp] theorem State.modFunc_freeCtr (fn : Nat) (f : Func → Func) : (s.modFunc fn f).freeCtr = s.freeCtr := rfl
@[simp] theorem State.modFunc_pending (fn : Nat) (f : Func → Func) : (s.modFunc fn f).pending = s.pending := rfl

/-! ### setMbox -/
@[simp] theorem State.setMbox_time (fn : Nat) (m : Mailbox) : (s.setMbox fn m).time = s.time := rfl
@[simp] theorem State.setMbox_car (fn : Nat) (m : Mailbox) : (s.setMbox fn m).car = s.car := rfl
@[simp] theorem State.setMbox_cells (fn : Nat) (m : Mailbox) : (s.setMbox fn m).cells = s.cells := rfl
@[simp] theorem State.setMbox_mem (fn : Nat) (m : Mailbox) : (s.setMbox fn m).mem = s.mem := rfl
@[simp] theorem State.setMbox_pow (fn : Nat) (m : Mailbox) : (s.setMbox fn m).pow = s.pow := rfl
@[simp] theorem State.setMbox_vdes (fn : Nat) (m : Mailbox) : (s.setMbox fn m).vdes = s.vdes := rfl
@[simp] theorem State.setMbox_kernels (fn : Nat) (m : Mailbox) : (s.setMbox fn m).kernels = s.kernels := rfl
@[simp] theorem State.setMbox_fault (fn : Nat) (m : Mailbox) : (s.setMbox fn m).fault = s.fault := rfl
@[simp] theorem State.setMbox_bdma (fn : Nat) (m : Mailbox) : (s.setMbox fn m).bdma = s.bdma := rfl
@[simp] theorem State.setMbox_bdmaEng (fn : Nat) (m : Mailbox) : (s.setMbox fn m).bdmaEng = s.bdmaEng := rfl
@[simp] theorem State.setMbox_line (fn : Nat) (m : Mailbox) : (s.setMbox fn m).line = s.line := rfl
@[simp] theorem State.setMbox_dome (fn : Nat) (m : Mailbox) : (s.setMbox fn m).dome = s.dome := rfl
@[simp] theorem State.setMbox_clu (fn : Nat) (m : Mailbox) : (s.setMbox fn m).clu = s.clu := rfl
@[simp] theorem State.setMbox_noc (fn : Nat) (m : Mailbox) : (s.setMbox fn m).noc = s.noc := rfl
@[simp] theorem State.setMbox_fsc (fn : Nat) (m : Mailbox) : (s.setMbox fn m).fsc = s.fsc := rfl
@[simp] theorem State.setMbox_cal (fn : Nat) (m : Mailbox) : (s.setMbox fn m).cal = s.cal := rfl
@[simp] theorem State.setMbox_pins (fn : Nat) (m : Mailbox) : (s.setMbox fn m).pins = s.pins := rfl
@[simp] theorem State.setMbox_outs (fn : Nat) (m : Mailbox) : (s.setMbox fn m).outs = s.outs := rfl
@[simp] theorem State.setMbox_freeCtr (fn : Nat) (m : Mailbox) : (s.setMbox fn m).freeCtr = s.freeCtr := rfl
@[simp] theorem State.setMbox_pending (fn : Nat) (m : Mailbox) : (s.setMbox fn m).pending = s.pending := rfl

/-! ### modCar -/
@[simp] theorem State.modCar_host (f : Carillon → Carillon) : (s.modCar f).host = s.host := rfl
@[simp] theorem State.modCar_time (f : Carillon → Carillon) : (s.modCar f).time = s.time := rfl
@[simp] theorem State.modCar_car (f : Carillon → Carillon) : (s.modCar f).car = f s.car := rfl
@[simp] theorem State.modCar_cells (f : Carillon → Carillon) : (s.modCar f).cells = s.cells := rfl
@[simp] theorem State.modCar_mem (f : Carillon → Carillon) : (s.modCar f).mem = s.mem := rfl
@[simp] theorem State.modCar_pow (f : Carillon → Carillon) : (s.modCar f).pow = s.pow := rfl
@[simp] theorem State.modCar_vdes (f : Carillon → Carillon) : (s.modCar f).vdes = s.vdes := rfl
@[simp] theorem State.modCar_kernels (f : Carillon → Carillon) : (s.modCar f).kernels = s.kernels := rfl
@[simp] theorem State.modCar_fault (f : Carillon → Carillon) : (s.modCar f).fault = s.fault := rfl
@[simp] theorem State.modCar_bdma (f : Carillon → Carillon) : (s.modCar f).bdma = s.bdma := rfl
@[simp] theorem State.modCar_bdmaEng (f : Carillon → Carillon) : (s.modCar f).bdmaEng = s.bdmaEng := rfl
@[simp] theorem State.modCar_line (f : Carillon → Carillon) : (s.modCar f).line = s.line := rfl
@[simp] theorem State.modCar_dome (f : Carillon → Carillon) : (s.modCar f).dome = s.dome := rfl
@[simp] theorem State.modCar_clu (f : Carillon → Carillon) : (s.modCar f).clu = s.clu := rfl
@[simp] theorem State.modCar_noc (f : Carillon → Carillon) : (s.modCar f).noc = s.noc := rfl
@[simp] theorem State.modCar_fsc (f : Carillon → Carillon) : (s.modCar f).fsc = s.fsc := rfl
@[simp] theorem State.modCar_cal (f : Carillon → Carillon) : (s.modCar f).cal = s.cal := rfl
@[simp] theorem State.modCar_pins (f : Carillon → Carillon) : (s.modCar f).pins = s.pins := rfl
@[simp] theorem State.modCar_outs (f : Carillon → Carillon) : (s.modCar f).outs = s.outs := rfl
@[simp] theorem State.modCar_freeCtr (f : Carillon → Carillon) : (s.modCar f).freeCtr = s.freeCtr := rfl
@[simp] theorem State.modCar_pending (f : Carillon → Carillon) : (s.modCar f).pending = s.pending := rfl

/-! ### modTask -/
@[simp] theorem State.modTask_host (id : Nat) (f : Task → Task) : (s.modTask id f).host = s.host := rfl
@[simp] theorem State.modTask_time (id : Nat) (f : Task → Task) : (s.modTask id f).time = s.time := rfl
@[simp] theorem State.modTask_car (id : Nat) (f : Task → Task) : (s.modTask id f).car = { s.car with tasks := s.car.tasks.upd id f } := rfl
@[simp] theorem State.modTask_cells (id : Nat) (f : Task → Task) : (s.modTask id f).cells = s.cells := rfl
@[simp] theorem State.modTask_mem (id : Nat) (f : Task → Task) : (s.modTask id f).mem = s.mem := rfl
@[simp] theorem State.modTask_pow (id : Nat) (f : Task → Task) : (s.modTask id f).pow = s.pow := rfl
@[simp] theorem State.modTask_vdes (id : Nat) (f : Task → Task) : (s.modTask id f).vdes = s.vdes := rfl
@[simp] theorem State.modTask_kernels (id : Nat) (f : Task → Task) : (s.modTask id f).kernels = s.kernels := rfl
@[simp] theorem State.modTask_fault (id : Nat) (f : Task → Task) : (s.modTask id f).fault = s.fault := rfl
@[simp] theorem State.modTask_bdma (id : Nat) (f : Task → Task) : (s.modTask id f).bdma = s.bdma := rfl
@[simp] theorem State.modTask_bdmaEng (id : Nat) (f : Task → Task) : (s.modTask id f).bdmaEng = s.bdmaEng := rfl
@[simp] theorem State.modTask_line (id : Nat) (f : Task → Task) : (s.modTask id f).line = s.line := rfl
@[simp] theorem State.modTask_dome (id : Nat) (f : Task → Task) : (s.modTask id f).dome = s.dome := rfl
@[simp] theorem State.modTask_clu (id : Nat) (f : Task → Task) : (s.modTask id f).clu = s.clu := rfl
@[simp] theorem State.modTask_noc (id : Nat) (f : Task → Task) : (s.modTask id f).noc = s.noc := rfl
@[simp] theorem State.modTask_fsc (id : Nat) (f : Task → Task) : (s.modTask id f).fsc = s.fsc := rfl
@[simp] theorem State.modTask_cal (id : Nat) (f : Task → Task) : (s.modTask id f).cal = s.cal := rfl
@[simp] theorem State.modTask_pins (id : Nat) (f : Task → Task) : (s.modTask id f).pins = s.pins := rfl
@[simp] theorem State.modTask_outs (id : Nat) (f : Task → Task) : (s.modTask id f).outs = s.outs := rfl
@[simp] theorem State.modTask_freeCtr (id : Nat) (f : Task → Task) : (s.modTask id f).freeCtr = s.freeCtr := rfl
@[simp] theorem State.modTask_pending (id : Nat) (f : Task → Task) : (s.modTask id f).pending = s.pending := rfl

/-! ### modEng -/
@[simp] theorem State.modEng_host (e : Nat) (f : EngineRun → EngineRun) : (s.modEng e f).host = s.host := rfl
@[simp] theorem State.modEng_time (e : Nat) (f : EngineRun → EngineRun) : (s.modEng e f).time = s.time := rfl
@[simp] theorem State.modEng_car (e : Nat) (f : EngineRun → EngineRun) : (s.modEng e f).car = { s.car with engines := s.car.engines.mod EngineRun.idle e f } := rfl
@[simp] theorem State.modEng_cells (e : Nat) (f : EngineRun → EngineRun) : (s.modEng e f).cells = s.cells := rfl
@[simp] theorem State.modEng_mem (e : Nat) (f : EngineRun → EngineRun) : (s.modEng e f).mem = s.mem := rfl
@[simp] theorem State.modEng_pow (e : Nat) (f : EngineRun → EngineRun) : (s.modEng e f).pow = s.pow := rfl
@[simp] theorem State.modEng_vdes (e : Nat) (f : EngineRun → EngineRun) : (s.modEng e f).vdes = s.vdes := rfl
@[simp] theorem State.modEng_kernels (e : Nat) (f : EngineRun → EngineRun) : (s.modEng e f).kernels = s.kernels := rfl
@[simp] theorem State.modEng_fault (e : Nat) (f : EngineRun → EngineRun) : (s.modEng e f).fault = s.fault := rfl
@[simp] theorem State.modEng_bdma (e : Nat) (f : EngineRun → EngineRun) : (s.modEng e f).bdma = s.bdma := rfl
@[simp] theorem State.modEng_bdmaEng (e : Nat) (f : EngineRun → EngineRun) : (s.modEng e f).bdmaEng = s.bdmaEng := rfl
@[simp] theorem State.modEng_line (e : Nat) (f : EngineRun → EngineRun) : (s.modEng e f).line = s.line := rfl
@[simp] theorem State.modEng_dome (e : Nat) (f : EngineRun → EngineRun) : (s.modEng e f).dome = s.dome := rfl
@[simp] theorem State.modEng_clu (e : Nat) (f : EngineRun → EngineRun) : (s.modEng e f).clu = s.clu := rfl
@[simp] theorem State.modEng_noc (e : Nat) (f : EngineRun → EngineRun) : (s.modEng e f).noc = s.noc := rfl
@[simp] theorem State.modEng_fsc (e : Nat) (f : EngineRun → EngineRun) : (s.modEng e f).fsc = s.fsc := rfl
@[simp] theorem State.modEng_cal (e : Nat) (f : EngineRun → EngineRun) : (s.modEng e f).cal = s.cal := rfl
@[simp] theorem State.modEng_pins (e : Nat) (f : EngineRun → EngineRun) : (s.modEng e f).pins = s.pins := rfl
@[simp] theorem State.modEng_outs (e : Nat) (f : EngineRun → EngineRun) : (s.modEng e f).outs = s.outs := rfl
@[simp] theorem State.modEng_freeCtr (e : Nat) (f : EngineRun → EngineRun) : (s.modEng e f).freeCtr = s.freeCtr := rfl
@[simp] theorem State.modEng_pending (e : Nat) (f : EngineRun → EngineRun) : (s.modEng e f).pending = s.pending := rfl

/-! ### modRegion -/
@[simp] theorem State.modRegion_host (r : Nat) (f : Region → Region) : (s.modRegion r f).host = s.host := rfl
@[simp] theorem State.modRegion_time (r : Nat) (f : Region → Region) : (s.modRegion r f).time = s.time := rfl
@[simp] theorem State.modRegion_car (r : Nat) (f : Region → Region) : (s.modRegion r f).car = s.car := rfl
@[simp] theorem State.modRegion_cells (r : Nat) (f : Region → Region) : (s.modRegion r f).cells = s.cells := rfl
@[simp] theorem State.modRegion_mem (r : Nat) (f : Region → Region) : (s.modRegion r f).mem = s.mem := rfl
@[simp] theorem State.modRegion_pow (r : Nat) (f : Region → Region) : (s.modRegion r f).pow = { s.pow with regions := s.pow.regions.mod Region.reset r f } := rfl
@[simp] theorem State.modRegion_vdes (r : Nat) (f : Region → Region) : (s.modRegion r f).vdes = s.vdes := rfl
@[simp] theorem State.modRegion_kernels (r : Nat) (f : Region → Region) : (s.modRegion r f).kernels = s.kernels := rfl
@[simp] theorem State.modRegion_fault (r : Nat) (f : Region → Region) : (s.modRegion r f).fault = s.fault := rfl
@[simp] theorem State.modRegion_bdma (r : Nat) (f : Region → Region) : (s.modRegion r f).bdma = s.bdma := rfl
@[simp] theorem State.modRegion_bdmaEng (r : Nat) (f : Region → Region) : (s.modRegion r f).bdmaEng = s.bdmaEng := rfl
@[simp] theorem State.modRegion_line (r : Nat) (f : Region → Region) : (s.modRegion r f).line = s.line := rfl
@[simp] theorem State.modRegion_dome (r : Nat) (f : Region → Region) : (s.modRegion r f).dome = s.dome := rfl
@[simp] theorem State.modRegion_clu (r : Nat) (f : Region → Region) : (s.modRegion r f).clu = s.clu := rfl
@[simp] theorem State.modRegion_noc (r : Nat) (f : Region → Region) : (s.modRegion r f).noc = s.noc := rfl
@[simp] theorem State.modRegion_fsc (r : Nat) (f : Region → Region) : (s.modRegion r f).fsc = s.fsc := rfl
@[simp] theorem State.modRegion_cal (r : Nat) (f : Region → Region) : (s.modRegion r f).cal = s.cal := rfl
@[simp] theorem State.modRegion_pins (r : Nat) (f : Region → Region) : (s.modRegion r f).pins = s.pins := rfl
@[simp] theorem State.modRegion_outs (r : Nat) (f : Region → Region) : (s.modRegion r f).outs = s.outs := rfl
@[simp] theorem State.modRegion_freeCtr (r : Nat) (f : Region → Region) : (s.modRegion r f).freeCtr = s.freeCtr := rfl
@[simp] theorem State.modRegion_pending (r : Nat) (f : Region → Region) : (s.modRegion r f).pending = s.pending := rfl

/-! ### modVde -/
@[simp] theorem State.modVde_host (e : Nat) (f : Vde → Vde) : (s.modVde e f).host = s.host := rfl
@[simp] theorem State.modVde_time (e : Nat) (f : Vde → Vde) : (s.modVde e f).time = s.time := rfl
@[simp] theorem State.modVde_car (e : Nat) (f : Vde → Vde) : (s.modVde e f).car = s.car := rfl
@[simp] theorem State.modVde_cells (e : Nat) (f : Vde → Vde) : (s.modVde e f).cells = s.cells := rfl
@[simp] theorem State.modVde_mem (e : Nat) (f : Vde → Vde) : (s.modVde e f).mem = s.mem := rfl
@[simp] theorem State.modVde_pow (e : Nat) (f : Vde → Vde) : (s.modVde e f).pow = s.pow := rfl
@[simp] theorem State.modVde_vdes (e : Nat) (f : Vde → Vde) : (s.modVde e f).vdes = s.vdes.mod Vde.reset e f := rfl
@[simp] theorem State.modVde_kernels (e : Nat) (f : Vde → Vde) : (s.modVde e f).kernels = s.kernels := rfl
@[simp] theorem State.modVde_fault (e : Nat) (f : Vde → Vde) : (s.modVde e f).fault = s.fault := rfl
@[simp] theorem State.modVde_bdma (e : Nat) (f : Vde → Vde) : (s.modVde e f).bdma = s.bdma := rfl
@[simp] theorem State.modVde_bdmaEng (e : Nat) (f : Vde → Vde) : (s.modVde e f).bdmaEng = s.bdmaEng := rfl
@[simp] theorem State.modVde_line (e : Nat) (f : Vde → Vde) : (s.modVde e f).line = s.line := rfl
@[simp] theorem State.modVde_dome (e : Nat) (f : Vde → Vde) : (s.modVde e f).dome = s.dome := rfl
@[simp] theorem State.modVde_clu (e : Nat) (f : Vde → Vde) : (s.modVde e f).clu = s.clu := rfl
@[simp] theorem State.modVde_noc (e : Nat) (f : Vde → Vde) : (s.modVde e f).noc = s.noc := rfl
@[simp] theorem State.modVde_fsc (e : Nat) (f : Vde → Vde) : (s.modVde e f).fsc = s.fsc := rfl
@[simp] theorem State.modVde_cal (e : Nat) (f : Vde → Vde) : (s.modVde e f).cal = s.cal := rfl
@[simp] theorem State.modVde_pins (e : Nat) (f : Vde → Vde) : (s.modVde e f).pins = s.pins := rfl
@[simp] theorem State.modVde_outs (e : Nat) (f : Vde → Vde) : (s.modVde e f).outs = s.outs := rfl
@[simp] theorem State.modVde_freeCtr (e : Nat) (f : Vde → Vde) : (s.modVde e f).freeCtr = s.freeCtr := rfl
@[simp] theorem State.modVde_pending (e : Nat) (f : Vde → Vde) : (s.modVde e f).pending = s.pending := rfl

/-! ### modFault -/
@[simp] theorem State.modFault_host (f : FaultSt → FaultSt) : (s.modFault f).host = s.host := rfl
@[simp] theorem State.modFault_time (f : FaultSt → FaultSt) : (s.modFault f).time = s.time := rfl
@[simp] theorem State.modFault_car (f : FaultSt → FaultSt) : (s.modFault f).car = s.car := rfl
@[simp] theorem State.modFault_cells (f : FaultSt → FaultSt) : (s.modFault f).cells = s.cells := rfl
@[simp] theorem State.modFault_mem (f : FaultSt → FaultSt) : (s.modFault f).mem = s.mem := rfl
@[simp] theorem State.modFault_pow (f : FaultSt → FaultSt) : (s.modFault f).pow = s.pow := rfl
@[simp] theorem State.modFault_vdes (f : FaultSt → FaultSt) : (s.modFault f).vdes = s.vdes := rfl
@[simp] theorem State.modFault_kernels (f : FaultSt → FaultSt) : (s.modFault f).kernels = s.kernels := rfl
@[simp] theorem State.modFault_fault (f : FaultSt → FaultSt) : (s.modFault f).fault = f s.fault := rfl
@[simp] theorem State.modFault_bdma (f : FaultSt → FaultSt) : (s.modFault f).bdma = s.bdma := rfl
@[simp] theorem State.modFault_bdmaEng (f : FaultSt → FaultSt) : (s.modFault f).bdmaEng = s.bdmaEng := rfl
@[simp] theorem State.modFault_line (f : FaultSt → FaultSt) : (s.modFault f).line = s.line := rfl
@[simp] theorem State.modFault_dome (f : FaultSt → FaultSt) : (s.modFault f).dome = s.dome := rfl
@[simp] theorem State.modFault_clu (f : FaultSt → FaultSt) : (s.modFault f).clu = s.clu := rfl
@[simp] theorem State.modFault_noc (f : FaultSt → FaultSt) : (s.modFault f).noc = s.noc := rfl
@[simp] theorem State.modFault_fsc (f : FaultSt → FaultSt) : (s.modFault f).fsc = s.fsc := rfl
@[simp] theorem State.modFault_cal (f : FaultSt → FaultSt) : (s.modFault f).cal = s.cal := rfl
@[simp] theorem State.modFault_pins (f : FaultSt → FaultSt) : (s.modFault f).pins = s.pins := rfl
@[simp] theorem State.modFault_outs (f : FaultSt → FaultSt) : (s.modFault f).outs = s.outs := rfl
@[simp] theorem State.modFault_freeCtr (f : FaultSt → FaultSt) : (s.modFault f).freeCtr = s.freeCtr := rfl
@[simp] theorem State.modFault_pending (f : FaultSt → FaultSt) : (s.modFault f).pending = s.pending := rfl

/-! ### modLine -/
@[simp] theorem State.modLine_host (f : LineSt → LineSt) : (s.modLine f).host = s.host := rfl
@[simp] theorem State.modLine_time (f : LineSt → LineSt) : (s.modLine f).time = s.time := rfl
@[simp] theorem State.modLine_car (f : LineSt → LineSt) : (s.modLine f).car = s.car := rfl
@[simp] theorem State.modLine_cells (f : LineSt → LineSt) : (s.modLine f).cells = s.cells := rfl
@[simp] theorem State.modLine_mem (f : LineSt → LineSt) : (s.modLine f).mem = s.mem := rfl
@[simp] theorem State.modLine_pow (f : LineSt → LineSt) : (s.modLine f).pow = s.pow := rfl
@[simp] theorem State.modLine_vdes (f : LineSt → LineSt) : (s.modLine f).vdes = s.vdes := rfl
@[simp] theorem State.modLine_kernels (f : LineSt → LineSt) : (s.modLine f).kernels = s.kernels := rfl
@[simp] theorem State.modLine_fault (f : LineSt → LineSt) : (s.modLine f).fault = s.fault := rfl
@[simp] theorem State.modLine_bdma (f : LineSt → LineSt) : (s.modLine f).bdma = s.bdma := rfl
@[simp] theorem State.modLine_bdmaEng (f : LineSt → LineSt) : (s.modLine f).bdmaEng = s.bdmaEng := rfl
@[simp] theorem State.modLine_line (f : LineSt → LineSt) : (s.modLine f).line = f s.line := rfl
@[simp] theorem State.modLine_dome (f : LineSt → LineSt) : (s.modLine f).dome = s.dome := rfl
@[simp] theorem State.modLine_clu (f : LineSt → LineSt) : (s.modLine f).clu = s.clu := rfl
@[simp] theorem State.modLine_noc (f : LineSt → LineSt) : (s.modLine f).noc = s.noc := rfl
@[simp] theorem State.modLine_fsc (f : LineSt → LineSt) : (s.modLine f).fsc = s.fsc := rfl
@[simp] theorem State.modLine_cal (f : LineSt → LineSt) : (s.modLine f).cal = s.cal := rfl
@[simp] theorem State.modLine_pins (f : LineSt → LineSt) : (s.modLine f).pins = s.pins := rfl
@[simp] theorem State.modLine_outs (f : LineSt → LineSt) : (s.modLine f).outs = s.outs := rfl
@[simp] theorem State.modLine_freeCtr (f : LineSt → LineSt) : (s.modLine f).freeCtr = s.freeCtr := rfl
@[simp] theorem State.modLine_pending (f : LineSt → LineSt) : (s.modLine f).pending = s.pending := rfl

/-! ### modLane -/
@[simp] theorem State.modLane_host (n : Nat) (f : Lane → Lane) : (s.modLane n f).host = s.host := rfl
@[simp] theorem State.modLane_time (n : Nat) (f : Lane → Lane) : (s.modLane n f).time = s.time := rfl
@[simp] theorem State.modLane_car (n : Nat) (f : Lane → Lane) : (s.modLane n f).car = s.car := rfl
@[simp] theorem State.modLane_cells (n : Nat) (f : Lane → Lane) : (s.modLane n f).cells = s.cells := rfl
@[simp] theorem State.modLane_mem (n : Nat) (f : Lane → Lane) : (s.modLane n f).mem = s.mem := rfl
@[simp] theorem State.modLane_pow (n : Nat) (f : Lane → Lane) : (s.modLane n f).pow = s.pow := rfl
@[simp] theorem State.modLane_vdes (n : Nat) (f : Lane → Lane) : (s.modLane n f).vdes = s.vdes := rfl
@[simp] theorem State.modLane_kernels (n : Nat) (f : Lane → Lane) : (s.modLane n f).kernels = s.kernels := rfl
@[simp] theorem State.modLane_fault (n : Nat) (f : Lane → Lane) : (s.modLane n f).fault = s.fault := rfl
@[simp] theorem State.modLane_bdma (n : Nat) (f : Lane → Lane) : (s.modLane n f).bdma = s.bdma := rfl
@[simp] theorem State.modLane_bdmaEng (n : Nat) (f : Lane → Lane) : (s.modLane n f).bdmaEng = s.bdmaEng := rfl
@[simp] theorem State.modLane_line (n : Nat) (f : Lane → Lane) : (s.modLane n f).line = { s.line with lanes := s.line.lanes.mod Lane.reset n fun x => (f x).stamp x s.time.frc } := rfl
@[simp] theorem State.modLane_dome (n : Nat) (f : Lane → Lane) : (s.modLane n f).dome = s.dome := rfl
@[simp] theorem State.modLane_clu (n : Nat) (f : Lane → Lane) : (s.modLane n f).clu = s.clu := rfl
@[simp] theorem State.modLane_noc (n : Nat) (f : Lane → Lane) : (s.modLane n f).noc = s.noc := rfl
@[simp] theorem State.modLane_fsc (n : Nat) (f : Lane → Lane) : (s.modLane n f).fsc = s.fsc := rfl
@[simp] theorem State.modLane_cal (n : Nat) (f : Lane → Lane) : (s.modLane n f).cal = s.cal := rfl
@[simp] theorem State.modLane_pins (n : Nat) (f : Lane → Lane) : (s.modLane n f).pins = s.pins := rfl
@[simp] theorem State.modLane_outs (n : Nat) (f : Lane → Lane) : (s.modLane n f).outs = s.outs := rfl
@[simp] theorem State.modLane_freeCtr (n : Nat) (f : Lane → Lane) : (s.modLane n f).freeCtr = s.freeCtr := rfl
@[simp] theorem State.modLane_pending (n : Nat) (f : Lane → Lane) : (s.modLane n f).pending = s.pending := rfl

/-! ### modTlf -/
@[simp] theorem State.modTlf_host (n : Nat) (f : TlfLane → TlfLane) : (s.modTlf n f).host = s.host := rfl
@[simp] theorem State.modTlf_time (n : Nat) (f : TlfLane → TlfLane) : (s.modTlf n f).time = s.time := rfl
@[simp] theorem State.modTlf_car (n : Nat) (f : TlfLane → TlfLane) : (s.modTlf n f).car = s.car := rfl
@[simp] theorem State.modTlf_cells (n : Nat) (f : TlfLane → TlfLane) : (s.modTlf n f).cells = s.cells := rfl
@[simp] theorem State.modTlf_mem (n : Nat) (f : TlfLane → TlfLane) : (s.modTlf n f).mem = s.mem := rfl
@[simp] theorem State.modTlf_pow (n : Nat) (f : TlfLane → TlfLane) : (s.modTlf n f).pow = s.pow := rfl
@[simp] theorem State.modTlf_vdes (n : Nat) (f : TlfLane → TlfLane) : (s.modTlf n f).vdes = s.vdes := rfl
@[simp] theorem State.modTlf_kernels (n : Nat) (f : TlfLane → TlfLane) : (s.modTlf n f).kernels = s.kernels := rfl
@[simp] theorem State.modTlf_fault (n : Nat) (f : TlfLane → TlfLane) : (s.modTlf n f).fault = s.fault := rfl
@[simp] theorem State.modTlf_bdma (n : Nat) (f : TlfLane → TlfLane) : (s.modTlf n f).bdma = s.bdma := rfl
@[simp] theorem State.modTlf_bdmaEng (n : Nat) (f : TlfLane → TlfLane) : (s.modTlf n f).bdmaEng = s.bdmaEng := rfl
@[simp] theorem State.modTlf_line (n : Nat) (f : TlfLane → TlfLane) : (s.modTlf n f).line = { s.line with tlf := s.line.tlf.mod TlfLane.reset n f } := rfl
@[simp] theorem State.modTlf_dome (n : Nat) (f : TlfLane → TlfLane) : (s.modTlf n f).dome = s.dome := rfl
@[simp] theorem State.modTlf_clu (n : Nat) (f : TlfLane → TlfLane) : (s.modTlf n f).clu = s.clu := rfl
@[simp] theorem State.modTlf_noc (n : Nat) (f : TlfLane → TlfLane) : (s.modTlf n f).noc = s.noc := rfl
@[simp] theorem State.modTlf_fsc (n : Nat) (f : TlfLane → TlfLane) : (s.modTlf n f).fsc = s.fsc := rfl
@[simp] theorem State.modTlf_cal (n : Nat) (f : TlfLane → TlfLane) : (s.modTlf n f).cal = s.cal := rfl
@[simp] theorem State.modTlf_pins (n : Nat) (f : TlfLane → TlfLane) : (s.modTlf n f).pins = s.pins := rfl
@[simp] theorem State.modTlf_outs (n : Nat) (f : TlfLane → TlfLane) : (s.modTlf n f).outs = s.outs := rfl
@[simp] theorem State.modTlf_freeCtr (n : Nat) (f : TlfLane → TlfLane) : (s.modTlf n f).freeCtr = s.freeCtr := rfl
@[simp] theorem State.modTlf_pending (n : Nat) (f : TlfLane → TlfLane) : (s.modTlf n f).pending = s.pending := rfl

/-! ### modTrail -/
@[simp] theorem State.modTrail_host (n : Nat) (f : Trail → Trail) : (s.modTrail n f).host = s.host := rfl
@[simp] theorem State.modTrail_time (n : Nat) (f : Trail → Trail) : (s.modTrail n f).time = s.time := rfl
@[simp] theorem State.modTrail_car (n : Nat) (f : Trail → Trail) : (s.modTrail n f).car = s.car := rfl
@[simp] theorem State.modTrail_cells (n : Nat) (f : Trail → Trail) : (s.modTrail n f).cells = s.cells := rfl
@[simp] theorem State.modTrail_mem (n : Nat) (f : Trail → Trail) : (s.modTrail n f).mem = s.mem := rfl
@[simp] theorem State.modTrail_pow (n : Nat) (f : Trail → Trail) : (s.modTrail n f).pow = s.pow := rfl
@[simp] theorem State.modTrail_vdes (n : Nat) (f : Trail → Trail) : (s.modTrail n f).vdes = s.vdes := rfl
@[simp] theorem State.modTrail_kernels (n : Nat) (f : Trail → Trail) : (s.modTrail n f).kernels = s.kernels := rfl
@[simp] theorem State.modTrail_fault (n : Nat) (f : Trail → Trail) : (s.modTrail n f).fault = s.fault := rfl
@[simp] theorem State.modTrail_bdma (n : Nat) (f : Trail → Trail) : (s.modTrail n f).bdma = s.bdma := rfl
@[simp] theorem State.modTrail_bdmaEng (n : Nat) (f : Trail → Trail) : (s.modTrail n f).bdmaEng = s.bdmaEng := rfl
@[simp] theorem State.modTrail_line (n : Nat) (f : Trail → Trail) : (s.modTrail n f).line = { s.line with trails := s.line.trails.upd n f } := rfl
@[simp] theorem State.modTrail_dome (n : Nat) (f : Trail → Trail) : (s.modTrail n f).dome = s.dome := rfl
@[simp] theorem State.modTrail_clu (n : Nat) (f : Trail → Trail) : (s.modTrail n f).clu = s.clu := rfl
@[simp] theorem State.modTrail_noc (n : Nat) (f : Trail → Trail) : (s.modTrail n f).noc = s.noc := rfl
@[simp] theorem State.modTrail_fsc (n : Nat) (f : Trail → Trail) : (s.modTrail n f).fsc = s.fsc := rfl
@[simp] theorem State.modTrail_cal (n : Nat) (f : Trail → Trail) : (s.modTrail n f).cal = s.cal := rfl
@[simp] theorem State.modTrail_pins (n : Nat) (f : Trail → Trail) : (s.modTrail n f).pins = s.pins := rfl
@[simp] theorem State.modTrail_outs (n : Nat) (f : Trail → Trail) : (s.modTrail n f).outs = s.outs := rfl
@[simp] theorem State.modTrail_freeCtr (n : Nat) (f : Trail → Trail) : (s.modTrail n f).freeCtr = s.freeCtr := rfl
@[simp] theorem State.modTrail_pending (n : Nat) (f : Trail → Trail) : (s.modTrail n f).pending = s.pending := rfl

/-! ### modPort -/
@[simp] theorem State.modPort_host (n : Nat) (f : EthPort → EthPort) : (s.modPort n f).host = s.host := rfl
@[simp] theorem State.modPort_time (n : Nat) (f : EthPort → EthPort) : (s.modPort n f).time = s.time := rfl
@[simp] theorem State.modPort_car (n : Nat) (f : EthPort → EthPort) : (s.modPort n f).car = s.car := rfl
@[simp] theorem State.modPort_cells (n : Nat) (f : EthPort → EthPort) : (s.modPort n f).cells = s.cells := rfl
@[simp] theorem State.modPort_mem (n : Nat) (f : EthPort → EthPort) : (s.modPort n f).mem = s.mem := rfl
@[simp] theorem State.modPort_pow (n : Nat) (f : EthPort → EthPort) : (s.modPort n f).pow = s.pow := rfl
@[simp] theorem State.modPort_vdes (n : Nat) (f : EthPort → EthPort) : (s.modPort n f).vdes = s.vdes := rfl
@[simp] theorem State.modPort_kernels (n : Nat) (f : EthPort → EthPort) : (s.modPort n f).kernels = s.kernels := rfl
@[simp] theorem State.modPort_fault (n : Nat) (f : EthPort → EthPort) : (s.modPort n f).fault = s.fault := rfl
@[simp] theorem State.modPort_bdma (n : Nat) (f : EthPort → EthPort) : (s.modPort n f).bdma = s.bdma := rfl
@[simp] theorem State.modPort_bdmaEng (n : Nat) (f : EthPort → EthPort) : (s.modPort n f).bdmaEng = s.bdmaEng := rfl
@[simp] theorem State.modPort_line (n : Nat) (f : EthPort → EthPort) : (s.modPort n f).line = { s.line with ports := s.line.ports.upd n f } := rfl
@[simp] theorem State.modPort_dome (n : Nat) (f : EthPort → EthPort) : (s.modPort n f).dome = s.dome := rfl
@[simp] theorem State.modPort_clu (n : Nat) (f : EthPort → EthPort) : (s.modPort n f).clu = s.clu := rfl
@[simp] theorem State.modPort_noc (n : Nat) (f : EthPort → EthPort) : (s.modPort n f).noc = s.noc := rfl
@[simp] theorem State.modPort_fsc (n : Nat) (f : EthPort → EthPort) : (s.modPort n f).fsc = s.fsc := rfl
@[simp] theorem State.modPort_cal (n : Nat) (f : EthPort → EthPort) : (s.modPort n f).cal = s.cal := rfl
@[simp] theorem State.modPort_pins (n : Nat) (f : EthPort → EthPort) : (s.modPort n f).pins = s.pins := rfl
@[simp] theorem State.modPort_outs (n : Nat) (f : EthPort → EthPort) : (s.modPort n f).outs = s.outs := rfl
@[simp] theorem State.modPort_freeCtr (n : Nat) (f : EthPort → EthPort) : (s.modPort n f).freeCtr = s.freeCtr := rfl
@[simp] theorem State.modPort_pending (n : Nat) (f : EthPort → EthPort) : (s.modPort n f).pending = s.pending := rfl

/-! ### modDome -/
@[simp] theorem State.modDome_host (f : DomeSt → DomeSt) : (s.modDome f).host = s.host := rfl
@[simp] theorem State.modDome_time (f : DomeSt → DomeSt) : (s.modDome f).time = s.time := rfl
@[simp] theorem State.modDome_car (f : DomeSt → DomeSt) : (s.modDome f).car = s.car := rfl
@[simp] theorem State.modDome_cells (f : DomeSt → DomeSt) : (s.modDome f).cells = s.cells := rfl
@[simp] theorem State.modDome_mem (f : DomeSt → DomeSt) : (s.modDome f).mem = s.mem := rfl
@[simp] theorem State.modDome_pow (f : DomeSt → DomeSt) : (s.modDome f).pow = s.pow := rfl
@[simp] theorem State.modDome_vdes (f : DomeSt → DomeSt) : (s.modDome f).vdes = s.vdes := rfl
@[simp] theorem State.modDome_kernels (f : DomeSt → DomeSt) : (s.modDome f).kernels = s.kernels := rfl
@[simp] theorem State.modDome_fault (f : DomeSt → DomeSt) : (s.modDome f).fault = s.fault := rfl
@[simp] theorem State.modDome_bdma (f : DomeSt → DomeSt) : (s.modDome f).bdma = s.bdma := rfl
@[simp] theorem State.modDome_bdmaEng (f : DomeSt → DomeSt) : (s.modDome f).bdmaEng = s.bdmaEng := rfl
@[simp] theorem State.modDome_line (f : DomeSt → DomeSt) : (s.modDome f).line = s.line := rfl
@[simp] theorem State.modDome_dome (f : DomeSt → DomeSt) : (s.modDome f).dome = f s.dome := rfl
@[simp] theorem State.modDome_clu (f : DomeSt → DomeSt) : (s.modDome f).clu = s.clu := rfl
@[simp] theorem State.modDome_noc (f : DomeSt → DomeSt) : (s.modDome f).noc = s.noc := rfl
@[simp] theorem State.modDome_fsc (f : DomeSt → DomeSt) : (s.modDome f).fsc = s.fsc := rfl
@[simp] theorem State.modDome_cal (f : DomeSt → DomeSt) : (s.modDome f).cal = s.cal := rfl
@[simp] theorem State.modDome_pins (f : DomeSt → DomeSt) : (s.modDome f).pins = s.pins := rfl
@[simp] theorem State.modDome_outs (f : DomeSt → DomeSt) : (s.modDome f).outs = s.outs := rfl
@[simp] theorem State.modDome_freeCtr (f : DomeSt → DomeSt) : (s.modDome f).freeCtr = s.freeCtr := rfl
@[simp] theorem State.modDome_pending (f : DomeSt → DomeSt) : (s.modDome f).pending = s.pending := rfl

/-! ### modClu -/
@[simp] theorem State.modClu_host (f : Cluster → Cluster) : (s.modClu f).host = s.host := rfl
@[simp] theorem State.modClu_time (f : Cluster → Cluster) : (s.modClu f).time = s.time := rfl
@[simp] theorem State.modClu_car (f : Cluster → Cluster) : (s.modClu f).car = s.car := rfl
@[simp] theorem State.modClu_cells (f : Cluster → Cluster) : (s.modClu f).cells = s.cells := rfl
@[simp] theorem State.modClu_mem (f : Cluster → Cluster) : (s.modClu f).mem = s.mem := rfl
@[simp] theorem State.modClu_pow (f : Cluster → Cluster) : (s.modClu f).pow = s.pow := rfl
@[simp] theorem State.modClu_vdes (f : Cluster → Cluster) : (s.modClu f).vdes = s.vdes := rfl
@[simp] theorem State.modClu_kernels (f : Cluster → Cluster) : (s.modClu f).kernels = s.kernels := rfl
@[simp] theorem State.modClu_fault (f : Cluster → Cluster) : (s.modClu f).fault = s.fault := rfl
@[simp] theorem State.modClu_bdma (f : Cluster → Cluster) : (s.modClu f).bdma = s.bdma := rfl
@[simp] theorem State.modClu_bdmaEng (f : Cluster → Cluster) : (s.modClu f).bdmaEng = s.bdmaEng := rfl
@[simp] theorem State.modClu_line (f : Cluster → Cluster) : (s.modClu f).line = s.line := rfl
@[simp] theorem State.modClu_dome (f : Cluster → Cluster) : (s.modClu f).dome = s.dome := rfl
@[simp] theorem State.modClu_clu (f : Cluster → Cluster) : (s.modClu f).clu = f s.clu := rfl
@[simp] theorem State.modClu_noc (f : Cluster → Cluster) : (s.modClu f).noc = s.noc := rfl
@[simp] theorem State.modClu_fsc (f : Cluster → Cluster) : (s.modClu f).fsc = s.fsc := rfl
@[simp] theorem State.modClu_cal (f : Cluster → Cluster) : (s.modClu f).cal = s.cal := rfl
@[simp] theorem State.modClu_pins (f : Cluster → Cluster) : (s.modClu f).pins = s.pins := rfl
@[simp] theorem State.modClu_outs (f : Cluster → Cluster) : (s.modClu f).outs = s.outs := rfl
@[simp] theorem State.modClu_freeCtr (f : Cluster → Cluster) : (s.modClu f).freeCtr = s.freeCtr := rfl
@[simp] theorem State.modClu_pending (f : Cluster → Cluster) : (s.modClu f).pending = s.pending := rfl

/-! ### modMig -/
@[simp] theorem State.modMig_host (id : Nat) (f : Mig → Mig) : (s.modMig id f).host = s.host := rfl
@[simp] theorem State.modMig_time (id : Nat) (f : Mig → Mig) : (s.modMig id f).time = s.time := rfl
@[simp] theorem State.modMig_car (id : Nat) (f : Mig → Mig) : (s.modMig id f).car = s.car := rfl
@[simp] theorem State.modMig_cells (id : Nat) (f : Mig → Mig) : (s.modMig id f).cells = s.cells := rfl
@[simp] theorem State.modMig_mem (id : Nat) (f : Mig → Mig) : (s.modMig id f).mem = s.mem := rfl
@[simp] theorem State.modMig_pow (id : Nat) (f : Mig → Mig) : (s.modMig id f).pow = s.pow := rfl
@[simp] theorem State.modMig_vdes (id : Nat) (f : Mig → Mig) : (s.modMig id f).vdes = s.vdes := rfl
@[simp] theorem State.modMig_kernels (id : Nat) (f : Mig → Mig) : (s.modMig id f).kernels = s.kernels := rfl
@[simp] theorem State.modMig_fault (id : Nat) (f : Mig → Mig) : (s.modMig id f).fault = s.fault := rfl
@[simp] theorem State.modMig_bdma (id : Nat) (f : Mig → Mig) : (s.modMig id f).bdma = s.bdma := rfl
@[simp] theorem State.modMig_bdmaEng (id : Nat) (f : Mig → Mig) : (s.modMig id f).bdmaEng = s.bdmaEng := rfl
@[simp] theorem State.modMig_line (id : Nat) (f : Mig → Mig) : (s.modMig id f).line = s.line := rfl
@[simp] theorem State.modMig_dome (id : Nat) (f : Mig → Mig) : (s.modMig id f).dome = s.dome := rfl
@[simp] theorem State.modMig_clu (id : Nat) (f : Mig → Mig) : (s.modMig id f).clu = { s.clu with migs := s.clu.migs.upd id f } := rfl
@[simp] theorem State.modMig_noc (id : Nat) (f : Mig → Mig) : (s.modMig id f).noc = s.noc := rfl
@[simp] theorem State.modMig_fsc (id : Nat) (f : Mig → Mig) : (s.modMig id f).fsc = s.fsc := rfl
@[simp] theorem State.modMig_cal (id : Nat) (f : Mig → Mig) : (s.modMig id f).cal = s.cal := rfl
@[simp] theorem State.modMig_pins (id : Nat) (f : Mig → Mig) : (s.modMig id f).pins = s.pins := rfl
@[simp] theorem State.modMig_outs (id : Nat) (f : Mig → Mig) : (s.modMig id f).outs = s.outs := rfl
@[simp] theorem State.modMig_freeCtr (id : Nat) (f : Mig → Mig) : (s.modMig id f).freeCtr = s.freeCtr := rfl
@[simp] theorem State.modMig_pending (id : Nat) (f : Mig → Mig) : (s.modMig id f).pending = s.pending := rfl

/-! ### modNoc -/
@[simp] theorem State.modNoc_host (f : Noc → Noc) : (s.modNoc f).host = s.host := rfl
@[simp] theorem State.modNoc_time (f : Noc → Noc) : (s.modNoc f).time = s.time := rfl
@[simp] theorem State.modNoc_car (f : Noc → Noc) : (s.modNoc f).car = s.car := rfl
@[simp] theorem State.modNoc_cells (f : Noc → Noc) : (s.modNoc f).cells = s.cells := rfl
@[simp] theorem State.modNoc_mem (f : Noc → Noc) : (s.modNoc f).mem = s.mem := rfl
@[simp] theorem State.modNoc_pow (f : Noc → Noc) : (s.modNoc f).pow = s.pow := rfl
@[simp] theorem State.modNoc_vdes (f : Noc → Noc) : (s.modNoc f).vdes = s.vdes := rfl
@[simp] theorem State.modNoc_kernels (f : Noc → Noc) : (s.modNoc f).kernels = s.kernels := rfl
@[simp] theorem State.modNoc_fault (f : Noc → Noc) : (s.modNoc f).fault = s.fault := rfl
@[simp] theorem State.modNoc_bdma (f : Noc → Noc) : (s.modNoc f).bdma = s.bdma := rfl
@[simp] theorem State.modNoc_bdmaEng (f : Noc → Noc) : (s.modNoc f).bdmaEng = s.bdmaEng := rfl
@[simp] theorem State.modNoc_line (f : Noc → Noc) : (s.modNoc f).line = s.line := rfl
@[simp] theorem State.modNoc_dome (f : Noc → Noc) : (s.modNoc f).dome = s.dome := rfl
@[simp] theorem State.modNoc_clu (f : Noc → Noc) : (s.modNoc f).clu = s.clu := rfl
@[simp] theorem State.modNoc_noc (f : Noc → Noc) : (s.modNoc f).noc = f s.noc := rfl
@[simp] theorem State.modNoc_fsc (f : Noc → Noc) : (s.modNoc f).fsc = s.fsc := rfl
@[simp] theorem State.modNoc_cal (f : Noc → Noc) : (s.modNoc f).cal = s.cal := rfl
@[simp] theorem State.modNoc_pins (f : Noc → Noc) : (s.modNoc f).pins = s.pins := rfl
@[simp] theorem State.modNoc_outs (f : Noc → Noc) : (s.modNoc f).outs = s.outs := rfl
@[simp] theorem State.modNoc_freeCtr (f : Noc → Noc) : (s.modNoc f).freeCtr = s.freeCtr := rfl
@[simp] theorem State.modNoc_pending (f : Noc → Noc) : (s.modNoc f).pending = s.pending := rfl

/-! ### modFsc -/
@[simp] theorem State.modFsc_host (f : FscSt → FscSt) : (s.modFsc f).host = s.host := rfl
@[simp] theorem State.modFsc_time (f : FscSt → FscSt) : (s.modFsc f).time = s.time := rfl
@[simp] theorem State.modFsc_car (f : FscSt → FscSt) : (s.modFsc f).car = s.car := rfl
@[simp] theorem State.modFsc_cells (f : FscSt → FscSt) : (s.modFsc f).cells = s.cells := rfl
@[simp] theorem State.modFsc_mem (f : FscSt → FscSt) : (s.modFsc f).mem = s.mem := rfl
@[simp] theorem State.modFsc_pow (f : FscSt → FscSt) : (s.modFsc f).pow = s.pow := rfl
@[simp] theorem State.modFsc_vdes (f : FscSt → FscSt) : (s.modFsc f).vdes = s.vdes := rfl
@[simp] theorem State.modFsc_kernels (f : FscSt → FscSt) : (s.modFsc f).kernels = s.kernels := rfl
@[simp] theorem State.modFsc_fault (f : FscSt → FscSt) : (s.modFsc f).fault = s.fault := rfl
@[simp] theorem State.modFsc_bdma (f : FscSt → FscSt) : (s.modFsc f).bdma = s.bdma := rfl
@[simp] theorem State.modFsc_bdmaEng (f : FscSt → FscSt) : (s.modFsc f).bdmaEng = s.bdmaEng := rfl
@[simp] theorem State.modFsc_line (f : FscSt → FscSt) : (s.modFsc f).line = s.line := rfl
@[simp] theorem State.modFsc_dome (f : FscSt → FscSt) : (s.modFsc f).dome = s.dome := rfl
@[simp] theorem State.modFsc_clu (f : FscSt → FscSt) : (s.modFsc f).clu = s.clu := rfl
@[simp] theorem State.modFsc_noc (f : FscSt → FscSt) : (s.modFsc f).noc = s.noc := rfl
@[simp] theorem State.modFsc_fsc (f : FscSt → FscSt) : (s.modFsc f).fsc = f s.fsc := rfl
@[simp] theorem State.modFsc_cal (f : FscSt → FscSt) : (s.modFsc f).cal = s.cal := rfl
@[simp] theorem State.modFsc_pins (f : FscSt → FscSt) : (s.modFsc f).pins = s.pins := rfl
@[simp] theorem State.modFsc_outs (f : FscSt → FscSt) : (s.modFsc f).outs = s.outs := rfl
@[simp] theorem State.modFsc_freeCtr (f : FscSt → FscSt) : (s.modFsc f).freeCtr = s.freeCtr := rfl
@[simp] theorem State.modFsc_pending (f : FscSt → FscSt) : (s.modFsc f).pending = s.pending := rfl

/-! ### modAdc -/
@[simp] theorem State.modAdc_host (f : AdcSt → AdcSt) : (s.modAdc f).host = s.host := rfl
@[simp] theorem State.modAdc_time (f : AdcSt → AdcSt) : (s.modAdc f).time = s.time := rfl
@[simp] theorem State.modAdc_car (f : AdcSt → AdcSt) : (s.modAdc f).car = s.car := rfl
@[simp] theorem State.modAdc_cells (f : AdcSt → AdcSt) : (s.modAdc f).cells = s.cells := rfl
@[simp] theorem State.modAdc_mem (f : AdcSt → AdcSt) : (s.modAdc f).mem = s.mem := rfl
@[simp] theorem State.modAdc_pow (f : AdcSt → AdcSt) : (s.modAdc f).pow = s.pow := rfl
@[simp] theorem State.modAdc_vdes (f : AdcSt → AdcSt) : (s.modAdc f).vdes = s.vdes := rfl
@[simp] theorem State.modAdc_kernels (f : AdcSt → AdcSt) : (s.modAdc f).kernels = s.kernels := rfl
@[simp] theorem State.modAdc_fault (f : AdcSt → AdcSt) : (s.modAdc f).fault = s.fault := rfl
@[simp] theorem State.modAdc_bdma (f : AdcSt → AdcSt) : (s.modAdc f).bdma = s.bdma := rfl
@[simp] theorem State.modAdc_bdmaEng (f : AdcSt → AdcSt) : (s.modAdc f).bdmaEng = s.bdmaEng := rfl
@[simp] theorem State.modAdc_line (f : AdcSt → AdcSt) : (s.modAdc f).line = s.line := rfl
@[simp] theorem State.modAdc_dome (f : AdcSt → AdcSt) : (s.modAdc f).dome = s.dome := rfl
@[simp] theorem State.modAdc_clu (f : AdcSt → AdcSt) : (s.modAdc f).clu = s.clu := rfl
@[simp] theorem State.modAdc_noc (f : AdcSt → AdcSt) : (s.modAdc f).noc = s.noc := rfl
@[simp] theorem State.modAdc_fsc (f : AdcSt → AdcSt) : (s.modAdc f).fsc = { s.fsc with adc := f s.fsc.adc } := rfl
@[simp] theorem State.modAdc_cal (f : AdcSt → AdcSt) : (s.modAdc f).cal = s.cal := rfl
@[simp] theorem State.modAdc_pins (f : AdcSt → AdcSt) : (s.modAdc f).pins = s.pins := rfl
@[simp] theorem State.modAdc_outs (f : AdcSt → AdcSt) : (s.modAdc f).outs = s.outs := rfl
@[simp] theorem State.modAdc_freeCtr (f : AdcSt → AdcSt) : (s.modAdc f).freeCtr = s.freeCtr := rfl
@[simp] theorem State.modAdc_pending (f : AdcSt → AdcSt) : (s.modAdc f).pending = s.pending := rfl

/-! ### modCal -/
@[simp] theorem State.modCal_host (f : CalSt → CalSt) : (s.modCal f).host = s.host := rfl
@[simp] theorem State.modCal_time (f : CalSt → CalSt) : (s.modCal f).time = s.time := rfl
@[simp] theorem State.modCal_car (f : CalSt → CalSt) : (s.modCal f).car = s.car := rfl
@[simp] theorem State.modCal_cells (f : CalSt → CalSt) : (s.modCal f).cells = s.cells := rfl
@[simp] theorem State.modCal_mem (f : CalSt → CalSt) : (s.modCal f).mem = s.mem := rfl
@[simp] theorem State.modCal_pow (f : CalSt → CalSt) : (s.modCal f).pow = s.pow := rfl
@[simp] theorem State.modCal_vdes (f : CalSt → CalSt) : (s.modCal f).vdes = s.vdes := rfl
@[simp] theorem State.modCal_kernels (f : CalSt → CalSt) : (s.modCal f).kernels = s.kernels := rfl
@[simp] theorem State.modCal_fault (f : CalSt → CalSt) : (s.modCal f).fault = s.fault := rfl
@[simp] theorem State.modCal_bdma (f : CalSt → CalSt) : (s.modCal f).bdma = s.bdma := rfl
@[simp] theorem State.modCal_bdmaEng (f : CalSt → CalSt) : (s.modCal f).bdmaEng = s.bdmaEng := rfl
@[simp] theorem State.modCal_line (f : CalSt → CalSt) : (s.modCal f).line = s.line := rfl
@[simp] theorem State.modCal_dome (f : CalSt → CalSt) : (s.modCal f).dome = s.dome := rfl
@[simp] theorem State.modCal_clu (f : CalSt → CalSt) : (s.modCal f).clu = s.clu := rfl
@[simp] theorem State.modCal_noc (f : CalSt → CalSt) : (s.modCal f).noc = s.noc := rfl
@[simp] theorem State.modCal_fsc (f : CalSt → CalSt) : (s.modCal f).fsc = s.fsc := rfl
@[simp] theorem State.modCal_cal (f : CalSt → CalSt) : (s.modCal f).cal = f s.cal := rfl
@[simp] theorem State.modCal_pins (f : CalSt → CalSt) : (s.modCal f).pins = s.pins := rfl
@[simp] theorem State.modCal_outs (f : CalSt → CalSt) : (s.modCal f).outs = s.outs := rfl
@[simp] theorem State.modCal_freeCtr (f : CalSt → CalSt) : (s.modCal f).freeCtr = s.freeCtr := rfl
@[simp] theorem State.modCal_pending (f : CalSt → CalSt) : (s.modCal f).pending = s.pending := rfl

/-! ### The FRC, and a function's own state -/
theorem State.advance_frc (t : Nat) : (s.advance t).time.frc = max s.time.frc t := by
  unfold State.advance; split <;> simp <;> omega
theorem State.advance_func (t fn : Nat) : (s.advance t).func fn = s.func fn := by simp [State.func, State.advance_host]
@[simp] theorem State.emit_func (o : Out) (fn : Nat) : (s.emit o).func fn = s.func fn := rfl
@[simp] theorem State.dropFlight_func (id fn : Nat) : (s.dropFlight id).func fn = s.func fn := rfl
@[simp] theorem State.park_func (id fn : Nat) (w : Wait) : (s.park id w).func fn = s.func fn := rfl
@[simp] theorem State.modCar_func (f : Carillon → Carillon) (fn : Nat) : (s.modCar f).func fn = s.func fn := rfl
@[simp] theorem State.draw_fst : s.draw.1 = Config.free s.freeCtr := rfl
@[simp] theorem State.draw_snd : s.draw.2 = { s with freeCtr := s.freeCtr + 1 } := rfl

end Sys2Proof.Machine
end

