-- ==== Sys2Proof/Laws/Tab.lean ====
section
/-! SUPPORT. Laws of sparse tables: reading after a write, and that every write keeps the canonical form. -/

namespace Sys2Proof.Machine

variable {α : Type}

/-! ## Reading -/

@[simp] theorem Tab.find?_nil (k : Nat) : Tab.find? ([] : Tab α) k = none := rfl
@[simp] theorem Tab.get_nil (d : α) (k : Nat) : Tab.get d ([] : Tab α) k = d := rfl

theorem Tab.find?_set (t : Tab α) (k k' : Nat) (v : α) :
    (t.set k v).find? k' = if k' = k then some v else t.find? k' := by
  induction t with
  | nil => simp [Tab.set, Tab.find?]
  | cons e t ih => obtain ⟨a, w⟩ := e; grind [Tab.set, Tab.find?]

theorem Tab.find?_del_ne (t : Tab α) {k k' : Nat} (h : k' ≠ k) : (t.del k).find? k' = t.find? k' := by
  induction t with
  | nil => rfl
  | cons e t ih => obtain ⟨a, w⟩ := e; grind [Tab.del, Tab.find?]

/-! ## Keys in order -/

/-- Every listed key is above a bound. -/
def Tab.above (t : Tab α) (b : Nat) : Prop := ∀ e ∈ t, b < e.1

theorem Tab.sorted_cons {a : Nat} {w : α} {t : Tab α} :
    Tab.sorted ((a, w) :: t) = true ↔ t.above a ∧ t.sorted = true := by
  induction t generalizing a w with
  | nil => simp [Tab.sorted, Tab.above]
  | cons e t ih =>
    obtain ⟨b, x⟩ := e
    simp only [Tab.sorted, Bool.and_eq_true, decide_eq_true_eq, Tab.above, List.mem_cons, forall_eq_or_imp]
    constructor
    · rintro ⟨h1, h2⟩
      exact ⟨⟨h1, fun e he => Nat.lt_trans h1 ((ih.mp h2).1 e he)⟩, h2⟩
    · rintro ⟨⟨h1, _⟩, h2⟩
      exact ⟨h1, h2⟩

theorem Tab.find?_above {t : Tab α} {k : Nat} (h : t.above k) : t.find? k = none := by
  induction t with
  | nil => rfl
  | cons e t ih =>
    obtain ⟨a, w⟩ := e
    have ha : k < a := h (a, w) (by simp)
    have ht : Tab.above t k := fun e he => h e (by simp [he])
    simp [Tab.find?, Nat.ne_of_lt ha, ih ht]

theorem Tab.above_set {t : Tab α} {a k : Nat} {v : α} (h : t.above a) (hk : a < k) : (t.set k v).above a := by
  induction t with
  | nil => simpa [Tab.set, Tab.above] using hk
  | cons e t ih =>
    obtain ⟨b, w⟩ := e
    have hb : a < b := h (b, w) (by simp)
    have ht : Tab.above t a := fun e he => h e (by simp [he])
    have ih := ih ht
    unfold Tab.above at ih ht ⊢
    unfold Tab.set
    split
    · simpa using ⟨hk, hb, fun x y => ht (x, y)⟩
    · split
      · simpa using ⟨hk, fun x y => ht (x, y)⟩
      · simpa using ⟨hb, fun x y => ih (x, y)⟩

theorem Tab.above_del {t : Tab α} {a k : Nat} (h : t.above a) : (t.del k).above a := by
  induction t with
  | nil => exact h
  | cons e t ih =>
    obtain ⟨b, w⟩ := e
    have hb : a < b := h (b, w) (by simp)
    have ht : Tab.above t a := fun e he => h e (by simp [he])
    unfold Tab.del
    split
    · exact ht
    · intro e he
      rcases List.mem_cons.mp he with rfl | he
      · exact hb
      · exact ih ht e he

/-- Writing keeps the keys in order. -/
theorem Tab.sorted_set {t : Tab α} {k : Nat} {v : α} (h : t.sorted = true) : (t.set k v).sorted = true := by
  induction t with
  | nil => rfl
  | cons e t ih =>
    obtain ⟨a, w⟩ := e
    obtain ⟨h1, h2⟩ := Tab.sorted_cons.mp h
    unfold Tab.set
    split
    · rename_i hk
      refine Tab.sorted_cons.mpr ⟨?_, h⟩
      intro e he
      rcases List.mem_cons.mp he with rfl | he
      · exact hk
      · exact Nat.lt_trans hk (h1 e he)
    · split
      · rename_i hk; subst hk; exact Tab.sorted_cons.mpr ⟨h1, h2⟩
      · exact Tab.sorted_cons.mpr ⟨Tab.above_set h1 (by omega), ih h2⟩

/-- Removing keeps the keys in order. -/
theorem Tab.sorted_del {t : Tab α} {k : Nat} (h : t.sorted = true) : (t.del k).sorted = true := by
  induction t with
  | nil => rfl
  | cons e t ih =>
    obtain ⟨a, w⟩ := e
    obtain ⟨h1, h2⟩ := Tab.sorted_cons.mp h
    unfold Tab.del
    split
    · exact h2
    · exact Tab.sorted_cons.mpr ⟨Tab.above_del h1, ih h2⟩

/-- Keeping some entries keeps the keys in order. -/
theorem Tab.sorted_keep {t : Tab α} {p : Nat → α → Bool} (h : t.sorted = true) : (t.keep p).sorted = true := by
  induction t with
  | nil => rfl
  | cons e t ih =>
    obtain ⟨a, w⟩ := e
    obtain ⟨h1, h2⟩ := Tab.sorted_cons.mp h
    unfold Tab.keep at ih ⊢
    rw [List.filter_cons]
    split
    · exact Tab.sorted_cons.mpr ⟨fun e he => h1 e (List.mem_of_mem_filter he), ih h2⟩
    · exact ih h2

theorem Tab.find?_del_self {t : Tab α} {k : Nat} (h : t.sorted = true) : (t.del k).find? k = none := by
  induction t with
  | nil => rfl
  | cons e t ih =>
    obtain ⟨a, w⟩ := e
    obtain ⟨h1, h2⟩ := Tab.sorted_cons.mp h
    unfold Tab.del
    split
    · rename_i hk; subst hk; exact Tab.find?_above h1
    · rename_i hk; simp [Tab.find?, hk, ih h2]

/-! ## The canonical form -/

theorem Tab.mem_set {t : Tab α} {k : Nat} {v : α} {e : Nat × α} (h : e ∈ t.set k v) : e = (k, v) ∨ e ∈ t := by
  induction t with
  | nil => simpa [Tab.set] using h
  | cons x t ih => obtain ⟨a, w⟩ := x; grind [Tab.set]

theorem Tab.mem_del {t : Tab α} {k : Nat} {e : Nat × α} (h : e ∈ t.del k) : e ∈ t := by
  induction t with
  | nil => exact h
  | cons x t ih => obtain ⟨a, w⟩ := x; grind [Tab.del]

section Wf

variable [DecidableEq α] {d : α} {t : Tab α} {k : Nat} {v : α}

theorem Tab.wf_iff : t.wf d = true ↔ t.sorted = true ∧ ∀ e ∈ t, e.2 ≠ d := by
  simp [Tab.wf]

@[simp] theorem Tab.wf_nil : Tab.wf d ([] : Tab α) = true := rfl

/-- Writing an entry keeps the canonical form. -/
theorem Tab.wf_put (h : t.wf d = true) : (t.put d k v).wf d = true := by
  obtain ⟨h1, h2⟩ := Tab.wf_iff.mp h
  unfold Tab.put
  split
  · exact Tab.wf_iff.mpr ⟨Tab.sorted_del h1, fun e he => h2 e (Tab.mem_del he)⟩
  · rename_i hv
    refine Tab.wf_iff.mpr ⟨Tab.sorted_set h1, fun e he => ?_⟩
    rcases Tab.mem_set he with rfl | he
    · exact hv
    · exact h2 e he

theorem Tab.wf_mod {f : α → α} (h : t.wf d = true) : (t.mod d k f).wf d = true := Tab.wf_put h

/-- Keeping some entries keeps the canonical form. -/
theorem Tab.wf_keep {p : Nat → α → Bool} (h : t.wf d = true) : (t.keep p).wf d = true := by
  obtain ⟨h1, h2⟩ := Tab.wf_iff.mp h
  exact Tab.wf_iff.mpr ⟨Tab.sorted_keep h1, fun e he => h2 e (List.mem_of_mem_filter he)⟩

/-- Reading the key just written, in a table whose keys are in order. -/
theorem Tab.get_put_self (h : t.sorted = true) : (t.put d k v).get d k = v := by
  unfold Tab.put Tab.get
  split
  · rename_i hv; simp [Tab.find?_del_self h, hv]
  · simp [Tab.find?_set]

/-- Reading any other key. -/
theorem Tab.get_put_ne {k' : Nat} (h : k' ≠ k) : (t.put d k v).get d k' = t.get d k' := by
  unfold Tab.put Tab.get
  split
  · rw [Tab.find?_del_ne t h]
  · rw [Tab.find?_set, if_neg h]

theorem Tab.get_mod_ne {k' : Nat} {f : α → α} (h : k' ≠ k) : (t.mod d k f).get d k' = t.get d k' := Tab.get_put_ne h
theorem Tab.get_mod_self {f : α → α} (h : t.sorted = true) : (t.mod d k f).get d k = f (t.get d k) := Tab.get_put_self h
theorem Tab.sorted_put (h : t.sorted = true) : (t.put d k v).sorted = true := by
  unfold Tab.put; split
  · exact Tab.sorted_del h
  · exact Tab.sorted_set h

end Wf

end Sys2Proof.Machine
end

