-- ==== Sys2Proof/Laws/Host.lean ====
section
/-! SUPPORT. What events, interrupts and completions can do, once for all commands: they touch the outbox, the functions' own tables
and the list of commands in progress, and nothing else (R57 to R62). -/

namespace Sys2Proof.Machine

/-- `u` is `s` but for the outbox and the tables of the functions for which `p` holds. -/
def OnlyFuncs (p : Nat → Prop) (s u : State) : Prop :=
  ∃ o g, u = { s with host := { s.host with funcs := g }, outs := o }
    ∧ ∀ fn, ¬ p fn → g.get Func.reset fn = s.host.funcs.get Func.reset fn

variable {p : Nat → Prop} {s u w : State}

theorem OnlyFuncs.refl (p : Nat → Prop) (s : State) : OnlyFuncs p s s := ⟨s.outs, s.host.funcs, rfl, fun _ _ => rfl⟩

theorem OnlyFuncs.trans (h : OnlyFuncs p s u) (h' : OnlyFuncs p u w) : OnlyFuncs p s w := by
  obtain ⟨o, g, rfl, hg⟩ := h
  obtain ⟨o', g', rfl, hg'⟩ := h'
  exact ⟨o', g', rfl, fun fn hf => (hg' fn hf).trans (hg fn hf)⟩

theorem OnlyFuncs.modFunc {fn : Nat} (f : Func → Func) (h : p fn) : OnlyFuncs p s (s.modFunc fn f) := by
  refine ⟨s.outs, _, rfl, fun fn' hf => Tab.get_mod_ne ?_⟩
  rintro rfl; exact hf h

theorem OnlyFuncs.emit (p : Nat → Prop) (s : State) (o : Out) : OnlyFuncs p s (s.emit o) := ⟨_, s.host.funcs, rfl, fun _ _ => rfl⟩

theorem OnlyFuncs.func (h : OnlyFuncs p s u) {fn : Nat} (hf : ¬ p fn) : u.func fn = s.func fn := by
  obtain ⟨o, g, rfl, hg⟩ := h; exact hg fn hf

theorem OnlyFuncs.own (s : State) (fn : Nat) (f : Func → Func) : OnlyFuncs (· = fn) s (s.modFunc fn f) := .modFunc f rfl

/-- Signalling a vector. -/
theorem signal_only (s : State) (fn vec : Nat) : OnlyFuncs (· = fn) s (s.signal fn vec) := by
  unfold State.signal
  dsimp only
  split
  · exact .own _ _ _
  · exact .emit _ _ _

/-- Writing a completion queue entry. -/
theorem cqWrite_only (s : State) (fn qp : Nat) (h : Option Nat) (e : Entry) (r : Bool) :
    OnlyFuncs (· = fn) s (s.cqWrite fn qp h e r) := by
  unfold State.cqWrite
  split
  · exact .refl _ _
  · dsimp only
    split
    · exact ((OnlyFuncs.emit _ _ _).trans (.own _ _ _)).trans (signal_only _ _ _)
    · exact (OnlyFuncs.emit _ _ _).trans (.own _ _ _)

/-- Posting an event to one function. -/
theorem postTo_only (s : State) (fn code sev data f : Nat) : OnlyFuncs (· = fn) s (s.postTo fn code sev data f) := by
  unfold State.postTo
  split
  · exact .refl _ _
  split
  · exact .refl _ _
  split
  · exact .refl _ _
  split
  · exact .refl _ _
  split
  · exact .own _ _ _
  · exact cqWrite_only _ _ _ _ _ _

theorem OnlyFuncs.mono {q : Nat → Prop} (h : OnlyFuncs p s u) (hpq : ∀ fn, p fn → q fn) : OnlyFuncs q s u := by
  obtain ⟨o, g, rfl, hg⟩ := h
  exact ⟨o, g, rfl, fun fn hf => hg fn fun hp => hf (hpq fn hp)⟩

/-- Posting an event to every function. -/
theorem postAll_only (s : State) (code sev data : Nat) : OnlyFuncs (fun _ => True) s (s.postAll code sev data) := by
  unfold State.postAll
  have : ∀ (l : List Nat) (u : State), OnlyFuncs (fun _ => True) s u →
      OnlyFuncs (fun _ => True) s (l.foldl (fun s fn => s.postTo fn code sev data s.time.frc) u) := by
    intro l
    induction l with
    | nil => exact fun u h => h
    | cons fn l ih => exact fun u h => ih _ (h.trans ((postTo_only _ _ _ _ _ _).mono fun _ _ => trivial))
  exact this _ _ (.refl _ _)

/-- Writing a result buffer. -/
theorem hostRuns_only (p : Nat → Prop) (s : State) (fn : Nat) (rs : List (List Byte × Bool)) (a : Nat) :
    OnlyFuncs p s (s.hostRuns fn a rs) := by
  induction rs generalizing s a with
  | nil => exact .refl _ _
  | cons r rs ih => exact (OnlyFuncs.emit _ _ _).trans (ih _ _)

theorem OnlyFuncs.dropFlight (h : OnlyFuncs p s u) (id : Nat) : OnlyFuncs p (s.dropFlight id) (u.dropFlight id) := by
  obtain ⟨o, g, rfl, hg⟩ := h
  exact ⟨o, g, rfl, hg⟩

/-- Handing over a completion entry. -/
theorem answer_only (s : State) (fl : Flight) (e : Entry) : OnlyFuncs (· = fl.fn) s (s.answer fl e) := by
  unfold State.answer
  dsimp only
  split
  · split
    · exact (OnlyFuncs.own _ _ _).trans (signal_only _ _ _)
    · exact .own _ _ _
  · split
    · exact cqWrite_only _ _ _ _ _ _
    · exact .own _ _ _

/-- Posting a completion takes the command out of the list and touches the sending function's own tables. -/
theorem complete_only (s : State) (fl : Flight) (op : Nat) (r : Reply) :
    OnlyFuncs (· = fl.fn) (s.dropFlight fl.id) (s.complete fl op r) := by
  unfold State.complete State.writeReply
  refine OnlyFuncs.trans (OnlyFuncs.dropFlight ?_ fl.id) (answer_only _ _ _)
  split
  · exact hostRuns_only _ _ _ _ _
  · exact .refl _ _

end Sys2Proof.Machine
end

