-- ==== Sys2Proof/Laws/Memory.lean ====
section
/-! SUPPORT. What reading and writing memory can do, once: every operation keeps memory's canonical form, and touches only the memory
subsystem, the marks on L0's lines, the functions' own tables (events) and the outbox. -/

namespace Sys2Proof.Machine

/-! ## The canonical form -/

theorem memory_wf_reset : Memory.wf State.reset.mem.mem := rfl

theorem Tab.wf_putBytes {m : Tab Byte} {a : Nat} {bs : List Byte} (h : Memory.wf m) : Memory.wf (m.putBytes a bs) := by
  induction bs generalizing m a with
  | nil => exact h
  | cons b bs ih => exact ih (Tab.wf_put h)

theorem Tab.wf_zeroRange {m : Tab Byte} {a n : Nat} (h : Memory.wf m) : Memory.wf (m.zeroRange a n) := Tab.wf_keep h

/-! ## Reading bytes back -/

/-- Writing bytes leaves every address outside them. -/
theorem Tab.get_putBytes_out {m : Tab Byte} {a x : Nat} {bs : List Byte} (h : x < a ∨ a + bs.length ≤ x) :
    (m.putBytes a bs).get 0 x = m.get 0 x := by
  induction bs generalizing m a with
  | nil => rfl
  | cons b bs ih =>
    simp only [List.length_cons] at h
    rw [Tab.putBytes, ih (by omega), Tab.get_put_ne (by omega)]

/-- Writing bytes puts each at its address. -/
theorem Tab.get_putBytes_in {m : Tab Byte} {a i : Nat} {bs : List Byte} (hm : Memory.wf m) (h : i < bs.length) :
    (m.putBytes a bs).get 0 (a + i) = bs[i] := by
  induction bs generalizing m a i with
  | nil => simp at h
  | cons b bs ih =>
    cases i with
    | zero =>
      rw [Tab.putBytes, Tab.get_putBytes_out (by omega)]
      exact Tab.get_put_self (Tab.wf_iff.mp hm).1
    | succ i =>
      have := ih (m := m.put 0 a b) (a := a + 1) (i := i) (Tab.wf_put hm) (by simpa using h)
      rw [Tab.putBytes, List.getElem_cons_succ, ← this]; congr 1; omega

/-! ## What a memory operation touches -/

/-- `u` is `s` but for the memory subsystem, the marks on L0's lines, the functions' tables and the outbox; memory stays canonical. -/
def OnlyMem (s u : State) : Prop :=
  ∃ m l g o, u = { s with mem := m, line := { s.line with recs := l }, host := { s.host with funcs := g }, outs := o }
    ∧ (Memory.wf s.mem.mem → Memory.wf m.mem)

variable {s u w : State}

theorem OnlyMem.refl (s : State) : OnlyMem s s := ⟨s.mem, s.line.recs, s.host.funcs, s.outs, rfl, id⟩
theorem OnlyMem.trans (h : OnlyMem s u) (h' : OnlyMem u w) : OnlyMem s w := by
  obtain ⟨m, l, g, o, rfl, hw⟩ := h
  obtain ⟨m', l', g', o', rfl, hw'⟩ := h'
  exact ⟨m', l', g', o', rfl, fun h => hw' (hw h)⟩
theorem OnlyMem.foldl {α : Type} {f : State → α → State} (h : ∀ s a, OnlyMem s (f s a)) : ∀ (l : List α) (s : State), OnlyMem s (l.foldl f s)
  | [], s => .refl s
  | a :: l, s => (h s a).trans (OnlyMem.foldl h l _)

theorem OnlyFuncs.onlyMem {p : Nat → Prop} (h : OnlyFuncs p s u) : OnlyMem s u := by
  obtain ⟨o, g, rfl, -⟩ := h; exact ⟨s.mem, s.line.recs, g, o, rfl, id⟩

theorem emit_onlyMem (s : State) (o : Out) : OnlyMem s (s.emit o) := ⟨s.mem, s.line.recs, s.host.funcs, _, rfl, id⟩
theorem poisonWord_onlyMem (s : State) (a : Nat) : OnlyMem s (s.poisonWord a) :=
  ⟨_, s.line.recs, s.host.funcs, s.outs, rfl, Tab.wf_zeroRange⟩
theorem noteLines_onlyMem (s : State) (w : Who) (a n : Nat) : OnlyMem s (s.noteLines w a n) := by
  unfold State.noteLines
  split
  · exact .refl s
  · exact ⟨s.mem, _, s.host.funcs, s.outs, rfl, id⟩
theorem zeroMem_onlyMem (s : State) (a n : Nat) : OnlyMem s (s.zeroMem a n) :=
  ⟨_, s.line.recs, s.host.funcs, s.outs, rfl, Tab.wf_zeroRange⟩
/-- The memory subsystem changes, its bytes do not. -/
theorem onlyMem_sub (s : State) {m : MemSt} (h : m.mem = s.mem.mem) : OnlyMem s { s with mem := m } :=
  ⟨m, s.line.recs, s.host.funcs, s.outs, rfl, fun hw => by rw [h]; exact hw⟩
theorem postAll_onlyMem (s : State) (a b c : Nat) : OnlyMem s (s.postAll a b c) := (postAll_only s a b c).onlyMem

theorem logError_onlyMem (s : State) (r : Nat) (e : LogEntry) : OnlyMem s (s.logError r e).1 := by
  unfold State.logError
  dsimp only
  split
  · exact onlyMem_sub s rfl
  · dsimp only
    split
    · with_reducible refine OnlyMem.trans ?_ (postAll_onlyMem ..)
      exact onlyMem_sub s rfl
    · exact onlyMem_sub s rfl

theorem logWord_onlyMem (s : State) (w : Who) (a : Nat) (m : Mark) : OnlyMem s (s.logWord w a m) := by
  unfold State.logWord
  dsimp only
  cases m with
  | poison => exact .refl s
  | ce =>
    dsimp only
    generalize hr : State.logError s _ _ = r
    have hl : OnlyMem s r.1 := hr ▸ logError_onlyMem ..
    obtain ⟨s', new⟩ := r
    dsimp only at hl ⊢
    refine hl.trans ?_
    split
    · split
      · with_reducible refine OnlyMem.trans ?_ (postAll_onlyMem ..)
        exact onlyMem_sub s' rfl
      · split
        · with_reducible refine OnlyMem.trans ?_ (postAll_onlyMem ..)
          exact onlyMem_sub s' rfl
        · exact .refl s'
    · exact .refl s'
  | ue => exact (logError_onlyMem ..).trans (postAll_onlyMem ..)

theorem logRead_onlyMem (s : State) (w : Who) (a n : Nat) : OnlyMem s (s.logRead w a n) := .foldl (fun s (e : Nat × Mark) => logWord_onlyMem s w e.1 e.2) _ _
theorem logRetired_onlyMem (s : State) (w : Who) (a : Nat) : OnlyMem s (s.logRetired w a) := logError_onlyMem ..
theorem logMelvi_onlyMem (s : State) (r x a : Nat) : OnlyMem s (s.logMelvi r x a) := logError_onlyMem ..

theorem writeOwn_onlyMem (s : State) (w : Who) (a : Nat) (bs : List Byte) (p : Bool) : OnlyMem s (s.writeOwn w a bs p) := by
  unfold State.writeOwn
  dsimp only
  refine (noteLines_onlyMem s w a bs.length).trans ?_
  split
  · exact (OnlyMem.foldl (fun s (e : Nat × Mark) => logWord_onlyMem s w e.1 e.2) _ _).trans (.foldl (fun s a => poisonWord_onlyMem s a) _ _)
  · refine OnlyMem.trans ⟨_, _, _, _, rfl, Tab.wf_putBytes⟩ (.foldl (fun s e => ?_) _ _)
    split
    · exact onlyMem_sub s rfl
    · split
      · refine OnlyMem.trans ?_ (logWord_onlyMem ..)
        exact onlyMem_sub s rfl
      · exact (logWord_onlyMem ..).trans (poisonWord_onlyMem ..)
      · exact poisonWord_onlyMem ..

theorem mirror_onlyMem (s : State) (a : Nat) (bs : List Byte) (p : Bool) : OnlyMem s (s.mirror a bs p) := by
  refine .foldl (fun s e => ?_) _ _
  split
  · exact .refl s
  · refine .foldl (fun s r => ?_) _ _
    split
    · exact .refl s
    · exact emit_onlyMem ..

/-- A write. -/
theorem write_onlyMem (s : State) (w : Who) (a : Nat) (bs : List Byte) (p : Bool) : OnlyMem s (s.write w a bs p) := by
  unfold State.write
  dsimp only
  split
  · exact emit_onlyMem ..
  split
  · exact emit_onlyMem ..
  split
  · exact writeOwn_onlyMem ..
  · exact (writeOwn_onlyMem ..).trans (mirror_onlyMem ..)

theorem OnlyMem.car (h : OnlyMem s u) : u.car = s.car := by obtain ⟨_, _, _, _, rfl, -⟩ := h; rfl
theorem OnlyMem.time (h : OnlyMem s u) : u.time = s.time := by obtain ⟨_, _, _, _, rfl, -⟩ := h; rfl
theorem OnlyMem.pow (h : OnlyMem s u) : u.pow = s.pow := by obtain ⟨_, _, _, _, rfl, -⟩ := h; rfl
theorem OnlyMem.cells (h : OnlyMem s u) : u.cells = s.cells := by obtain ⟨_, _, _, _, rfl, -⟩ := h; rfl
theorem OnlyMem.vdes (h : OnlyMem s u) : u.vdes = s.vdes := by obtain ⟨_, _, _, _, rfl, -⟩ := h; rfl
theorem OnlyMem.wf (h : OnlyMem s u) (hw : Memory.wf s.mem.mem) : Memory.wf u.mem.mem := by
  obtain ⟨_, _, _, _, rfl, h⟩ := h; exact h hw

end Sys2Proof.Machine
end

