-- ==== Sys2Proof/Laws/Sched.lean ====
section
/-! SUPPORT. What ready lists, gates and signals do to the task table, once: tasks keep their plan and node (R114, R117). -/

namespace Sys2Proof.Machine

/-- Every task of `s` is still a task, of the same node of the same plan. -/
structure TasksKept (s u : State) : Prop where
  out : ∀ id t, s.car.tasks.find? id = some t → ∃ t', u.car.tasks.find? id = some t' ∧ t'.plan = t.plan ∧ t'.node = t.node
theorem TasksKept.rfl' {s : State} : TasksKept s s := ⟨fun _ t h => ⟨t, h, rfl, rfl⟩⟩
theorem TasksKept.trans {s u v : State} (h : TasksKept s u) (h' : TasksKept u v) : TasksKept s v := by
  constructor
  intro id t ht; obtain ⟨t1, h1, h2, h3⟩ := h.out id t ht; obtain ⟨t2, h4, h5, h6⟩ := h'.out id t1 h1
  exact ⟨t2, h4, h5.trans h2, h6.trans h3⟩
theorem TasksKept.of_eq {s u : State} (h : u.car.tasks = s.car.tasks) : TasksKept s u := ⟨fun _ t ht => ⟨t, by rw [h]; exact ht, rfl, rfl⟩⟩

/-- Changing a task without its plan and node. -/
theorem kept_modTask {s : State} {id : Nat} {f : Task → Task} (h : ∀ t, (f t).plan = t.plan ∧ (f t).node = t.node) : TasksKept s (s.modTask id f) := by
  constructor
  intro i t ht
  show ∃ t', (s.car.tasks.upd id f).find? i = some t' ∧ t'.plan = t.plan ∧ t'.node = t.node
  unfold Tab.upd
  cases hx : s.car.tasks.find? id with
  | none => exact ⟨t, ht, rfl, rfl⟩
  | some v =>
    simp only [Tab.find?_set]
    by_cases hi : i = id
    · subst hi; rw [hx] at ht; cases ht; simpa using h t
    · rw [if_neg hi]; exact ⟨t, ht, rfl, rfl⟩

/-- A record of the Observing Log touches no task. -/
theorem olog_tasks (s : State) (a b t e r st x) : (s.olog a b t e r st x).car.tasks = s.car.tasks := by
  unfold State.olog; dsimp only
  have hw : ∀ (s : State) (w a b p), (s.write w a b p).car = s.car := fun s w a b p => (write_onlyMem s w a b p).car
  repeat' split
  all_goals first | rfl | (rw [hw]; rfl) | (rw [hw, hw]; rfl)

/-- Ready lists, gates and signals keep the tasks. -/
theorem enlist_kept (s : State) (id t) : TasksKept s (s.enlist id t) := by
  have hc : ∀ (u : State) r, (u.clockUp r).car = u.car := fun u r => by unfold State.clockUp; split <;> rfl
  have hw : ∀ (u : State) r, (u.startWake r).car = u.car := fun u r => by unfold State.startWake; split <;> rfl
  unfold State.enlist; dsimp only
  split
  · rename_i r _
    refine TasksKept.trans (kept_modTask (id := id) (f := fun t => { t with region := some r }) fun _ => ⟨rfl, rfl⟩) (.of_eq ?_)
    rw [hc]; split
    · rw [olog_tasks]
    · rfl
  · refine TasksKept.trans (kept_modTask (id := id) (f := fun t => { t with region := none }) fun _ => ⟨rfl, rfl⟩) (.of_eq ?_)
    split
    · rfl
    · split
      · rw [hw, olog_tasks]
      · rw [olog_tasks]
theorem makeReady_kept (s : State) (id) : TasksKept s (s.makeReady id) := by
  unfold State.makeReady; dsimp only
  have h : TasksKept s ((s.modTask id fun t => { t with st := .ready, readyNo := s.car.nextReady, readyAt := s.time.frc }).modCar fun c => { c with nextReady := c.nextReady + 1 }) :=
    TasksKept.trans (u := s.modTask id fun t => { t with st := .ready, readyNo := s.car.nextReady, readyAt := s.time.frc })
      (kept_modTask fun _ => ⟨rfl, rfl⟩) (.of_eq rfl)
  split
  · with_reducible exact h.trans (enlist_kept ..)
  · with_reducible exact h
theorem consider_kept (s : State) (id) : TasksKept s (s.consider id).1 := by
  unfold State.consider; dsimp only
  repeat' split
  · exact .rfl'
  · exact .rfl'
  · exact .rfl'
  · refine TasksKept.trans ?_ (makeReady_kept _ id); exact kept_modTask fun _ => ⟨rfl, rfl⟩
  · exact kept_modTask fun _ => ⟨rfl, rfl⟩
  · exact kept_modTask fun _ => ⟨rfl, rfl⟩
  · exact makeReady_kept s id
  · exact .rfl'
theorem considerAll_kept (l : List Nat) (s : State) : TasksKept s (s.considerAll l).1 := by
  induction l generalizing s with
  | nil => exact .rfl'
  | cons a l ih => unfold State.considerAll; exact (consider_kept s a).trans (ih _)
theorem signal1_kept (s : State) (g) : TasksKept s (s.signal1 g).1 := by
  unfold State.signal1; dsimp only
  split
  · exact .rfl'
  split
  · exact .rfl'
  split
  · with_reducible refine TasksKept.trans ?_ (considerAll_kept _ _)
    exact .of_eq rfl
  · exact .of_eq rfl
theorem signals_kept (n : Nat) (gs) (s : State) : TasksKept s (s.signals n gs) := by
  induction n generalizing s gs with
  | zero => unfold State.signals; exact .rfl'
  | succ n ih =>
    cases gs with
    | nil => unfold State.signals; exact .rfl'
    | cons g rest => unfold State.signals; exact (signal1_kept s g).trans (ih _ _)
theorem signalGates_kept (s : State) (gs) : TasksKept s (s.signalGates gs) := signals_kept ..

/-- Listing tasks under distinct ids lists each of them, and no other. -/
theorem putTasks_find (l : List (Nat × Task)) (hl : (l.map Prod.fst).Nodup) (s : State) :
    (∀ x ∈ l, (s.putTasks l).car.tasks.find? x.1 = some x.2) ∧ (∀ i, i ∉ l.map Prod.fst → (s.putTasks l).car.tasks.find? i = s.car.tasks.find? i) := by
  induction l generalizing s with
  | nil => exact ⟨by simp, fun i _ => rfl⟩
  | cons x l ih =>
    obtain ⟨id, t⟩ := x
    simp only [List.map_cons, List.nodup_cons] at hl
    unfold State.putTasks
    have ih := ih hl.2 ((s.modCar fun c => { c with
      tasks := c.tasks.set id t
      flows := c.flows.upd t.flow fun f => { f with next := (f.next + 1) % 65536, unreleased := f.unreleased + 1 } }).write ⟨initId 15 3 0, none, false, some id⟩ (taskAddr id) t.bytes false)
    have hs : ∀ i, (((s.modCar fun c => { c with
      tasks := c.tasks.set id t
      flows := c.flows.upd t.flow fun f => { f with next := (f.next + 1) % 65536, unreleased := f.unreleased + 1 } }).write ⟨initId 15 3 0, none, false, some id⟩ (taskAddr id) t.bytes false)).car.tasks.find? i = if i = id then some t else s.car.tasks.find? i := by
      intro i; rw [(write_onlyMem ..).car]; exact Tab.find?_set ..
    refine ⟨?_, ?_⟩
    · intro x hx
      rcases List.mem_cons.mp hx with rfl | hx
      · rw [ih.2 _ hl.1, hs]; simp
      · exact ih.1 x hx
    · intro i hi
      simp only [List.map_cons, List.mem_cons, not_or] at hi
      rw [ih.2 i hi.2, hs]; simp [hi.1]

/-- The free ids are from `lo` on, distinct, and as many as asked with enough fuel. -/
theorem freeIds_spec : ∀ (f : Nat) (ks : List Nat) (lo n : Nat), (∀ x ∈ freeIds f ks lo n, lo ≤ x) ∧ (freeIds f ks lo n).Nodup
  ∧ (n + ks.length ≤ f → (freeIds f ks lo n).length = n) := by
  intro f
  induction f with
  | zero => intro ks lo n; simp only [freeIds]; refine ⟨by simp, by simp, ?_⟩; intro h; simp; omega
  | succ f ih =>
    intro ks lo n
    cases n with
    | zero => cases ks <;> simp [freeIds]
    | succ n =>
      cases ks with
      | nil =>
        simp only [freeIds]
        obtain ⟨h1, h2, h3⟩ := ih [] (lo + 1) n
        refine ⟨?_, ?_, ?_⟩
        · intro x hx; rcases List.mem_cons.mp hx with rfl | hx
          · omega
          · have := h1 x hx; omega
        · refine List.nodup_cons.mpr ⟨?_, h2⟩; intro hx; have := h1 _ hx; omega
        · intro h; simp at h ⊢; exact h3 (by simpa using h)
      | cons k ks =>
        simp only [freeIds]
        split
        · obtain ⟨h1, h2, h3⟩ := ih ks lo (n+1); exact ⟨h1, h2, fun h => h3 (by simp at h; omega)⟩
        · split
          · obtain ⟨h1, h2, h3⟩ := ih ks (lo+1) (n+1); exact ⟨fun x hx => by have := h1 x hx; omega, h2, fun h => h3 (by simp at h; omega)⟩
          · obtain ⟨h1, h2, h3⟩ := ih (k::ks) (lo+1) n
            refine ⟨?_, ?_, ?_⟩
            · intro x hx; rcases List.mem_cons.mp hx with rfl | hx
              · omega
              · have := h1 x hx; omega
            · refine List.nodup_cons.mpr ⟨?_, h2⟩; intro hx; have := h1 _ hx; omega
            · intro h; simp at h ⊢; exact h3 (by simp; omega)

end Sys2Proof.Machine
end

