-- ==== Sys2Proof/Laws/Vde.lean ====
section
/-! SUPPORT. VDE words: when a row's word issues, and the laws of banks, lanes and accumulator parts (R159 to R164). -/

namespace Sys2Proof.Machine

/-! ## Issue -/

theorem vdeRow_issues {s u : State} {t e fmt opc : Nat} {x : WordCtx} (act : WordCtx → State → State) (h : Issues s t e fmt opc x u) :
    s.vdeRow t e fmt opc act = act x u := by
  obtain ⟨h1, h2, h3, h4, h5, h6, h7, h8, h9, h10⟩ := h
  have h6' : (!((s.advance t).vde e).bank.cacheHit
      && (s.advance t).poisonIn (engBase e + x.k.codeBase + 8 * ((s.advance t).vde e).bank.pc) 8) = false := by
    rw [← h5]; cases hc : x.hit with
    | true => rfl
    | false => rw [h6 hc]; rfl
  have hx : (⟨e, x.id, x.task, x.k, ((s.advance t).vde e).inAlt,
      leNat ((s.advance t).bytesAt (engBase e + x.k.codeBase + 8 * ((s.advance t).vde e).bank.pc) 8),
      ((s.advance t).vde e).bank.cacheHit⟩ : WordCtx) = x := by rw [← h3, ← h5, ← h7, ← h2]
  unfold State.vdeRow
  simp only [h1, h6']
  rw [if_neg (Nat.not_le.mpr h4), if_neg (by decide), ← h7, h8, h9, if_pos (by simp), h7, hx, ← h5, ← h10]

/-! ## Lanes and parts -/

theorem sgn_unsgn_range {w : Nat} (hw : 0 < w) (x : Int) : -(2 : Int) ^ (w - 1) ≤ sgn w (unsgn w x) ∧ sgn w (unsgn w x) < 2 ^ (w - 1) := by
  have hp : (2 : Int) ^ w = 2 * 2 ^ (w - 1) := by rw [← Int.pow_succ']; congr 1; omega
  have hpn : (2 : Nat) ^ w = 2 * 2 ^ (w - 1) := by rw [← Nat.pow_succ']; congr 1; omega
  have h1 := Nat.mod_lt (unsgn w x) (show 0 < 2 ^ w by positivity)
  have hc : (((2 : Nat) ^ (w - 1) : Nat) : Int) = (2 : Int) ^ (w - 1) := by push_cast; rfl
  unfold sgn
  dsimp only
  split
  · omega
  · rw [hp]; omega

theorem foldr_digit {b : Nat} (g : Nat → Nat) (hg : ∀ j, g j < b) : ∀ (n j : Nat), j < n →
    ∀ (o : Nat), ((List.range' o n).foldr (fun j acc => acc * b + g j) 0) / b ^ j % b = g (o + j) := by
  intro n
  induction n with
  | zero => intro j h; omega
  | succ n ih =>
    intro j h o
    have hb : 0 < b := Nat.lt_of_le_of_lt (Nat.zero_le _) (hg 0)
    rw [List.range'_succ, List.foldr_cons]
    cases j with
    | zero => rw [Nat.pow_zero, Nat.div_one, Nat.mul_comm, Nat.mul_add_mod, Nat.mod_eq_of_lt (hg _)]; rfl
    | succ j =>
      rw [Nat.pow_succ', ← Nat.div_div_eq_div_mul, Nat.mul_comm _ b, Nat.mul_add_div hb, Nat.div_eq_of_lt (hg _), Nat.add_zero,
        ih j (by omega) (o + 1)]
      congr 1; omega

theorem foldr_digits_lt {b : Nat} (g : Nat → Nat) (hg : ∀ j, g j < b) : ∀ (n o : Nat),
    (List.range' o n).foldr (fun j acc => acc * b + g j) 0 < b ^ n := by
  intro n
  induction n with
  | zero => intro o; simp
  | succ n ih =>
    intro o
    rw [List.range'_succ, List.foldr_cons, Nat.pow_succ]
    have := ih (o + 1)
    have h2 := hg o
    calc _ < ((List.range' (o+1) n).foldr (fun j acc => acc * b + g j) 0) * b + b := by omega
      _ = (((List.range' (o+1) n).foldr (fun j acc => acc * b + g j) 0) + 1) * b := by rw [Nat.add_mul, Nat.one_mul]
      _ ≤ b ^ n * b := Nat.mul_le_mul_right b (by omega)

theorem unsgn_lt (w : Nat) (x : Int) : unsgn w x < 2 ^ w := by
  unfold unsgn
  have h := Int.emod_lt_of_pos x (show (0 : Int) < 2 ^ w by positivity)
  have h2 := Int.emod_nonneg x (show (2 : Int) ^ w ≠ 0 by positivity)
  have hc : (((2 : Nat) ^ w : Nat) : Int) = (2 : Int) ^ w := by push_cast; rfl
  omega

theorem sgn_mod (w v : Nat) : sgn w (v % 2 ^ w) = sgn w v := by simp [sgn]

/-- Lane j of a vector made from lanes. -/
theorem lane_ofLanes (f : Nat → Int) {j : Nat} (h : j < 32) : lane (ofLanes f) j = sgn 16 (unsgn 16 (f j)) := by
  have hd := foldr_digit (b := 65536) (fun j => unsgn 16 (f j)) (fun j => unsgn_lt 16 (f j)) 32 j h 0
  have hl := foldr_digits_lt (b := 65536) (fun j => unsgn 16 (f j)) (fun j => unsgn_lt 16 (f j)) 32 0
  rw [← List.range_eq_range', Nat.zero_add] at hd
  rw [← List.range_eq_range'] at hl
  unfold lane ofLanes
  rw [BitVec.toNat_ofNat, Nat.mod_eq_of_lt (Nat.lt_of_lt_of_eq hl (Nat.pow_mul 2 16 32).symm), ← sgn_mod 16, Nat.shiftRight_eq_div_pow,
    show 2 ^ (16 * j) = 65536 ^ j by rw [Nat.pow_mul], show (2 : Nat) ^ 16 = 65536 by decide, hd]

/-- Part i of an accumulator made from parts. -/
theorem accPart_ofParts (f : Nat → Int) {i : Nat} (h : i < 32) : accPart (ofParts f) i = sgn 40 (unsgn 40 (f i)) := by
  have hd := foldr_digit (b := 1099511627776) (fun j => unsgn 40 (f j)) (fun j => unsgn_lt 40 (f j)) 32 i h 0
  have hl := foldr_digits_lt (b := 1099511627776) (fun j => unsgn 40 (f j)) (fun j => unsgn_lt 40 (f j)) 32 0
  rw [← List.range_eq_range', Nat.zero_add] at hd
  rw [← List.range_eq_range'] at hl
  unfold accPart ofParts
  rw [BitVec.toNat_ofNat, Nat.mod_eq_of_lt (Nat.lt_of_lt_of_eq hl (Nat.pow_mul 2 40 32).symm), ← sgn_mod 40, Nat.shiftRight_eq_div_pow,
    show 2 ^ (40 * i) = 1099511627776 ^ i by rw [Nat.pow_mul], show (2 : Nat) ^ 40 = 1099511627776 by decide, hd]

theorem sgn16_unsgn (x : Int) (h : -32768 ≤ x) (h' : x ≤ 32767) : sgn 16 (unsgn 16 x) = x := by
  unfold sgn unsgn
  norm_num
  split <;> omega

/-! ## Banks by their fields: reading `b'` when one of its fields is known as a write to that of `b` -/

section Fields
variable {b b' : Bank} {d n r : Nat} {q : Bool}

theorem getV_eq {v : BitVec 512} (hb : b.wf) (h : b'.v = b.v.put 0 d v) : b'.getV d = v := by
  unfold Bank.getV; rw [h]; exact Tab.get_put_self (Tab.wf_iff.mp hb.2.1).1
theorem getV_ne {v : BitVec 512} (h : b'.v = b.v.put 0 d v) (hn : n ≠ d) : b'.getV n = b.getV n := by
  unfold Bank.getV; rw [h]; exact Tab.get_put_ne hn
theorem getA_eq {v : BitVec 1280} (hb : b.wf) (h : b'.a = b.a.put 0 d v) : b'.getA d = v := by
  unfold Bank.getA; rw [h]; exact Tab.get_put_self (Tab.wf_iff.mp hb.2.2.1).1
theorem getA_ne {v : BitVec 1280} (h : b'.a = b.a.put 0 d v) (hn : n ≠ d) : b'.getA n = b.getA n := by
  unfold Bank.getA; rw [h]; exact Tab.get_put_ne hn
theorem getG_eq {v : Word} (hb : b.wf) (h : b'.g = b.g.put 0 d v) : b'.getG d = v := by
  unfold Bank.getG; rw [h]; exact Tab.get_put_self (Tab.wf_iff.mp hb.1).1
theorem getG_ne {v : Word} (h : b'.g = b.g.put 0 d v) (hn : n ≠ d) : b'.getG n = b.getG n := by
  unfold Bank.getG; rw [h]; exact Tab.get_put_ne hn
theorem pois_eq (hb : b.wf) (h : b'.pois = if q then b.pois.set r () else b.pois.del r) : b'.poisoned r = q := by
  unfold Bank.poisoned Tab.has; rw [h]
  cases q
  · simp only [Bool.false_eq_true, if_false]; rw [Tab.find?_del_self hb.2.2.2]; rfl
  · simp only [if_true]; rw [Tab.find?_set, if_pos rfl]; rfl
theorem pois_ne (h : b'.pois = if q then b.pois.set r () else b.pois.del r) (hn : n ≠ r) : b'.poisoned n = b.poisoned n := by
  unfold Bank.poisoned Tab.has; rw [h]
  cases q
  · simp only [Bool.false_eq_true, if_false]; rw [Tab.find?_del_ne _ hn]
  · simp only [if_true]; rw [Tab.find?_set, if_neg hn]

/-- What writing a V register, a scalar-side register or an accumulator gives and leaves. -/
structure WroteV (b b' : Bank) (d : Nat) (v : BitVec 512) (q : Bool) : Prop where
  val : b'.getV d = v
  other : ∀ n, n ≠ d → b'.getV n = b.getV n
  pois : b'.poisoned (rV d) = q
  clean : ∀ n, n ≠ rV d → b'.poisoned n = b.poisoned n
structure WroteA (b b' : Bank) (d : Nat) (v : BitVec 1280) (q : Bool) : Prop where
  val : b'.getA d = v
  other : ∀ n, n ≠ d → b'.getA n = b.getA n
  pois : b'.poisoned (rA d) = q
  clean : ∀ n, n ≠ rA d → b'.poisoned n = b.poisoned n
structure WroteG (b b' : Bank) (d : Nat) (v : Word) (q : Bool) : Prop where
  val : b'.getG d = v
  other : ∀ n, n ≠ d → b'.getG n = b.getG n
  pois : b'.poisoned d = q
  clean : ∀ n, n ≠ d → b'.poisoned n = b.poisoned n

theorem setV_wrote (hb : b.wf) (v : BitVec 512) : WroteV b (b.setV d v q) d v q :=
  ⟨getV_eq hb rfl, fun _ => getV_ne rfl, pois_eq hb rfl, fun _ => pois_ne rfl⟩
theorem setA_wrote (hb : b.wf) (v : BitVec 1280) : WroteA b (b.setA d v q) d v q :=
  ⟨getA_eq hb rfl, fun _ => getA_ne rfl, pois_eq hb rfl, fun _ => pois_ne rfl⟩
theorem setG_wrote (hb : b.wf) (v : Word) : WroteG b (b.setG d v q) d v q :=
  ⟨getG_eq hb rfl, fun _ => getG_ne rfl, pois_eq hb rfl, fun _ => pois_ne rfl⟩
theorem setV_rest (v : BitVec 512) : b.setV d v q = { b with v := (b.setV d v q).v, pois := (b.setV d v q).pois } := rfl
theorem setA_rest (v : BitVec 1280) : b.setA d v q = { b with a := (b.setA d v q).a, pois := (b.setA d v q).pois } := rfl
theorem setG_rest (v : Word) : b.setG d v q = { b with g := (b.setG d v q).g, pois := (b.setG d v q).pois } := rfl

theorem WroteA.raiseAov {m : Bank} {v : BitVec 1280} (h : WroteA b m d v q) (x : Bool) : WroteA b (m.raiseAov x) d v q :=
  ⟨h.val, h.other, h.pois, h.clean⟩
theorem WroteV.raiseSat {m : Bank} {v : BitVec 512} (h : WroteV b m d v q) (x : Bool) : WroteV b (m.raiseSat x) d v q :=
  ⟨h.val, h.other, h.pois, h.clean⟩
theorem setV_raiseSat (v : BitVec 512) (x : Bool) : ((b.setV d v q).raiseSat x).sat = (b.sat || x) := rfl
theorem setA_raiseAov (v : BitVec 1280) (x : Bool) : ((b.setA d v q).raiseAov x).aov = (b.aov || x) := rfl
theorem setV_raiseSat_rest (v : BitVec 512) (x : Bool) : (b.setV d v q).raiseSat x
    = { b with v := ((b.setV d v q).raiseSat x).v, pois := ((b.setV d v q).raiseSat x).pois, sat := ((b.setV d v q).raiseSat x).sat } := rfl
theorem setA_raiseAov_rest (v : BitVec 1280) (x : Bool) : (b.setA d v q).raiseAov x
    = { b with a := ((b.setA d v q).raiseAov x).a, pois := ((b.setA d v q).raiseAov x).pois, aov := ((b.setA d v q).raiseAov x).aov } := rfl

end Fields

end Sys2Proof.Machine
end

