-- ==== Sys2Proof/WellFormed.lean ====
section
/-! DEFINITION. Commands whose operands name things that exist: functions, lanes, engines, regions, cells, ports and streams within the
ranges of Table 1-5 and the chapters, fields within their widths. -/

namespace Sys2Proof

open Machine

/-- A function number; a lane id (R280); an engine of one type, or of any that takes tasks; a block as region · 4 + block. -/
def okFn (fn : Nat) : Bool := fn < 8
def okLane (n : Nat) : Bool := n < 128 || (256 ≤ n && n < 264)
def engOf (ty e : Nat) : Bool := engType e == some ty
def engTask (e : Nat) : Bool := (engType e).isSome
def okBlk (blk : Nat) : Bool := blk < 64 && blk % 4 < regBlocks (blk / 4)

/-- A target of Table 21-11: engine, block or region. -/
def okTarget (kind target : Nat) : Bool :=
  match kind with
  | 0 => engPop target
  | 1 => okBlk target
  | 2 => target < 16
  | _ => false

/-- A host command: its parameter buffer within 16 MiB (Table 2-8). -/
def okCmd (c : CmdRef) : Bool := c.buf.length ≤ 16777216

/-- A unit of Table 1-6 that is not reserved; 0x38 to 0x3B are those of the always-on domain, at C0 block 3. -/
def okUnit (blk u : Nat) : Bool := u < 8 || (16 ≤ u && u ≤ 48) || (blk == 63 && 56 ≤ u && u ≤ 59)

/-- A request packet within Table 14-2: 48-bit address, an initiator of its block, 16-bit tag, its data when it writes. -/
def okReq (r : MeshReq) : Bool :=
  okBlk r.blk && r.cls < 4 && r.init / 64 == r.blk && okUnit r.blk (r.init % 64) && r.tag < 65536 && r.addr < 2 ^ 48 && (!r.write || r.data.length == r.len)
    && r.task.all fun t => t < 262144

/-- The operands of a command are in range. -/
def Instr.wf : Instr → Bool
  | .identify c => okCmd c
  | .attach c => okCmd c
  | .detach c => okCmd c
  | .queueCreate c => okCmd c
  | .queueDelete c => okCmd c
  | .eventSubscribe c => okCmd c
  | .resetScope c => okCmd c
  | .modeSet c => okCmd c
  | .tenantConfig c => okCmd c
  | .timeGet c => okCmd c
  | .timeAdjust c => okCmd c
  | .timelineAnchor c => okCmd c
  | .ppsConfig c => okCmd c
  | .graphDefine c => okCmd c
  | .slotPlanSubmit c => okCmd c
  | .epochCommit c => okCmd c
  | .epochRevoke c => okCmd c
  | .flowConfig c => okCmd c
  | .classReserve c => okCmd c
  | .ologConfig c => okCmd c
  | .kernelLoad c => okCmd c
  | .cellCreate c => okCmd c
  | .cellModify c => okCmd c
  | .cellDelete c => okCmd c
  | .cellHibernate c => okCmd c
  | .cellWake c => okCmd c
  | .arrayCalConfig c => okCmd c
  | .laneConfig c => okCmd c
  | .laneStatus c => okCmd c
  | .trailConfig c => okCmd c
  | .tsiPageWrite c => okCmd c
  | .tsiPageSeal c => okCmd c
  | .tsiPageSwitch c => okCmd c
  | .apsConfig c => okCmd c
  | .pmRead c => okCmd c
  | .ethPortConfig c => okCmd c
  | .macsecSaInstall c => okCmd c
  | .fhStreamConfig c => okCmd c
  | .clusterJoin c => okCmd c
  | .clusterLeave c => okCmd c
  | .peerPortConfig c => okCmd c
  | .cellMigrate c => okCmd c
  | .perfLevelSet c => okCmd c
  | .regionSleep c => okCmd c
  | .regionWake c => okCmd c
  | .retentionMap c => okCmd c
  | .padRelease c => okCmd c
  | .watchEnter c => okCmd c
  | .fscListenConfig c => okCmd c
  | .fscRulesLoad c => okCmd c
  | .adcSeqConfig c => okCmd c
  | .adcSelfcal c => okCmd c
  | .fscStatus c => okCmd c
  | .calStatus c => okCmd c
  | .calPolicy c => okCmd c
  | .attest c => okCmd c
  | .imageStage c => okCmd c
  | .imageCommit c => okCmd c
  | .keyEnroll c => okCmd c
  | .guardProfileLoad c => okCmd c
  | .debugUnlock c => okCmd c
  | .errlogRead c => okCmd c
  | .pageRetire c => okCmd c
  | .fence c => okCmd c
  | .unfence c => okCmd c
  | .bistRun c => okCmd c
  | .dumpRead c => okCmd c
  | .photometerRead c => okCmd c
  | .loopbackSet c => okCmd c
  | .dmaSubmit c => okCmd c
  | .regionTableSet c => okCmd c
  | .memRead c => okCmd c
  | .memWrite c => okCmd c
  | .mboxGo _ fn v => okFn fn && v < 2 ^ 32 && bit v 0
  | .mboxAck _ fn v => okFn fn && v < 2 ^ 32 && bit v 1 && !bit v 0
  | .sqTailWrite _ fn qp v => okFn fn && qp < 64 && v < 2 ^ 32
  | .cqHeadWrite _ fn qp v => okFn fn && qp < 64 && v < 2 ^ 32
  | .registerWrite _ fn off bs cfg => okFn fn && (cfg || off < 0x4000000) && bs.length ≤ 4096
  | .debugApertureAccess _ fn off n bs => okFn fn && off < 2 ^ 24 && (bs.map List.length).getD n ≤ 4096
  | .bar2Access _ fn off n bs => okFn fn && off < 2 ^ 36 && (bs.map List.length).getD n ≤ 4096
  | .adcResultRead _ e => e < 32
  | .i3cRead _ => true
  | .commandFetch _ entry _ => entry.length == 64
  | .cqCoalesceTimeout _ fn qp => okFn fn && qp < 64
  | .pcieReset _ => true
  | .functionLevelReset _ fn => okFn fn
  | .headlessHoldEnd _ fn => okFn fn
  | .por _ raw => raw.length == 12 && raw.all fun c => c < 4096
  | .railMonitorPoll _ raw _ => raw.length == 12 && raw.all fun c => c < 4096
  | .aonUndervoltage _ => true
  | .warmReset _ _ => true
  | .domeBoot _ => true
  | .bootFallback _ => true
  | .bootComplete _ => true
  | .refclkLoss _ => true
  | .refclkRestored _ => true
  | .timeAdjustApply _ root => root.all fun r => r.2 < 65536
  | .ppsCapture _ _ => true
  | .ppsMissing _ => true
  | .timelineStrobe _ cell => cell.all fun c => c < 384
  | .anchorEffect _ cell => cell < 384
  | .servoRateUpdate _ rate _ _ => rate < 2 ^ 48
  | .timedGateExpiry _ g => g < 1048576
  | .dispatch _ e => engTask e
  | .remoteDispatch _ id => id < 262144
  | .remoteFinish _ id _ => id < 262144
  | .taskFinish _ e => engTask e
  | .release _ id => id < 262144
  | .engineZeroingDone _ e => engTask e
  | .yieldTrap _ e => engTask e
  | .yieldAbort _ e => engTask e
  | .unitBoundary _ e => engTask e
  | .runAheadPoll _ e => engTask e
  | .vnop _ e => engOf 1 e
  | .vadd _ e => engOf 1 e
  | .vsub _ e => engOf 1 e
  | .vaddS _ e => engOf 1 e
  | .vsubS _ e => engOf 1 e
  | .vand _ e => engOf 1 e
  | .vor _ e => engOf 1 e
  | .vxor _ e => engOf 1 e
  | .vmov _ e => engOf 1 e
  | .vshr _ e => engOf 1 e
  | .vshlS _ e => engOf 1 e
  | .vmin _ e => engOf 1 e
  | .vmax _ e => engOf 1 e
  | .vconj _ e => engOf 1 e
  | .vmulH _ e => engOf 1 e
  | .vcmulH _ e => engOf 1 e
  | .vsplat _ e => engOf 1 e
  | .vget _ e => engOf 1 e
  | .vmac _ e => engOf 1 e
  | .vmacC _ e => engOf 1 e
  | .vmsu _ e => engOf 1 e
  | .vmacR _ e => engOf 1 e
  | .vmul _ e => engOf 1 e
  | .vmacP _ e => engOf 1 e
  | .vmacD _ e => engOf 1 e
  | .vmacDc _ e => engOf 1 e
  | .vmacDr _ e => engOf 1 e
  | .ftap _ e => engOf 1 e
  | .ftapD _ e => engOf 1 e
  | .vclr _ e => engOf 1 e
  | .vacc _ e => engOf 1 e
  | .vadda _ e => engOf 1 e
  | .vsuma _ e => engOf 1 e
  | .snop _ e => engOf 1 e
  | .add _ e => engOf 1 e
  | .addI _ e => engOf 1 e
  | .sub _ e => engOf 1 e
  | .subI _ e => engOf 1 e
  | .and _ e => engOf 1 e
  | .andI _ e => engOf 1 e
  | .or _ e => engOf 1 e
  | .orI _ e => engOf 1 e
  | .xor _ e => engOf 1 e
  | .xorI _ e => engOf 1 e
  | .mul _ e => engOf 1 e
  | .mulI _ e => engOf 1 e
  | .shl _ e => engOf 1 e
  | .shlI _ e => engOf 1 e
  | .shr _ e => engOf 1 e
  | .shrI _ e => engOf 1 e
  | .sar _ e => engOf 1 e
  | .sarI _ e => engOf 1 e
  | .slt _ e => engOf 1 e
  | .sltI _ e => engOf 1 e
  | .sltu _ e => engOf 1 e
  | .sltuI _ e => engOf 1 e
  | .seq _ e => engOf 1 e
  | .seqI _ e => engOf 1 e
  | .min _ e => engOf 1 e
  | .minI _ e => engOf 1 e
  | .max _ e => engOf 1 e
  | .maxI _ e => engOf 1 e
  | .movG _ e => engOf 1 e
  | .addG _ e => engOf 1 e
  | .ldi _ e => engOf 1 e
  | .lda _ e => engOf 1 e
  | .lds _ e => engOf 1 e
  | .sts _ e => engOf 1 e
  | .vld _ e => engOf 1 e
  | .vst _ e => engOf 1 e
  | .vldp _ e => engOf 1 e
  | .vstS _ e => engOf 1 e
  | .vstSRe _ e => engOf 1 e
  | .nop _ e => engOf 1 e
  | .br _ e => engOf 1 e
  | .brz _ e => engOf 1 e
  | .brnz _ e => engOf 1 e
  | .brlt _ e => engOf 1 e
  | .brge _ e => engOf 1 e
  | .call _ e => engOf 1 e
  | .ret _ e => engOf 1 e
  | .rtt _ e => engOf 1 e
  | .loop _ e => engOf 1 e
  | .loopI _ e => engOf 1 e
  | .yield _ e => engOf 1 e
  | .exit _ e => engOf 1 e
  | .exitF _ e => engOf 1 e
  | .matmul _ e => engTask e
  | .gram _ e => engTask e
  | .solve _ e => engTask e
  | .weights _ e => engTask e
  | .beamApply _ e => engTask e
  | .fft _ e => engTask e
  | .ifft _ e => engTask e
  | .detect _ e => engTask e
  | .ldpcDecode _ e => engTask e
  | .ldpcEncode _ e => engTask e
  | .polarDecode _ e => engTask e
  | .polarEncode _ e => engTask e
  | .turboDecode _ e => engTask e
  | .turboEncode _ e => engTask e
  | .tbccDecode _ e => engTask e
  | .combineNr _ e => engTask e
  | .combineLte _ e => engTask e
  | .edmaGo _ e c => engOf 1 e && c < 4
  | .bdmaGo _ blk c => okBlk blk && c < 32
  | .bdmaArm _ blk c => okBlk blk && c < 32
  | .bdmaShadowWrite _ blk c off bs _ => okBlk blk && c < 32 && off + bs.length ≤ 48
  | .dmaTransferDone _ r _ => match r with
    | .edma e c => engOf 1 e && c < 4
    | .bdma b c => okBlk b && c < 32
  | .meshRequest _ r lost _ => okReq r && lost.all fun x => x < 16
  | .meshResponse _ blk init cls tag _ => okBlk blk && init < 4096 && cls < 4 && tag < 65536
  | .rsv _ blk init target cls _ => okBlk blk && init < 4096 && target < 17 && cls < 4
  | .rsvReturn _ target cls _ => target < 17 && cls < 4
  | .gnt _ blk target cls => okBlk blk && target < 17 && cls < 4
  | .slotReturnTimeout _ blk target cls => okBlk blk && target < 17 && cls < 4
  | .meshTimeout _ blk init cls tag => okBlk blk && init < 4096 && cls < 4 && tag < 65536
  | .routeRefusedRetry _ r => okReq r
  | .routerDrained _ r => r < 16
  | .routerDrainTimeout _ r => r < 16
  | .photometerPeriod _ => true
  | .errlogCopy _ r => r < 16
  | .hbmRetrain _ stack temp => stack < 2 && temp < 256
  | .hbmRetrainDone _ stack => stack < 2
  | .blockSleepAnswer _ blk => okBlk blk
  | .sleepAnswerTimeout _ => true
  | .idleEntry _ r => r < 16
  | .throttleStep _ r => r < 13
  | .urgentBurst _ codes _ => codes.length == 12 && codes.all fun c => c < 4096
  | .watchWake _ _ => true
  | .losSet _ n v => okLane n && v.k < 17
  | .losClear _ n v => okLane n && v.k < 17
  | .lolSet _ n v => okLane n && v.k < 17
  | .lolClear _ n v => okLane n && v.k < 17
  | .lockComplete _ n k _ => okLane n && k < 17
  | .adaptationComplete _ n k _ _ => okLane n && k < 17
  | .blockLock _ n k _ => okLane n && k < 17
  | .polarityDetect _ n k bs => okLane n && k < 17 && bs.length == 64
  | .laneOrder _ n _ => okLane n
  | .deskew _ n _ => okLane n
  | .handshake _ n => okLane n
  | .trainingBlockRx _ n _ b => okLane n && b.length == 8
  | .syncHeaderLoss _ n k _ => okLane n && k < 17
  | .bringupTimeout _ n => okLane n
  | .bringupRestart _ n => okLane n
  | .eqiUpdate _ n k _ => okLane n && k < 17
  | .fawRx _ n _ _ _ _ _ => n < 128
  | .tlfFrameRx _ n _ => n < 128
  | .tlfFrameTx _ n => n < 128
  | .tlfDefectSet _ trail id d => if trail then id < 4096 && d < 2 else id < 128 && d < 4
  | .tlfDefectClear _ trail id d => if trail then id < 4096 && d < 2 else id < 128 && d < 4
  | .sfHoldoffExpiry _ n => n < 128
  | .apsSwitched _ n => n < 64
  | .wtrExpiry _ n => n < 64
  | .apsMismatch _ n => n < 64
  | .tsiSwitched _ n => n < 128
  | .tsiCopyWindowEnd _ n => n < 128
  | .pmSecond _ => true
  | .ethFrameRx _ n _ _ => n < 64
  | .hostTxPoll _ n desc => n < 64 && desc.length == 32
  | .hostTxFrame _ n _ _ => n < 64
  | .uplaneTx _ id _ => id < 4096
  | .cplaneTx _ id => id < 4096
  | .uplinkWindowClose _ id _ => id < 4096
  | .peerRetransmit _ d cls => d < 1024 && cls < 4
  | .peerKeepalive _ d cls => d < 1024 && cls < 4
  | .damperCheck _ trail id _ => if trail then id < 4096 else id < 12288
  | .peerRequest _ dev r _ _ => dev < 1024 && okReq r
  | .peerRelay _ src dst _ cls _ _ => src < 1024 && dst < 1024 && cls < 4
  | .idleSummary _ dev _ _ _ => dev < 1024
  | .pathDown _ dev => dev < 1024
  | .migPair _ id dev cell peerCell num _ _ sfn => id < 65536 && dev < 1024 && cell < 384 && peerCell < 384 && num < 6 && sfn < 1024
  | .migReadyToCopy _ id => id < 65536
  | .migPrecopyDone _ id => id < 65536
  | .migCommit _ id => id < 65536
  | .migCommitAck _ id => id < 65536
  | .migCommitPoint _ id => id < 65536
  | .migSwitch _ id => id < 65536
  | .migFinal _ id => id < 65536
  | .migAbort _ id _ => id < 65536
  | .listenWindowOpen _ n => n < 16
  | .listenWindowClose _ n _ => n < 16
  | .chimeSyncTimeout _ n _ => n < 16
  | .chimeDecode _ n _ llrs => n < 16 && llrs.length == 192
  | .chimeLost _ n _ => n < 16
  | .prachWatchDetect _ n _ => n < 16
  | .energyEvent _ n _ _ => n < 16
  | .adcPassStart _ => true
  | .adcConversion _ raw => raw < 4096
  | .fscTimerExpiry _ i => i < 8
  | .timelineEvent _ i => i < 64
  | .laneTapStep _ n k _ _ => okLane n && k < 16
  | .eyeSweep _ n k _ _ => okLane n && k < 16
  | .arrayEstimate _ cell _ _ _ => cell < 384
  | .calPublish _ cell => cell < 384
  | .ageingRead _ r _ => r < 16
  | .challengeExpiry _ => true
  | .engineFault _ e _ => engTask e
  | .engineRecoveryTimeout _ e => engTask e
  | .blockFault _ blk _ => okBlk blk
  | .fatalRegion _ r cause _ => r < 16 && cause < 256
  | .fatalChip _ cause _ _ => cause < 256
  | .dumpComplete _ env => env.all fun x => x.1 < 256
  | .domeTakeover _ _ => true
  | .fenceWaitTimeout _ => true
  | .bistDone _ kind target _ _ => okTarget kind target
  | .vddAonInTolerance _ => true
  | .porNLow _ => true
  | .pciePerstNRelease _ => true
  | .msixMaskClear _ fn vec => okFn fn && vec.all fun v => v < 256
  | .jtagInstruction _ _ => true
  | .pcsUp _ n => n < 128
  | .prbsCheckerLock _ v => okLane v.lane && v.inst < 16
  | .prbsCheckerRelock _ v => okLane v.lane && v.inst < 16 && v.bits.length ≤ 1024
  | .remoteTaskArrival _ dev _ desc _ => dev < 1024 && desc.length == 64
  | .remoteRevokeArrival _ dev _ _ => dev < 1024
  | .commitArrival _ id => id < 65536
  | .regionActive _ r => r < 16
  | .levelChangeDone _ r => r < 13
  | .adcCalibrationDone _ _ gain => gain < 65536
  | .commandCompletion _ _ => true
  | .leaveWaitRunsOut _ => true
  | .joinKeepaliveTimeout _ => true
  | .watchWakeComplete _ => true
  | .returnToService _ kind target => okTarget kind target

end Sys2Proof
end

