-- ==== Sys2Proof/Tests/Slice0.lean ====
section
/-! SUPPORT. Tests: ill-formed commands, witnesses that the hypotheses of the statements can be met, and small results. -/

namespace Sys2Proof.Tests

open Sys2Proof Sys2Proof.Machine

/-! ## Well-formedness refuses -/

def req0 : MeshReq := { (default : MeshReq) with len := 64 }

/-- A parameter buffer of more than 16 MiB: every host command refuses it. -/
theorem test_wf_long (n : Nat) (p : Bool) : okCmd ⟨0, 0, List.replicate (16777217 + n) 0, p⟩ = false := by
  unfold okCmd; rw [List.length_replicate, decide_eq_false]; omega
theorem test_wf_commands (c : CmdRef) : ∀ f ∈ [Instr.identify, Instr.attach, Instr.detach, Instr.queueCreate, Instr.queueDelete, Instr.eventSubscribe, Instr.resetScope, Instr.modeSet, 
    Instr.tenantConfig, Instr.timeGet, Instr.timeAdjust, Instr.timelineAnchor, Instr.ppsConfig, Instr.graphDefine, Instr.slotPlanSubmit, 
    Instr.epochCommit, Instr.epochRevoke, Instr.flowConfig, Instr.classReserve, Instr.ologConfig, Instr.kernelLoad, Instr.cellCreate, 
    Instr.cellModify, Instr.cellDelete, Instr.cellHibernate, Instr.cellWake, Instr.arrayCalConfig, Instr.laneConfig, Instr.laneStatus, 
    Instr.trailConfig, Instr.tsiPageWrite, Instr.tsiPageSeal, Instr.tsiPageSwitch, Instr.apsConfig, Instr.pmRead, Instr.ethPortConfig, 
    Instr.macsecSaInstall, Instr.fhStreamConfig, Instr.clusterJoin, Instr.clusterLeave, Instr.peerPortConfig, Instr.cellMigrate, 
    Instr.perfLevelSet, Instr.regionSleep, Instr.regionWake, Instr.retentionMap, Instr.padRelease, Instr.watchEnter, Instr.fscListenConfig, 
    Instr.fscRulesLoad, Instr.adcSeqConfig, Instr.adcSelfcal, Instr.fscStatus, Instr.calStatus, Instr.calPolicy, Instr.attest, Instr.imageStage, 
    Instr.imageCommit, Instr.keyEnroll, Instr.guardProfileLoad, Instr.debugUnlock, Instr.errlogRead, Instr.pageRetire, Instr.fence, 
    Instr.unfence, Instr.bistRun, Instr.dumpRead, Instr.photometerRead, Instr.loopbackSet, Instr.dmaSubmit, Instr.regionTableSet, Instr.memRead, 
    Instr.memWrite],
    (f c).wf = okCmd c := by
  repeat first
    | exact List.forall_mem_nil _
    | refine List.forall_mem_cons.mpr ⟨rfl, ?_⟩

/-- An engine of another type (0x180: region 12) and one that is not there: every VDE command refuses them. -/
theorem test_wf_vde : ([.vnop, .vadd, .vsub, .vaddS, .vsubS, .vand, .vor, .vxor, .vmov, .vshr, .vshlS, .vmin, .vmax, .vconj, .vmulH, .vcmulH, .vsplat, .vget, .vmac, 
    .vmacC, .vmsu, .vmacR, .vmul, .vmacP, .vmacD, .vmacDc, .vmacDr, .ftap, .ftapD, .vclr, .vacc, .vadda, .vsuma, .snop, .add, .addI, .sub, .subI, 
    .and, .andI, .or, .orI, .xor, .xorI, .mul, .mulI, .shl, .shlI, .shr, .shrI, .sar, .sarI, .slt, .sltI, .sltu, .sltuI, .seq, .seqI, .min, 
    .minI, .max, .maxI, .movG, .addG, .ldi, .lda, .lds, .sts, .vld, .vst, .vldp, .vstS, .vstSRe, .nop, .br, .brz, .brnz, .brlt, .brge, .call, 
    .ret, .rtt, .loop, .loopI, .yield, .exit, .exitF] : List (Nat → Nat → Instr)).all
    (fun f => !(f 0 0x180).wf && !(f 0 0x200).wf && (f 0 0).wf) = true := by decide

/-- An engine that is not there: every command of an engine refuses it. -/
theorem test_wf_engines : ([.dispatch, .taskFinish, .engineZeroingDone, .yieldTrap, .yieldAbort, .unitBoundary, .runAheadPoll, .matmul, .gram, .solve, .weights, 
    .beamApply, .fft, .ifft, .detect, .ldpcDecode, .ldpcEncode, .polarDecode, .polarEncode, .turboDecode, .turboEncode, .tbccDecode, .combineNr, 
    .combineLte, .engineRecoveryTimeout] : List (Nat → Nat → Instr)).all
    (fun f => !(f 0 0x200).wf && (f 0 0).wf) = true := by decide

theorem test_wf_operands_0 : ([.adcResultRead 0 1152921504606846976, .mboxGo 0 1152921504606846976 1, .mboxGo 0 0 1152921504606846976, .mboxGo 0 0 0, 
    .mboxAck 0 1152921504606846976 2, .mboxAck 0 0 1152921504606846976, .mboxAck 0 0 0, .mboxAck 0 0 3, .sqTailWrite 0 1152921504606846976 0 0, 
    .sqTailWrite 0 0 1152921504606846976 0, .sqTailWrite 0 0 0 1152921504606846976, .cqHeadWrite 0 1152921504606846976 0 0, 
    .cqHeadWrite 0 0 1152921504606846976 0, .cqHeadWrite 0 0 0 1152921504606846976, .registerWrite 0 1152921504606846976 0 [] false, 
    .registerWrite 0 0 1152921504606846976 [] false, .registerWrite 0 0 0 (List.replicate 4097 0) false, 
    .debugApertureAccess 0 1152921504606846976 0 0 none, .debugApertureAccess 0 0 1152921504606846976 0 none, 
    .debugApertureAccess 0 0 0 1152921504606846976 none, .debugApertureAccess 0 0 0 0 (some (List.replicate 4097 0)), 
    .bar2Access 0 1152921504606846976 0 0 none, .bar2Access 0 0 1152921504606846976 0 none, .bar2Access 0 0 0 1152921504606846976 none, 
    .bar2Access 0 0 0 0 (some (List.replicate 4097 0)), .commandFetch 0 (zeros 1) false, .commandFetch 0 (zeros 49) false, 
    .cqCoalesceTimeout 0 1152921504606846976 0, .cqCoalesceTimeout 0 0 1152921504606846976, .functionLevelReset 0 1152921504606846976, 
    .headlessHoldEnd 0 1152921504606846976, .por 0 [], .por 0 (List.replicate 12 4096), .railMonitorPoll 0 [] false, 
    .railMonitorPoll 0 (List.replicate 12 4096) false, .timeAdjustApply 0 (some (0, 65536)), .timelineStrobe 0 (some 1152921504606846976), 
    .anchorEffect 0 1152921504606846976, .servoRateUpdate 0 1152921504606846976 0 false, .timedGateExpiry 0 1152921504606846976] : List Instr).all
    (fun i => !i.wf) = true := by decide +kernel

theorem test_wf_operands_1 : ([.remoteDispatch 0 1152921504606846976, .remoteFinish 0 1152921504606846976 .success, .release 0 1152921504606846976, 
    .edmaGo 0 1152921504606846976 0, .edmaGo 0 0 1152921504606846976, .bdmaGo 0 1152921504606846976 0, .bdmaGo 0 0 1152921504606846976, 
    .bdmaArm 0 1152921504606846976 0, .bdmaArm 0 0 1152921504606846976, .bdmaShadowWrite 0 1152921504606846976 0 0 [] false, 
    .bdmaShadowWrite 0 0 1152921504606846976 0 [] false, .bdmaShadowWrite 0 0 0 1152921504606846976 [] false, 
    .bdmaShadowWrite 0 0 0 0 (zeros 49) false, .dmaTransferDone 0 (.bdma 0 32) ⟨[], false, .success, false⟩, 
    .dmaTransferDone 0 (.edma 0 4) ⟨[], false, .success, false⟩, .dmaTransferDone 0 (.edma 512 0) ⟨[], false, .success, false⟩, 
    .meshRequest 0 { req0 with cls := 4 } none [], .meshRequest 0 { req0 with init := 4096 } none [], 
    .meshRequest 0 { req0 with tag := 65536 } none [], .meshRequest 0 { req0 with addr := 2 ^ 48 } none [], 
    .meshRequest 0 { req0 with write := true, len := 1 } none [], .meshRequest 0 { req0 with task := some 262144 } none [], 
    .meshRequest 0 req0 (some 1152921504606846976) [], .meshResponse 0 1152921504606846976 0 0 0 0, .meshResponse 0 0 1152921504606846976 0 0 0, 
    .meshResponse 0 0 0 1152921504606846976 0 0, .meshResponse 0 0 0 0 1152921504606846976 0, .rsv 0 1152921504606846976 0 0 0 0, 
    .rsv 0 0 1152921504606846976 0 0 0, .rsv 0 0 0 1152921504606846976 0 0, .rsv 0 0 0 0 1152921504606846976 0, 
    .rsvReturn 0 1152921504606846976 0 0, .rsvReturn 0 0 1152921504606846976 0, .gnt 0 1152921504606846976 0 0, .gnt 0 0 1152921504606846976 0, 
    .gnt 0 0 0 1152921504606846976, .slotReturnTimeout 0 1152921504606846976 0 0, .slotReturnTimeout 0 0 1152921504606846976 0, 
    .slotReturnTimeout 0 0 0 1152921504606846976, .meshTimeout 0 1152921504606846976 0 0 0] : List Instr).all
    (fun i => !i.wf) = true := by decide +kernel

theorem test_wf_operands_2 : ([.meshTimeout 0 0 1152921504606846976 0 0, .meshTimeout 0 0 0 1152921504606846976 0, .meshTimeout 0 0 0 0 1152921504606846976, 
    .routeRefusedRetry 0 { req0 with cls := 4 }, .routeRefusedRetry 0 { req0 with init := 4096 }, 
    .routeRefusedRetry 0 { req0 with tag := 65536 }, .routeRefusedRetry 0 { req0 with addr := 2 ^ 48 }, 
    .routeRefusedRetry 0 { req0 with write := true, len := 1 }, .routeRefusedRetry 0 { req0 with task := some 262144 }, 
    .routerDrained 0 1152921504606846976, .routerDrainTimeout 0 1152921504606846976, .errlogCopy 0 1152921504606846976, 
    .hbmRetrain 0 1152921504606846976 0, .hbmRetrain 0 0 1152921504606846976, .hbmRetrainDone 0 1152921504606846976, 
    .blockSleepAnswer 0 1152921504606846976, .idleEntry 0 1152921504606846976, .throttleStep 0 1152921504606846976, .urgentBurst 0 [] false, 
    .urgentBurst 0 (List.replicate 12 4096) false, .losSet 0 1152921504606846976 ⟨0, 0, 0⟩, .losSet 0 0 ⟨1152921504606846976, 0, 0⟩, 
    .losClear 0 1152921504606846976 ⟨0, 0, 0⟩, .losClear 0 0 ⟨1152921504606846976, 0, 0⟩, .lolSet 0 1152921504606846976 ⟨0, 0, 0, 0⟩, .lolSet 0 0 ⟨1152921504606846976, 0, 0, 0⟩, 
    .lolClear 0 1152921504606846976 ⟨0, 0, 0, 0⟩, .lolClear 0 0 ⟨1152921504606846976, 0, 0, 0⟩, .lockComplete 0 1152921504606846976 0 0, 
    .lockComplete 0 0 1152921504606846976 0, .adaptationComplete 0 1152921504606846976 0 false [], 
    .adaptationComplete 0 0 1152921504606846976 false [], .blockLock 0 1152921504606846976 0 false, .blockLock 0 0 1152921504606846976 false, 
    .polarityDetect 0 1152921504606846976 0 (List.replicate 64 (false, [])), .polarityDetect 0 0 1152921504606846976 (List.replicate 64 (false, [])), .polarityDetect 0 0 0 [], .laneOrder 0 1152921504606846976 [], 
    .deskew 0 1152921504606846976 [], .handshake 0 1152921504606846976, .trainingBlockRx 0 1152921504606846976 false (zeros 8)] : List Instr).all
    (fun i => !i.wf) = true := by decide +kernel

theorem test_wf_operands_3 : ([.trainingBlockRx 0 0 false (zeros 1), .trainingBlockRx 0 0 false (zeros 49), .syncHeaderLoss 0 1152921504606846976 0 0, 
    .syncHeaderLoss 0 0 1152921504606846976 0, .bringupTimeout 0 1152921504606846976, .bringupRestart 0 1152921504606846976, 
    .eqiUpdate 0 1152921504606846976 0 ⟨0, []⟩, .eqiUpdate 0 0 1152921504606846976 ⟨0, []⟩, .fawRx 0 1152921504606846976 0 false 0 0 false, 
    .tlfFrameRx 0 1152921504606846976 [], .tlfFrameTx 0 1152921504606846976, .tlfDefectSet 0 false 1152921504606846976 0, 
    .tlfDefectSet 0 false 0 1152921504606846976, .tlfDefectSet 0 true 1152921504606846976 0, .tlfDefectSet 0 true 0 2, 
    .tlfDefectClear 0 false 1152921504606846976 0, .tlfDefectClear 0 false 0 1152921504606846976, .tlfDefectClear 0 true 1152921504606846976 0, 
    .tlfDefectClear 0 true 0 2, .sfHoldoffExpiry 0 1152921504606846976, .apsSwitched 0 1152921504606846976, .wtrExpiry 0 1152921504606846976, 
    .apsMismatch 0 1152921504606846976, .tsiSwitched 0 1152921504606846976, .tsiCopyWindowEnd 0 1152921504606846976, 
    .ethFrameRx 0 1152921504606846976 [] default, .hostTxPoll 0 1152921504606846976 (zeros 32), .hostTxPoll 0 0 (zeros 1), 
    .hostTxPoll 0 0 (zeros 49), .hostTxFrame 0 1152921504606846976 [] false, .uplaneTx 0 1152921504606846976 0, .cplaneTx 0 1152921504606846976, 
    .uplinkWindowClose 0 1152921504606846976 0, .peerRetransmit 0 1152921504606846976 0, .peerRetransmit 0 0 1152921504606846976, 
    .peerKeepalive 0 1152921504606846976 0, .peerKeepalive 0 0 1152921504606846976, .damperCheck 0 false 1152921504606846976 0, 
    .damperCheck 0 true 4096 0, .peerRequest 0 1152921504606846976 req0 none 0] : List Instr).all
    (fun i => !i.wf) = true := by decide +kernel

theorem test_wf_operands_4 : ([.peerRequest 0 0 { req0 with cls := 4 } none 0, .peerRequest 0 0 { req0 with init := 4096 } none 0, 
    .peerRequest 0 0 { req0 with tag := 65536 } none 0, .peerRequest 0 0 { req0 with addr := 2 ^ 48 } none 0, 
    .peerRequest 0 0 { req0 with write := true, len := 1 } none 0, .peerRequest 0 0 { req0 with task := some 262144 } none 0, 
    .peerRelay 0 1152921504606846976 0 0 0 0 [], .peerRelay 0 0 1152921504606846976 0 0 0 [], .peerRelay 0 0 0 0 1152921504606846976 0 [], 
    .idleSummary 0 1152921504606846976 default 0 false, .pathDown 0 1152921504606846976, .migPair 0 1152921504606846976 0 0 0 0 0 0 0, 
    .migPair 0 0 1152921504606846976 0 0 0 0 0 0, .migPair 0 0 0 1152921504606846976 0 0 0 0 0, .migPair 0 0 0 0 1152921504606846976 0 0 0 0, 
    .migPair 0 0 0 0 0 1152921504606846976 0 0 0, .migPair 0 0 0 0 0 0 0 0 1152921504606846976, .migReadyToCopy 0 1152921504606846976, 
    .migPrecopyDone 0 1152921504606846976, .migCommit 0 1152921504606846976, .migCommitAck 0 1152921504606846976, 
    .migCommitPoint 0 1152921504606846976, .migSwitch 0 1152921504606846976, .migFinal 0 1152921504606846976, 
    .migAbort 0 1152921504606846976 none, .listenWindowOpen 0 1152921504606846976, .listenWindowClose 0 1152921504606846976 [], 
    .chimeSyncTimeout 0 1152921504606846976 [], .chimeDecode 0 1152921504606846976 [] (List.replicate 192 0), .chimeDecode 0 0 [] [], 
    .chimeLost 0 1152921504606846976 [], .prachWatchDetect 0 1152921504606846976 [], .energyEvent 0 1152921504606846976 0 0, 
    .adcConversion 0 1152921504606846976, .fscTimerExpiry 0 1152921504606846976, .timelineEvent 0 1152921504606846976, 
    .laneTapStep 0 1152921504606846976 0 none 0, .laneTapStep 0 0 1152921504606846976 none 0, .eyeSweep 0 1152921504606846976 0 0 0, 
    .eyeSweep 0 0 1152921504606846976 0 0] : List Instr).all
    (fun i => !i.wf) = true := by decide +kernel

theorem test_wf_operands_5 : ([.arrayEstimate 0 1152921504606846976 [] 0 [], .calPublish 0 1152921504606846976, .ageingRead 0 1152921504606846976 0, 
    .engineFault 0 1152921504606846976 false, .blockFault 0 1152921504606846976 false, .fatalRegion 0 1152921504606846976 0 false, 
    .fatalRegion 0 0 1152921504606846976 false, .fatalChip 0 1152921504606846976 0 false, .dumpComplete 0 [(256, [])], 
    .bistDone 0 1152921504606846976 0 [] [], .bistDone 0 0 1152921504606846976 [] [], .msixMaskClear 0 1152921504606846976 none, 
    .msixMaskClear 0 0 (some 1152921504606846976), .pcsUp 0 1152921504606846976, .prbsCheckerLock 0 ⟨1152921504606846976, 0, []⟩, .prbsCheckerLock 0 ⟨0, 1152921504606846976, []⟩, 
    .prbsCheckerRelock 0 ⟨1152921504606846976, 0, []⟩, .prbsCheckerRelock 0 ⟨0, 1152921504606846976, []⟩, .prbsCheckerRelock 0 ⟨0, 0, List.replicate 1025 default⟩, .remoteTaskArrival 0 1152921504606846976 0 (zeros 64) 0, .remoteTaskArrival 0 0 0 (zeros 1) 0, 
    .remoteTaskArrival 0 0 0 (zeros 49) 0, .remoteRevokeArrival 0 1152921504606846976 0 .success, .commitArrival 0 1152921504606846976, 
    .regionActive 0 1152921504606846976, .levelChangeDone 0 1152921504606846976, .adcCalibrationDone 0 0 1152921504606846976, 
    .returnToService 0 1152921504606846976 0, .returnToService 0 0 1152921504606846976] : List Instr).all
    (fun i => !i.wf) = true := by decide +kernel

/-! ## Witnesses -/

/-- Function 0 attached, with one host window; Melvi serves in SERVICE. -/
def sServ : State := { State.reset with
  host := { HostIf.reset with
    server := .melvi
    funcs := [(0, { Func.reset with attached := true, windows := [⟨0, 0x100000, true, true⟩], mbox := { Mailbox.reset with st := .busy } })] }
  pow := { PowerSt.reset with mode := .service } }

/-- A command entry: opcode, PLEN, inline parameters (Table 2-8). -/
def entryOf (op plen : Nat) (p : List Byte) : List Byte :=
  leBytes 2 op ++ leBytes 2 0 ++ leBytes 4 7 ++ leBytes 4 plen ++ leBytes 4 0 ++ fit 48 p
/-- The same with its parameters in a buffer at host address 0. -/
def entryExt (op plen : Nat) : List Byte :=
  leBytes 2 op ++ leBytes 2 1 ++ leBytes 4 7 ++ leBytes 4 plen ++ leBytes 4 0 ++ leBytes 8 0 ++ leBytes 4 plen ++ zeros 36

/-- The command as fetched through function 0's mailbox, and the state in which it waits. -/
def cmdOf (op plen : Nat) (p : List Byte) : Flight := ⟨0, 0, .mbox, entryOf op plen p, 0, false, none⟩
def cmdExt (op plen : Nat) : Flight := ⟨0, 0, .mbox, entryExt op plen, 0, false, none⟩
def waits (s : State) (fl : Flight) : State := { s with host := { s.host with flights := [fl], nextFlight := 1 } }

/-- The row of command 0 at FRC 0, with the bytes of its parameter buffer. -/
def row (buf : List Byte := []) : CmdRef := { t := 0, id := 0, buf := buf, poison := false }
/-- With queue pair 63; with a cell; in another mode; with tenant 1; with function 1 attached. -/
def sPair : State := sServ.modFunc 0 fun f => { f with
  qps := [(63, ⟨64, 0, 0x1000, 1, false, 0, 0, 0, 0, 0, true, 0, 0, 0, 0, 0, false⟩)] }
def sCell : State := { sServ with cells := [(17, ⟨.service, 2, 0, 273, 4, 4, 4, 4, 13, 0, 1, false, false⟩)] }
def inMode (m : ChipMode) : State := { sServ with pow := { sServ.pow with mode := m } }
def sTen : State := { sServ with host := { sServ.host with
  tenants := [(1, ⟨4, 100, 0, 0x10000000, 0, 10, 0, 10, 0, 10, 1, 1⟩)] } }
def sAtt1 : State := sServ.modFunc 1 fun f => { f with attached := true }
/-- TENANT_CONFIG parameters that give tenant 1 what `sTen` gives it. -/
def pTenant : List Byte :=
  leBytes 2 0x0101 ++ leBytes 2 4 ++ leBytes 4 100 ++ leBytes 8 0 ++ leBytes 8 0x10000000 ++ leBytes 2 0 ++ leBytes 2 10
    ++ leBytes 2 0 ++ leBytes 2 10 ++ leBytes 2 0 ++ leBytes 2 10 ++ zeros 4 ++ leBytes 16 1 ++ leBytes 8 1

theorem wit_RefusedCommandOnlyCompletes :
    Refused layDetach row (waits sServ (cmdOf 3 3 [])) (cmdOf 3 3 []) .badParam
    ∧ Refused layQueueCreate row (waits State.reset { cmdOf 4 32 [] with fn := 0 }) (cmdOf 4 32 []) .notReady := by decide

theorem wit_AdminCommandsComplete :
    (Ready layIdentify row (waits sServ (cmdOf 1 12 [])) (cmdOf 1 12 []) ∧ fld ((cmdOf 1 12 []).params []) 0 8 = 0)
    ∧ (let fl := cmdOf 1 12 (leBytes 8 0x1000 ++ leBytes 4 256)
       Ready layIdentify row (waits sServ fl) fl ∧ fld (fl.params []) 0 8 ≠ 0)
    ∧ (let fl := cmdOf 2 8 (leBytes 4 0x10000)
       Ready layAttach row (waits sServ fl) fl ∧ fld (fl.params []) 2 2 = 1)
    ∧ (let fl := cmdOf 2 8 (leBytes 4 0x20000)
       Ready layAttach row (waits sServ fl) fl ∧ fld (fl.params []) 2 2 ≠ 1)
    ∧ Ready layDetach row (waits sServ (cmdOf 3 4 [])) (cmdOf 3 4 []) := by decide

theorem wit_QueueCommands :
    (let p := leBytes 2 63 ++ leBytes 2 64 ++ leBytes 2 1 ++ leBytes 1 1 ++ zeros 9 ++ leBytes 8 0 ++ leBytes 8 0x1000
     let fl := cmdOf 4 32 p
     let s := waits sServ fl
     Ready layQueueCreate row s fl ∧ s.hostOk 0 0 (64 * 64) false = true ∧ s.hostOk 0 0x1000 (32 * 64) true = true
     ∧ (s.func 0).qps.has 63 = false ∧ (s.func 0).qps.length < s.queueQuota 0)
    ∧ (let fl := cmdOf 5 2 (leBytes 2 63)
       let s := waits sPair fl
       Ready layQueueDelete row s fl ∧ (s.func 0).qps.has 63 = true ∧ s.cqAwaited 0 63 = false)
    ∧ (let fl := cmdOf 6 4 []
       Ready layEventSubscribe row (waits sPair fl) fl)
    ∧ (let fl := cmdOf 6 4 (leBytes 2 2 ++ leBytes 1 3 ++ leBytes 1 63)
       Ready layEventSubscribe row (waits sPair fl) fl ∧ ((waits sPair fl).func 0).qps.has 63 = true) := by decide

theorem wit_ModeSet :
    (let fl := cmdOf 8 1 (leBytes 1 3)
     Ready layModeSet row (waits (inMode .ready) fl) fl ∧ Ready layModeSet row (waits (inMode .maint) fl) fl)
    ∧ (let fl := cmdOf 8 1 (leBytes 1 2)
       Ready layModeSet row (waits sServ fl) fl ∧ Ready layModeSet row (waits sCell fl) fl ∧ sCell.cells ≠ [])
    ∧ (let fl := cmdOf 8 1 (leBytes 1 6)
       Ready layModeSet row (waits sServ fl) fl) := by decide

theorem wit_Tenants :
    (Ready layTenantConfig (row pTenant) (waits sAtt1 (cmdExt 9 64)) (cmdExt 9 64) ∧ (sAtt1.func 1).attached = true)
    ∧ Ready layTenantConfig (row pTenant) (waits sServ (cmdExt 9 64)) (cmdExt 9 64)
    ∧ (tenantOf pTenant).fieldsOk = true ∧ (waits sServ (cmdExt 9 64)).tenantTaken 1 (tenantOf pTenant) = false
    ∧ Ready layTenantConfig (row (leBytes 2 1 ++ zeros 62)) (waits sTen (cmdExt 9 64)) (cmdExt 9 64) ∧ sTen.tenant? 1 ≠ none
    ∧ Ready layTenantConfig (row (leBytes 2 0x0101 ++ zeros 62)) (waits sServ (cmdExt 9 64)) (cmdExt 9 64)
    ∧ (tenantOf (leBytes 2 0x0101 ++ zeros 62)).fieldsOk = false
    ∧ (waits sTen (cmdExt 9 64)).tenantTaken 2 (tenantOf pTenant) = true
    ∧ Ready layTenantConfig (row (leBytes 1 2 ++ pTenant.drop 1)) (waits sTen (cmdExt 9 64)) (cmdExt 9 64) := by decide

theorem wit_Completions :
    let w (x : Wait) : State := waits sTen { cmdOf 9 64 [] with wait := some x }
    (w (.settled .success [])).flight? 0 ≠ none ∧ (w .detach).flight? 0 ≠ none ∧ (w (.queueDelete 63)).flight? 0 ≠ none
    ∧ (let fl := { cmdOf 0x9999 4 [] with wait := none }; (waits sTen fl).flight? 0 = some fl ∧ fl.wait = none ∧ fl.bad = some (0x9999, .badOpcode) ∧ mayStart fl [fl] = true)
    ∧ (w (.tenant 1)).tenantTasks 1 = [] ∧ (w (.tenant 1)).tenant? 1 ≠ none ∧ (w (.dome .none [])).flight? 0 ≠ none := by decide

theorem wit_Mailbox :
    let st (x : MboxState) : State := sServ.setMbox 0 { Mailbox.reset with st := x, cmd := entryOf 1 12 [] }
    sServ.barUp = true ∧ ((st .done).func 0).mbox.st = .done ∧ ((st .busy).func 0).mbox.st = .busy
    ∧ ((st .idle).func 0).mbox.st = .idle ∧ ((st .acked).func 0).mbox.st = .acked ∧ bit 1 0 = true ∧ bit 2 1 = true ∧ bit 3 1 = true
    ∧ opcodeKnown (fld ((st .idle).func 0).mbox.cmd 0 2) = true ∧ (st .idle).host.server = .melvi
    ∧ (st .idle).pow.mode ≠ .fault := by decide

theorem wit_Doorbells :
    sPair.barUp = true ∧ (sServ.func 0).qps.find? 63 = none
    ∧ ∃ q, (sPair.func 0).qps.find? 63 = some q ∧ q.entries = 64 ∧ q.posted = 0 ∧ q.cqHead = 0 := by
  refine ⟨by decide, by decide, _, rfl, by decide⟩

theorem wit_HostAccesses :
    sServ.barUp = true ∧ sServ.dome.debug = false ∧ sServ.retiredIn 0 64 = false
    ∧ overlaps 0 64 hbmCarillon (hbmEnd - hbmCarillon) = false
    ∧ overlaps hbmCarillon 1 hbmCarillon (hbmEnd - hbmCarillon) = true ∧ sServ.retiredIn hbmCarillon 1 = false
    ∧ sServ.host.server = .melvi ∧ sServ.pow.mode ≠ .watch ∧ sServ.pow.heldCtrl = false := by decide

theorem wit_Fetch :
    (let s := sPair.modFunc 0 fun f => { f with qps := f.qps.upd 63 fun q => { q with sqTail := 1 } }
     roundRobin 8 s.host.lastFn (fun g => (s.func g).nextPair.isSome) = some 0 ∧ (s.func 0).nextPair = some 63
     ∧ opcodeKnown (fld (fit 64 (entryOf 1 12 [])) 0 2) = true)
    ∧ (∀ fn < 8, ∀ q ∈ (sServ.func fn).qps, q.2.free = 0)
    ∧ (let s := sPair.modFunc 0 fun f => { f with qps := f.qps.upd 63 fun q => { q with unsignalled := 1, coalUs := 5, coalCount := 9 } }
       ∃ q, (s.func 0).qps.find? 63 = some q ∧ 0 < q.unsignalled ∧ s.time.frc < q.oldest + usToFrc q.coalUs
         ∧ q.oldest + usToFrc q.coalUs ≤ (s.advance 4916).time.frc) := by
  refine ⟨by decide, by decide, _, rfl, by decide⟩

theorem wit_HostResets :
    sServ.host.funcs.wf Func.reset = true
    ∧ ((sServ.modFunc 0 fun f => { f with hold := .holding 0 }).func 0).hold = .holding 0 := by decide

theorem wit_AdjustmentSplitsAtF :
    let a : PendAdj := ⟨0, 0x1046AAAAAAAA, 5, 0, 0⟩
    let s : State := { State.reset with time := { TimeSt.reset with pendAdj := some a } }
    s.time.pendAdj = some a ∧ s.time.convs ≠ [] ∧ a.f ≤ (s.advance 0).time.frc := by decide

theorem wit_TimeCommands :
    Ready layTimeGet row (waits sServ (cmdOf 0x0101 12 [])) (cmdOf 0x0101 12 [])
    ∧ (let fl := cmdOf 0x0101 12 (leBytes 8 64 ++ leBytes 4 64)
       Ready layTimeGet row (waits sServ fl) fl ∧ fld (fl.params []) 0 8 ≠ 0)
    ∧ (let fl := cmdOf 0x0102 40 (leBytes 1 1 ++ zeros 15 ++ leBytes 8 0x1046AAAAAAAA)
       let s := waits sServ fl
       Ready layTimeAdjust row s fl ∧ s.underRoot = false ∧ s.adjustBad (fl.params []) = false ∧ s.time.pendAdj = none
         ∧ s.anchored = false
         ∧ Ready layTimeAdjust row { s with clu := { s.clu with id := 1, root := 9 } } fl
         ∧ State.underRoot { s with clu := { s.clu with id := 1, root := 9 } } = true
         ∧ Ready layTimeAdjust row { s with time := { s.time with pendAdj := some ⟨9, 9, 9, 0, 0⟩ } } fl)
    ∧ (let fl := cmdOf 0x0102 40 (leBytes 1 1 ++ zeros 7 ++ leBytes 8 982 ++ leBytes 8 0x1046AAAAAAAA)
       Ready layTimeAdjust row (waits sServ fl) fl ∧ fld (fl.params []) 8 8 = 982) := by decide

theorem wit_Anchor :
    (let fl := cmdOf 0x0103 12 (leBytes 2 383 ++ leBytes 1 1 ++ leBytes 1 1)
     let s := waits sServ fl
     Ready layTimelineAnchor row s fl ∧ s.ownsCell 0 383 = true ∧ s.cells.find? 383 = none ∧ s.time.pendAnchors.has 383 = false)
    ∧ (let fl := cmdOf 0x0103 12 (leBytes 2 17 ++ leBytes 1 1 ++ leBytes 1 1)
       Ready layTimelineAnchor row (waits sCell fl) fl ∧ ∃ c, sCell.cells.find? 17 = some c ∧ c.st ≠ .hibernated)
    ∧ (let fl := cmdOf 0x0103 12 (leBytes 2 0 ++ leBytes 1 0 ++ leBytes 1 1)
       Ready layTimelineAnchor row (waits sServ fl) fl)
    ∧ (let fl := cmdOf 0x0104 8 (leBytes 2 1 ++ leBytes 2 10000)
       Ready layPpsConfig row (waits sServ fl) fl) :=
  ⟨by decide, ⟨by decide, _, rfl, by decide⟩, by decide, by decide⟩

theorem wit_TimeEvents :
    let pps : Pps := ⟨true, false, false, 1, 0, 0, some 0, 0, 0⟩
    let s : State := { State.reset with time := { TimeSt.reset with pps := pps, member := true, misses := 9 } }
    let a : State := { State.reset with time := { TimeSt.reset with
      anchors := [(17, ⟨1, 0, 0, 0, 0, 0⟩)], pendAnchors := [(18, ⟨1, 0, 0, 0⟩), (19, ⟨1, 0, 0, 9⟩)], refLost := some 0 } }
    s.time.refLost = none ∧ a.time.refLost = some 0 ∧ s.time.pps.last ≠ none
    ∧ s.time.pps.due + 983040000 + usToFrc 1 ≤ (s.advance 983040984).time.frc
    ∧ nominal 0 s.time.refTl.k s.time.refTl.off ≤ s.thetaNow ∧ (a.anchor? 17).isSome = true ∧ nominal 0 0 0 ≤ a.thetaNow
    ∧ a.thetaNow < nominal 0 9 0 ∧ s.time.lastServo + 983040 ≤ (s.advance 983040).time.frc ∧ rateOk 0x1046AAAAAAAA = true
    ∧ (let r : State := { State.reset with time := { TimeSt.reset with frc := 9830500, refTl := { TimeSt.reset.refTl with k := 1, off := 0 } } }
       nominal 0 1 0 ≤ r.thetaNow ∧ r.time.lastAdj < r.frcOfTheta (nominal 0 1 0)) := by decide

/-- A graph of one VDE-free node (an FFT task, NOTIFY), its definition, and a state in which a plan of it for cell 17 can run. -/
def nodeFft : List Byte := leBytes 2 1 ++ leBytes 1 10 ++ zeros 27 ++ leBytes 1 1 ++ zeros 33
def sPlan : State := { sServ.modFunc 0 fun f => { f with
    qps := [(1, ⟨64, 0, 0x1000, 64, false, 0, 0, 0, 0, 0, true, 0, 0, 0, 0, 0, false⟩)] } with
  cells := [(17, ⟨.service, 2, 0, 273, 4, 4, 4, 4, 13, 0, 1, false, false⟩)]
  time := { TimeSt.reset with anchors := [(17, ⟨1, 0, 0, 0, 0, 0⟩)] }
  car := { Carillon.reset with
    graphs := [(12, ⟨0, [], [nodeFft]⟩)], flows := [(0, ⟨true, false, 1024, 1024, 0, []⟩)]
    epochs := [(21, ⟨.opened, 6, 0⟩), (22, ⟨.committed, 1, 0⟩)] } }
def plan (cell : Nat) : List Byte :=
  leBytes 2 12 ++ leBytes 2 cell ++ leBytes 4 0x2000 ++ leBytes 2 21 ++ leBytes 1 1 ++ zeros 37

theorem wit_PlanAllOrNothing :
    (let fl := cmdOf 0x0202 48 (plan 17)
     Ready laySlotPlan row (waits sPlan fl) fl ∧ (waits sPlan fl).planCheck 0 (fl.params []) = none
       ∧ (∃ g, (waits sPlan fl).car.graphs.find? 12 = some g ∧ 0 < g.nodes.length) ∧ ((waits sPlan fl).anchor? 17).isSome = true)
    ∧ (let fl := cmdOf 0x0202 48 (plan 18)
       Ready laySlotPlan row (waits sPlan fl) fl ∧ (waits sPlan fl).planCheck 0 (fl.params []) = some .notPermitted) :=
  ⟨⟨by decide, by decide, ⟨_, rfl, by decide⟩, by decide⟩, by decide⟩

theorem wit_Carillon :
    (let fl := cmdExt 0x0201 80
     let buf := leBytes 2 5 ++ leBytes 2 1 ++ zeros 12 ++ nodeFft
     Ready layGraphDefine (row buf) (waits sPlan fl) fl
       ∧ (pieces 64 1 ((fl.params buf).drop 16)).all ((waits sPlan fl).nodeOk 0 0) = true
       ∧ (waits sPlan fl).graphBusy 5 = false ∧ (waits sPlan fl).car.graphs.find? 5 = none)
    ∧ (let fl := cmdExt 0x0201 80
       let buf := leBytes 2 5 ++ leBytes 2 1 ++ zeros 12 ++ zeros 64
       Ready layGraphDefine (row buf) (waits sPlan fl) fl
         ∧ (pieces 64 1 ((fl.params buf).drop 16)).all ((waits sPlan fl).nodeOk 0 0) = false)
    ∧ (∀ ep ∈ [21, 22, 23], Ready layEpochCommit row (waits sPlan (cmdOf 0x0203 4 (leBytes 2 ep))) (cmdOf 0x0203 4 (leBytes 2 ep))
        ∧ Ready layEpochRevoke row (waits sPlan (cmdOf 0x0204 4 (leBytes 2 ep))) (cmdOf 0x0204 4 (leBytes 2 ep)))
    ∧ (let fl := cmdOf 0x0206 8 (leBytes 1 0 ++ leBytes 1 1 ++ leBytes 1 32 ++ leBytes 1 1)
       Ready layClassReserve row (waits sServ fl) fl)
    ∧ (∀ en ∈ [0, 1], let fl := cmdOf 0x0207 32 (leBytes 8 0x10001000 ++ leBytes 4 1024 ++ leBytes 1 en)
        Ready layOlogConfig row (waits sTen fl) fl ∧ (sTen.heldByOther fun x => overlaps 0x10001000 32832 x.hbmBase x.hbmSize) = false)
    ∧ (let fl := cmdOf 0x0207 32 (leBytes 8 0x0 ++ leBytes 4 1024 ++ leBytes 1 1)
       Ready layOlogConfig row (waits sTen fl) fl ∧ (sTen.heldByOther fun x => overlaps 0 32832 x.hbmBase x.hbmSize) = true) := by
  and_intros <;> decide +kernel

theorem wit_FlowConfig :
    (∀ en ∈ [0, 1], let fl := cmdOf 0x0205 8 (leBytes 2 0 ++ leBytes 1 en)
      Ready layFlowConfig row (waits sPlan fl) fl ∧ sPlan.ownsFlow 0 0 = true ∧ (sPlan.car.flows.find? 0).isSome = true)
    ∧ (let fl := cmdOf 0x0205 8 (leBytes 2 10 ++ leBytes 1 1)
       Ready layFlowConfig row (waits sTen fl) fl ∧ sTen.ownsFlow 0 10 = true)
    ∧ (let fl := cmdOf 0x0205 8 (leBytes 2 5)
       Ready layFlowConfig row (waits sTen fl) fl ∧ sTen.ownsFlow 0 5 = false) := by and_intros <;> decide +kernel

/-- `sPlan` with an anchored cell id that is not created, and with cell 17 in another state. -/
def sCellIn (st : CellState) : State := { sPlan with
  cells := [(17, ⟨st, 2, 0, 273, 4, 4, 4, 4, 13, 0, 1, false, false⟩)]
  time := { TimeSt.reset with anchors := [(17, ⟨1, 0, 0, 0, 0, 0⟩), (18, ⟨1, 0, 0, 0, 0, 0⟩)] } }
def pCreate (c : Nat) (acs : Nat := 4) : List Byte :=
  leBytes 2 c ++ leBytes 2 0 ++ leBytes 2 273 ++ leBytes 2 acs ++ leBytes 2 4 ++ leBytes 1 4 ++ leBytes 1 4

theorem wit_Cells :
    (let fl := cmdOf 0x0301 16 (pCreate 18)
     Ready layCellCreate row (waits (sCellIn .service) fl) fl ∧ (sCellIn .service).acsOver 18 4 4 = false
       ∧ ((sCellIn .service).anchor? 18).isSome = true)
    ∧ (let fl := cmdOf 0x0301 16 (pCreate 19)
       Ready layCellCreate row (waits (sCellIn .service) fl) fl ∧ (sCellIn .service).anchor? 19 = none)
    ∧ (∀ x ∈ [(CellState.service, 0x80), (.service, 1), (.hibernated, 0x1FF)],
       let fl := cmdOf 0x0302 20 (leBytes 2 17 ++ leBytes 2 x.2 ++ pCreate 0)
       Ready layCellModify row (waits (sCellIn x.1) fl) fl)
    ∧ (let fl := cmdOf 0x0303 4 (leBytes 2 17); Ready layCellDelete row (waits (sCellIn .service) fl) fl)
    ∧ (sCellIn .service).cellTasks 17 = false
    ∧ (∀ x ∈ [CellState.service, .hibernated], let fl := cmdOf 0x0304 4 (leBytes 2 17)
        Ready layCellHibernate row (waits (sCellIn x) fl) fl)
    ∧ (∀ x ∈ [CellState.service, .hibernated], let fl := cmdOf 0x0305 4 (leBytes 2 17)
        Ready layCellWake row (waits (sCellIn x) fl) fl)
    ∧ (∀ k < 384, sPlan.ownsCell 0 k = true) := by and_intros <;> decide +kernel

/-- A task of `nodeFft`, DONE_HELD at the head of flow 0, and states with it held or on engine 0x180. -/
def tFft : Task := { mkTask (plan 17) 5 17 0 1 0 0 4 [] 0 1024 nodeFft with st := .doneHeld }
def sHeld (t : Task) : State := { sPlan with car := { sPlan.car with tasks := [(3, t)] } }
def sOn (t : Task) (e : Nat) (r : EngineRun) : State := { sHeld t with car := { (sHeld t).car with engines := [(e, r)] } }

theorem wit_Release :
    ((sHeld tFft).advance 0).stopped = false ∧ ((sHeld tFft).advance 0).task? 3 = some tFft
    ∧ ((sHeld tFft).car.flows.find? 0).map Flow.head = some tFft.seq ∧ tFft.st = .doneHeld ∧ tFft.origin = none ∧ tFft.fail = none
    ∧ tFft.harq = false ∧ (sHeld tFft).speculative tFft = false ∧ (sHeld { tFft with seq := 1025 }).task? 3 = some { tFft with seq := 1025 }
    ∧ ({ tFft with fail := some Status.poisoned } : Task).fail ≠ none := by and_intros <;> decide +kernel

theorem wit_SchedulerEvents :
    (let s : State := { sPlan with car := { sPlan.car with
      gates := [(0, ⟨1, none, false, 5, some (7, 60)⟩)], plans := [(5, ⟨12, 17, 0, 4, 0, 0, 1, 0, true, false⟩)] } }
     s.stopped = false ∧ (s.advance 0).time.frc < s.frcOfPos ⟨1, 0, 0, 0, 0, 0⟩ 0 (symOff 1 4 7) + usToFrc 60
       ∧ s.frcOfPos ⟨1, 0, 0, 0, 0, 0⟩ 0 (symOff 1 4 7) + usToFrc 60 ≤ (s.advance 3000000).time.frc)
    ∧ (let s := sHeld { tFft with st := .ready, region := some 12 }
       s.ableEngine 0x180 = true ∧ ((s.pickTask 0x180).map Prod.fst) = some 3 ∧ s.poisonIn (hbmCarillon + 192) 64 = false)
    ∧ (∀ st ∈ [Status.success, .internal],
       let s := sOn { tFft with st := .running, engine := some 0x180 } 0x180 { EngineRun.idle with task := some 3, ended := some st }
       (s.eng 0x180).ended = some st ∧ (s.vde 0x180).bank.lateErr = none ∧ s.edmaQuiet 0x180 = true ∧ tFft.leave = .no)
    ∧ (let s := sOn { tFft with st := .running, engine := some 0x180 } 0x180 { EngineRun.idle with task := some 3 }
       engType 0x180 ≠ some 1 ∧ (s.eng 0x180).task = some 3 ∧ s.preemptBy 0x180 { tFft with st := .running } = none
         ∧ (s.region (engRegion 0x180)).prepare = false)
    ∧ (let s := sOn tFft 3 { EngineRun.idle with zMain := true }; (s.eng 3).zMain = true ∧ (s.eng 3).zAlt = false)
    ∧ (let s := sOn tFft 3 { EngineRun.idle with zAlt := true, suspended := some 3 }; (s.eng 3).suspended = some 3 ∧ (s.eng 3).zAlt = true) := by
  and_intros <;> decide +kernel


/-- Engine 0 in the main bank running kernel 2 (three code words, the first given), task 3, with 9,831 counts left; P14 in its image. -/
def sVdeAt (w : Nat) (b : Bank) (c : EngineRun) : State := { sHeld { tFft with st := .running, engine := some 0 } with
  car := { (sHeld { tFft with st := .running, engine := some 0 }).car with engines := [(0, c)] }
  vdes := [(0, { Vde.reset with main := { b with kernel := 2, timerEnd := 9831 } })]
  kernels := [(2, ⟨0, false, 0x200000, 3, 64, 1, 1, [], zeros 128⟩)]
  mem := { MemSt.reset with mem := Tab.putBytes [] (engBase 0 + 0x200000) (leBytes 8 w) } }
def b14 : Bank := { Bank.reset with g := [(rP 14, 0x200040)] }
def sVde (w : Nat) : State := sVdeAt w b14 { EngineRun.idle with task := some 3 }
def wordCtx (w : Nat) : WordCtx := ⟨0, 3, { tFft with st := .running, engine := some 0 }, ⟨0, false, 0x200000, 3, 64, 1, 1, [], zeros 128⟩, false, w, false⟩
def uVde (w : Nat) : State := (sVde w).logRead ((sVde w).taskWho 3 { tFft with st := .running, engine := some 0 } (initEng 0)) (engBase 0 + 0x200000) 8
/-- A word of a format V or S opcode, or of a format C or M opcode, with its low bits. -/
def word (f o d : Nat) : Nat := f * 2 ^ 62 + o * 2 ^ (if f < 2 then 54 else 56) + d
/-- VADD; VADD with an X load, an X store; VMAC.P with P14. -/
def wordsV : List Nat := [word 0 1 0, word 0 1 (1 * 2 ^ 32), word 0 1 (2 * 2 ^ 32), word 0 0x25 0]
/-- LDI, LDA, LDS, STS, VLD, VST, VST.S, VST.S.RE; VLDP through P14. -/
def wordsM : List Nat := [word 3 1 5, word 3 2 5, word 3 8 0, word 3 9 0, word 3 0x10 0, word 3 0x11 0, word 3 0x18 0, word 3 0x19 0]
def wordsC : List Nat := [0, 1, 2, 3, 4, 5, 8, 9, 10, 0x10, 0x11, 0x18, 0x1C, 0x1D].map fun o => word 2 o 0

theorem wit_Issues : ∀ w ∈ wordsV ++ wordsM ++ wordsC, Issues (sVde w) 0 0 (wFmt w) (wOpc w) (wordCtx w) (uVde w) := by
  intro w hw
  constructor <;> revert w <;> decide +kernel

theorem wit_Operations :
    (moveOf (wX (word 0 1 0)) = none ∧ moveOf (wY (word 0 1 0)) = none)
    ∧ (∀ w ∈ [word 0 1 (1 * 2 ^ 32), word 0 1 (2 * 2 ^ 32)], moveOf (wY w) = none ∧ (moveOf (wX w)).any (fun m => m.ptr.bad b14 = false
        ∧ (b14.getG (rP m.ptr.p)).toNat % 8 = 0 ∧ localPlace 0 false (b14.getG (rP m.ptr.p)).toNat 64 = .xram (engBase 0)) = true)
    ∧ (let w := word 0 0x25 0
       (pbUse (wPb w)).bad b14 = false ∧ (b14.getG (rP (pbUse (wPb w)).p)).toNat = 0x200040 ∧ 0x200040 % 64 = 0
         ∧ within 0x200040 64 (wordCtx w).k.codeBase ((wordCtx w).k.dataBase + (wordCtx w).k.dataBytes - (wordCtx w).k.codeBase) = true) := by and_intros <;> decide +kernel

theorem wit_Access : ∀ w ∈ wordsV ++ wordsM,
    let u := uVde w
    (∀ d ∈ [engBase 0, engBase 0 + 0x200040], u.access (u.taskWho 3 (wordCtx w).task (initEng 0)) d 64 false = .success)
    ∧ (u.taskWrite 3 (initEng 0) (engBase 0) (zeros 64) false).2 = .success ∧ (u.task? 3).isSome = true ∧ u.clu.migs = []
    ∧ u.real (engBase 0) = engBase 0 ∧ u.marksIn (engBase 0) 64 = [] ∧ Memory.wf u.mem.mem := by and_intros <;> decide +kernel

/-- A bank in a trap handler, with three loops, with S31 poisoned, with S31 in the code; engines whose timer has run out. -/
theorem wit_Control :
    (let s := sVdeAt 0 Bank.reset { EngineRun.idle with task := some 3 }
     (s.advance 9831).vdeRuns 0 = some (3, (wordCtx 0).task, (wordCtx 0).k) ∧ ((s.advance 9831).vde 0).bank.timerEnd ≤ (s.advance 9831).time.frc
       ∧ ((s.advance 9831).eng 0).trapAt = none)
    ∧ (let s := sVdeAt 0 Bank.reset { EngineRun.idle with task := some 3, trapAt := some 0 }
       (s.advance 9831).vdeRuns 0 = some (3, (wordCtx 0).task, (wordCtx 0).k) ∧ ((s.advance 9831).eng 0).trapAt ≠ none) := by and_intros <;> decide +kernel
theorem wit_ControlBanks : ∀ b ∈ [{ b14 with trap := some 1 }, { b14 with loops := [⟨0, 2, 3⟩, ⟨0, 2, 3⟩, ⟨0, 2, 3⟩] },
      { b14 with pois := [(31, ())] }, { b14 with g := [(0, 3), (31, 1)] }, { b14 with poisonStored := true }],
    ∀ w ∈ wordsC, Issues (sVdeAt w b { EngineRun.idle with task := some 3 }) 0 0 (wFmt w) (wOpc w) (wordCtx w)
      ((sVdeAt w b { EngineRun.idle with task := some 3 }).logRead ((sVde w).taskWho 3 { tFft with st := .running, engine := some 0 } (initEng 0)) (engBase 0 + 0x200000) 8) := by
  intro b hb w hw
  constructor <;> revert w <;> revert b <;> decide +kernel

/-- An image of one word and no data (EXIT), its trailer, and KERNEL_LOAD of it; unloading kernel 2. -/
def image : List Byte :=
  leBytes 4 0x4B454456 ++ leBytes 2 1 ++ leBytes 2 0 ++ leBytes 4 1 ++ zeros 52 ++ leBytes 8 (word 2 0x1C 0) ++ zeros 56
    ++ zeros 64 ++ leBytes 4 0x10000 ++ zeros 1340
def pLoad (act id : Nat) (m : List Byte) : List Byte := leBytes 1 act ++ leBytes 1 0 ++ leBytes 2 id ++ leBytes 4 m.length ++ zeros 8 ++ m
theorem wit_KernelLoads :
    (∀ id ∈ [2, 5], let fl := cmdExt 0x0208 (16 + image.length)
      Ready layKernelLoad (row (pLoad 0 id image)) (waits (sVde 0) fl) fl)
    ∧ (∀ id ∈ [2, 5], let fl := cmdExt 0x0208 16
      Ready layKernelLoad (row (pLoad 1 id [])) (waits (sVde 0) fl) fl ∧ (sVde 0).kernelUsed 2 = false)
    ∧ (let s := { sVde 0 with kernels := [(2, ⟨1, false, 0x200000, 3, 64, 1, 1, [], zeros 128⟩)] }
       (s.kernels.find? 2).map Kernel.fn ≠ some 0)
    ∧ ((sVde 0).pramPlace false 64 = some 0x200080 ∧ ({ sVde 0 with car := { (sVde 0).car with
        tasks := [(3, { tFft with type := 1, kernel := 2 })] } }).kernelUsed 2 = true) := by and_intros <;> decide +kernel


/-- A running task of a type and KERNEL on an engine of that type, its parameter block at a region memory address. -/
def engOf (ty : Nat) : Nat := ((List.range 512).find? fun e => engType e == some ty).getD 0
def sJob (ty k addr : Nat) : State :=
  sOn { tFft with type := ty, kernel := k, st := .running, engine := some (engOf ty), param := ⟨addr, 4096⟩ } (engOf ty) { EngineRun.idle with task := some 3 }
theorem wit_EngineTasks :
    (∀ r ∈ engOps, ((sJob r.2.1 r.2.2.1 (regBase 12)).advance 0).job (engOf r.2.1) r.2.1 r.2.2.1 ≠ none)
    ∧ (∀ r ∈ engOps, let s := sJob r.2.1 r.2.2.1 (regBase 12)
        (s.job (engOf r.2.1) r.2.1 r.2.2.1).any (fun j => s.access j.who (regBase 12) 128 false == .success
          && r.2.2.2.2.1 j s (zeros 128) == some .badParam && s.retiredIn (regBase 12) 128 == false) = true)
    -- region 12 asleep; a misaligned parameter block; a run-ahead decoder whose counter is 0
    ∧ (∀ r ∈ engOps, let s := { sJob r.2.1 r.2.2.1 (regBase 12) with pow := { PowerSt.reset with regions := [(12, { Region.reset with st := .off })] } }
        (s.job (engOf r.2.1) r.2.1 r.2.2.1).any (fun j => s.access j.who (regBase 12) 128 false == .domainAsleep) = true)
    ∧ (regBase 12 + 1) % 64 ≠ 0
    -- a revoke pending; nothing in progress; a run-ahead decoder that waits; the work left before a boundary; a block not yet covered
    ∧ (∀ r ∈ engOps, ((((sJob r.2.1 r.2.2.1 (regBase 12)).modTask 3 fun k => { k with leave := .revoked }).advance 0).job (engOf r.2.1) r.2.1 r.2.2.1).any
        (fun j => decide (j.task.leave ≠ .no)) = true)
    ∧ (∀ r ∈ engOps, ((sJob r.2.1 r.2.2.1 (regBase 12)).eng (engOf r.2.1)).prog = none)
    ∧ (((sJob 3 1 (regBase 12)).modEng (engOf 3) fun r => { r with prog := some ⟨zeros 64, 0, none, [], .zero, false⟩ }).waiting? (engOf 3)).isSome = true
    ∧ (let y : RxRun := ⟨⟨⟨State.reset, none, false, none⟩, .zero⟩, 1, none, [], false⟩
       y.wait = false ∧ y.x.w.stop = none ∧
       ((sJob 3 1 (regBase 12)).job (engOf 3) 3 1).any (fun j => (nrStep .ldpcDec j (zeros 72 ++ [1]) (some 0) y 1).wait) = true)
    ∧ (let s := sJob 3 1 (regBase 12)
       let s := { s with mem := { s.mem with mem := Tab.putBytes [] (regBase 12) (leBytes 2 1 ++ leBytes 1 1 ++ leBytes 1 2) } }
       ((s.advance 0).job (engOf 3) 3 1).any (fun j => hdrRunAhead (j.bytes (s.advance 0) j.task.param.addr 64)) = true) := by and_intros <;> decide +kernel
theorem wit_Arithmetic : (-(2 ^ 100) ≤ (70000 : Int) ∧ (70000 : Int) < 2 ^ 100) ∧ (normalise [(70000, 3), (-1, 0)]).2.1 = 5
    ∧ (snNorm (2 ^ 30) 0).m = 2 ^ 22 ∧ (0 : Nat) < 1 := by and_intros <;> decide +kernel
theorem wit_Compression : (List.replicate 24 (-256 : Int)).length = 24 ∧ (∀ m ∈ List.replicate 24 (-256 : Int), -(2 ^ (9 - 1)) ≤ m ∧ m < 2 ^ (9 - 1))
    ∧ (∀ t ∈ [(-32768 : Int), 32767], -32768 ≤ t ∧ t ≤ 32767) := by and_intros <;> decide +kernel
theorem wit_SoftValues : (let b : CodeBlock := ⟨10, 4, [2], 0, 6, true⟩
    ([31, -31, 0, 9] : List Int).length = b.ncb ∧ b.ncb < 2 ^ 32 ∧ ∀ l ∈ ([31, -31, 0, 9] : List Int), -31 ≤ l ∧ l ≤ 31)
    ∧ crcCode 1 = some crc24A ∧ ((0x95 : Byte).toInt.natAbs ≤ 31 ∨ (0x0F : Byte).toInt.natAbs ≤ 31) := by and_intros <;> decide +kernel



/-- SERVICE with one lane or peer port set. -/
def sLane (n : Nat) (l : Lane) : State := sServ.modLane n fun _ => l
def lUp (peer : Bool) (stage : Nat) : Lane :=
  { Lane.reset with cfg := { LaneCfg.reset with mode := if peer then 4 else 1, rate := if peer then 0x20 else 1, txEn := true, rxEn := true }
                    stage := stage, sub := List.replicate 16 (min 6 stage), los := 0, lol := 0 }
/-- A valid training block with RX_READY. -/
def training : List Byte := [0xB4, 0, 1, 0, 7, 0, 0, 0xFF - (0xB4 ^^^ 1 ^^^ 7)]
theorem wit_LaneEvents :
    (∀ st ∈ [1, 9], let l := (sLane 3 (lUp false st)).lane 3
      (sLane 3 (lUp false st)).laneLive 3 = true ∧ l.los.testBit 0 = false ∧ l.lol.testBit 0 = false)
    ∧ ((sLane 3 Lane.reset).laneLive 3 = true ∧ Lane.reset.los.testBit 0 = true ∧ Lane.reset.lol.testBit 0 = true)
    ∧ ((0 : Nat) < (lUp false 9).cfg.losMv)
    ∧ ((lUp false 9).past false 0 4 = true)
    -- the boundaries of time: 10 µs without LOL, 1 ms of good EQI, 20 ms and 5 ms in stage 3, 1 ms of hold, 1 ms between two EQI
    ∧ (let s := (sLane 3 (lUp false 2)).advance (usToFrc 10)
       s.inStage 3 0 2 = true ∧ (s.lane 3).lolOff.getD 0 0 + usToFrc 10 ≤ s.time.frc)
    ∧ (let s := (sLane 3 { lUp false 3 with eqis := [160] }).advance (msToFrc 1)
       s.inStage 3 0 3 = true ∧ (s.lane 3).good ≤ 160 ∧ (s.lane 3).goodAt.getD 0 0 + msToFrc 1 ≤ s.time.frc)
    ∧ ((lUp false 3).began false 0 + msToFrc 20 ≤ (State.reset.advance (msToFrc 20)).time.frc)
    ∧ ((lUp false 2).overdue false 2 (msToFrc 1) = true ∧ (lUp true 8).overdue true 8 (msToFrc 10) = true)
    ∧ (let l := (sLane 3 { lUp false 1 with holding := true }).lane 3; l.holding = true ∧ l.holdAt = 0)
    ∧ ((lUp false 9).eqiAt.getD 0 0 = 0 ∧ 0 < (([1, 2] : List Int).map fun x => Int.natAbs x ^ 2).sum ∧ eqiOf ⟨1000, [1, 2]⟩ = 255 ∧ eqiOf ⟨10, [1, -1]⟩ = 160)
    -- polarity: training blocks as received and inverted
    ∧ (trainingOk true training = true ∧ trainingOk true ((training.map fun x => ~~~x).map fun x => ~~~x) = true)
    -- a PRBS7 checker: bits that follow the sequence; 64 errors in 1,024
    ∧ prbsClean 1 false (prbsBits 1 71 (List.replicate 7 true)) = true
    ∧ ((List.replicate 64 true).count true = 64 ∧ (List.replicate 64 true).length ≤ 1024)
    ∧ (let l := { lUp false 14 with chk := 1, prbsLock := 1 }; ((sLane 3 l).lane 3).prbsLock.testBit 0 = true ∧ ((sLane 3 l).lane 3).stage = 14)
    ∧ (∀ st ∈ [2, 3, 4, 5], (sLane 3 (lUp false st)).inStage 3 0 st = true) ∧ (∀ st ∈ [2, 3, 4, 5], (sLane 256 (lUp true st)).inStage 256 15 st = true)
    ∧ (160 ≤ ({ lUp false 3 with eqis := [160] }).eqis.getD 0 0 ∧ ({ lUp false 3 with eqis := [159] }).eqis.getD 0 0 < 160
        ∧ 96 ≤ ({ lUp false 3 with eqis := [159] }).eqis.getD 0 0 ∧ ({ lUp false 3 with eqis := [95] }).eqis.getD 0 0 < 96)
    ∧ (isPeer 256 = true ∧ (lUp true 6).subDone = true ∧ isPerm16 ((List.range 16).reverse) = true ∧ isPerm16 (List.replicate 16 0) = false)
    ∧ (let s := sLane 0 (lUp false 6)
       let s := { s with line := { s.line with ports := [(0, { (default : EthPort) with ptype := 4, lane := 0 })] } }
       s.inStage 0 0 6 = true ∧ s.multiLane 0 = true)
    ∧ ((sLane 256 (lUp true 7)).inStage 256 0 7 = true ∧ (List.range 16).length = 16)
    ∧ (let l := { lUp true 8 with farReady := true }; (sLane 256 l).laneLive 256 = true ∧ l.cfg.txEn = true ∧ l.cfg.mode = 4)
    ∧ (let l := { lUp false 9 with farReady := true }; l.cfg.mode = 1 ∧ l.cfg.txEn = true ∧ 5 ≤ l.report false)
    ∧ (training.length = 8 ∧ fld training 0 1 = 0xB4 ∧ fld training 2 1 % 2 = 1
        ∧ fld training 7 1 = 255 - ((training.take 7).foldl (fun x c => x ^^^ c.toNat) 0))
    ∧ (fld (zeros 8) 0 1 ≠ 0xB4)
    ∧ (∀ st ∈ [2, 3, 7], hasTimeout false ((lUp false st).report false) = true) ∧ hasTimeout true ((lUp true 8).report true) = true
    ∧ (lUp false 3).aboveFloor false = false
    ∧ (let l := { lUp false 1 with holding := true }; (sLane 3 l).laneLive 3 = true ∧ ((sLane 3 l).lane 3).holding = true)
    ∧ (let l := { lUp false 8 with cfg := { (lUp false 8).cfg with mode := 2 } }
       (sLane 3 l).laneLive 3 = true ∧ (sLane 3 l).lanePort 3 = none ∧ ((sLane 3 l).lane 3).cfg.mode = 2)
    ∧ (let l := { lUp false 14 with chk := 1 }; (sLane 3 l).laneLive 3 = true ∧ ((sLane 3 l).lane 3).chk ≠ 0) := by
  and_intros <;> decide +kernel

/-- LANE_CONFIG parameters. -/
def pLane (n mode rate fl : Nat) : List Byte :=
  leBytes 2 n ++ leBytes 1 mode ++ leBytes 1 rate ++ leBytes 1 fl ++ leBytes 1 0 ++ leBytes 1 160 ++ leBytes 1 96 ++ leBytes 2 60 ++ leBytes 1 90 ++ zeros 5
theorem wit_LaneCommands :
    (Ready layLaneConfig row (waits sAtt1 { cmdOf 0x0401 16 (pLane 3 1 1 3) with fn := 1 }) { cmdOf 0x0401 16 (pLane 3 1 1 3) with fn := 1 }
      ∧ sAtt1.mayLane 1 3 = false)
    ∧ (let s := sLane 256 (lUp true 9)
       let s := { s with clu := { s.clu with ports := [(0, false)] } }
       Ready layLaneConfig row (waits s (cmdOf 0x0401 16 (pLane 256 4 0x20 1))) (cmdOf 0x0401 16 (pLane 256 4 0x20 1)) ∧ s.portEnabled 0 = true)
    ∧ (let s := sLane 0 { lUp false 9 with cfg := { LaneCfg.reset with mode := 2, rate := 0x13, txEn := true, rxEn := true } }
       Ready layLaneConfig row (waits s (cmdOf 0x0401 16 (pLane 1 2 0x11 3))) (cmdOf 0x0401 16 (pLane 1 2 0x11 3))
         ∧ s.mayLane 0 1 = true ∧ s.laneServes 1 = false ∧ s.pllClash 1 0x11 = true)
    ∧ (let s := sLane 3 (lUp false 9)
       let p := pLane 3 1 1 3
       Ready layLaneConfig row (waits s (cmdOf 0x0401 16 p)) (cmdOf 0x0401 16 p) ∧ s.mayLane 0 3 = true ∧ laneCfgOf p ≠ (s.lane 3).cfg
         ∧ (s.lane 3).cfg.mode = (laneCfgOf p).mode ∧ (s.lane 3).cfg.rate = (laneCfgOf p).rate ∧ s.pllClash 3 1 = false)
    ∧ (let p := pLane 3 1 1 3
       Ready layLaneConfig row (waits sServ (cmdOf 0x0401 16 p)) (cmdOf 0x0401 16 p) ∧ sServ.mayLane 0 3 = true ∧ sServ.laneServes 3 = false
         ∧ sServ.pllClash 3 1 = false ∧ (sServ.lane 3).cfg.mode ≠ (laneCfgOf p).mode)
    ∧ (let fl := { cmdOf 0x0402 16 (leBytes 2 3 ++ zeros 14) with fn := 1 }
       Ready layLaneStatus row (waits sAtt1 fl) fl ∧ sAtt1.mayLane 1 3 = false)
    ∧ (∀ p ∈ [leBytes 2 3 ++ zeros 14, leBytes 2 3 ++ leBytes 1 1 ++ zeros 1 ++ leBytes 4 128 ++ leBytes 8 0x1000],
        Ready layLaneStatus row (waits sServ (cmdOf 0x0402 16 p)) (cmdOf 0x0402 16 p))
    ∧ (let s := sLane 0 { Lane.reset with cfg := { LaneCfg.reset with mode := 1, rate := 1, listen := true, rxEn := true } }
       let p := leBytes 2 0 ++ leBytes 1 1 ++ zeros 5
       Ready layLoopbackSet row (waits s (cmdOf 0x0A08 8 p)) (cmdOf 0x0A08 8 p) ∧ s.mayLane 0 0 = true ∧ s.testBarred 0 = true)
    ∧ (let p := leBytes 2 3 ++ leBytes 1 1 ++ zeros 5
       Ready layLoopbackSet row (waits sServ (cmdOf 0x0A08 8 p)) (cmdOf 0x0A08 8 p) ∧ sServ.mayLane 0 3 = true ∧ sServ.testBarred 3 = false
         ∧ (sServ.lane 3).loop ≠ 1)
    ∧ (let p := leBytes 2 3 ++ zeros 6
       let s := sLane 3 { lUp false 14 with loop := 1 }
       Ready layLoopbackSet row (waits s (cmdOf 0x0A08 8 p)) (cmdOf 0x0A08 8 p) ∧ s.mayLane 0 3 = true ∧ (s.lane 3).stage = 14 ∧ (s.lane 3).loop ≠ 0) := by
  and_intros <;> decide +kernel


theorem wit_TlfBlocks : (∀ b ∈ [fawBlk, 2 ^ 65 - 1], b < 2 ^ 65) ∧ (List.replicate 63 0 : List Nat).length = 63 ∧ (3 : Nat) < 64
    ∧ (zeros 1024).length = 512 * 2 ∧ ((sLane 3 (lUp false 9)).lane 3).cfg.rate ∈ [1, 2, 3] ∧ (-8 : Int) ≤ -8
    ∧ ([1, 2, 3] : List Nat).length = 3 ∧ 128 ≤ (List.replicate 128 0 : List Nat).length := by and_intros <;> decide +kernel

/-- A monitored object: second `sec`, a history, availability, counts. -/
def pmOf (sec : Nat) (hist : List PmSec) (unavail : Bool) (es ses uas : Nat) : Pm :=
  { Pm.reset.startAt sec with hist := hist, unavail := unavail, quarter := { (Pm.reset.startAt sec).quarter with es := es, ses := ses, uas := uas } }
def secs (n : Nat) (ses : Bool) : List PmSec := (List.range n).map fun i => ⟨109 - i, ses, ses⟩
theorem wit_Monitoring :
    (∀ p ∈ [pmOf 110 [] false 0 0 0, { pmOf 110 (secs 9 true) false 10 9 0 with severe := true }, pmOf 110 (secs 9 true) true 1 0 10,
        pmOf 110 (secs 9 false) true 1 0 16],
      p.cur.start = 110 ∧ p.quarter.start / 900 = 110 / 900 ∧ p.day.start / 86400 = 110 / 86400 ∧ (110 + 1) % 900 ≠ 0
        ∧ ∀ x ∈ p.hist, x.sec < 110 ∧ x.sec / 900 = 110 / 900 ∧ (x.ses = true → x.es = true))
    ∧ (∀ x ∈ (secs 9 true).take 9, x.ses = true) ∧ (∀ x ∈ (secs 9 false).take 9, x.ses = false) := by and_intros <;> decide +kernel

/-- Lane 3 in MODE 1 with a framer, and SERVICE with that lane's TLF side and a protection group 0 of lanes 3 and 4. -/
def sTlf (stage : Nat) (x : TlfLane) : State := (sLane 3 (lUp false stage)).modTlf 3 fun _ => x
def fHunt (cs : List Cand) : TlfLane := { TlfLane.reset with framer := { Framer.reset with cands := cs } }
def fSync (errs : Nat) : TlfLane := { TlfLane.reset with framer := ⟨true, [], 100, 5, 0, errs⟩ }
def defOf (raw set_ : Bool) : Defect := ⟨raw, 0, set_⟩
def grp0 : ApsGroup := ⟨3, 4, false, true, 0, 0, 0, false, false, none, false, 0, none, none, false, 0⟩
def sGrp (g : ApsGroup) (x : TlfLane) : State :=
  let s := sTlf 9 x
  { s with line := { s.line with groups := [(0, g)] } }
theorem wit_LineEvents :
    (∀ c ∈ [⟨100, 5, 2⟩, ⟨100, 5, 1⟩], let s := sTlf 8 (fHunt [c])
      s.laneLive 3 = true ∧ s.isTlf 3 = true ∧ (s.lane 3).stage = 8 ∧ (s.tlf 3).framer.sync = false
        ∧ (s.tlf 3).framer.cands.find? (fun c => c.pos == 100) = some c ∧ (s.tlf 3).framer.cands.find? (fun c => c.pos == 101) = none
        ∧ (s.tlf 3).framer.cands.length < 4 ∧ 6 = (c.fn + 1) % 80)
    ∧ (∀ e ∈ [0, 2, 3], let s := sTlf 9 (fSync e)
      s.laneLive 3 = true ∧ s.isTlf 3 = true ∧ (s.lane 3).stage = 9 ∧ (s.tlf 3).framer.sync = true ∧ (s.tlf 3).framer.pos = 100
        ∧ s.laneGroup 3 = none)
    ∧ (let s := (sTlf 9 (fSync 0)).modLane 3 fun l => { l with traffic := true }
       s.txRuns 3 = true ∧ s.pow.mode ≠ .fault ∧ (s.tlf 3).mc = false ∧ s.laneGroup 3 = none)
    ∧ (let s := (sGrp grp0 (fSync 0)).modLane 3 fun l => { l with traffic := true }
       s.txRuns 3 = true ∧ s.laneGroup 3 = some (0, grp0) ∧ grp0.work = 3 ∧ grp0.prot ≠ 3 ∧ (s.lane 3).stage ≠ 14)
    ∧ (let s := (sGrp grp0 (fSync 0)).modLane 3 fun l => { l with traffic := true, stage := 14, chk := 1 }
       s.txRuns 3 = true ∧ s.laneGroup 3 = some (0, grp0) ∧ (s.lane 3).stage = 14)
    ∧ (∀ on, ∀ d < 4, let x := { fSync 0 with defects := List.replicate 4 (defOf on (!on)), times := List.replicate 10 0 }
      x.blind = (!on : Bool) ∧ (x.defects.getD d Defect.none_).due on (x.times.getD (2 * d + b2n (!on)) 0) 0 = true)
    ∧ (let x := { fSync 0 with defects := [defOf false false, defOf false false, defOf false false, defOf false true], times := List.replicate 10 0 }
       x.blind = false ∧ (x.defects.getD 3 Defect.none_).due false 0 0 = true)
    ∧ ((TlfLane.reset.defects.getD 2 Defect.none_).due true 5 0 = false)
    ∧ (∀ on, ∀ d < 2, let s := sTlf 9 { fSync 0 with times := List.replicate 10 0 }
      let tr := { trailOf (zeros 4 ++ leBytes 2 3) with defects := [⟨on, 0, !on⟩, ⟨on, 0, !on⟩] }
      let s := { s with line := { s.line with trails := [(7, tr)] }, time := { s.time with frc := 614400 } }
      s.line.trails.find? 7 = some tr ∧ tr.tx = false ∧ (s.tlf (s.member? tr.lane)).blind = false
        ∧ (tr.defects.getD d Defect.none_).due on (if d = 0 then 5 else 0) s.time.frc = true)
    ∧ (let s := sGrp grp0 { fSync 0 with defects := [defOf true true], sfSince := some 0 }
       s.laneGroup 3 = some (0, grp0) ∧ (s.tlf 3).sfSince = some 0 ∧ (s.tlf 3).sf = true ∧ 0 + msToFrc (100 * grp0.holdOff) ≤ s.time.frc)
    ∧ (let g := { grp0 with target := some (1, 0xB), wtr := some 0, mismatch := some 0 }
       let s := { sGrp g (fSync 0) with time := { TimeSt.reset with frc := 983040000 } }
       s.line.groups.find? 0 = some g ∧ 0 + msToFrc (1000 * g.wtrS) ≤ s.time.frc ∧ g.uni = false
         ∧ g.mismatch.any (fun f => f + msToFrc 50 ≤ s.time.frc) = true)
    ∧ (let s := sTlf 9 { fSync 0 with pend := some ⟨0, 0, 1⟩, copying := some 1 }
       (s.tlf 3).pend = some ⟨0, 0, 1⟩ ∧ fawNominal (s.tlf 3).txOffset 0 0 ≤ s.thetaNow ∧ (s.tlf 3).copying = some 1) := by and_intros <;> decide +kernel

/-- A state and a command of PLEN bytes as function 0's. -/
def wrdy (lay : Layout) (op : Nat) (p : List Byte) (s : State) : Bool :=
  decide (Ready lay row (waits s (cmdOf op p.length p)) (cmdOf op p.length p))
def pTrail (action first : Nat) : List Byte :=
  leBytes 1 0 ++ leBytes 1 action ++ leBytes 2 7 ++ leBytes 2 3 ++ leBytes 1 0 ++ leBytes 1 0x80 ++ leBytes 2 first ++ leBytes 2 2 ++ zeros 36
def pPage (action mfn : Nat) : List Byte := leBytes 1 action ++ zeros 1 ++ leBytes 2 mfn ++ zeros 4 ++ leBytes 16 8
theorem wit_LineCommands :
    (let s := sTlf 9 (fSync 0)
     wrdy layTrailConfig 0x0403 (pTrail 0 0) s = true ∧ wrdy layTrailConfig 0x0403 (pTrail 1 69) s = true ∧ s.ownsTrail 0 7 = true
       ∧ s.ownsLane 0 3 = true ∧ s.isTlf 3 = true ∧ s.isProt 3 = false ∧ 69 + 2 ≤ s.slotsOf 3 ∧ s.line.trails.find? 7 = none
       ∧ wrdy layTrailConfig 0x0403 (leBytes 1 1 ++ leBytes 1 1 ++ leBytes 2 3 ++ zeros 4 ++ (List.range 10).flatMap (fun _ => leBytes 2 8) ++ zeros 20) s = true
       ∧ wrdy layTrailConfig 0x0403 (leBytes 1 2 ++ leBytes 1 1 ++ leBytes 2 3 ++ leBytes 1 1 ++ zeros 1 ++ leBytes 2 900 ++ zeros 40) s = true)
    ∧ (let tr := { trailOf (pTrail 1 0) with tx := true }
       let s := sTlf 9 { fSync 0 with active := [(0, 3 * 2 ^ 30 + 7)] }
       let s := { s with line := { s.line with trails := [(7, tr)] } }
       wrdy layTrailConfig 0x0403 (pTrail 0 0) s = true ∧ s.line.trails.find? 7 = some tr ∧ s.trailInUse 7 tr = true)
    ∧ (∀ sealed_, let s := sTlf 9 { fSync 0 with sealed := sealed_ }
       let p := leBytes 2 3 ++ leBytes 2 70 ++ leBytes 2 1 ++ zeros 2 ++ leBytes 4 (2 ^ 30)
       Ready layTsiPageWrite (row p) (waits s (cmdExt 0x0404 12)) (cmdExt 0x0404 12) ∧ s.isTlf 3 = true ∧ 70 + 1 ≤ s.slotsOf 3 ∧ s.ownsLane 0 3 = true)
    ∧ (∀ a < 2, wrdy layTsiPageSeal 0x0405 (pPage a 0) (sTlf 9 (fSync 0)) = true) ∧ maskLanes (pPage 0 0) = [3]
    ∧ wrdy layTsiPageSeal 0x0405 (pPage 0 0) sServ = true ∧ sServ.isTlf 3 = false
    ∧ ((sTlf 9 (fSync 0)).sealFail 0 [3] = none ∧ (sTlf 9 { fSync 0 with standby := [(5, 3 * 2 ^ 30 + 7)] }).sealFail 0 [3] = some (3, 5, .badParam))
    ∧ (∀ a < 2, ∀ sealed_, ∀ pend ∈ [none, some ⟨1, 1, 9⟩], let s := sTlf 9 { fSync 0 with sealed := sealed_, pend := pend }
       wrdy layTsiPageSwitch 0x0406 (pPage a 1023) s = true ∧ s.ownsLane 0 3 = true ∧ s.isTlf 3 = true)
    ∧ (fawNominal 0 0 0 < sServ.thetaNow + 1000000 * nsUnit)
    ∧ (∀ c ∈ [0, 1, 4], let s := sGrp { grp0 with cmd := 2 } (fSync 0)
       wrdy layApsConfig 0x0407 (leBytes 1 0 ++ leBytes 1 2 ++ zeros 5 ++ leBytes 1 c ++ zeros 8) s = true ∧ s.ownsLane 0 3 = true)
    ∧ cmdCode 4 < { grp0 with cmd := 2 }.localReq ∧ { grp0 with cmd := 2 }.localReq ≤ cmdCode 1
    ∧ wrdy layApsConfig 0x0407 (zeros 16) (sGrp grp0 (fSync 0)) = true
    ∧ (wrdy layPmRead 0x0408 (leBytes 1 1 ++ leBytes 1 2 ++ leBytes 2 3 ++ leBytes 2 96 ++ zeros 14) sServ = true ∧ sServ.ownsLane 0 3 = true)
    ∧ (let fl := { cmdOf 0x0408 20 (leBytes 1 1 ++ zeros 1 ++ leBytes 2 3 ++ zeros 16) with fn := 1 }
       Ready layPmRead row (waits sAtt1 fl) fl ∧ sAtt1.ownsLane 1 3 = false) := by and_intros <;> decide +kernel


def streamX : FhStream := { (default : FhStream) with
  port := 0, width := 9, prbCount := 273, cell := 17, area := regBase 13, prbStride := 273, ring := 1, section_ := 1, entries := 1, winEnd := 0 }
def portX : EthPort := { (default : EthPort) with
  ptype := 2, lane := 0, maxFrame := 1522, mac := leBytes 6 1, up := true, rings := true, txEntries := 2, txRing := 0x1000 }
theorem wit_SymbolFrames : (∀ p ∈ List.replicate 273 (zeros 28), p.length = prbBytes 9) ∧ 0 < min 255 ((1522 - 22 - 16) / prbBytes 9)
    ∧ (List.replicate 273 (zeros 28)).length < 274 ∧ (List.replicate 273 (zeros 28)).length = streamX.prbCount := by and_intros <;> decide +kernel

/-- Cell 17 in SERVICE with a timeline, port 0 up, and streams. -/
def sEth (e : EthPort) (xs : Tab FhStream) : State := { sPlan with line := { sPlan.line with ports := [(0, e)], streams := xs } }
/-- An untagged frame of an Ethertype to an address. -/
def frameOf (da et : Nat) : List Byte := leBytes 6 da ++ zeros 6 ++ beBytes 2 et ++ zeros 46
def envOk : EthEnv := ⟨true, 0, 0, [], 0, false⟩
theorem wit_EthernetEvents :
    (let s := sEth portX []
     s.stopped = false ∧ s.line.ports.find? 0 = some portX ∧ s.portRuns 0 = true)
    ∧ (60 ≤ (frameOf 1 0).length ∧ (frameOf 1 0).length + 4 ≤ portX.maxFrame ∧ (zeros 59).length < 60)
    ∧ (∀ et ∈ [0x8808, 0x88E5, 0x888E], befld (frameOf 1 et) 12 2 = et)
    ∧ (befld (frameOf 2 0x0800) 12 2 ∉ [0x8808, 0x888E] ∧ (frameOf 2 0x0800).take 6 ≠ portX.mac ∧ (frameOf 2 0x0800).take 6 ≠ List.replicate 6 255
        ∧ portX.validate ≠ 2 ∧ portX.ptpMcast = false ∧ portX.macsec = false)
    ∧ ((frameOf 1 0xAEFE).take 6 = portX.mac ∧ (etherType (frameOf 1 0xAEFE)).1 = 0xAEFE ∧ befld (frameOf 1 0xAEFE) 15 1 = 0)
    ∧ ((etherType (frameOf 1 0x88B5)).1 = 0x88B5 ∧ portX.etype = 0 ∧ (isPtp (frameOf 1 0x88F7) 0x88F7 14 || portX.hostRx) = true
        ∧ (isPtp (frameOf 1 0x1234) 0x1234 14 || portX.hostRx) = false)
    ∧ (let s := (sEth portX []).rxReady 0
       s.line.ports.find? 0 = some portX ∧ s.ringOk 0 0x1000 32 false = true ∧ bit (fld (zeros 10 ++ leBytes 2 1) 10 2) 0 = true)
    ∧ (∀ f ∈ [frameOf 1 0x0800, frameOf 1 0xAEFE], let e := { portX with txDesc := some (zeros 8 ++ leBytes 2 60 ++ leBytes 2 1 ++ zeros 20) }
       (sEth e []).portRuns 0 = true ∧ (sEth e []).ringOk 0 0 60 false = true ∧ txRefused e (fit 60 f) = (f == frameOf 1 0xAEFE))
    ∧ (let s := sEth portX [(4096, streamX)]
       let s := { s with line := { s.line with recs := [(regBase 13, none)] } }
       s.line.streams.find? 4096 = some streamX ∧ s.anchor? 17 = some ⟨1, 0, 0, 0, 0, 0⟩ ∧ s.l0Runs = true ∧ s.cellActs 17 = true
         ∧ tpValid 1 0 = true ∧ nominal 0 (tpFrame ⟨1, 0, 0, 0, 0, 0⟩ s.thetaNow 0) (symOff 1 0 0) - streamX.advance * nsUnit ≤ s.thetaNow
         ∧ ((List.range 273).map fun i => recordAddr (regBase 13) 1 273 0 0 i).any s.lineReady = true)
    ∧ (∀ slot ∈ [zeros 0, leBytes 2 1001, leBytes 2 8 ++ zeros 11 ++ leBytes 1 7, leBytes 2 8], let s := sEth portX [(8192, streamX)]
       let s := if slot = [] then s else { s with mem := { s.mem with mem := (Tab.putBytes [] (regBase 13) (leBytes 4 1)).putBytes (regBase 13 + 64) slot } }
       s.line.streams.find? 8192 = some streamX ∧ (leNat (s.bytesAt (regBase 13) 4) = 0 ↔ slot = []) ∧ s.poisonIn (regBase 13 + 64) 1024 = false
         ∧ streamX.entries ≠ 0)
    ∧ (let s := sEth portX [(0, { streamX with winEnd := -500000 })]
       s.line.streams.find? 0 = some { streamX with winEnd := -500000 } ∧ nominal 0 (tpFrame ⟨1, 0, 0, 0, 0, 0⟩ s.thetaNow 0) (symOff 1 0 13) + (-500000 : Int) * nsUnit ≤ s.thetaNow)
    ∧ (∀ tr ∈ [0, 16], ∀ path ∈ [1, 2], let s := sEth portX []
       let m : Member := { (default : Member) with path := path }
       let s := { s with clu := { s.clu with members := [(2, m)] }, time := { s.time with frc := 983040 } }
       let s := s.modPeerTx 8 fun x => { x with unacked := [(0, [])], tries := tr }
       s.clu.members.find? 2 = some m ∧ (s.peerTx 8).unacked ≠ [] ∧ (s.peerTx 8).lost = false ∧ (s.peerTx 8).tries = tr
         ∧ (s.peerTx 8).progress + usToFrc 50 ≤ s.time.frc ∧ s.keepDue 2 m = true
         ∧ s.time.frc < { m with sent := 983040 }.sent + usToFrc 100 ∧ s.clu.migs = []) := by and_intros <;> decide +kernel

/-- ETH_PORT_CONFIG and FH_STREAM_CONFIG parameters; a state whose lane 0 is an Ethernet lane at 25 Gb/s. -/
def pPort (action maxFrame : Nat) : List Byte :=
  leBytes 1 0 ++ leBytes 1 action ++ leBytes 1 2 ++ leBytes 1 1 ++ leBytes 2 0 ++ leBytes 2 maxFrame ++ zeros 24 ++ leBytes 4 (if action = 2 then 128 else 0) ++ zeros 12
def pStream (action dir area : Nat) : List Byte :=
  leBytes 2 5 ++ leBytes 1 action ++ leBytes 1 dir ++ leBytes 1 0 ++ leBytes 1 9 ++ zeros 12 ++ leBytes 2 17 ++ leBytes 1 0 ++ leBytes 1 1 ++ leBytes 2 0 ++ leBytes 2 273
    ++ leBytes 2 273 ++ zeros 4 ++ leBytes 8 area ++ zeros 16 ++ leBytes 4 1 ++ zeros 4
def sEthLane (ports : Tab EthPort) (xs : Tab FhStream) (st : CellState) : State :=
  let s := sServ.modLane 0 fun l => { l with cfg := { LaneCfg.reset with mode := 2, rate := 0x12, txEn := true, rxEn := true } }
  { s with line := { s.line with ports := ports, streams := xs }, cells := [(17, ⟨st, 2, 0, 273, 4, 4, 4, 4, 13, 0, 1, false, false⟩)] }
theorem wit_EthernetCommands :
    (let s := sEthLane [] [] .hibernated
     wrdy layEthPort 0x0409 (pPort 1 1522) s = true ∧ wrdy layEthPort 0x0409 (pPort 1 63) s = true ∧ wrdy layEthPort 0x0409 (pPort 0 0) s = true
       ∧ s.portFits 0 (portOf 0 (pPort 1 1522)) = true ∧ s.portFits 0 (portOf 0 (pPort 1 63)) = false ∧ s.ownsMac 0 0 = true
       ∧ (portOf 0 (pPort 1 1522)).lanes.all (s.ownsLane 0) = true ∧ s.portRoom 0 (portOf 0 (pPort 1 1522)) = true)
    ∧ (let s := sEthLane [(0, portX)] [(5, streamX)] .hibernated
       wrdy layEthPort 0x0409 (pPort 0 0) s = true ∧ s.line.ports.has 0 = true ∧ (s.line.streams.some? fun _ x => x.port == 0) = true
         ∧ wrdy layEthPort 0x0409 (pPort 2 0) s = true)
    ∧ (let fl := { cmdOf 0x0409 48 (pPort 0 0) with fn := 1 }
       Ready layEthPort row (waits sAtt1 fl) fl ∧ sAtt1.ownsMac 1 0 = false)
    ∧ (∀ a < 3, ∀ d < 2, ∀ area ∈ [0, regBase 13], Ready layFhStream (row (pStream a d area)) (waits sServ (cmdExt 0x040B 64)) (cmdExt 0x040B 64))
    ∧ (∀ st ∈ [CellState.hibernated, CellState.service], let s := sEthLane [(0, portX)] [] st
       s.streamFits 1 (streamOf (pStream 1 1 (regBase 13))) = true ∧ s.streamFits 1 (streamOf (pStream 1 1 0)) = false ∧ s.ownsCell 0 17 = true
         ∧ s.cellLive 17 = (st == .service) ∧ s.line.streams.find? 4101 = none)
    ∧ (∀ st ∈ [CellState.hibernated, CellState.service], (sEthLane [(0, portX)] [(4101, streamX)] st).line.streams.find? 4101 = some streamX)
    ∧ (let sa : MacSa := ⟨0, true, 0, 0, true, false, zeros 8, 1, 0, zeros 12, zeros 32, false, false⟩
       let p := fun a d => leBytes 1 0 ++ leBytes 1 a ++ leBytes 1 d ++ zeros 93
       let s := sEthLane [(0, { portX with txAn := some 0 })] [] .hibernated
       (∀ a < 3, ∀ d < 2, Ready layMacsec (row (p a d)) (waits s (cmdExt 0x040A 96)) (cmdExt 0x040A 96)) ∧ s.ownsMac 0 0 = true
         ∧ saNamed (p 2 1) sa = true ∧ s.line.sas.find? (saNamed (p 1 1)) = none ∧ (s.line.ports.find? 0).any (fun e => e.txAn == some 0) = true
         ∧ (List.replicate 512 { sa with port := 1 }).find? (saNamed (p 1 1)) = none)
    ∧ (let s := { sServ with dome := { sServ.dome with keks := [(0, zeros 32)] } }
       s.dome.keks.find? (s.macOwner 0) = some (zeros 32)) := by and_intros <;> decide +kernel


/-- Device 5 of a cluster with members 2 (peer port 0, one hop) and 3 (Ethernet), and a join block for it. -/
def memb (path : Nat) : Member := { (default : Member) with path := path, hops := 1, up := true, summary := ⟨0xFFFF, [(12, 10)], [(12, 10)], []⟩ }
def sClu (c : Cluster → Cluster := id) : State :=
  (sPlan.modClu fun x => c { x with id := 9, device := 5, root := 2, parent := 2, accept := true, dispatch := true, types := 0xFFFF, members := [(2, memb 1), (3, memb 2), (5, memb 0)] })
def pJoin (dev root : Nat) : List Byte :=
  leBytes 4 9 ++ leBytes 2 dev ++ leBytes 2 root ++ leBytes 2 root ++ leBytes 1 0 ++ leBytes 1 3 ++ leBytes 2 0 ++ zeros 2 ++ leBytes 4 0 ++ leBytes 2 1 ++ leBytes 2 0 ++ zeros 8
    ++ leBytes 2 dev ++ zeros 14
def pJoin2 : List Byte := pJoin 5 2 ++ leBytes 2 2 ++ leBytes 1 2 ++ leBytes 1 0 ++ zeros 12
def pLeave (q : Bool) : List Byte := leBytes 1 1 ++ zeros 9 ++ leBytes 1 (b2n q) ++ zeros 21
def jcmd (buf : List Byte) (s : State) : Bool := decide (Ready layClusterJoin (row buf) (waits s (cmdExt 0x0501 buf.length)) (cmdExt 0x0501 buf.length))
theorem wit_ClusterMembers :
    (jcmd (pJoin 5 5) sServ = true ∧ sServ.member = false ∧ sServ.time.anchors = [] ∧ (joinBad (pJoin 5 5) || sServ.tableBad (pJoin 5 5)) = false
      ∧ jcmd (pJoin 5 2) sServ = true ∧ (joinBad (pJoin 5 2) || sServ.tableBad (pJoin 5 2)) = true ∧ jcmd (pJoin 5 5) sClu = true ∧ sClu.member = true
      ∧ jcmd (pJoin 5 2) sPlan = true ∧ sPlan.time.anchors ≠ [])
    ∧ (let b := (pJoin 5 2).set 20 2 ++ leBytes 2 2 ++ leBytes 1 2 ++ leBytes 1 0 ++ zeros 12
       let s : State := { sServ with line := { sServ.line with ports := [(0, { (default : EthPort) with ptype := 3, peer := true })] } }
       jcmd b s = true ∧ (joinBad b || s.tableBad b) = false)
    ∧ (let b := (pJoin 5 5).set 10 1; jcmd b sServ = true ∧ fld b 10 1 = 1)
    ∧ (let s := (sClu fun c => { c with joining := some ([], 0) }).advance 98304000; s.stopped = false ∧ s.clu.joining = some ([], 0) ∧ 0 + msToFrc 100 ≤ s.time.frc)
    ∧ (∀ x ∈ [sServ, sClu, sClu fun c => { c with leaving := some 0 }], wrdy layClusterLeave 0x0502 (zeros 4) x = true)
    ∧ (let s := sClu; s.migrating = false ∧ (s.car.tasks.some? fun _ t => t.remote) = false)
    ∧ (let s := { sClu with car := { sClu.car with tasks := [(3, { tFft with peer := some 2, st := .running })] } }
       wrdy layClusterLeave 0x0502 (zeros 4) s = true ∧ (s.car.tasks.some? fun _ t => t.remote) = true ∧ s.task? 3 = some { tFft with peer := some 2, st := .running } ∧ s.stopped = false)
    ∧ (let s := (sClu fun c => { c with leaving := some 0 }).advance 98304000; s.stopped = false ∧ s.clu.leaving = some 0 ∧ 0 + msToFrc 100 ≤ s.time.frc)
    ∧ (∀ en < 2, wrdy layPeerPort 0x0503 (leBytes 1 0 ++ leBytes 1 en ++ zeros 2) sServ = true)
    ∧ (let s := sLane 256 (lUp true 9); wrdy layPeerPort 0x0503 (leBytes 1 0 ++ leBytes 1 1 ++ zeros 2) s = true ∧ (s.lane 256).cfg.mode = 4
        ∧ (sServ.lane 256).cfg.mode ≠ 4)
    ∧ ((sClu.clu.members.some? fun _ m => m.path == 1 && m.port == 0) = true ∧ (sServ.clu.members.some? fun _ m => m.path == 1 && m.port == 0) = false
        ∧ wrdy layPeerPort 0x0503 (zeros 4) sClu = true)
    ∧ ((sClu.heardFrom 2 0).clu.members.find? 2 = some (memb 1) ∧ 2 ≠ (sClu.heardFrom 2 0).deviceId ∧ sClu.stopped = false)
    ∧ ((memb 1).heard + usToFrc 200 ≤ (sClu.advance 196608).time.frc ∧ (memb 2).path = 2 ∧ sClu.time.frc < (memb 2).heard + usToFrc 200 ∧ (memb 2).up = true)
    ∧ (let r : MeshReq := { (default : MeshReq) with addr := regBase 13, len := 64 }
       ((sClu fun c => { c with exports := [(regBase 13, 65536)] }).clu.exports.any fun e => within r.addr r.len e.1 e.2) = true
         ∧ (sClu.clu.exports.any fun e => within r.addr r.len e.1 e.2) = false ∧ r.task = none)
    ∧ (let t := { tFft with st := .ready, remoteOk := true, kernel := 0, type := 10, cls := 1 }
       let s := { sClu with car := { sClu.car with tasks := [(3, t)] } }
       s.task? 3 = some t ∧ s.remoteOk t = true ∧ s.speculative t = false ∧ s.shadowHeld 3 t = false ∧ s.remoteTarget t = some (2, 12))
    ∧ (∀ l ∈ [Leave.no, .revoked], let t := { tFft with peer := some 2, st := .running, leave := l }
       t.engine = none ∧ { sClu with car := { sClu.car with tasks := [(3, t)] } }.task? 3 = some t)
    ∧ (sClu.clu.types.testBit (remoteTask (fit 64 nodeFft) 2 1 12 0 0).type = true ∧ enginesOf 12 (remoteTask (fit 64 nodeFft) 2 1 12 0 0).type ≠ [] ∧ sClu.car.tasks = [])
    ∧ (let t := { tFft with origin := some (2, 7) }
       let s := { sClu with car := { sClu.car with tasks := [(3, t)] } }
       (s.car.tasks.first fun _ tk => tk.origin == some (2, 7)) = some (3, t)) := by and_intros <;> decide +kernel

def pMig (role : Nat) : List Byte :=
  leBytes 4 1 ++ leBytes 1 role ++ zeros 1 ++ leBytes 2 17 ++ leBytes 2 4 ++ leBytes 2 2 ++ leBytes 2 100 ++ zeros 2 ++ leBytes 16 8
def mcmd (buf : List Byte) (s : State) : Bool := decide (Ready layMigrate (row buf) (waits s (cmdExt 0x0504 buf.length)) (cmdExt 0x0504 buf.length))
def sMig (x : TlfLane) (ms : Tab Mig) : State := (sClu fun c => { c with migs := ms }).modTlf 3 fun _ => x
def migOf (source : Bool) (st : MigStage) : Mig := ⟨source, 17, 4, 2, 100, 0, 8, [], st, 0, false, 0⟩
theorem wit_Migration :
    (let s := sMig { TlfLane.reset with sealed := true } []
     mcmd (pMig 0) s = true ∧ mcmd (pMig 1) s = true ∧ migLanes (pMig 0) = [3] ∧ s.migMay 0 (pMig 0) = true ∧ s.migMay 0 (pMig 1) = false ∧ migBad (pMig 0) = false
       ∧ migBad (leBytes 4 0 ++ (pMig 0).drop 4) = true ∧ s.anchor? 17 = some ⟨1, 0, 0, 0, 0, 0⟩ ∧ s.migFrame 17 100 = some 100 ∧ (s.tlf 3).sealed = true ∧ (s.tlf 3).pend = none
       ∧ (s.clu.migs.some? fun _ m => m.cell == 17) = false ∧ s.clu.migs.has 1 = false)
    ∧ (let s := sMig { TlfLane.reset with sealed := true, pend := some ⟨1, 1, 9⟩ } []; mcmd (pMig 0) s = true ∧ (s.tlf 3).pend ≠ none ∧ s.migMay 0 (pMig 0) = true)
    ∧ ((sClu.tlf 3).sealed = false ∧ mcmd (pMig 0) sClu = true ∧ sClu.migMay 0 (pMig 0) = true)
    ∧ (∀ st ∈ [MigStage.ready, .committed], let s := sMig TlfLane.reset [(1, migOf true st)]
       mcmd (pMig 2) s = true ∧ s.mig? 1 = some (migOf true st) ∧ (migOf true st).past = (st == .committed) ∧ s.ownsCell 0 17 = true ∧ s.stopped = false)
    ∧ (∀ us ∈ [0, 1000, 1500, 5000], (sMig TlfLane.reset []).migAt (migOf true .ready) us = true)
    ∧ (∀ us ∈ [1000, 2000, 5000], (sMig TlfLane.reset []).migAt { migOf true .ready with k := 100 } us = false)
    ∧ ((maskBits (migOf false .copying).lanes 128).all (fun n => ((sMig { TlfLane.reset with sealed := true } []).tlf n).sealed) = true)
    ∧ (let s := sMig TlfLane.reset [(1, migOf true .switched)]
       (s.car.tasks.some? fun _ tk => tk.cell == 17 && tk.origin.isNone) = false)
    ∧ (let s := { sMig TlfLane.reset [(1, migOf true .switched)] with car := { sPlan.car with tasks := [(3, tFft)] } }
       (s.car.tasks.some? fun _ tk => tk.cell == 17 && tk.origin.isNone) = true ∧ s.mig? 1 = some (migOf true .switched)) := by and_intros <;> decide +kernel


def mreq (cls len : Nat) : MeshReq := { (default : MeshReq) with cls := cls, len := len, addr := 0x1000, init := 3 }
def sNoc (f : Noc → Noc) : State := sServ.modNoc f
def fl1 (cls : Nat) (ans : Option Status) : MeshFl :=
  { req := mreq cls 64, peer := none, arrived := ans.isSome, ans := ans, lat := 0, path := [0, 1, 8, 14], back := [1, 1, 4, 0] }
def rt1 : List RouteEntry := [⟨0, 14, [2, 3, 3, 0], [3, 3, 2, 0]⟩, ⟨4, 3, [2, 2, 0], []⟩, ⟨4, 14, [3, 3, 0], []⟩, ⟨4, 17, [2, 3, 0], []⟩]
/-- The routes of the worked example of chapter 14: M0 refuses the primary while it drains. -/
theorem test_routes : routeFrom (fun _ => false) 0 [2, 3, 3, 0] = ⟨[0, 1, 8, 14], [1, 1, 4, 0], some 14⟩
    ∧ routeFrom (· == 8) 0 [2, 3, 3, 0] = ⟨[0, 1], [4, 0], none⟩ ∧ (routeFrom (· == 8) 0 [3, 3, 2, 0]).done = some 14
    ∧ legalRoute (fun _ => false) 0 14 [3, 3, 2, 0] = true ∧ legalRoute (fun _ => false) 13 0 [1, 4, 4, 0] = false
    ∧ (routeFrom (fun _ => false) 0 [7]).done = none ∧ (routeFrom (fun _ => false) 8 [5, 0]).done = some 13 := by and_intros <;> decide +kernel
theorem wit_room (w : MeshWait) (h : w.req.len ≤ 4096) : w.req.respUnits ≤ Config.meshRespExtra w.req.blk + 65 := by
  unfold MeshReq.respUnits; split <;> omega
theorem wit_Network :
    (sServ.stopped = false ∧ (∀ c < 4, (sServ.injected (mreq c 257)).cls = c ∧ (sServ.injected (mreq c 257)).init = 3 ∧ unitThere 0 3 = true ∧ (mreq c 257).fits = true
      ∧ sServ.meshFind 0 3 c 0 = none) ∧ sServ.noc.waiting = [])
    ∧ (∀ st ∈ [Status.success, .busError], let s := sNoc fun n => { n with flights := [fl1 0 (some st)] }
       s.stopped = false ∧ s.meshFind 0 3 0 0 = some (fl1 0 (some st)) ∧ (fl1 0 (some st)).ans = some st)
    ∧ (∀ t ∈ [983040, 983039], let s := (sNoc fun n => { n with flights := [fl1 0 none] }).advance t
       s.meshFind 0 3 0 0 = some (fl1 0 none) ∧ (fl1 0 none).ans = none ∧ (s.time.frc < 0 + usToFrc 1000 ↔ t = 983039))
    ∧ (∀ alt, let s := sNoc fun n => { n with routes := rt1, flights := [{ fl1 0 none with refused := true, onAlt := alt }] }
       s.meshFind 0 3 0 0 = some { fl1 0 none with refused := true, onAlt := alt } ∧ s.noc.alts.contains (0, 14) = false
         ∧ s.meshDest (s.real 0x1000) = 14 ∧ (s.noc.routes.any fun e => e.blk == 0 && e.dest == 14) = true)
    ∧ (∀ target ∈ [3, 14, 17], let u := ((sNoc fun n => { n with routes := rt1 }).modRegion 3 fun r => { r with st := .off }).photo 12 id
       (u.noc.rsvs.any fun x => x.same 4 target 1) = false ∧ (u.noc.grants.any fun x => x.same 4 target 1) = false ∧ u.noc.rsvs = []
         ∧ (u.walkTo 4 target).done.isSome = true ∧ (u.asleep target = true ↔ target = 3))
    ∧ (let x : Slots := ⟨4, 14, 1, 2, 0⟩
       let s := (sNoc fun n => { n with grants := [x], slots := [x] }).advance 9831
       s.stopped = false ∧ (s.noc.grants.find? fun x => x.same 4 14 1) = some x ∧ (s.noc.slots.find? fun x => x.same 4 14 1) = some x ∧ x.used + usToFrc 10 ≤ s.time.frc)
    ∧ ((sServ.advance 9830).time.frc < 0 + usToFrc 10)
    ∧ (∀ t ∈ [98304, 98303], let s := (sNoc fun n => { n with draining := [(2, 0)], enable := true }).advance t
       s.stopped = false ∧ s.noc.draining.find? 2 = some 0 ∧ s.routerEmpty 2 = true ∧ s.noc.enable = true ∧ (s.time.frc < 0 + usToFrc 100 ↔ t = 98303))
    ∧ (∀ k < 2, let w : MeshWait := ⟨mreq 0 64, none, []⟩
       let s := sNoc fun n => { n with waiting := [w], standing := if k = 0 then [] else [(14 * 64, 2)] }
       s.noc.waiting = [w] ∧ w.req.cls ≤ 3 ∧ (s.slotFor w.req = true ↔ k = 1) ∧ s.respUsed w.req.blk = 0 ∧ w.req.len ≤ 4096)
    ∧ (∀ d ∈ [[], [(8, 0)]], let s := sNoc fun n => { n with routes := rt1, draining := d }
       ((s.walkTo 0 (s.meshDest (s.real 0x1000))).done = none ↔ d ≠ []))
    ∧ (let s := sServ; let f := fl1 0 none
       s.peerOf f = none ∧ s.csrReq f = false ∧ s.access (s.meshWho f) 0x1000 64 false = .success
         ∧ s.access (s.meshWho { f with req := { f.req with addr := 0x101000000000 } }) 0x101000000000 64 false = .busError)
    ∧ wrdy layPhotometer 0x0A07 (leBytes 1 0 ++ leBytes 1 1 ++ zeros 6 ++ leBytes 4 1000 ++ zeros 20) sServ = true
    ∧ wrdy layPhotometer 0x0A07 (leBytes 1 1 ++ zeros 11 ++ leBytes 4 128 ++ zeros 16) sServ = true := by and_intros <;> decide +kernel

/-- A descriptor of one run of `n` bytes. -/
def desc1 (flags a b n : Nat) : List Byte := leBytes 6 a ++ leBytes 2 flags ++ leBytes 6 b ++ zeros 2 ++ leBytes 2 n ++ leBytes 2 1 ++ leBytes 2 1 ++ zeros 26
def sChan (f : DmaChan → DmaChan) : State := sServ.modChan (.bdma 0 2) f
def pSub (cls k mode : Nat) : List Byte := leBytes 1 0 ++ leBytes 1 0 ++ leBytes 1 k ++ leBytes 1 mode ++ zeros 4 ++ desc1 (4 * cls) 0x1000 0x2000 64
def sAtt1w : State := sAtt1.modFunc 1 fun f => { f with windows := [⟨0, 0x100000, true, true⟩] }
def dcmd (buf : List Byte) (s : State) (fn : Nat := 0) : Bool :=
  decide (Ready layDmaSubmit (row buf) (waits s { cmdExt 0x0B01 56 with fn := fn }) { cmdExt 0x0B01 56 with fn := fn })
theorem wit_DmaAndMemory :
    (dBad (desc1 0 0 0 0) false = true ∧ (dBad (desc1 0 0 64 65) false = false ∧ dShares (desc1 0 0 64 65) = true ∧ dOverlapOk (desc1 0 0 64 65) = false)
      ∧ (dShares (desc1 2 0 64 65) = true ∧ dOverlapOk (desc1 2 0 64 65) = true ∧ dContiguous (desc1 2 0 64 65) = true) ∧ dShares (desc1 0 0 64 64) = false
      ∧ (let d := (desc1 2 0 64 65).set 18 2; dBad d false = false ∧ dShares d = true ∧ dContiguous d = false))
    ∧ (chanCheck (.bdma 0 2) (desc1 0 0 64 64) = none ∧ chanCheck (.bdma 0 2) (desc1 0 0 0 0) = some .badParam ∧ (sServ.chan (.bdma 0 2)).cmd = none)
    ∧ ((uVde 0).vdeRuns 0).isSome = true ∧ (bankChans ((uVde 0).vde 0).inAlt).contains 0 = true ∧ (uVde 0).stopped = false
    ∧ (sServ.bdmaThere 0 2 = true ∧ sServ.bdmaThere 64 0 = false ∧ (0 + (zeros 48).length ≤ 48))
    ∧ (let s := sChan fun x => { x with active := desc1 0 0x1000 0x2000 64, busy := true, owner := 0 }
       let e : DmaEnv := ⟨[], false, .success, false⟩
       s.stopped = false ∧ (s.chan (.bdma 0 2)).busy = true ∧ ((s.othersShare (.bdma 0 2)).runXfer (.bdma 0 2) e).fail = none ∧ ((s.othersShare (.bdma 0 2)).runXfer (.bdma 0 2) e).late = none)
    ∧ (let s := sChan fun x => { x with active := desc1 0 0xC00000000 0x2000 64, busy := true, owner := 0 }
       ((s.othersShare (.bdma 0 2)).runXfer (.bdma 0 2) ⟨[], false, .success, false⟩).fail = some (.busError, 0xC00000000, true))
    ∧ (∀ arm, let s := sChan fun x => { x with arm := arm }; (s.chan (.bdma 0 2)).cmd = none ∧ (s.chan (.bdma 0 2)).cmdNext = none ∧ (s.chan (.bdma 0 2)).arm = arm)
    ∧ (dcmd (pSub 0 2 0) sAtt1w 1 = true ∧ dcmd (pSub 1 2 0) sServ = true
      ∧ (sAtt1.mayExtent 1 (dSrcExt (desc1 4 0x1000 0x2000 64)) false && sAtt1.mayExtent 1 (dDstExt (desc1 4 0x1000 0x2000 64)) true) = false
      ∧ sServ.mayExtent 0 (dSrcExt (desc1 4 0x1000 0x2000 64)) false = true ∧ sServ.mayExtent 0 (dDstExt (desc1 4 0x1000 0x2000 64)) true = true
      ∧ dcmd (pSub 1 255 1) sServ = true ∧ regBlocks 0 > 0 ∧ dBad (desc1 4 0x1000 0x2000 64) false = false ∧ dCheck (desc1 4 0x1000 0x2000 64) false = none
      ∧ sServ.asleep 0 = false ∧ (sServ.modRegion 0 fun r => { r with st := .nap }).asleep 0 = true)
    ∧ (∀ arm, ∀ mode ∈ [0, 1], let s := sChan fun x => { x with busy := true, arm := arm, owner := 0 }
       dcmd (pSub 1 2 mode) s = true ∧ (s.chan (.bdma 0 2)).busy = true ∧ (s.chan (.bdma 0 2)).arm = arm ∧ (s.chan (.bdma 0 2)).owner = 0)
    ∧ (let rs (n : Nat) : List PersRange := (List.range n).map fun i => ⟨0, 65536 * (i + 2), 65536⟩
       let q (a base len : Nat) : List Byte := leBytes 1 a ++ zeros 7 ++ leBytes 8 base ++ leBytes 8 len
       let s (n : Nat) : State := { sServ with mem := { sServ.mem with ranges := rs n } }
       (∀ a < 2, ∀ b ∈ [0, 131072, 0xC00000000], wrdy layRegionTableSet 0x0B02 (q a b 65536) (s 1) = true)
         ∧ (s 1).rangePlace 0 131072 65536 = true ∧ (s 1).rangePlace 0 0xC00000000 65536 = false ∧ ((rs 1).any fun r => overlaps 131072 65536 r.base r.len) = true
         ∧ ((rs 1).any fun r => overlaps 0 65536 r.base r.len) = false ∧ (s 1).rangeInUse 0 131072 65536 = false ∧ (rs 1024).length = 1024
         ∧ ((rs 1).any fun r => r.base == 131072 && r.len == 65536) = true)
    ∧ (∀ a < 2, ∀ x ∈ [0, 1, hbmCarillon], wrdy layPageRetire 0x0A02 (leBytes 1 a ++ zeros 7 ++ leBytes 8 x ++ zeros 8) sServ = true)
    ∧ (retireBase 0 0 = true ∧ retireBase 0 1 = false ∧ retireBarred 0 0 = false ∧ retireBase 0 hbmCarillon = true ∧ retireBarred 0 hbmCarillon = true)
    ∧ wrdy layPageRetire 0x0A02 (leBytes 1 2 ++ zeros 3 ++ leBytes 4 8 ++ zeros 8 ++ leBytes 8 0x1000) sServ = true
    ∧ (∀ a ∈ [0x2000, 0x100000000000000], wrdy layMemRead 0x0B03 (leBytes 8 a ++ leBytes 4 65 ++ zeros 4 ++ leBytes 8 0x1000) sServ = true)
    ∧ (sServ.mayName 0 0x2000 65 false true = true ∧ sServ.mayName 0 0x100000000000000 65 false true = false ∧ (spanAt 0x2000).place ≠ .host
      ∧ sServ.access (cmdWho 0 true) 0x2000 65 false = .success ∧ sServ.mayName 0 0x2000 64 true false = true ∧ sServ.access (cmdWho 0 false) 0x2000 64 true = .success)
    ∧ (∀ f < 2, ∀ fn < 2, let fl := { cmdExt 0x0B04 80 with fn := fn }
       Ready layMemWrite (row (leBytes 8 0x2000 ++ leBytes 4 64 ++ leBytes 1 f ++ zeros 3 ++ zeros 64)) (waits sAtt1w fl) fl)
    ∧ sServ.host.server = .melvi := by and_intros <;> decide +kernel

theorem wit_DmaCopies : let s := sChan fun x => { x with active := desc1 0 0x1001 0x2003 129, busy := true, owner := 0 }
    let s : State := { s with mem := { s.mem with mem := [(0x1001, 7), (0x2003, 9)] } }
    let ch := s.chan (.bdma 0 2)
    s.stopped = false ∧ ch.busy = true ∧ ch.arm = false ∧ ch.cmd = none ∧ ch.cmdNext = none ∧ ch.owner = 0 ∧ ch.moved = 0 ∧ ch.buf = [] ∧ (∀ j, j < 32 → j ≠ 2 → (s.chan (.bdma 0 j)).busy = false) ∧ dCount1 ch.active = 1 ∧ dCount2 ch.active = 1
    ∧ 0 < dRun ch.active ∧ dShares ch.active = false ∧ s.ownsHbm 0 0x1001 129 = true ∧ s.ownsHbm 0 0x2003 129 = true ∧ s.retiredIn 0x1001 129 = false
    ∧ s.retiredIn 0x2003 129 = false ∧ s.marksIn 0x1001 129 = [] ∧ s.marksIn 0x2003 129 = [] ∧ s.clu.migs = [] ∧ s.fault.lost = [] ∧ Memory.wf s.mem.mem
    ∧ dSrc ch.active = 0x1001 ∧ dDst ch.active = 0x2003 := by and_intros <;> decide +kernel


def regMask (m st hold : Nat) : List Byte := leBytes 2 m ++ leBytes 1 st ++ zeros 1 ++ leBytes 2 hold ++ zeros 2
def sReg (r : Nat) (f : Region → Region) : State := sServ.modRegion r f
def sleepOf (pend : List Nat) : SleepOp := ⟨8, .nap, false, 0, 7, pend, [], [], false, .service⟩
theorem wit_Power :
    wrdy layPerfLevelSet 0x0601 (leBytes 2 8 ++ leBytes 1 3 ++ zeros 5) sServ = true
    ∧ (∀ v ∈ [(1100 : Nat), 2624, 2600, 2570], let s := (({ sServ with fsc := { sServ.fsc with adc := { sServ.fsc.adc with therm := List.replicate 12 v } } } : State).modRegion 3
        fun g => { g with level := 2, lastStep := 0, throttleC := 100, coolAt := some 0 }).advance 983040
       s.asleep 3 = false ∧ s.dark = false ∧ (16 * ((s.region 3).throttleC : Int) < thermSixteenths (s.fsc.adc.therm.getD (sensorOf 3) 0) ↔ 2624 < v)
         ∧ (s.region 3).ceiling < (s.region 3).level ∧ (s.region 3).lastStep + msToFrc 1 ≤ s.time.frc ∧ (s.region 3).coolAt = some 0
         ∧ (thermSixteenths (s.fsc.adc.therm.getD (sensorOf 3) 0) + 48 ≤ 16 * ((s.region 3).throttleC : Int) ↔ v ≤ 2576))
    ∧ (16 * 100 < thermSixteenths 2625)
    ∧ (∀ st ∈ [RegState.active, .nap, .off], ∀ x ∈ [(1, 5), (2, 0), (3, 0)], wrdy layRegionSleep 0x0602 (regMask 8 x.1 x.2) (sReg 3 fun g => { g with st := st }) = true)
    ∧ maskRegions 8 = [3] ∧ (sReg 3 fun g => { g with st := .nap }).asleep 3 = true ∧ sServ.asleep 3 = false ∧ sServ.inSleep 3 = false ∧ (8 : Nat).testBit 13 = false
    ∧ (let s : State := { sServ with pow := { sServ.pow with sleeps := [sleepOf [12, 13]] } }
       s.inSleep 3 = true ∧ wrdy layRegionSleep 0x0602 (regMask 8 1 5) s = true ∧ (s.pow.sleeps.find? fun o => o.pendBlocks.contains 12) = some (sleepOf [12, 13])
         ∧ s.sleepAnswer (sleepOf [12, 13]) 12 = some true ∧ s.stopped = false)
    ∧ (let s : State := { (sServ.modChan (.bdma 12 0) fun x => { x with busy := true }) with pow := { sServ.pow with sleeps := [sleepOf [12]] } }
       s.sleepAnswer (sleepOf [12]) 12 = some false ∧ s.bdmaBusy 12 = true ∧ s.blkFenced 12 = false)
    ∧ (let s : State := { sServ.advance 98304 with pow := { sServ.pow with sleeps := [sleepOf [12]] } }
       (s.pow.sleeps.find? fun o => o.start + usToFrc 100 ≤ s.time.frc) = some (sleepOf [12]))
    ∧ (wrdy layRegionSleep 0x0602 (regMask 8192 2 0) sCell = true ∧ (8192 : Nat).testBit 13 = true ∧ (sCell.cells.some? fun _ c => c.st != .hibernated) = true)
    ∧ (let s := sReg 3 fun g => { g with idleHold := some 5 }
       (s.region 3).idleHold = some 5 ∧ (s.region 3).st = .active ∧ (s.region 3).prepare = false ∧ (s.car.tasks.some? fun _ t => t.st == .ready && t.region == some 3) = false
         ∧ ∀ b < regBlocks 3, s.blockBusy (3 * 4 + b) = false ∧ s.bdmaBusy (3 * 4 + b) = false ∧ s.commitHeld (3 * 4 + b) = false ∧ s.meshQuiet (3 * 4 + b) = true)
    ∧ wrdy layRegionWake 0x0603 (leBytes 2 8 ++ zeros 2) sServ = true
    ∧ (let s := sReg 3 fun g => { g with st := .nap, waking := some 0 }; (s.region 3).waking = some 0 ∧ s.asleep 3 = true ∧ s.stopped = false)
    ∧ (∀ st ∈ [RegState.active, .nap], wrdy layRetentionMap 0x0604 (leBytes 1 3 ++ zeros 7 ++ leBytes 16 5) (sReg 3 fun g => { g with st := st }) = true)
    ∧ (∀ st ∈ [RegState.active, .nap], let s := sReg 13 fun g => { g with st := st }
       wrdy layPadRelease 0x0605 (leBytes 4 1 ++ zeros 12) s = true ∧ s.asleep 13 = (st == .nap))
    ∧ (∀ f < 2, wrdy layWatchEnter 0x0606 (leBytes 1 f ++ zeros 3) sServ = true) ∧ sServ.cells = [] ∧ sServ.pow.sleeps = [] ∧ sServ.migrating = false ∧ sServ.member = false
    ∧ (let s : State := { sServ with pow := { sServ.pow with sleeps := [sleepOf [12]] } }; wrdy layWatchEnter 0x0606 (leBytes 1 1 ++ zeros 3) s = true)
    ∧ wrdy layWatchEnter 0x0606 (leBytes 1 1 ++ zeros 3) sCell = true
    ∧ (∀ x ∈ [(0, 0), (0, 10), (1, 3), (1, 14), (2, 0)], wrdy layResetScope 0x0007 (leBytes 1 x.1 ++ zeros 1 ++ leBytes 2 x.2) sServ = true)
    ∧ targetPop 0 0 = true ∧ targetPop 0 511 = false ∧ targetRegion 0 0 < 14 ∧ targetPop 2 14 = true ∧ 14 ≤ targetRegion 2 14 ∧ sServ.bistOn 0 0 = false ∧ sServ.inSleep 0 = false ∧ (sServ.region 0).prepare = false
    ∧ (let s : State := { sServ with fault := { sServ.fault with resetAt := [(targetKey 2 3, 0)] } }
       s.stopped = false ∧ s.fault.resetAt.has (targetKey 2 3) = true ∧ s.host.flights = [] ∧ s.kernels = []) := by and_intros <;> decide +kernel

/-- The codes of monitors that read the nominal voltages. -/
def rawOk : List Nat := [2048, 2048, 1024, 1252] ++ List.replicate 8 0
def sPins (f : PinSt → PinSt) (m : ChipMode) : State := { inMode m with pins := f State.reset.pins }
theorem wit_SuppliesAndBoot :
    (let s := sPins (fun p => { p with porN := false, vddAon := true }) .off; s.pins.porN = false ∧ s.pins.vddAon = true ∧ railsOk (s.railCodes rawOk) = true)
    ∧ (sPins (fun p => { p with vddAon := false }) .off).pins.vddAon = false
    ∧ (∀ m ∈ [ChipMode.off, .service], ∀ x ∈ [none, some 0], let s := (sPins (fun p => { p with porN := true, vddAon := true, okSince := x, badSince := x }) m).advance 1966080
       s.pins.vddAon = true ∧ s.pins.porN = true ∧ s.pow.mode = m ∧ railsOk (s.railCodes rawOk) = true ∧ railsOk (s.railCodes (List.replicate 12 0)) = false
         ∧ s.pins.okSince = x ∧ s.pins.badSince = x ∧ 0 + msToFrc 2 ≤ s.time.frc)
    ∧ (sServ.pow.mode ≠ .off ∧ sServ.host.warmAt = none)
    ∧ (let s := sServ.modHost fun h => { h with warmAt := some 0 }; ∃ f, s.host.warmAt = some f ∧ f ≤ s.time.frc)
    ∧ (let s := (inMode .boot).modHost fun h => { h with server := .nobody }; s.pow.mode = .boot ∧ s.host.server = .nobody)
    ∧ (let s : State := { inMode .boot with dome := { sServ.dome with slot := some 0, startAt := 0 } }
       (s.advance 1966080000).dome.slot = some 0 ∧ s.pow.mode = .boot ∧ s.host.server = .melvi ∧ 0 + msToFrc 2000 ≤ (s.advance 1966080000).time.frc)
    ∧ (∀ h, ∀ x ∈ [none, some 0], let s : State := { inMode .watch with pow := { sServ.pow with mode := .watch, watch := some ⟨h, x⟩ } }
       s.pow.watch = some ⟨h, x⟩ ∧ s.pow.mode = .watch ∧ (true || s.fsc.wakeReq) = true)
    ∧ sServ.pow.watch = none := by
  refine ⟨?_, ?_, ?_, ?_, ⟨0, rfl, ?_⟩, ?_, ?_, ?_, ?_⟩ <;> decide +kernel


/-- Parameters of stream 3: CHIME and ENERGY, continuous, on trail 7. -/
def pListen (act kind : Nat) : List Byte :=
  leBytes 1 3 ++ leBytes 1 act ++ leBytes 2 7 ++ leBytes 1 kind ++ leBytes 1 1 ++ leBytes 1 1 ++ leBytes 1 12 ++ zeros 12 ++ leBytes 2 5
    ++ leBytes 1 160 ++ leBytes 1 (if kind / 4 = 1 then 1 else 0) ++ zeros 1 ++ leBytes 1 0 ++ leBytes 2 17 ++ leBytes 2 1 ++ leBytes 2 0 ++ leBytes 1 2 ++ leBytes 1 1
    ++ leBytes 1 0 ++ zeros 1 ++ leBytes 2 1 ++ leBytes 2 80 ++ zeros 8
def strm (kind : Nat) (rx : RxState) (opened : Bool) : FscStream := ⟨pListen 1 kind, opened, rx, 0, 0, -40, -40, none, none, 0, 0, none, 0, 0, 0, 0⟩
def sFsc (x : FscStream) : State := { sServ with fsc := { sServ.fsc with streams := [(3, x)] } }
def sAdc (a : AdcSt) : State := { sServ with fsc := { sServ.fsc with adc := a } }
/-- An enabled CHIME rule of any stream, for WAKE_TYPE 0: COUNT 2, WINDOW_MS 10, GAP_MS 5. -/
def ruleOf (ctrl : Nat) : FscRule :=
  ⟨leBytes 1 ctrl ++ leBytes 1 1 ++ leBytes 1 0xFF ++ leBytes 1 2 ++ leBytes 2 10 ++ leBytes 2 5 ++ leBytes 2 1 ++ zeros 22, [0], [(3, 0)], true, none⟩
def evChime : FscEv := ⟨1, 3, 3, 0, 0, some 17, none, none, 17⟩
/-- A TIMELINE rule of cell 17 at symbol 0 of every radio frame. -/
def ruleTl : FscRule := ⟨leBytes 1 5 ++ leBytes 1 7 ++ zeros 1 ++ leBytes 1 1 ++ zeros 10 ++ leBytes 2 17 ++ zeros 12 ++ leBytes 2 1 ++ zeros 2, [], [], true, none⟩
def trail7 : Trail := { (default : Trail) with lane := 0, label := 6 }
def pRules (n : Nat) : List Byte := leBytes 2 n ++ zeros 62 ++ ((List.range n).flatMap fun _ => (ruleOf 5).raw)
theorem wit_Finderscope :
    (∀ k ∈ [RxState.search, .syncWait], let s := sFsc (strm 5 k true)
      s.fsc.streams.find? 3 = some (strm 5 k true) ∧ (strm 5 k true).validAt ≤ 0 ∧ 0 ≤ s.time.frc ∧ s.time.frc < (ChimeEv.level 1 0).frc ∧ 0 ≤ (strm 5 k true).detAt + usToFrc 400
        ∧ (strm 5 k true).detAt + usToFrc 400 < (ChimeEv.sync 393217 0 0).frc ∧ (strm 5 k true).chime = true ∧ (strm 5 k true).energyOn = true
        ∧ fld (strm 5 k true).cfg 22 1 * 128 ≤ 80 * 256 ∧ 79 * 256 < fld (strm 5 k true).cfg 22 1 * 128)
    ∧ ((strm 5 .syncWait true).latched + fld (strm 5 .syncWait true).cfg 7 1 ≤ powerLevel (128 * 2 ^ 28) 128
       ∧ powerLevel (128 * 2 ^ 20) 128 + 20 < (strm 5 .syncWait true).latched)
    ∧ ((maskBits (0xC35A1E6A ^^^ 0xC35A1E6D) 32).length = 3 ∧ (maskBits (0xC35A1E62 ^^^ 0xC35A1E6D) 32).length = 4)
    ∧ (bit (ruleOf 4).ctrl 0 = false ∧ bit (ruleOf 5).ctrl 0 = true ∧ (ruleOf 5).meets 0 evChime = (true, ruleOf 5)
       ∧ ((ruleOf 5).meets 0 { evChime with wakeType := 1 }).1 = false ∧ (ruleOf 5).gaps.find? 3 = some 0 ∧ 4915199 < 0 + msToFrc 5
       ∧ 0 + msToFrc 5 ≤ 4915200 ∧ ((ruleOf 5).take 0 evChime 4915200 .service).2 = .fires ∧ ((ruleOf 5).take 0 evChime 9830401 .service).2 = .nothing)
    ∧ (sFsc (strm 5 .search false)).windowNow (strm 5 .search false) = true
    ∧ (let x := { strm 5 .receive true with cfg := (pListen 1 5).take 6 ++ zeros 42 }; (sFsc x).windowNow x = false)
    ∧ (∀ k ∈ [RxState.syncWait, .receive], let s := (sFsc (strm 5 k true)).advance 983040
       (strm 5 k true).detAt + usToFrc 400 ≤ s.time.frc ∧ (strm 5 k true).syncAt + usToFrc 800 ≤ s.time.frc ∧ s.deaf (strm 5 k true) = true
         ∧ msToFrc (fld (strm 5 k true).cfg 23 1) ≤ 0 + (s.time.frc - 0))
    ∧ (let x := strm 2 .search true
       let s : State := ({ sCell with line := { sServ.line with trails := [(7, trail7)] }, fsc := { sServ.fsc with streams := [(3, x)] }, cells := [(17, ⟨.hibernated, 2, 0, 273, 4, 4, 4, 4, 13, 0, 1, true, false⟩)]
                                      time := { TimeSt.reset with anchors := [(17, ⟨1, 0, 0, 0, 0, 0⟩)] } } : State).advance 4915200
       ((s.closedOccasions x).getLast?).isSome = true ∧ s.deaf x = false)
    ∧ (let a := sServ.fsc.adc
       let s := sAdc { a with num := 1, calibrating := false, running := none }
       s.fsc.adc.num ≠ 0 ∧ s.fsc.adc.calibrating = false ∧ s.fsc.adc.passUs = 0 ∧ s.fsc.adc.running = none)
    ∧ (let s := (sAdc { sServ.fsc.adc with num := 1, passUs := 10, running := some 0 }).advance 98304
       (s.time.frc * 100 / 98304) % s.fsc.adc.passUs = 0 ∧ s.fsc.adc.lastPass ≠ some (100 / 10) ∧ s.fsc.adc.running = some 0 ∧ s.fsc.adc.convAt + usToFrc 1 ≤ s.time.frc)
    ∧ (let s := (sAdc { sServ.fsc.adc with calibrating := true }).advance 1179648; s.fsc.adc.calibrating = true ∧ s.fsc.adc.calAt + usToFrc 1200 ≤ s.time.frc)
    ∧ (let s := sServ.advance 0; s.pow.mode ≠ .off ∧ (∀ i < 12, ((List.range 12).map fun i => s.fsc.adc.cal ((List.replicate 12 2783).getD i 0)).getD i 0 < 2784)
        ∧ ((List.range 12).find? fun i => 2784 ≤ ((List.range 12).map fun i => s.fsc.adc.cal ((List.replicate 12 2784).getD i 0)).getD i 0) = some 0)
    ∧ (let x : FscTimer := ⟨1, 0, true⟩
       let s := ({ sServ with fsc := { sServ.fsc with timers := [x] } } : State).advance 983040
       s.fsc.timers[0]? = some x ∧ x.start + msToFrc (bits x.cfg 23 0) ≤ s.time.frc)
    ∧ (let s : State := { sCell with fsc := { sServ.fsc with rules := [ruleTl] }, time := { TimeSt.reset with anchors := [(17, ⟨1, 0, 0, 0, 0, 0⟩)] } }
       s.fsc.rules[0]? = some ruleTl ∧ s.anchor? 17 = some ⟨1, 0, 0, 0, 0, 0⟩ ∧ ruleTl.event = 7 ∧ tpValid 1 (fld ruleTl.raw 24 4) = true
         ∧ fld ruleTl.raw 14 2 = 17 ∧ symOff 1 0 0 = 0 ∧ frameAt 0 s.thetaNow = 0 ∧ nominal 0 0 0 ≤ s.thetaNow ∧ s.thetaNow ≤ nominal 0 0 0)
    ∧ (∀ a < 2, wrdy layFscListenConfig 0x0701 (pListen a 5) sServ = true) ∧ sServ.listens 7 = false
    ∧ (let s : State := { sServ with line := { sServ.line with trails := [(7, trail7)] } }; wrdy layFscListenConfig 0x0701 (pListen 1 5) s = true ∧ s.listens 7 = true
       ∧ s.windowNow (strm 5 .search false) = true)
    ∧ (∀ q ∈ [0, 1], let o := { strm 5 .search true with phi := q }; (sFsc o).fsc.streams.find? 3 = some o ∧ o.opened = true ∧ o.trail = 7 ∧ (o.phi = ncoIncrement 0 ↔ q = 0)
       ∧ fld o.cfg 5 1 = fld (fit 48 (pListen 1 5)) 5 1)
    ∧ ((ChimeEv.level 5 0).frc < ({ strm 5 .search true with validAt := 6 } : FscStream).validAt)
    ∧ (∀ n ∈ [0, 1, 65], ∀ m ∈ [ChipMode.drain, .service], Ready layFscRulesLoad (row (pRules n)) (waits (inMode m) (cmdExt 0x0702 (64 + 32 * n))) (cmdExt 0x0702 (64 + 32 * n)))
    ∧ (∀ n ∈ [0, 1], 64 + 32 * n ≤ (pRules n).length ∧ allZero (((pRules n).drop 2).take 6) = true ∧ allZero (((pRules n).drop 40).take 24) = true
        ∧ (∀ w ∈ ((List.range 8).map fun k => fld (pRules n) (8 + 4 * k) 4), fscTimerOk w = true) ∧ (∀ k < n, fscRuleOk (fscRuleAt (pRules n) k) = true ∧ sServ.fscPointOk (fscRuleAt (pRules n) k) = true))
    ∧ Ready layAdcSeqConfig (row (leBytes 1 1 ++ zeros 19)) (waits sServ (cmdExt 0x0703 20)) (cmdExt 0x0703 20)
    ∧ wrdy layAdcSelfcal 0x0704 (zeros 4) sServ = true
    ∧ (∀ cl < 2, wrdy layFscStatus 0x0705 (zeros 12 ++ leBytes 1 cl ++ zeros 3) sServ = true
        ∧ wrdy layFscStatus 0x0705 (leBytes 8 0x100 ++ leBytes 4 1024 ++ leBytes 1 cl ++ zeros 3) sServ = true)
    ∧ (let fl : Flight := { cmdOf 0x0705 16 (leBytes 8 0x100 ++ leBytes 4 1024 ++ zeros 4) with fn := 1 }; Ready layFscStatus row (waits sAtt1w fl) fl ∧ fl.fn ≠ 0) := by
  refine ⟨?_, ?_, ?_, ?_, ?_, ?_, ?_, ?_, ?_, ?_, ?_, ?_, ?_, ?_, ?_, ?_, ?_, ?_, ?_, ?_, ?_, ?_, ?_, ?_⟩ <;> decide +kernel


def arr (f : ArrayCal → ArrayCal) : ArrayCal :=
  f { (default : ArrayCal) with rows := 2, cols := 1, pols := 1, avg := 16, sets := [none, none, none, none], tempAt := some 0 }
def sCal (x : CalSt → CalSt) : State := { sCell with cal := x sServ.cal, time := { TimeSt.reset with anchors := [(17, ⟨1, 0, 0, 0, 0, 0⟩)] } }
def pArr (cell act : Nat) (pols : Nat) : List Byte :=
  leBytes 2 cell ++ leBytes 1 act ++ zeros 1 ++ leBytes 1 (if act = 1 then 4 else 0) ++ leBytes 1 (if act = 1 then 1 else 0) ++ leBytes 1 (if act = 1 then pols else 0)
    ++ leBytes 1 (if act = 3 then 1 else 0) ++ leBytes 2 (if act = 1 then 16 else 0) ++ zeros 6
def pCal (obj id len addr : Nat) : List Byte := leBytes 1 obj ++ zeros 1 ++ leBytes 2 id ++ leBytes 4 len ++ leBytes 8 addr
theorem wit_Collimator :
    ((0 : Int) < 5) ∧ (0 : Int) ≤ 50000000 ∧ (arr id).sets.length = 4 ∧ (arr id).sets.getD (nearestSet (clampTemp (arr id).tObj)) none = none
    ∧ ({ LaneCal.reset with taps := [3] } : LaneCal).taps[0]? = some 3
    ∧ (let s := (sTlf 9 (fSync 0)).advance 983040
       s.cal.policy.lanes = true ∧ 4 ≤ (s.lane 3).stageOf (isPeer 3) 0 ∧ (s.lane 3).stageOf (isPeer 3) 0 ≠ 14 ∧ (dataLanes 3).contains 0 = true
         ∧ (((s.laneCal 3 0).since (s.lane 3).upAt).stepAt = none) ∧ s.cal.policy.parallel = false ∧ isPeer 3 = false ∧ (s.lane 3).stage = 9
         ∧ (s.laneCal 3 0).sweepAt = none)
    ∧ ((sTlf 3 (fSync 0)).lane 3).stageOf (isPeer 3) 0 < 4
    ∧ (∀ fr, let a := arr fun a => { a with freeze := fr }
       let s := (sCal fun x => { x with arrays := [(17, a)] }).advance 9830400
       s.stopped = false ∧ s.cal.arrays.find? 17 = some a ∧ s.cal.policy.arrays = true ∧ s.calPaused 17 a = fr ∧ a.since + s.slotsFrc 17 a.avg ≤ s.time.frc
         ∧ a.stepAt + msToFrc 10 ≤ s.time.frc)
    ∧ (let s := sServ.advance 58982400000; s.stopped = false ∧ s.cal.policy.ageing = true ∧ (s.region 3).st = .active ∧ (s.ageing 3).readAt = none
        ∧ (s.ageing 3).trim = 0 ∧ (s.ageing 3).trim + 1 < s.cal.policy.trimMax)
    ∧ (let s := sCal fun x => { x with ageing := [(3, { Ageing.reset with trim := 6 })] }; (s.ageing 3).trim = s.cal.policy.trimMax ∧ (s.ageing 3).warnAt = none)
    ∧ (∀ st ∈ [CellState.service, .hibernated], ∀ old ∈ [[], [(17, arr id)]],
       let s := { (sCal fun x => { x with arrays := old }) with cells := [(17, ⟨st, 2, 0, 273, 4, 4, 4, 4, 13, 0, 1, false, false⟩)] }
       (∀ act ∈ [0, 1, 2, 3], wrdy layArrayCalConfig 0x0306 (pArr 17 act 1) s = true)
         ∧ (∀ act ∈ [0, 1, 2], s.arrayCalBad ((cmdOf 0x0306 16 (pArr 17 act 1)).input row) = false) ∧ s.ownsCell 0 17 = true ∧ (s.cells.find? 17).isSome = true)
    ∧ (let s := sCal fun x => { x with arrays := [(17, arr id)] }
       Ready layArrayCalConfig (row (pArr 17 3 0 ++ zeros 8)) (waits s (cmdExt 0x0306 24)) (cmdExt 0x0306 24)
         ∧ (waits s (cmdExt 0x0306 24)).arrayCalBad ((cmdExt 0x0306 24).input (row (pArr 17 3 0 ++ zeros 8))) = false)
    ∧ (sCal id).arrayCalBad ((cmdOf 0x0306 16 (pArr 17 1 3)).input row) = true ∧ wrdy layArrayCalConfig 0x0306 (pArr 17 0 1) sAtt1 = true ∧ (let fl : Flight := { cmdOf 0x0306 16 (pArr 17 0 1) with fn := 1 }; Ready layArrayCalConfig row (waits sAtt1w fl) fl ∧ sAtt1w.arrayCalBad (fl.input row) = false ∧ sAtt1w.ownsCell 1 17 = false)
    ∧ wrdy layArrayCalConfig 0x0306 (pArr 17 1 3) (sCal id) = true
    ∧ (∀ o ∈ [(0, 3), (1, 17), (2, 3)], wrdy layCalStatus 0x0801 (pCal o.1 o.2 0 0) (sCal id) = true)
    ∧ (∀ l ∈ [8, 80], wrdy layCalStatus 0x0801 (pCal 1 17 l 0x100) (sCal fun x => { x with arrays := [(17, arr id)] }) = true)
    ∧ (sCal fun x => { x with arrays := [(17, arr id)] }).calSize 17 = 2
    ∧ (∀ o ∈ [(0, 3), (1, 17), (2, 3)], let fl : Flight := { cmdOf 0x0801 16 (pCal o.1 o.2 0 0) with fn := 1 }; Ready layCalStatus row (waits sAtt1w fl) fl ∧ sAtt1w.ownsLane 1 3 = false)
    ∧ sServ.ownsLane 0 3 = true
    ∧ wrdy layCalPolicy 0x0802 (leBytes 1 7 ++ leBytes 1 6 ++ leBytes 1 4 ++ leBytes 1 6 ++ leBytes 4 1000 ++ zeros 8) sServ = true := by
  and_intros <;> decide +kernel


/-- A carrier entry: carrier 0, numerology 1, one stream, and a profile of tenant 0 with it. -/
def ent0 : List Byte := leBytes 1 0 ++ leBytes 1 1 ++ zeros 2 ++ leBytes 2 1 ++ zeros 250
def prof0 : List Byte := leBytes 4 0x44524C50 ++ leBytes 2 1 ++ zeros 14 ++ zeros 2 ++ leBytes 2 1 ++ zeros 40 ++ ent0 ++ zeros 1408
def guard0 (l : List Nat) : Guard := ⟨true, 1, 0, [], [ent0], 0, [], [(0, l)], [], 0⟩
def sDome (f : DomeSt → DomeSt) : State := { sServ with dome := f sServ.dome }
theorem wit_DomeAndDamper :
    ((sDome fun d => { d with otp := [(0x144, 2)] }).otpByte 0x144 = (Config.otp 0x144 % 256) ||| 2) ∧ (2 : Byte).toNat.testBit 1 = true
    ∧ (∀ l ∈ [([7] : List Nat), [8], []], let u := sDome fun d => { d with guards := [(0, guard0 l)] }
       (u.guard 0).admitted.get [] (ceCarrier ent0) = l ∧ fld ent0 4 2 = 1)
    ∧ ((List.replicate 15 0).filter fun f => sServ.time.frc < f + 983040000).length = 15
    ∧ ((sDome fun d => { d with streams := [(7, ⟨[], none, true⟩)] }).streamGuard 7).blocked = true ∧ (sServ.streamGuard 7).blocked = false
    ∧ ((sDome fun d => { d with guards := [(0, guard0 [8])] }).admitted? 0 true ent0 7).1 = false
    ∧ tddOk (leBytes 3 0x010000 ++ leBytes 1 1 ++ zeros 252) 1 0 = false
    ∧ (levelAbove (2 ^ 30) 1 (-9) = true ∧ levelAbove (2 ^ 30) 1 (-11) = true ∧ levelAbove (2 ^ 30) 1 9 = false ∧ (0 : Nat) < 2 ^ 30)
    ∧ (∀ l ∈ [1, 5], let tr : Trail := { (default : Trail) with tx := true, cell := 17, label := l }
       let s0 := sTlf 9 { fSync 0 with active := [(0, 3 * 2 ^ 30 + 7)] }
       let s := { s0 with line := { s0.line with trails := [(7, tr)] }, cells := sCell.cells, time := { TimeSt.reset with anchors := [(17, ⟨1, 0, 0, 0, 0, 0⟩)] } }
       s.asleep 13 = false ∧ s.stopped = false ∧ s.line.trails.find? 7 = some tr ∧ s.anchor? 17 = some ⟨1, 0, 0, 0, 0, 0⟩ ∧ tpValid 1 0 = true
         ∧ s.trailLanes 7 = [3] ∧ isIq l = (l == 1))
    ∧ (let h : Held := { (default : Held) with stream := 5 }
       let s : State := { sServ with line := { sServ.line with held := [h] } }; (s.line.held.find? fun h => h.stream == 5) = some h ∧ s.asleep 13 = false ∧ s.stopped = false)
    ∧ sServ.carrierEntry 17 0 = none
    ∧ (sDome fun d => { d with challenge := some (zeros 16, 0) }).dome.challenge = some (zeros 16, 0)
    ∧ wrdy layAttest 0x0901 (zeros 36 ++ leBytes 4 1920 ++ leBytes 8 0x100) sServ = true
    ∧ (let p := leBytes 4 4096 ++ leBytes 4 8 ++ zeros 16
       Ready layImageStage (row p) (waits sServ (cmdExt 0x0902 24)) (cmdExt 0x0902 24) ∧ sServ.domeBusy [0x0902, 0x0903] = false
         ∧ Ready layImageStage (row p) { waits sServ (cmdExt 0x0902 24) with host := { sServ.host with
             flights := [cmdExt 0x0902 24, { cmdExt 0x0903 1304 with id := 1, wait := some (.dome .none []) }] } } (cmdExt 0x0902 24)
         ∧ ({ sServ with host := { sServ.host with flights := [{ cmdExt 0x0903 1304 with id := 1, wait := some (.dome .none []) }] } } : State).domeBusy [0x0902, 0x0903] = true)
    ∧ (∀ x ∈ [none, some 1], let s := sDome fun d => { d with slot := x }
       (∀ a ∈ [1, 2], Ready layImageCommit (row (leBytes 1 a ++ zeros 1303)) (waits s (cmdExt 0x0903 1304)) (cmdExt 0x0903 1304))
         ∧ Ready layImageCommit (row (leBytes 4 0 ++ leBytes 4 9 ++ leBytes 2 1 ++ zeros 1294)) (waits s (cmdExt 0x0903 1304)) (cmdExt 0x0903 1304) ∧ s.dome.slot = x)
    ∧ (∀ a < 4, Ready layKeyEnroll (row (leBytes 1 a ++ leBytes 1 (if a < 2 then 2 else 0) ++ zeros 2 ++ leBytes 2 (if a < 2 then 9 else 0) ++ zeros 3083))
        (waits sServ (cmdExt 0x0904 3089)) (cmdExt 0x0904 3089))
    ∧ (∀ a ∈ [0, 2, 3], Ready layGuardProfileLoad (row (leBytes 1 a ++ zeros 15)) (waits sServ (cmdExt 0x0905 16)) (cmdExt 0x0905 16))
    ∧ Ready layGuardProfileLoad (row (leBytes 1 1 ++ zeros 15 ++ prof0)) (waits sServ (cmdExt 0x0905 1744)) (cmdExt 0x0905 1744)
    ∧ (∀ a ∈ [0, 2], wrdy layDebugUnlock 0x0906 (leBytes 1 a) sServ = true)
    ∧ (∀ ch ∈ [none, some (zeros 16, 0)], let s := sDome fun d => { d with challenge := ch }
       Ready layDebugUnlock (row (leBytes 1 1 ++ leBytes 2 0 ++ leBytes 2 9 ++ zeros 1280)) (waits s (cmdExt 0x0906 1285)) (cmdExt 0x0906 1285) ∧ s.dome.challenge = ch)
    ∧ (0 + msToFrc 60000 ≤ (sServ.advance 58982400000).time.frc ∧ sServ.time.frc < 0 + msToFrc 60000) := by
  and_intros <;> first | decide +kernel | rfl


def sFault (f : FaultSt → FaultSt) : State := { sServ with fault := f sServ.fault }
def fat (served dumping : Bool) : FatalSt := ⟨0, 1, 0, .service, served, dumping, []⟩
def inFault (srv : Server) (x : FatalSt) : State := { sServ with
  host := { sServ.host with server := srv }, pow := { sServ.pow with mode := .fault }, fault := { sServ.fault with chip := some x } }
def fOp (force : Bool) : FenceOp := ⟨1, 9, force, 0, false, none, 0⟩
/-- A task on an engine of block 1 of D2 (R17). -/
def sBusy (f : FaultSt → FaultSt) : State := (sFault f).modEng 72 fun r => { r with task := some 5 }
def pFence (kind target : Nat) : List Byte := leBytes 1 kind ++ zeros 1 ++ leBytes 2 target ++ leBytes 4 100
theorem wit_FaultsAndFences :
    (engPop 72 = true ∧ sServ.stopped = false ∧ sServ.asleep (engRegion 72) = false ∧ targetPop 1 9 = true ∧ (2 : Nat) < 13)
    ∧ (let s := (sFault fun f => { f with resetAt := [(targetKey 0 72, 0)], recov := [(72, [0])] }).advance 1966080
       s.fault.resetAt.find? (targetKey 0 72) = some 0 ∧ (s.fault.recov.get [] 72).contains 0 = true ∧ 0 + msToFrc 2 ≤ s.time.frc ∧ s.stopped = false)
    ∧ ((sFault fun f => { f with fencedEng := [(72, true)] }).fenceOf 0 72 = some true ∧ sServ.fenceOf 0 72 ≠ some true)
    ∧ (let s := sFault fun f => { f with fencedReg := [(2, true)] }; (s.logMelvi 2 (initId 2 0 0) (regBase 2)).fault.fencedReg.has 2 = true)
    ∧ (sCell.cells.find? 17).isSome = true ∧ (inMode .off).pow.mode = .off ∧ sServ.pow.mode ≠ .off ∧ sServ.fault.chip = none
    ∧ (∀ x ∈ [fat true true, fat false false], ∀ srv ∈ [Server.melvi, .recovery], let s := (inFault srv x).advance 9830400
       s.fault.chip = some x ∧ s.pow.mode = .fault ∧ s.host.server = srv ∧ x.frc + msToFrc 10 ≤ s.time.frc)
    ∧ (∀ fo, (let s := sFault fun f => { f with fences := [fOp fo] }
       s.targetEmpty 1 9 = true ∧ (s.fault.fences.find? fun f => f.due ≤ s.time.frc && (!f.forced || s.targetEmpty f.kind f.target)) = some (fOp fo))
       ∧ (let s := sBusy fun f => { f with fences := [fOp fo] }
          s.targetEmpty 1 9 = false ∧ s.stopped = false ∧ (s.fault.fences.find? fun f => f.due ≤ s.time.frc && (!f.forced || s.targetEmpty f.kind f.target)) = some (fOp fo)))
    ∧ (let s : State := { sServ with fault := { sServ.fault with bists := [⟨1, 9, 3, 0⟩] }, host := { sServ.host with flights := [{ cmdOf 0x0A05 8 [] with wait := some .bist }] } }
       (s.fault.bists.find? fun b => b.kind == 1 && b.target == 9) = some ⟨1, 9, 3, 0⟩ ∧ (s.flight? 0).isSome = true ∧ s.stopped = false)
    ∧ (∀ x ∈ [(1, 9), (1, 3), (2, 14), (0, 511)], wrdy layFence 0x0A03 (pFence x.1 x.2) sServ = true)
    ∧ targetPop 0 511 = false ∧ sServ.fenceBarred 2 14 = true ∧ targetPop 2 14 = true ∧ sServ.fenceBarred 1 9 = false ∧ sServ.asleep (targetRegion 1 9) = false
    ∧ (let s := sReg 2 fun g => { g with st := .nap }; wrdy layFence 0x0A03 (pFence 1 9) s = true ∧ s.asleep 2 = true ∧ s.fenceBarred 1 9 = false)
    ∧ (let busy (s : State) := (s.fault.fences.any fun f => spansMeet (fenceSpan f.kind f.target) (fenceSpan 1 9)) || s.reserveBroken 1 9
       wrdy layFence 0x0A03 (pFence 1 9) (sBusy id) = true
         ∧ busy sServ = false ∧ sServ.fenceOf 1 9 = none ∧ (sServ.clockUp 2).targetEmpty 1 9 = true ∧ busy (sBusy id) = false ∧ ((sBusy id).clockUp 2).targetEmpty 1 9 = false
         ∧ (let s := sFault fun f => { f with fences := [fOp false] }; busy s = true ∧ wrdy layFence 0x0A03 (pFence 1 9) s = true)
         ∧ (let s := sFault fun f => { f with fencedBlk := [(9, false)] }; busy s = false ∧ (s.fenceOf 1 9).isSome = true ∧ wrdy layFence 0x0A03 (pFence 1 9) s = true))
    ∧ (∀ a, let s := sFault fun f => { f with fencedBlk := [(9, a)] }
       wrdy layUnfence 0x0A04 (leBytes 2 1 ++ leBytes 2 9) s = true ∧ s.fenceOf 1 9 = some a ∧ s.fault.tested.has (targetKey 1 9) = false ∧ s.bistOn 1 9 = false)
    ∧ wrdy layUnfence 0x0A04 (leBytes 2 1 ++ leBytes 2 9) sServ = true ∧ wrdy layUnfence 0x0A04 (leBytes 2 0 ++ leBytes 2 511) sServ = true
    ∧ (let s : State := { inMode .maint with fault := { sServ.fault with fencedBlk := [(9, false)] } }
       wrdy layBistRun 0x0A05 (leBytes 1 1 ++ leBytes 1 3 ++ leBytes 2 9 ++ zeros 4) s = true ∧ s.coveredBy 1 9 = true ∧ s.bistOn 1 9 = false)
    ∧ wrdy layBistRun 0x0A05 (leBytes 1 1 ++ leBytes 1 3 ++ leBytes 2 9 ++ zeros 4) sServ = true
    ∧ wrdy layBistRun 0x0A05 (leBytes 1 0 ++ leBytes 1 3 ++ leBytes 2 511 ++ zeros 4) sServ = true
    ∧ (∀ k ∈ [0, 3, 4], wrdy layDumpRead 0x0A06 (leBytes 1 k ++ zeros 31) sServ = true)
    ∧ wrdy layDumpRead 0x0A06 (leBytes 1 1 ++ zeros 3 ++ leBytes 4 16 ++ zeros 24) sServ = true
    ∧ wrdy layDumpRead 0x0A06 (leBytes 1 2 ++ zeros 15 ++ leBytes 8 0x100 ++ leBytes 4 65536 ++ zeros 4) sServ = true
    ∧ (let s := (sServ.write melviWho (dumpBase + 36) (leBytes 4 64) false).write melviWho lastGaspBase (leBytes 4 0x50534147) false
       sServ.dumpLength = 0 ∧ s.dumpLength = 64 ∧ wrdy layDumpRead 0x0A06 (leBytes 1 1 ++ zeros 3 ++ leBytes 4 16 ++ zeros 24) s = true ∧ s.poisonIn dumpBase 16 = false
         ∧ s.gaspValid 0 = true ∧ sServ.gaspValid 0 = false ∧ s.poisonIn lastGaspBase 16 = false ∧ wrdy layDumpRead 0x0A06 (leBytes 1 4 ++ zeros 31) s = true)
    ∧ wrdy layErrlogRead 0x0A01 (zeros 8 ++ leBytes 4 1 ++ zeros 12) sServ = true
    ∧ wrdy layErrlogRead 0x0A01 (zeros 8 ++ leBytes 4 1 ++ leBytes 4 48 ++ leBytes 8 0x100) sServ = true := by
  and_intros <;> decide +kernel


/-- The invariant and a step: the idle step from reset. -/
theorem wit_StepKeepsInvariant : step State.reset = .next State.reset.idle ∧ State.reset.pending = [] ∧ State.reset.host.holdMs ≤ 1000
    ∧ State.reset.mem.ranges.length ≤ 1024 ∧ State.reset.mem.mem = [] ∧ State.reset.mem.logs = [] := by
  refine ⟨rfl, ?_, ?_, ?_, ?_, ?_⟩ <;> decide +kernel

end Sys2Proof.Tests
end

/-! PROOFS. Accesses of the host to registers and memory, its masks, and the management and test ports (chapters 02 and 22). -/

namespace Sys2Proof.Machine

/-! ### Transmitters that follow their lanes -/

/-- `u` is `s` but for the lanes, the outbox and the count of free values drawn. -/
def OnlyTx (s u : State) : Prop := ∃ l o k, u = { s with line := l, outs := o, freeCtr := k }

theorem OnlyTx.refl (s : State) : OnlyTx s s := ⟨s.line, s.outs, s.freeCtr, rfl⟩

theorem OnlyTx.trans {s u w : State} (h : OnlyTx s u) (h' : OnlyTx u w) : OnlyTx s w := by
  obtain ⟨l, o, k, rfl⟩ := h
  obtain ⟨l', o', k', rfl⟩ := h'
  exact ⟨l', o', k', rfl⟩

theorem OnlyTx.dome {s u : State} (h : OnlyTx s u) : u.dome = s.dome := by
  obtain ⟨l, o, k, rfl⟩ := h; rfl

theorem txFirst_onlyTx (s : State) (n : Nat) (x : LaneTx) : OnlyTx s (s.txFirst n x).2 := by
  unfold State.txFirst
  dsimp only
  split
  · exact ⟨s.line, s.outs, _, rfl⟩
  · exact ⟨s.line, s.outs, _, rfl⟩
  · exact .refl s

theorem settleTx_onlyTx (s : State) (n : Nat) : OnlyTx s (s.settleTx n) := by
  unfold State.settleTx
  dsimp only
  split
  · exact .refl s
  · have hlane (f : Lane → Lane) : OnlyTx s (s.modLane n f) := ⟨_, s.outs, s.freeCtr, rfl⟩
    have hemit (u : State) (o : Out) : OnlyTx u (u.emit o) := ⟨u.line, _, u.freeCtr, rfl⟩
    exact ((hlane _).trans (txFirst_onlyTx _ _ _)).trans (hemit _ _)

theorem settleAllTx_onlyTx (s : State) : OnlyTx s s.settleAllTx := by
  unfold State.settleAllTx
  generalize s.line.lanes.keys = ns
  induction ns generalizing s with
  | nil => exact .refl s
  | cons n ns ih => exact (settleTx_onlyTx s n).trans (ih _)

/-! ### The meaning of each row -/

theorem exec_registerWrite (t fn off : Nat) (bs : List Byte) (cfg : Bool) (s : State) :
    exec (.registerWrite t fn off bs cfg) s = .next (doRegisterWrite t fn off bs cfg s) := rfl

theorem exec_debugApertureAccess (t fn off n : Nat) (bs : Option (List Byte)) (s : State) :
    exec (.debugApertureAccess t fn off n bs) s = .next (doDebugApertureAccess t fn off n bs s) := rfl

theorem exec_bar2Access (t fn off n : Nat) (bs : Option (List Byte)) (s : State) :
    exec (.bar2Access t fn off n bs) s = .next (doBar2Access t fn off n bs s) := rfl

theorem exec_i3cRead (t : Nat) (s : State) : exec (.i3cRead t) s = .next (doI3cRead t s) := rfl

/-! ### BAR 0 (R36, R37) -/

theorem bar0Word_mboxCmd (s : State) (fn v : Nat) {off : Nat} (h : off < 0x40) :
    s.bar0Word fn off v
      = s.modFunc fn fun f => { f with mbox := { f.mbox with cmd := splice f.mbox.cmd off (leBytes 4 v) } } := by
  simp only [State.bar0Word, h, if_true]

theorem bar0Word_holdMs (s : State) (fn v : Nat) :
    s.bar0Word fn 0x100018 v
      = if fn = 0 ∧ v % 1024 ≤ 1000 then { s with host := { s.host with holdMs := v % 1024 } } else s := by
  by_cases h : fn = 0 <;> simp [State.bar0Word, h]

/-- An aligned 32-bit write to BAR 0 is one word's write. -/
theorem exec_registerWrite_word {t fn off : Nat} {bs : List Byte} {s : State} (hfn : fn < 8)
    (hup : (s.advance t).barUp = true) (hlen : bs.length = 4) (hoff : off % 4 = 0) :
    exec (.registerWrite t fn off bs false) s = .next ((s.advance t).bar0Word fn off (leNat bs)) := by
  simp [exec_registerWrite, doRegisterWrite, hup, hlen, hoff, Nat.not_le.mpr hfn]

/-- A write to BAR 0 that is neither an aligned 32-bit nor an aligned 64-bit one is ignored (R37). -/
theorem exec_registerWrite_ignored (t fn off : Nat) {bs : List Byte} (s : State)
    (h4 : ¬(bs.length = 4 ∧ off % 4 = 0)) (h8 : ¬(bs.length = 8 ∧ off % 8 = 0)) :
    exec (.registerWrite t fn off bs false) s = .next (s.advance t) := by
  simp [exec_registerWrite, doRegisterWrite, h4, h8]

/-- The device has no function 8 or above: a write there does nothing. -/
theorem exec_registerWrite_noFunc (t off : Nat) (bs : List Byte) (cfg : Bool) (s : State) {fn : Nat} (hfn : 8 ≤ fn) :
    exec (.registerWrite t fn off bs cfg) s = .next (s.advance t) := by
  simp [exec_registerWrite, doRegisterWrite, hfn]

/-- HOLD_MS takes the values up to 1,000 that function 0 writes (Table 2-5, R9). -/
theorem exec_registerWrite_holdMs {t : Nat} (fn : Nat) {bs : List Byte} {s : State}
    (hup : (s.advance t).barUp = true) (hlen : bs.length = 4) :
    exec (.registerWrite t fn 0x100018 bs false) s
      = .next (if fn = 0 ∧ leNat bs % 1024 ≤ 1000
          then { s.advance t with host := { (s.advance t).host with holdMs := leNat bs % 1024 } } else s.advance t) := by
  by_cases hfn : fn < 8
  · rw [exec_registerWrite_word hfn hup hlen (by decide), bar0Word_holdMs]
  · rw [exec_registerWrite_noFunc _ _ _ _ _ (Nat.not_lt.mp hfn), if_neg (by omega)]

/-! ### The debug aperture, locked (R38) -/

theorem exec_debugApertureAccess_read_locked {t fn off n : Nat} {s : State} (hfn : fn < 8)
    (hup : (s.advance t).barUp = true) (hlock : fn ≠ 0 ∨ (s.advance t).dome.debug = false) :
    exec (.debugApertureAccess t fn off n none) s
      = .next ((s.advance t).emit (.barRead fn 0 (0x1000000 + off) (zeros n) false)) := by
  rcases hlock with h | h <;>
    simp [exec_debugApertureAccess, doDebugApertureAccess, hup, h, Nat.not_le.mpr hfn]

theorem exec_debugApertureAccess_write_locked {t fn off n : Nat} {s : State}
    (hlock : fn ≠ 0 ∨ (s.advance t).dome.debug = false) (bs : List Byte) :
    exec (.debugApertureAccess t fn off n (some bs)) s = .next (s.advance t) := by
  rcases hlock with h | h <;> simp [exec_debugApertureAccess, doDebugApertureAccess, h]

/-! ### BAR 2 (R64) -/

/-- The part of HBM behind a function's BAR 2: base and size (R64). -/
def State.bar2Extent (s : State) (fn : Nat) : Nat × Nat := if fn = 0 then (0, hbmEnd) else s.hbmExtent fn

section Bar2
variable {t fn off : Nat} {s : State} (hup : (s.advance t).barUp = true)
include hup

theorem exec_bar2Access_beyond {n : Nat} {bs : Option (List Byte)}
    (h : ((s.advance t).bar2Extent fn).2 < off + (bs.map List.length).getD n) :
    exec (.bar2Access t fn off n bs) s = .next ((s.advance t).emit (.unsupported fn 2 off)) := by
  unfold State.bar2Extent at h
  cases bs <;> simp_all [exec_bar2Access, doBar2Access]

theorem exec_bar2Access_read {n : Nat} (hin : off + n ≤ ((s.advance t).bar2Extent fn).2)
    (hret : (s.advance t).retiredIn (((s.advance t).bar2Extent fn).1 + off) n = false) :
    exec (.bar2Access t fn off n none) s
      = let s₁ := s.advance t
        let a := (s₁.bar2Extent fn).1 + off
        .next (((s₁.clockFor a).logRead ⟨initPcie, none, false, none⟩ a n).emit
          (.barRead fn 2 off (s₁.bytesAt a n) (s₁.poisonIn a n))) := by
  unfold State.bar2Extent at *
  simp only [exec_bar2Access, doBar2Access, hup, hret, Nat.not_lt.mpr hin, Bool.not_true, Bool.false_eq_true, if_false]

theorem exec_bar2Access_write {n : Nat} {bs : List Byte} (hin : off + bs.length ≤ ((s.advance t).bar2Extent fn).2)
    (hret : (s.advance t).retiredIn (((s.advance t).bar2Extent fn).1 + off) bs.length = false) :
    exec (.bar2Access t fn off n (some bs)) s
      = let s₁ := s.advance t
        let a := (s₁.bar2Extent fn).1 + off
        .next (if overlaps a bs.length hbmCarillon (hbmEnd - hbmCarillon) then s₁.emit (.unsupported fn 2 off)
          else (s₁.clockFor a).write ⟨initPcie, none, false, none⟩ a bs false) := by
  unfold State.bar2Extent at *
  simp only [exec_bar2Access, doBar2Access, hup, hret, Nat.not_lt.mpr hin, Bool.not_true, Bool.false_eq_true, if_false]

end Bar2

/-! ### MSI-X masks, I3C and JTAG (R62, R615) -/

theorem exec_msixMaskClear (t fn : Nat) (vec : Option Nat) (s : State) :
    exec (.msixMaskClear t fn vec) s = .next (((s.advance t).modFunc fn fun f => match vec with
      | some v => { f with msix := f.msix.mod MsixEntry.reset v fun x => { x with masked := false } }
      | none => { f with fnMask := false }).flushMsix fn) := by
  cases vec <;> rfl

/-- Some region has power in every mode but WATCH and OFF (Table 17-1). -/
theorem dark_eq_false {s : State} (hw : s.pow.mode ≠ .watch) (ho : s.pow.mode ≠ .off) : s.dark = false := by
  simp [State.dark, hw, ho]

theorem exec_i3cRead_running {t : Nat} {s : State} (hserver : (s.advance t).host.server = .melvi)
    (hdark : (s.advance t).dark = false) (hheld : (s.advance t).pow.heldCtrl = false) :
    exec (.i3cRead t) s = .next ((s.advance t).emit (.i3cRead (s.advance t).i3cStatus)) := by
  simp [exec_i3cRead, doI3cRead, hserver, hdark, hheld]

/-- The state once a JTAG instruction is loaded: EXTEST holds the serialisers idle until another instruction takes its place
(the model's choice, log entry 52). -/
def State.setExtest (s : State) (x : Bool) : State := ({ s with pins := { s.pins with extest := x } } : State).settleAllTx

theorem setExtest_dome (s : State) (x : Bool) : (s.setExtest x).dome = s.dome := (settleAllTx_onlyTx _).dome

theorem exec_jtagInstruction_idcode (t : Nat) (s : State) : exec (.jtagInstruction t .idcode) s
    = .next (((s.advance t).setExtest false).emit (.jtag (some idcode))) := rfl

theorem exec_jtagInstruction_extest (t : Nat) (s : State) : exec (.jtagInstruction t .extest) s
    = .next (((s.advance t).setExtest true).emit (.jtag none)) := rfl

theorem exec_jtagInstruction_debug (t : Nat) (s : State) : exec (.jtagInstruction t .debug) s
    = let u := (s.advance t).setExtest false
      .next (if (s.advance t).dome.debug then u.emit (.jtag none) else u) := by
  dsimp only
  rw [← setExtest_dome (s.advance t) false]
  rfl

/-! ### The statement -/

/-- Settles O10. The clauses about EXTEST show the model's choice of log entry 52, which R615 leaves open. -/
theorem hostAccesses : Obligations.HostAccesses := by
  unfold Obligations.HostAccesses
  refine ⟨?bar0, ?aperture, ?bar2, ?msix, ?i3c, ?jtag⟩
  case bar0 =>
    intro t off bs s hup
    refine ⟨fun hlen hv => ?_, fun hlen hv => ?_, fun fn hfn hlen => ?_, fun fn hfn hcmd hoff hlen => ?_,
      fun fn _ h4 h8 => exec_registerWrite_ignored t fn off s h4 h8⟩
    · rw [exec_registerWrite_holdMs 0 hup hlen, if_pos ⟨rfl, hv⟩]
    · rw [exec_registerWrite_holdMs 0 hup hlen, if_neg fun h => Nat.not_le.mpr hv h.2]
    · rw [exec_registerWrite_holdMs fn hup hlen, if_neg fun h => hfn h.1]
    · rw [exec_registerWrite_word hfn hup hlen hoff, bar0Word_mboxCmd _ _ _ hcmd]
  case aperture =>
    intro t fn off n s hfn hup hlock
    exact ⟨exec_debugApertureAccess_read_locked hfn hup hlock, exec_debugApertureAccess_write_locked hlock⟩
  case bar2 =>
    intro t fn off n bs s hup
    refine ⟨fun h => exec_bar2Access_beyond hup h, fun hin hret => exec_bar2Access_read hup hin hret,
      fun h => exec_bar2Access_beyond hup h, fun hin hret hfree => ?_, fun hin hret hprot => ?_⟩
    · exact (exec_bar2Access_write hup hin hret).trans (congrArg _ (if_neg (Bool.eq_false_iff.mp hfree)))
    · exact (exec_bar2Access_write hup hin hret).trans (congrArg _ (if_pos hprot))
  case msix =>
    exact fun t fn s => ⟨fun v => exec_msixMaskClear t fn (some v) s, exec_msixMaskClear t fn none s⟩
  case i3c =>
    exact fun t s hserver hw ho hheld => exec_i3cRead_running hserver (dark_eq_false hw ho) hheld
  case jtag =>
    intro t s
    refine ⟨exec_jtagInstruction_idcode t s, exec_jtagInstruction_extest t s, fun hlock => ?_⟩
    exact (exec_jtagInstruction_debug t s).trans (congrArg _ (if_neg (Bool.eq_false_iff.mp hlock)))

end Sys2Proof.Machine

/-! PROOFS. A task's store: what it changes and what it leaves (chapter 01, R14; chapter 04, R129). -/

namespace Sys2Proof.Machine

/-! ### The clock request of a store -/

/-- A clock request reaches the power state alone (R480). -/
theorem clockFor_onlyPow (s : State) (a : Nat) : ∃ p, s.clockFor a = { s with pow := p } := by
  unfold State.clockFor
  split
  · unfold State.clockUp
    split
    · exact ⟨_, rfl⟩
    · exact ⟨s.pow, rfl⟩
  · exact ⟨s.pow, rfl⟩

/-! ### What no store changes -/

/-- The VDEs, the clock and the cells of `u` are those of `s`. -/
structure KeepsEngines (s u : State) : Prop where
  vdes : u.vdes = s.vdes
  time : u.time = s.time
  cells : u.cells = s.cells

theorem KeepsEngines.trans {s u w : State} (h : KeepsEngines s u) (h' : KeepsEngines u w) : KeepsEngines s w :=
  ⟨h'.vdes.trans h.vdes, h'.time.trans h.time, h'.cells.trans h.cells⟩

theorem OnlyMem.keepsEngines {s u : State} (h : OnlyMem s u) : KeepsEngines s u := ⟨h.vdes, h.time, h.cells⟩

theorem clockFor_keepsEngines (s : State) (a : Nat) : KeepsEngines s (s.clockFor a) := by
  obtain ⟨p, hp⟩ := clockFor_onlyPow s a
  rw [hp]
  exact ⟨rfl, rfl, rfl⟩

theorem modTask_keepsEngines (s : State) (id : Nat) (f : Task → Task) : KeepsEngines s (s.modTask id f) :=
  ⟨State.modTask_vdes s id f, State.modTask_time s id f, State.modTask_cells s id f⟩

/-! ### The bytes of a clean write to unmarked memory -/

/-- Noting L0's lines leaves the marks that a byte range meets. -/
theorem marksIn_noteLines (s : State) (w : Who) (a n b m : Nat) : (s.noteLines w a n).marksIn b m = s.marksIn b m := by
  unfold State.noteLines
  split <;> rfl

theorem noteLines_mem (s : State) (w : Who) (a n : Nat) : (s.noteLines w a n).mem = s.mem := by
  unfold State.noteLines
  split <;> rfl

theorem writeOwn_bytes_of_unmarked {s : State} {a : Nat} {bs : List Byte} (w : Who) (h : s.marksIn a bs.length = []) :
    (s.writeOwn w a bs false).mem.mem = s.mem.mem.putBytes a bs := by
  simp [State.writeOwn, marksIn_noteLines, noteLines_mem, h]

/-- A write to the device's own memory, while no migration is listed, is the memory's own write. -/
theorem write_eq_writeOwn {s : State} {a : Nat} (w : Who) (bs : List Byte) (p : Bool) (hreal : s.real a = a)
    (hown : a < peerBase) (hmigs : s.clu.migs = []) : s.write w a bs p = s.writeOwn w a bs p := by
  have hhost : ¬ hostBase ≤ a := Nat.not_le.mpr (hown.trans (by decide))
  have hkept : (s.writeOwn w a bs p).clu = s.clu := by
    obtain ⟨_, _, _, _, h, -⟩ := writeOwn_onlyMem s w a bs p
    rw [h]
  simp [State.write, hreal, hhost, Nat.not_le.mpr hown, hkept, hmigs]

theorem write_bytes_of_unmarked {s : State} {a : Nat} {bs : List Byte} (w : Who) (hreal : s.real a = a) (hown : a < peerBase)
    (hmigs : s.clu.migs = []) (hmarks : s.marksIn a bs.length = []) :
    (s.write w a bs false).mem.mem = s.mem.mem.putBytes a bs := by
  rw [write_eq_writeOwn w bs false hreal hown hmigs, writeOwn_bytes_of_unmarked w hmarks]

/-! ### What a task's store can do -/

/-- The parts of a speculative store that meet no persistent range: they go to memory at once (R129, R468). -/
def State.plainParts (s : State) (a : Nat) (bs : List Byte) : List (Nat × List Byte) :=
  (persParts (bs.length / 65536 + 2) a bs).filter fun q => !s.persistent q.1 q.2.length

/-- A store that succeeds writes its bytes to memory; one that is speculative and meets a persistent range writes there its other
parts only, and keeps the rest in the task's own lines (R129, R130). -/
theorem taskWrite_success {s u : State} {id init addr : Nat} {bs : List Byte} {p : Bool}
    (h : s.taskWrite id init addr bs p = (u, .success)) :
    ∃ t, s.task? id = some t ∧
      let a := s.real addr
      let w := s.taskWho id t init
      let c := s.clockFor a
      (u = c.write w a bs p ∨
        c.speculative t = true ∧ c.persistent a bs.length = true ∧ ∃ ls lp, u =
          ((c.plainParts a bs).foldl (fun v q => v.write w q.1 q.2 p) c).modTask id
            fun t => { t with lines := ls, linePois := lp }) := by
  unfold State.taskWrite at h
  split at h
  · cases h
  next t ht =>
  refine ⟨t, ht, ?_⟩
  dsimp only at h ⊢
  split at h
  next =>
    split at h
    next hspec =>
      obtain ⟨hs, hp⟩ := Bool.and_eq_true_iff.mp hspec
      split at h
      · cases h
      · exact .inr ⟨hs, hp, _, _, (Prod.mk.inj h).1.symm⟩
    next => exact .inl (Prod.mk.inj h).1.symm
  next hne => exact absurd (Prod.mk.inj h).2 hne

theorem taskWrite_keepsEngines {s u : State} {id init addr : Nat} {bs : List Byte} {p : Bool}
    (h : s.taskWrite id init addr bs p = (u, .success)) : KeepsEngines s u := by
  obtain ⟨t, -, rfl | ⟨-, -, ls, lp, rfl⟩⟩ := taskWrite_success h
  · exact (clockFor_keepsEngines s _).trans (write_onlyMem ..).keepsEngines
  · have hparts := OnlyMem.foldl fun (v : State) (q : Nat × List Byte) => write_onlyMem v (s.taskWho id t init) q.1 q.2 p
    exact ((clockFor_keepsEngines s _).trans (hparts _ _).keepsEngines).trans (modTask_keepsEngines ..)

/-- A store of a task that is not speculative is a plain write, after the clock request. -/
theorem taskWrite_plain {s u : State} {id init addr : Nat} {bs : List Byte} {p : Bool} {t : Task}
    (h : s.taskWrite id init addr bs p = (u, .success)) (ht : s.task? id = some t) (hspec : s.speculative t = false) :
    ∃ pow, u = ({ s with pow := pow } : State).write (s.taskWho id t init) (s.real addr) bs p := by
  obtain ⟨t', ht', hcases⟩ := taskWrite_success h
  obtain rfl : t = t' := Option.some.inj (ht.symm.trans ht')
  obtain ⟨pow, hpow⟩ := clockFor_onlyPow s (s.real addr)
  simp only [hpow] at hcases
  obtain hu | ⟨hopen, -⟩ := hcases
  · exact ⟨pow, hu⟩
  · cases hspec.symm.trans hopen

/-! ### The statement -/

/-- Settles O31. Every store is a clock request, writes to memory and, if it is speculative, a change of its own task; a store that is
not speculative is one plain write (R129). -/
theorem taskStores : Obligations.TaskStores := by
  unfold Obligations.TaskStores
  intro u u' id e d bs p hwf h
  obtain ⟨hvdes, htime, hcells⟩ := taskWrite_keepsEngines h
  refine ⟨hvdes, htime, hcells, fun tk htk hspec hmigs hreal hown hmarks hp => ?_⟩
  subst hp
  obtain ⟨pow, hu⟩ := taskWrite_plain h htk hspec
  rw [hreal] at hu
  have hcar : u'.car = u.car := by rw [hu]; exact (write_onlyMem ..).car
  have hbytes : u'.mem.mem = u.mem.mem.putBytes d bs := by
    rw [hu]
    exact write_bytes_of_unmarked (s := { u with pow := pow }) _ hreal hown hmigs hmarks
  rw [hbytes]
  exact ⟨hcar, fun i hi => Tab.get_putBytes_in hwf hi, fun a ha => Tab.get_putBytes_out ha⟩

end Sys2Proof.Machine

/-! PROOFS. The step, the generic checks and the posting of a completion (chapter 02, R54, R56 to R59, R630). -/

namespace Sys2Proof.Machine

/-! ### The step -/

/-- Settles O1. -/
theorem stepRunsFront : Obligations.StepRunsFront := by
  unfold Obligations.StepRunsFront
  intro i rest s
  rfl

/-! ### The generic checks, one by one (R630) -/

section Checks
variable {s : State} {fl : Flight} {ly : Layout} {c : CmdRef} {st : Status} {p : List Byte}

theorem genericCheck_unknown (hop : opcodeKnown fl.op = false) : genericCheck s fl ly c = some .badOpcode := by
  simp [genericCheck, hop]

theorem genericCheck_pf (hop : opcodeKnown fl.op = true) (hpf : (opcodesPf.contains fl.op && fl.fn != 0) = true) :
    genericCheck s fl ly c = some .notPermitted := by
  simp only [genericCheck, hop, hpf, Bool.not_true, Bool.false_eq_true, if_false, if_true]

/-- Past the opcode and its PF mark, the mode and attachment check decides when it answers. -/
theorem genericCheck_mode (hop : opcodeKnown fl.op = true) (hpf : (opcodesPf.contains fl.op && fl.fn != 0) = false)
    (hmode : modeCheck s fl (fl.params c.buf) = some st) : genericCheck s fl ly c = some st := by
  simp only [genericCheck, hop, hpf, hmode, Bool.not_true, Bool.false_eq_true, if_false]

theorem genericCheck_word (hop : opcodeKnown fl.op = true) (hpf : (opcodesPf.contains fl.op && fl.fn != 0) = false)
    (hmode : modeCheck s fl (fl.params c.buf) = none) (hword : wordOk s fl ly (fl.op == 0x0002 || s.anyBuf) = false) :
    genericCheck s fl ly c = some .badParam := by
  simp only [genericCheck, hop, hpf, hmode, hword, Bool.not_true, Bool.not_false, Bool.false_eq_true, if_false, if_true]

theorem genericCheck_layout (hop : opcodeKnown fl.op = true) (hpf : (opcodesPf.contains fl.op && fl.fn != 0) = false)
    (hmode : modeCheck s fl (fl.params c.buf) = none) (hword : wordOk s fl ly (fl.op == 0x0002 || s.anyBuf) = true)
    (hclean : (fl.ext && c.poison) = false) (hlayout : chkAll (fl.params c.buf) (ly.checks (fl.params c.buf)) = false) :
    genericCheck s fl ly c = some .badParam := by
  simp only [genericCheck, hop, hpf, hmode, hword, hclean, hlayout, Bool.not_true, Bool.not_false, Bool.false_and,
    Bool.false_eq_true, if_false, if_true]

/-- MODE_SET needs no ATTACH (R68). -/
theorem modeCheck_modeSet_ready (hop : fl.op = 0x0008) (hserver : s.host.server = .melvi) (hready : s.pow.mode = .ready) :
    modeCheck s fl p = none := by
  simp [modeCheck, hserver, hready, hop, preAttach]

/-- QUEUE_CREATE needs an ATTACH (R68). -/
theorem modeCheck_queueCreate_ready (hop : fl.op = 0x0004) (hattached : (s.func fl.fn).attached = false)
    (hserver : s.host.server = .melvi) (hready : s.pow.mode = .ready) : modeCheck s fl p = some .notPermitted := by
  simp [modeCheck, hserver, hready, hop, hattached, preAttach]

theorem modeCheck_queueCreate_boot (hop : fl.op = 0x0004) (hserver : s.host.server = .melvi) (hboot : s.pow.mode = .boot) :
    modeCheck s fl p = some .notReady := by
  simp [modeCheck, hserver, hboot, hop]

theorem modeCheck_queueCreate_fault (hop : fl.op = 0x0004) (hserver : s.host.server = .melvi) (hfault : s.pow.mode = .fault) :
    modeCheck s fl p = some .notPermitted := by
  simp [modeCheck, hserver, hfault, hop]

/-- What R54 asks of a command word that passes. -/
theorem wordOk_requires {free : Bool} (h : wordOk s fl ly free = true) :
    fl.tag ≠ 0xFFFFFFFF ∧ ly.plen ≤ fl.plen ∧ (fl.ext = false → fl.plen ≤ 48 ∧ ly.ext = false)
      ∧ (fl.ext = true → fl.plen ≤ fld fl.cmd 24 4 ∧ fld fl.cmd 24 4 ≤ 16777216) := by
  simp only [wordOk, Bool.and_eq_true, bne_iff_ne, decide_eq_true_eq] at h
  obtain ⟨⟨⟨⟨htag, hplen⟩, -⟩, -⟩, hbuf⟩ := h
  refine ⟨htag, hplen, fun hext => ?_, fun hext => ?_⟩
  · simpa [hext] using hbuf
  · obtain ⟨⟨⟨-, hlen⟩, hmax⟩, -⟩ := by simpa [hext] using hbuf
    exact ⟨hlen, hmax⟩

end Checks

/-- Settles O3, one check after the other in the order of R630; R54's cases are the contrapositives of what a passing command word has. -/
theorem genericChecksInOrder : Obligations.GenericChecksInOrder := by
  unfold Obligations.GenericChecksInOrder
  intro s fl ly c p pf word
  have hword : word = true → _ := wordOk_requires
  refine ⟨genericCheck_unknown, genericCheck_pf, fun st => genericCheck_mode, genericCheck_word, genericCheck_layout,
    fun hop _ => modeCheck_modeSet_ready hop, modeCheck_queueCreate_ready, modeCheck_queueCreate_boot,
    modeCheck_queueCreate_fault, fun htag => ?tag, fun hplen => ?short, fun hext hlong => ?inline, fun hext hneed => ?needsExt,
    fun hext hlong => ?huge, fun hext hshort => ?overrun⟩ <;>
    refine Bool.eq_false_iff.mpr fun h => ?_ <;> obtain ⟨htag', hplen', hin, hout⟩ := hword h
  case tag => exact htag' htag
  case short => omega
  case inline => have := (hin hext).1; omega
  case needsExt => exact absurd (hin hext).2 (by simp [hneed])
  case huge => have := (hout hext).2; omega
  case overrun => have := (hout hext).1; omega

/-! ### A refused host command -/

/-- Every row of Table 2-14 carries its command out in the one way of `runCmd`. -/
theorem exec_hostRow {i : Instr} {ly : Layout} {c : CmdRef} (h : hostRow i = some (ly, c)) :
    ∃ body, ∀ s, exec i s = .next (runCmd ly c body s) := by
  cases i <;> cases h <;> exact ⟨_, fun _ => rfl⟩

/-- Settles O4. -/
theorem refusedCommandOnlyCompletes : Obligations.RefusedCommandOnlyCompletes := by
  unfold Obligations.RefusedCommandOnlyCompletes
  intro i ly c s fl st hrow hrefused
  obtain ⟨body, hexec⟩ := exec_hostRow hrow
  rw [hexec, runCmd_refused hrefused]

/-! ### The frame of a completion -/

/-- Settles O5: a completion drops the command and then touches the outbox and the sender's own tables alone. -/
theorem completionFrame : Obligations.CompletionFrame := by
  unfold Obligations.CompletionFrame
  intro s fl op r u
  obtain ⟨outs, funcs, hu, hfuncs⟩ : OnlyFuncs (· = fl.fn) (s.dropFlight fl.id) u := complete_only s fl op r
  rw [hu]
  exact ⟨rfl, rfl, rfl, rfl, rfl, rfl, rfl, rfl, rfl, rfl, rfl, rfl, rfl, rfl, rfl, rfl, rfl, rfl, rfl, rfl, rfl, rfl, rfl, rfl,
    rfl, hfuncs⟩

end Sys2Proof.Machine

/-! PROOFS. The mailbox, the doorbells, the fetching of commands and coalesced interrupts (chapter 02, R44 to R62). -/

namespace Sys2Proof.Machine

/-! ### The mailbox (R44, R45) -/

section MailboxWrites
variable {t fn v : Nat} {s : State}

/-- An ACK acts in DONE only (Table 2-7). -/
theorem ctrl_st (m : Mailbox) (v : Nat) :
    (m.ctrl v).st = if bit v 1 = true ∧ m.st = .done then .acked else m.st := by
  simp [Mailbox.ctrl]

/-- The states in which a GO is obeyed, its ACK coming first. -/
theorem ctrl_open {m : Mailbox} {v : Nat} :
    (m.ctrl v).open_ = true ↔ m.st = .idle ∨ m.st = .acked ∨ (m.st = .done ∧ bit v 1 = true) := by
  cases h : m.st <;> cases hack : bit v 1 <;> simp [Mailbox.open_, ctrl_st, h, hack]

theorem ctrl_eq (m : Mailbox) (v : Nat) :
    m.ctrl v = { m with irqEn := bit v 2, goLost := m.goLost && !bit v 3, st := (m.ctrl v).st } := rfl

theorem exec_mboxGo (hgo : bit v 0 = true) (hfn : fn < 8) (hup : (s.advance t).barUp = true) :
    exec (.mboxGo t fn v) s = .next ((s.advance t).mboxCtrl fn v) := by
  change Host.Outcome.next (doMboxGo t fn v s) = _
  simp [doMboxGo, hgo, hfn, hup]

theorem exec_mboxAck (hgo : bit v 0 = false) (hack : bit v 1 = true) (hfn : fn < 8) (hup : (s.advance t).barUp = true) :
    exec (.mboxAck t fn v) s = .next ((s.advance t).mboxCtrl fn v) := by
  change Host.Outcome.next (doMboxAck t fn v s) = _
  simp [doMboxAck, hgo, hack, hfn, hup]

theorem mboxCtrl_noGo (hgo : bit v 0 = false) : s.mboxCtrl fn v = s.setMbox fn ((s.func fn).mbox.ctrl v) := by
  simp [State.mboxCtrl, hgo]

/-- A GO is lost while a command runs or an unacknowledged result is held. -/
theorem mboxCtrl_lost (hgo : bit v 0 = true) (hshut : ((s.func fn).mbox.ctrl v).open_ = false) :
    s.mboxCtrl fn v = s.setMbox fn { (s.func fn).mbox.ctrl v with goLost := true } := by
  simp [State.mboxCtrl, hgo, hshut]

theorem mboxCtrl_go (hgo : bit v 0 = true) (hopen : ((s.func fn).mbox.ctrl v).open_ = true)
    (hserver : s.host.server ≠ .nobody) :
    s.mboxCtrl fn v
      = (s.setMbox fn { (s.func fn).mbox.ctrl v with st := .busy }).mboxTake fn ((s.func fn).mbox.ctrl v).cmd := by
  simp [State.mboxCtrl, hgo, hopen, hserver]

/-- While Melvi serves, outside FAULT, a listed command joins the commands in progress. -/
theorem mboxTake_listed {cmd : List Byte} (hserver : s.host.server = .melvi) (hmode : s.pow.mode ≠ .fault)
    (hop : opcodeKnown (fld cmd 0 2) = true) :
    s.mboxTake fn cmd = { s with host := { s.host with
      flights := s.host.flights ++ [⟨s.host.nextFlight, fn, .mbox, cmd, 0, false, none⟩], nextFlight := s.host.nextFlight + 1 } } := by
  simp [State.mboxTake, State.domeServes, hserver, hmode, Flight.op, hop]

end MailboxWrites

/-- Settles O8: each row of Table 2-7 is one case of what a write of MBOX_CTRL does, at the state that its ACK leaves. -/
theorem mailboxStates : Obligations.MailboxStates := by
  unfold Obligations.MailboxStates
  intro t fn v s hfn hup s₁ m m'
  have hctrl (st : MboxState) (h : (m.ctrl v).st = st) : m.ctrl v = { m' with st := st } := by rw [ctrl_eq, h]
  have hshut (h : ¬(m.st = .idle ∨ m.st = .acked ∨ (m.st = .done ∧ bit v 1 = true))) : (m.ctrl v).open_ = false :=
    Bool.eq_false_iff.mpr (mt ctrl_open.mp h)
  refine ⟨fun hgo hack hdone => ?ack, fun hgo hack hst => ?ackIgnored, fun hgo hbusy => ?goBusy,
    fun hgo hack hdone => ?goDone, fun hgo hst hserver hmode hop => ?go⟩
  case ack =>
    rw [exec_mboxAck hgo hack hfn hup, mboxCtrl_noGo hgo, hctrl .acked (by simp [ctrl_st, hack, hdone])]
  case ackIgnored =>
    rw [exec_mboxAck hgo hack hfn hup, mboxCtrl_noGo hgo, hctrl m.st (by simp [ctrl_st, hst])]
  case goBusy =>
    rw [exec_mboxGo hgo hfn hup, mboxCtrl_lost hgo (hshut (by simp [hbusy])), hctrl m.st (by simp [ctrl_st, hbusy])]
  case goDone =>
    rw [exec_mboxGo hgo hfn hup, mboxCtrl_lost hgo (hshut (by simp [hdone, hack])), hctrl m.st (by simp [ctrl_st, hack])]
  case go =>
    have hserver' : s₁.host.server ≠ .nobody := by simp [hserver]
    rw [exec_mboxGo hgo hfn hup, mboxCtrl_go hgo (ctrl_open.mpr hst) hserver']
    exact congrArg _ (mboxTake_listed (s := s₁.setMbox fn _) hserver hmode hop)

/-! ### The doorbells (R49, R628) -/

section DoorbellWrites
variable {t fn qp v : Nat} {s : State} {q : QueuePair}

theorem exec_sqTailWrite (hfn : fn < 8) (hqp : qp < 64) (hup : (s.advance t).barUp = true) :
    exec (.sqTailWrite t fn qp v) s = .next ((s.advance t).sqTail fn qp v) := by
  change Host.Outcome.next (doSqTailWrite t fn qp v s) = _
  simp [doSqTailWrite, hfn, hqp, hup]

theorem exec_cqHeadWrite (hfn : fn < 8) (hqp : qp < 64) (hup : (s.advance t).barUp = true) :
    exec (.cqHeadWrite t fn qp v) s = .next ((s.advance t).cqHead fn qp v) := by
  change Host.Outcome.next (doCqHeadWrite t fn qp v s) = _
  simp [doCqHeadWrite, hfn, hqp, hup]

theorem sqTail_noPair (h : (s.func fn).qps.find? qp = none) : s.sqTail fn qp v = s.post fn 0x0001 2 qp := by
  simp [State.sqTail, h, State.badDoorbell, b2n]

theorem cqHead_noPair (h : (s.func fn).qps.find? qp = none) : s.cqHead fn qp v = s.post fn 0x0001 2 (qp + 256) := by
  simp [State.cqHead, h, State.badDoorbell, b2n]

theorem sqTail_pair (h : (s.func fn).qps.find? qp = some q) :
    s.sqTail fn qp v = if q.entries ≤ v % 4096 then s.post fn 0x0001 2 qp
      else s.modFunc fn fun f => { f with qps := f.qps.upd qp fun q => { q with sqTail := v % 4096 } } := by
  simp [State.sqTail, h, State.badDoorbell, b2n]

/-- CQ_HEAD is taken when it lies within the queue and returns no more entries than are posted. -/
theorem cqHead_pair (h : (s.func fn).qps.find? qp = some q) :
    s.cqHead fn qp v
      = let n := (v % 4096 + q.entries - q.cqHead) % q.entries
        if q.entries ≤ v % 4096 ∨ q.posted < n then s.post fn 0x0001 2 (qp + 256)
        else s.modFunc fn fun f => { f with qps := f.qps.upd qp fun x => { x with cqHead := v % 4096, posted := x.posted - n } } := by
  simp [State.cqHead, h, State.badDoorbell, b2n]

end DoorbellWrites

/-- Settles O9. -/
theorem doorbells : Obligations.Doorbells := by
  unfold Obligations.Doorbells
  intro t fn qp v s hfn hqp hup s₁ i
  rw [exec_sqTailWrite hfn hqp hup, exec_cqHeadWrite hfn hqp hup]
  refine ⟨fun h => ⟨by rw [sqTail_noPair h], by rw [cqHead_noPair h]⟩, fun q h => ?_⟩
  rw [sqTail_pair h, cqHead_pair h]
  refine ⟨fun hi => ⟨by rw [if_pos hi], by dsimp only; rw [if_pos (.inl hi)]⟩, fun hi => by rw [if_neg (Nat.not_le.mpr hi)],
    fun _ hn => by dsimp only; rw [if_pos (.inr hn)], fun hi hn => ?_⟩
  dsimp only
  rw [if_neg (not_or.mpr ⟨Nat.not_le.mpr hi, Nat.not_lt.mpr hn⟩)]

/-! ### Fetching commands (R51, R52, R57) -/

theorem roundRobin_eq_none {n last : Nat} {p : Nat → Bool} (hn : 0 < n) (h : ∀ k < n, p k = false) :
    roundRobin n last p = none := by
  simp only [roundRobin, List.find?_eq_none, List.mem_map]
  rintro k ⟨i, -, rfl⟩
  simp [h _ (Nat.mod_lt _ hn)]

theorem Tab.mem_of_find? {α : Type} {m : Tab α} {k : Nat} {x : α} (h : m.find? k = some x) : (k, x) ∈ m := by
  induction m with
  | nil => cases h
  | cons e m ih =>
    obtain ⟨a, w⟩ := e
    rw [Tab.find?] at h
    split at h
    · next hk => cases h; cases hk; exact List.mem_cons_self
    · exact List.mem_cons_of_mem _ (ih h)

/-- With no free completion entry in any of its queues a function has no pair to fetch from (R51). -/
theorem nextPair_eq_none {f : Func} (h : ∀ q ∈ f.qps, q.2.free = 0) : f.nextPair = none := by
  have hpair (u : Bool) (i : Nat) : ((f.qps.find? i).any fun q => q.urgent == u && q.ready) = false := by
    cases hq : f.qps.find? i with
    | none => rfl
    | some q => simp [QueuePair.ready, h _ (Tab.mem_of_find? hq)]
  have hnone (u : Bool) (last : Nat) := roundRobin_eq_none (last := last) (by decide : 0 < 64) fun i _ => hpair u i
  simp only [Func.nextPair, hnone]

/-- An unpoisoned entry with a listed opcode is a command: it does not end by itself. -/
theorem endBad_command {s : State} {fl : Flight} (hpoison : fl.poison = false) (hop : opcodeKnown fl.op = true) :
    s.endBad fl = s := by
  simp [State.endBad, Flight.bad, hpoison, hop]

theorem exec_commandFetch_none {t : Nat} {entry : List Byte} {po : Bool} {s : State}
    (h : ∀ fn < 8, ((s.advance t).func fn).nextPair = none) :
    exec (.commandFetch t entry po) s = .next (s.advance t) := by
  change Host.Outcome.next (doCommandFetch t entry po s) = _
  have hidle : roundRobin 8 (s.advance t).host.lastFn (fun fn => ((s.advance t).func fn).nextPair.isSome) = none :=
    roundRobin_eq_none (by decide) fun fn hfn => by rw [h fn hfn]; rfl
  simp [doCommandFetch, hidle]

/-! ### Coalesced interrupts (R62) -/

theorem exec_cqCoalesceTimeout {t fn qp : Nat} {s : State} {q : QueuePair}
    (hq : ((s.advance t).func fn).qps.find? qp = some q) (hwait : 0 < q.unsignalled) :
    exec (.cqCoalesceTimeout t fn qp) s
      = .next (if (s.advance t).time.frc < q.oldest + usToFrc q.coalUs then s.advance t
          else ((s.advance t).modFunc fn fun f => { f with qps := f.qps.set qp { q with unsignalled := 0 } }).signal fn q.vector) := by
  change Host.Outcome.next (doCqCoalesceTimeout t fn qp s) = _
  simp [doCqCoalesceTimeout, hq, Nat.pos_iff_ne_zero.mp hwait]

/-- Settles O11. -/
theorem fetchAndCoalesce : Obligations.FetchAndCoalesce := by
  unfold Obligations.FetchAndCoalesce
  refine ⟨?fetch, ?full, ?coalesce⟩
  case fetch =>
    intro t entry s fn qp q s₁ head hserver hmode hfn hqp hq hop u
    have hserves : ¬(s₁.host.server != .melvi || s₁.pow.mode == .fault) = true := by simp [hserver, hmode]
    change Host.Outcome.next (doCommandFetch t entry false s) = _
    unfold doCommandFetch
    dsimp only
    rw [if_neg hserves, hfn]
    dsimp only
    rw [hqp]
    dsimp only
    rw [hq]
    exact congrArg _ (endBad_command rfl hop)
  case full =>
    intro t entry po s hfull
    exact exec_commandFetch_none fun fn hfn => nextPair_eq_none (hfull fn hfn)
  case coalesce =>
    intro t fn qp s q s₁ hq hwait
    rw [exec_cqCoalesceTimeout hq hwait]
    exact ⟨fun hearly => by rw [if_pos hearly], fun hdue => by rw [if_neg (Nat.not_lt.mpr hdue)]⟩

end Sys2Proof.Machine

/-! PROOFS. The admin commands, TENANT_CONFIG and the end of commands that take time (chapter 02, R39 to R42, R47, R58, R61 to R71; R476). -/

namespace Sys2Proof.Machine

/-! ### A command that no check refuses -/

section Rows
variable {i : Instr} {ly : Layout} {c : CmdRef} {body : CmdIn → State → Ans} {s s' : State} {fl : Flight}
  (hi : exec i s = .next (runCmd ly c body s)) (hready : Ready ly c s fl)
include hi hready

theorem exec_done {r : Reply} (hb : body (fl.input c) (s.advance c.t) = (s', .done r)) :
    exec i s = .next (s'.complete fl ly.op r) := by
  rw [hi, runCmd_done hready hb]

theorem exec_later {w : Wait} (hb : body (fl.input c) (s.advance c.t) = (s', .later w)) :
    exec i s = .next (s'.park fl.id w) := by
  rw [hi, runCmd_later hready hb]

end Rows

/-! ### What each command's own part answers -/

section Bodies
variable {i : CmdIn} {s : State}

theorem bodyIdentify_inline (h : fld i.p 0 8 = 0) : bodyIdentify i s = (s, .done (.ok s.identity)) := by
  simp [bodyIdentify, h, ok]

theorem bodyIdentify_buffer (h : fld i.p 0 8 ≠ 0) :
    bodyIdentify i s = (s, .done (.okBuf (fld i.p 0 8) (s.identityBuf i.fn))) := by
  simp [bodyIdentify, h]

theorem bodyAttach_otherVersion (h : fld i.p 2 2 ≠ 1) : bodyAttach i s = (s, .done (.bare .notPermitted)) := by
  simp [bodyAttach, h, refuse]

theorem bodyAttach_version (h : fld i.p 2 2 = 1) :
    bodyAttach i s = (s.modFunc i.fn fun f => { f with
      qps := [], subs := [], attached := true, windows := (List.range (fld i.p 4 4)).map fun k => attachWin i.p k
      hold := .none, muted := false, complLost := 0, eventsLost := 0 }, .done (.ok (leBytes 2 i.fn ++ leBytes 2 s.clu.device))) := by
  simp [bodyAttach, h, ok, Func.noQueues, State.deviceId]

/-- The queue pair that a QUEUE_CREATE layout describes, empty (R47, R48). -/
def newPair (p : List Byte) : QueuePair :=
  { entries := fld p 2 2, sqAddr := fld p 16 8, cqAddr := fld p 24 8, vector := fld p 4 2, urgent := fld p 6 1 == 0
    coalCount := fld p 7 1, coalUs := fld p 8 2, sqTail := 0, sqHead := 0, cqTail := 0, phase := true, cqHead := 0
    posted := 0, reserved := 0, unsignalled := 0, oldest := 0, stopped := false }

theorem bodyQueueCreate_created (hsq : fld i.p 16 8 % 64 = 0) (hcq : fld i.p 24 8 % 32 = 0)
    (hsqHost : s.hostOk i.fn (fld i.p 16 8) (64 * fld i.p 2 2) false = true)
    (hcqHost : s.hostOk i.fn (fld i.p 24 8) (32 * fld i.p 2 2) true = true)
    (hnew : (s.func i.fn).qps.has (fld i.p 0 2) = false) (hquota : (s.func i.fn).qps.length < s.queueQuota i.fn) :
    bodyQueueCreate i s
      = (s.modFunc i.fn fun f => { f with qps := f.qps.set (fld i.p 0 2) (newPair i.p) }, .done (.ok [])) := by
  simp [bodyQueueCreate, hsq, hcq, hsqHost, hcqHost, hnew, Nat.not_le.mpr hquota, ok, newPair]

theorem bodyQueueDelete_started (hpair : (s.func i.fn).qps.has (fld i.p 0 2) = true) (hself : i.qp ≠ some (fld i.p 0 2))
    (hfree : s.cqAwaited i.fn (fld i.p 0 2) = false) :
    bodyQueueDelete i s = (s.modFunc i.fn fun f => { f with
      qps := f.qps.upd (fld i.p 0 2) fun q => { q with stopped := true } }, .later (.queueDelete (fld i.p 0 2))) := by
  simp [bodyQueueDelete, hpair, hself, hfree]

theorem bodyEventSubscribe_removed (h : fld i.p 0 2 = 0) :
    bodyEventSubscribe i s = (s.modFunc i.fn fun f => { f with subs := [] }, .done (.ok [])) := by
  simp [bodyEventSubscribe, h, ok]

/-- Without areas 0 and 7, for which an event may wait, a subscription binds its areas and that is all. -/
theorem bodyEventSubscribe_bound (hareas : fld i.p 0 2 ≠ 0) (hhold : bit (fld i.p 0 2) 0 = false)
    (hcause : bit (fld i.p 0 2) 7 = false) (hpair : (s.func i.fn).qps.has (fld i.p 3 1) = true) :
    bodyEventSubscribe i s = (s.modFunc i.fn fun f => { f with
      subs := (maskBits (fld i.p 0 2) 12).foldl (fun m a => m.set a ⟨fld i.p 3 1, fld i.p 2 1⟩) f.subs }, .done (.ok [])) := by
  simp only [bodyEventSubscribe, hareas, hhold, hcause, hpair, Bool.not_true, Bool.false_eq_true, if_false]
  split <;> rfl

/-- MODE_SET to a mode that the present one may leave for (Table 17-2), no self-test running. -/
theorem bodyModeSet_entered {m m' : ChipMode} {n : Nat} (hm : s.pow.mode = m) (hto : fld i.p 0 1 = n)
    (hcode : (if n = 2 then .ready else if n = 3 then .service else .maint) = m')
    (hmay : modeMay s.cells.isEmpty m n = true) (hbist : m = .maint → s.fault.bists = []) :
    bodyModeSet i s = (s.enterMode m', .done (.ok [])) := by
  subst hcode
  by_cases hmaint : m = .maint
  · simp [bodyModeSet, hm, hto, hmay, hbist hmaint, ok]
  · simp [bodyModeSet, hm, hto, hmay, hmaint, ok]

/-- MODE_SET to READY waits for the last cell to go. -/
theorem bodyModeSet_cells (hm : s.pow.mode = .service) (hto : fld i.p 0 1 = 2) (hcells : s.cells ≠ []) :
    bodyModeSet i s = (s, .done (.bare .notPermitted)) := by
  simp [bodyModeSet, hm, hto, modeMay, hcells, refuse]

end Bodies

/-- Settles O6. That a second ATTACH replaces the windows of the first is the model's choice (log entry 35), which R69 leaves open. -/
theorem adminCommandsComplete : Obligations.AdminCommandsComplete := by
  unfold Obligations.AdminCommandsComplete
  intro c s fl s₁ p pair
  refine ⟨fun h hbuf => ?_, fun h hbuf => ?_, fun h hver => ?_, fun h hver => ?_, fun h => ?_,
    fun h hsq hcq hsqHost hcqHost hnew hquota => ?_, fun h hpair hself hfree => ?_, fun h hareas => ?_,
    fun h hareas hhold hcause hpair => ?_, fun h hm hto => ?_, fun h hm hto hcells => ?_, fun h hm hto hcells => ?_,
    fun h hm hto => ?_, fun h hm hto hbist => ?_⟩
  · exact exec_done rfl h (bodyIdentify_inline hbuf)
  · exact exec_done rfl h (bodyIdentify_buffer hbuf)
  · exact exec_done rfl h (bodyAttach_version hver)
  · exact exec_done rfl h (bodyAttach_otherVersion hver)
  · exact exec_later (body := bodyDetach) rfl h rfl
  · exact exec_done rfl h (bodyQueueCreate_created hsq hcq hsqHost hcqHost hnew hquota)
  · exact exec_later rfl h (bodyQueueDelete_started hpair hself hfree)
  · exact exec_done rfl h (bodyEventSubscribe_removed hareas)
  · exact exec_done rfl h (bodyEventSubscribe_bound hareas hhold hcause hpair)
  · exact exec_done rfl h (bodyModeSet_entered hm hto rfl rfl nofun)
  · exact exec_done rfl h (bodyModeSet_entered hm hto rfl (by rw [hcells]; rfl) nofun)
  · exact exec_done rfl h (bodyModeSet_cells hm hto hcells)
  · exact exec_done rfl h (bodyModeSet_entered hm hto rfl rfl nofun)
  · exact exec_done rfl h (bodyModeSet_entered hm hto rfl rfl fun _ => hbist)

/-! ### TENANT_CONFIG (R41, R42) -/

section TenantConfig
variable {i : CmdIn} {s : State}

theorem bodyTenantConfig_attached (hatt : (s.func (fld i.p 0 1)).attached = true) :
    bodyTenantConfig i s = (s, .done (.bare .notPermitted)) := by
  simp [bodyTenantConfig, hatt, refuse]

theorem bodyTenantConfig_disabled (hatt : (s.func (fld i.p 0 1)).attached = false) (hoff : fld i.p 1 1 = 0)
    (hten : s.tenant? (fld i.p 0 1) ≠ none) :
    bodyTenantConfig i s = (s.drainTenant (fld i.p 0 1), .later (.tenant (fld i.p 0 1))) := by
  simp [bodyTenantConfig, hatt, hoff, hten]

section Enabled
variable (hatt : (s.func (fld i.p 0 1)).attached = false) (hon : fld i.p 1 1 = 1)
include hatt hon

theorem bodyTenantConfig_badFields (hfields : (tenantOf i.p).fieldsOk = false) :
    bodyTenantConfig i s = (s, .done (.bare .badParam)) := by
  simp [bodyTenantConfig, hatt, hon, hfields, refuse]

theorem bodyTenantConfig_taken (hfields : (tenantOf i.p).fieldsOk = true)
    (htaken : s.tenantTaken (fld i.p 0 1) (tenantOf i.p) = true) :
    bodyTenantConfig i s = (s, .done (.bare .noResource)) := by
  simp [bodyTenantConfig, hatt, hon, hfields, htaken, refuse]

theorem bodyTenantConfig_assigned (hfields : (tenantOf i.p).fieldsOk = true)
    (hfree : s.tenantTaken (fld i.p 0 1) (tenantOf i.p) = false)
    (hidle : ∀ f ∈ s.host.flights, f.wait ≠ some (.tenant (fld i.p 0 1))) :
    bodyTenantConfig i s = (s.assignTenant (fld i.p 0 1) (tenantOf i.p), .later (.settled .success [])) := by
  have hwaits : s.host.flights.any (fun f => f.wait == some (.tenant (fld i.p 0 1))) = false := by
    simpa using hidle
  simp [bodyTenantConfig, hatt, hon, hfields, hfree, hwaits]

end Enabled
end TenantConfig

/-! ### COMMAND_COMPLETION (R56, R58, R70, R71) -/

section Completion
variable {t id : Nat} {s : State} {fl : Flight}

theorem exec_commandCompletion_started {w : Wait} (hfl : (s.advance t).flight? id = some fl) (hw : fl.wait = some w) :
    exec (.commandCompletion t id) s = .next ((s.advance t).completeCmd fl w) := by
  change Host.Outcome.next (doCommandCompletion t id s) = _
  simp [doCommandCompletion, hfl, hw]

theorem exec_commandCompletion_waiting (hfl : (s.advance t).flight? id = some fl) (hw : fl.wait = none) :
    exec (.commandCompletion t id) s = .next ((s.advance t).endBad fl) := by
  change Host.Outcome.next (doCommandCompletion t id s) = _
  simp [doCommandCompletion, hfl, hw]

theorem endBad_bad {op : Nat} {st : Status} (hw : fl.wait = none) (hbad : fl.bad = some (op, st)) :
    s.endBad fl = if mayStart fl s.host.flights then s.complete fl op (.bare st) else s := by
  simp [State.endBad, hw, hbad]

theorem completeCmd_detach (h : ∀ f ∈ s.host.flights, f.fn = fl.fn → f.id ≠ fl.id → f.wait = some .detach) :
    s.completeCmd fl .detach = s.finishDetach fl := by
  have halone : s.othersOf fl none = false := by simpa [State.othersOf] using h
  simp [State.completeCmd, halone]

theorem completeCmd_queueDelete {qp : Nat} (h : ∀ f ∈ s.host.flights, f.fn = fl.fn → f.id ≠ fl.id → f.src ≠ .sq qp) :
    s.completeCmd fl (.queueDelete qp) = s.finishQueueDelete fl qp := by
  have halone : s.othersOf fl (some qp) = false := by simpa [State.othersOf] using h
  simp [State.completeCmd, halone]

theorem completeCmd_tenant {fn : Nat} {x : Tenant} (htasks : s.tenantTasks fn = []) (hten : s.tenant? fn = some x) :
    s.completeCmd fl (.tenant fn) = (s.removeTenant fn x).complete fl fl.op (.bare .success) := by
  simp [State.completeCmd, htasks, hten]

end Completion

/-- Settles O7. The model's choices among the clauses: ENABLE 1 takes effect at once and completes by COMMAND_COMPLETION (log entry 46);
DETACH waits for every command but other DETACHes, and an entry that is no command ends by COMMAND_COMPLETION (log entry 47). -/
theorem tenantsAndCompletions : Obligations.TenantsAndCompletions := by
  unfold Obligations.TenantsAndCompletions
  refine ⟨?config, ?completion⟩
  case config =>
    intro c s fl s₁ p fn
    refine ⟨fun h hatt => ?_, fun h hatt hoff hten => ?_, fun h hatt hon hfields hfree hidle => ?_,
      fun h hatt hon hfields => ?_, fun h hatt hon hfields htaken => ?_⟩
    · exact exec_done rfl h (bodyTenantConfig_attached hatt)
    · exact exec_later rfl h (bodyTenantConfig_disabled hatt hoff hten)
    · exact exec_later rfl h (bodyTenantConfig_assigned hatt hon hfields hfree hidle)
    · exact exec_done rfl h (bodyTenantConfig_badFields hatt hon hfields)
    · exact exec_done rfl h (bodyTenantConfig_taken hatt hon hfields htaken)
  case completion =>
    intro t id s fl hfl s₁
    refine ⟨fun st res hw => ?_, fun op st hw hbad => ?_, fun hw halone => ?_, fun q hw halone => ?_, fun act res hw => ?_,
      fun fn x hw htasks hten => ?_⟩
    · exact exec_commandCompletion_started hfl hw
    · rw [exec_commandCompletion_waiting hfl hw, endBad_bad hw hbad]
    · rw [exec_commandCompletion_started hfl hw, completeCmd_detach halone]
    · rw [exec_commandCompletion_started hfl hw, completeCmd_queueDelete halone]; rfl
    · exact exec_commandCompletion_started hfl hw
    · rw [exec_commandCompletion_started hfl hw, completeCmd_tenant htasks hten]

end Sys2Proof.Machine

/-! PROOFS. The clock: a tick, and an adjustment that takes effect at F (chapter 03, R75, R78 to R82, R101). -/

namespace Sys2Proof.Machine

/-! ### An empty queue -/

theorem step_empty {s : State} (h : s.pending = []) : step s = .next s.idle := by
  simp only [step, h]

/-- Settles O2. That an idle step counts one tick is the model's choice (log entry 2). -/
theorem emptyQueueTicks : Obligations.EmptyQueueTicks := by
  unfold Obligations.EmptyQueueTicks
  intro s hempty
  exact step_empty hempty

/-! ### What leaves the Ephemeris alone -/

theorem State.advance_time (s : State) (t : Nat) : (s.advance t).time = { s.time with frc := max s.time.frc t } := by
  unfold State.advance
  split
  · next h => rw [Nat.max_eq_right h.le]
  · next h => rw [Nat.max_eq_left (Nat.not_lt.mp h)]

theorem OnlyFuncs.time {p : Nat → Prop} {s u : State} (h : OnlyFuncs p s u) : u.time = s.time := by
  obtain ⟨o, g, rfl, -⟩ := h; rfl

theorem postAll_time (s : State) (code sev data : Nat) : (s.postAll code sev data).time = s.time := (postAll_only ..).time

theorem complete_time (s : State) (fl : Flight) (op : Nat) (r : Reply) : (s.complete fl op r).time = s.time :=
  (complete_only ..).time

theorem completeWaits_time (s : State) (p : Wait → Option Reply) : (s.completeWaits p).time = s.time := by
  unfold State.completeWaits
  generalize s.host.flights = fls
  induction fls generalizing s with
  | nil => rfl
  | cons fl fls ih =>
    rw [List.foldl_cons, ih]
    split
    · rfl
    · split
      · rfl
      · exact complete_time ..

/-! ### The list of conversions (R80) -/

/-- Behind an older conversion, the newest one holds from its start on. -/
theorem convAt_cons {c : Conv} {cs : List Conv} (hcs : cs ≠ []) (f : Nat) :
    convAt (c :: cs) f = if c.start ≤ f then c else convAt cs f := by
  cases cs with
  | nil => exact absurd rfl hcs
  | cons c' cs => rfl

theorem setResid_convs (s : State) (f : Nat) (v : Int) : (s.setResid f v).time.convs = s.time.convs := by
  unfold State.setResid
  split <;> rfl

theorem skipRef_convs (s : State) (f : Nat) : (s.skipRef f).time.convs = s.time.convs := rfl

/-- A step, a slew and dropped strobes leave the conversions alone: applying one puts it in front of the others. -/
theorem applyConv_convs (s : State) (c : Conv) (delta : Int) (slew : Nat) :
    (s.applyConv c delta slew).time.convs = c :: s.time.convs := by
  unfold State.applyConv
  dsimp only
  rw [postAll_time, apply_ite State.time, apply_ite TimeSt.convs, skipRef_convs, ite_self]
  split
  · rw [setResid_convs]
  · rfl

/-! ### TIME_ADJUST_APPLY (R80, R82) -/

theorem doTimeAdjustApply_due {t : Nat} {root : Option (Int × Nat)} {s : State} {a : PendAdj}
    (hadj : (s.advance t).time.pendAdj = some a) (hdue : a.f ≤ (s.advance t).time.frc) :
    let u := (s.advance t).applyConv ⟨a.f, a.rate, a.offset, ((s.advance t).conv.epoch + 1) % 65536⟩ a.delta a.slew
    ∃ p, doTimeAdjustApply t root s = ({ u with time := { u.time with pendAdj := none } }).completeWaits p := by
  unfold doTimeAdjustApply
  dsimp only
  rw [hadj]
  dsimp only
  rw [if_neg (Nat.not_lt.mpr hdue)]
  exact ⟨_, rfl⟩

/-- From F on the pending adjustment is the newest conversion, and no longer pending. -/
theorem doTimeAdjustApply_time {t : Nat} {root : Option (Int × Nat)} {s : State} {a : PendAdj} (hadj : s.time.pendAdj = some a)
    (hdue : a.f ≤ (s.advance t).time.frc) :
    (doTimeAdjustApply t root s).time.pendAdj = none
      ∧ (doTimeAdjustApply t root s).time.convs = ⟨a.f, a.rate, a.offset, (s.conv.epoch + 1) % 65536⟩ :: s.time.convs := by
  have hadj' : (s.advance t).time.pendAdj = some a := by rw [State.advance_time]; exact hadj
  obtain ⟨p, hdo⟩ := doTimeAdjustApply_due (root := root) hadj' hdue
  have hconv : (s.advance t).conv = s.conv := by simp only [State.conv, State.advance_time]
  rw [hdo, completeWaits_time, applyConv_convs, hconv, State.advance_time]
  exact ⟨rfl, rfl⟩

/-- Settles O13: the new conversion stands in front of the old ones and starts at F. -/
theorem adjustmentSplitsAtF : Obligations.AdjustmentSplitsAtF := by
  unfold Obligations.AdjustmentSplitsAtF
  intro t s a hadj hconvs hdue
  obtain ⟨hdone, hnew⟩ := doTimeAdjustApply_time (root := none) hadj hdue
  refine ⟨doTimeAdjustApply t none s, rfl, hdone, fun f hf => ?_, fun f hf => ?_⟩
  · simp only [State.timeAt, State.epochAt, hnew, convAt_cons hconvs, if_pos hf, Conv.timeAt, and_self]
  · simp only [State.timeAt, State.epochAt, hnew, convAt_cons hconvs, if_neg (Nat.not_le.mpr hf), and_self]

end Sys2Proof.Machine

/-! PROOFS. The symbols and slots of a radio frame (chapter 03, R93, R94, Table 3-4). -/

namespace Sys2Proof.Machine

/-! ### Symbols counted through the radio frame -/

/-- Count offset of the `n`-th symbol start of a radio frame whose half-subframes begin with a symbol. -/
def countOff (num n : Nat) : Nat :=
  n / symsPerHalf num * halfCounts + (if n % symsPerHalf num = 0 then 0 else symExtra num + n % symsPerHalf num * symLen num)

theorem symOff_eq_countOff {num : Nat} (h : num ≠ 0x22) (slot sym : Nat) :
    symOff num slot sym = countOff num (slot * symsPer num + sym) := by
  simp only [symOff, countOff, if_neg h]

/-- Code 0x22 has 20 half-subframes' counts in 5 slots of 4 half-subframes each, and a gap at the end of a slot. -/
theorem symOff_gapped (slot sym : Nat) : symOff 0x22 slot sym = slot * 1966080 + sym * 270336 := rfl

/-- The symbols of a half-subframe fill it (Table 3-4), and those of the slots fill 20 of them. -/
theorem symbols_fill_half {num : Nat} (hnum : num ∈ numerologies) (h : num ≠ 0x22) :
    0 < symsPerHalf num ∧ symExtra num + symsPerHalf num * symLen num = halfCounts
      ∧ 0 < symsPer num ∧ slotsPer num * symsPer num = 20 * symsPerHalf num := by
  revert num
  decide

section Halves
variable {num : Nat} (hpos : 0 < symsPerHalf num) (hfill : symExtra num + symsPerHalf num * symLen num = halfCounts)
include hpos

theorem countOff_halves (q : Nat) : countOff num (symsPerHalf num * q) = q * halfCounts := by
  simp [countOff, Nat.mul_div_cancel_left q hpos]

include hfill

/-- A position within a half-subframe or at its end. -/
theorem countOff_split (q : Nat) {i : Nat} (hi : i ≤ symsPerHalf num) :
    countOff num (symsPerHalf num * q + i) = q * halfCounts + (if i = 0 then 0 else symExtra num + i * symLen num) := by
  rcases hi.lt_or_eq with hlt | rfl
  · simp [countOff, Nat.mul_add_div hpos, Nat.div_eq_of_lt hlt, Nat.mod_eq_of_lt hlt]
  · rw [← Nat.mul_succ, countOff_halves hpos, if_neg hpos.ne', hfill, Nat.succ_mul]

/-- Each symbol ends where the next begins; the first of a half-subframe is longer. -/
theorem countOff_succ (n : Nat) :
    countOff num (n + 1) = countOff num n + (symLen num + if n % symsPerHalf num = 0 then symExtra num else 0) := by
  have hlt := Nat.mod_lt n hpos
  rw [← Nat.div_add_mod n (symsPerHalf num), Nat.add_assoc, countOff_split hpos hfill _ hlt,
    countOff_split hpos hfill _ hlt.le, Nat.mul_add_mod, Nat.mod_mod, if_neg (Nat.succ_ne_zero _)]
  split
  · next h => rw [h]; omega
  · rw [Nat.succ_mul]; omega

end Halves

/-- Table 3-4's lengths by slot and symbol: the longer ones are the first of their half-subframes. Row by row this says which symbols
of a slot have a number in the frame that the symbols of a half-subframe divide. -/
theorem symLasts_eq {num : Nat} (hnum : num ∈ numerologies) (h : num ≠ 0x22) (slot : Nat) {sym : Nat} (hsym : sym < symsPer num) :
    symLasts num slot sym
      = symLen num + if (slot * symsPer num + sym) % symsPerHalf num = 0 then symExtra num else 0 := by
  simp only [numerologies, List.mem_cons, List.not_mem_nil, or_false] at hnum
  rcases hnum with rfl | rfl | rfl | rfl | rfl | rfl | rfl | rfl | rfl | rfl | rfl <;>
    simp [symLasts, symLen, symsPerHalf, symExtra, symsPer, halfCounts] at h hsym ⊢ <;>
    grind

/-- A symbol ends at the count at which the next one of the frame starts. -/
theorem symOff_add_symLasts {num : Nat} (hnum : num ∈ numerologies) (h : num ≠ 0x22) {slot sym : Nat} (hsym : sym < symsPer num) :
    symOff num slot sym + symLasts num slot sym = countOff num (slot * symsPer num + sym + 1) := by
  obtain ⟨hpos, hfill, -, -⟩ := symbols_fill_half hnum h
  rw [symOff_eq_countOff h, symLasts_eq hnum h slot hsym, countOff_succ hpos hfill]

/-- Settles O16: the symbols of a frame, counted through its half-subframes, each begin where the one before ends; code 0x22 is apart. -/
theorem symbolsFillTheFrame : Obligations.SymbolsFillTheFrame := by
  unfold Obligations.SymbolsFillTheFrame
  intro num hnum
  by_cases h : num = 0x22
  case pos =>
    subst h
    refine ⟨rfl, fun slot _ sym _ => ?symbol, fun slot _ => ?slot, rfl⟩
    case symbol => simp only [symOff_gapped, symLasts]; omega
    case slot => simp only [symOff_gapped, symLasts, symsPer, if_true]; omega
  case neg =>
    obtain ⟨hpos, -, hsyms, hslots⟩ := symbols_fill_half hnum h
    refine ⟨?start, fun slot _ sym hsym => ?symbol, fun slot _ => ?slot, ?frame⟩
    case start => simp [symOff_eq_countOff h, countOff]
    case symbol =>
      rw [symOff_add_symLasts hnum h (by omega), symOff_eq_countOff h, Nat.add_assoc]
    case slot =>
      have hlast : (slot + 1) * symsPer num + 0 = slot * symsPer num + (symsPer num - 1) + 1 := by
        rw [Nat.succ_mul]; omega
      rw [symOff_add_symLasts hnum h (by omega), if_neg h, symOff_eq_countOff h, hlast, Nat.add_zero (countOff ..)]
    case frame =>
      rw [symOff_eq_countOff h, Nat.add_zero, hslots, Nat.mul_comm, countOff_halves hpos]; rfl

end Sys2Proof.Machine

/-! PROOFS. The time commands (chapter 03, R80 to R82, R88, R97, R98, R104). -/

namespace Sys2Proof.Machine

section Bodies
variable {i : CmdIn} {s : State}

/-! ### TIME_GET and TIME_ADJUST -/

theorem bodyTimeGet_inline (h : fld i.p 0 8 = 0) : bodyTimeGet i s = (s, .done (.ok s.timeInline)) := by
  simp [bodyTimeGet, h, ok]

theorem bodyTimeGet_buffer (h : fld i.p 0 8 ≠ 0) : bodyTimeGet i s = (s, .done (.okBuf (fld i.p 0 8) s.timeBuffer)) := by
  simp [bodyTimeGet, h]

/-- The first count that an explicit AT_FRC may name is 983 ahead (R81). -/
theorem adjustBad_early {p : List Byte} (hat : fld p 8 8 ≠ 0) (hearly : fld p 8 8 < s.time.frc + 983) : s.adjustBad p = true := by
  simp [State.adjustBad, hat, hearly]

theorem bodyTimeAdjust_underRoot (h : s.underRoot = true) : bodyTimeAdjust i s = (s, .done (.bare .notPermitted)) := by
  simp [bodyTimeAdjust, h, refuse]

theorem bodyTimeAdjust_bad (hroot : s.underRoot = false) (hbad : s.adjustBad i.p = true) :
    bodyTimeAdjust i s = (s, .done (.bare .badParam)) := by
  simp [bodyTimeAdjust, hroot, hbad, refuse]

theorem bodyTimeAdjust_taken (hroot : s.underRoot = false) (hbad : s.adjustBad i.p = false) (hpend : s.time.pendAdj ≠ none) :
    bodyTimeAdjust i s = (s, .done (.bare .noResource)) := by
  simp [bodyTimeAdjust, hroot, hbad, Option.isSome_iff_ne_none.mpr hpend, refuse]

/-- With no cell timeline anchored or pending, R92 refuses nothing. -/
theorem bodyTimeAdjust_pending (hroot : s.underRoot = false) (hbad : s.adjustBad i.p = false) (hpend : s.time.pendAdj = none)
    (hanchored : s.anchored = false) :
    bodyTimeAdjust i s = ({ s with time := { s.time with pendAdj := some (s.adjustment i.p (s.adjustF i.p)) } },
      .later (.timeAdjust (s.adjustResult (s.adjustment i.p (s.adjustF i.p))))) := by
  simp [bodyTimeAdjust, hroot, hbad, hpend, hanchored]

/-! ### TIMELINE_ANCHOR -/

section Anchor
variable (howns : s.ownsCell i.fn (fld i.p 0 2) = true)
include howns

/-- A cell in any state but HIBERNATED keeps its timeline (R98). -/
theorem bodyTimelineAnchor_inUse {cell : Cell} (hcell : s.cells.find? (fld i.p 0 2) = some cell) (hst : cell.st ≠ .hibernated) :
    bodyTimelineAnchor i s = (s, .done (.bare .notPermitted)) := by
  simp [bodyTimelineAnchor, howns, hcell, hst, refuse]

variable (hcell : s.cells.find? (fld i.p 0 2) = none) (hfree : s.time.pendAnchors.has (fld i.p 0 2) = false)
include hcell hfree

theorem bodyTimelineAnchor_anchored (hact : fld i.p 2 1 = 1) (hadj : s.time.pendAdj = none) :
    let a : PendAnchor := ⟨fld i.p 3 1, sfld i.p 4 4, fld i.p 8 2, frameFrom (sfld i.p 4 4) (s.theta (s.time.frc + 983040))⟩
    bodyTimelineAnchor i s = ({ s with time := { s.time with pendAnchors := s.time.pendAnchors.set (fld i.p 0 2) a } },
      .later (.anchor (fld i.p 0 2))) := by
  simp [bodyTimelineAnchor, howns, hcell, hfree, hact, hadj]

theorem bodyTimelineAnchor_removed (hact : fld i.p 2 1 = 0) :
    bodyTimelineAnchor i s
      = (({ s with time := { s.time with anchors := s.time.anchors.del (fld i.p 0 2) } }).settleResid, .done (.ok (zeros 16))) := by
  simp [bodyTimelineAnchor, howns, hcell, hfree, hact, ok]

end Anchor

/-! ### PPS_CONFIG -/

theorem bodyPpsConfig_set (hroot : s.underRoot = false) :
    bodyPpsConfig i s = ({ s with time := { s.time with pps := { s.time.pps with
      enable := bit (fld i.p 0 1) 0, falling := bit (fld i.p 0 1) 1, events := bit (fld i.p 0 1) 2, windowUs := fld i.p 2 2
      cableNs := sfld i.p 4 4, last := none, due := 0, missing := 0 } } }, .done (.ok [])) := by
  simp [bodyPpsConfig, hroot, ok]

end Bodies

/-- Settles O14. That PPS_CONFIG forgets the last edge and starts the missing seconds again is the model's choice (log entry 40). -/
theorem timeCommandsComplete : Obligations.TimeCommandsComplete := by
  unfold Obligations.TimeCommandsComplete
  intro c s fl s₁ p ns
  refine ⟨fun h hinline => ?_, fun h hbuf => ?_, fun h hroot => ?_, fun h hroot hat hearly => ?_, fun h hroot hbad hpend => ?_,
    fun h hroot hbad hpend hanchored => ?_, fun h howns hcell hact hfree hadj => ?_, fun cell h howns hcell hst => ?_,
    fun h howns hcell hact hfree => ?_, fun h hroot => ?_⟩
  · exact exec_done rfl h (bodyTimeGet_inline hinline)
  · exact exec_done rfl h (bodyTimeGet_buffer hbuf)
  · exact exec_done rfl h (bodyTimeAdjust_underRoot hroot)
  · exact exec_done rfl h (bodyTimeAdjust_bad hroot (adjustBad_early hat hearly))
  · exact exec_done rfl h (bodyTimeAdjust_taken hroot hbad hpend)
  · exact exec_later rfl h (bodyTimeAdjust_pending hroot hbad hpend hanchored)
  · exact exec_later rfl h (bodyTimelineAnchor_anchored howns hcell hfree hact hadj)
  · exact exec_done rfl h (bodyTimelineAnchor_inUse howns hcell hst)
  · exact exec_done rfl h (bodyTimelineAnchor_removed howns hcell hfree hact)
  · exact exec_done rfl h (bodyPpsConfig_set hroot)

end Sys2Proof.Machine

/-! PROOFS. The events of the Ephemeris (chapter 03, R77, R87, R89, R91, R94, R95, R97, R100, R103). -/

namespace Sys2Proof.Machine

section Events
variable {t : Nat} {s : State}

/-! ### REFCLK_TIM and PPS_IN -/

theorem exec_refclkLoss (h : (s.advance t).time.refLost = none) :
    exec (.refclkLoss t) s = .next (({ s.advance t with time := { (s.advance t).time with
      refLost := some (s.advance t).time.frc } }).postAll 0x0104 3 0) := by
  change Host.Outcome.next (doRefclkLoss t s) = _
  simp [doRefclkLoss, h]

theorem exec_refclkRestored {f : Nat} (h : (s.advance t).time.refLost = some f) :
    exec (.refclkRestored t) s = .next (({ s.advance t with time := { (s.advance t).time with refLost := none } }).postAll 0x0105 1
      (sat32 (((s.advance t).time.frc - f) * 100 / 98304))) := by
  change Host.Outcome.next (doRefclkRestored t s) = _
  simp [doRefclkRestored, h]

theorem exec_ppsCapture_short {w : Nat} (h : w < 100) : exec (.ppsCapture t w) s = .next (s.advance t) := by
  change Host.Outcome.next (doPpsCapture t w s) = _
  simp [doPpsCapture, h]

theorem exec_ppsCapture_counted {w : Nat} (hlong : 100 ≤ w) (hon : (s.advance t).time.pps.enable = true)
    (hquiet : (s.advance t).time.pps.events = false) :
    exec (.ppsCapture t w) s = .next { s.advance t with time := { (s.advance t).time with pps := { (s.advance t).time.pps with
      edges := ((s.advance t).time.pps.edges + 1) % 2 ^ 32, last := some (s.advance t).time.frc, due := (s.advance t).time.frc
      missing := 0 } } } := by
  change Host.Outcome.next (doPpsCapture t w s) = _
  simp [doPpsCapture, Nat.not_lt.mpr hlong, hon, hquiet]

theorem exec_ppsMissing_due (hon : (s.advance t).time.pps.enable = true) (hlast : (s.advance t).time.pps.last ≠ none)
    (hdue : (s.advance t).time.pps.due + 983040000 + usToFrc (s.advance t).time.pps.windowUs ≤ (s.advance t).time.frc) :
    exec (.ppsMissing t) s = .next (({ s.advance t with time := { (s.advance t).time with pps := { (s.advance t).time.pps with
      due := (s.advance t).time.pps.due + 983040000, missing := (s.advance t).time.pps.missing + 1 } } }).postAll 0x0102 1
        ((s.advance t).time.pps.missing + 1)) := by
  change Host.Outcome.next (doPpsMissing t s) = _
  simp [doPpsMissing, hon, hlast, Nat.not_lt.mpr hdue]

/-! ### Strobes of the reference timeline and of a cell -/

/-- The reference timeline's next strobe is at a position. -/
def State.refAt (s : State) (pos : Int × Nat) : State :=
  { s with time := { s.time with refTl := { s.time.refTl with k := pos.1, off := pos.2 } } }

/-- The slew of S at a count, with the strobes that Θ passes by it dropped (R91, R95). -/
def State.slewAt (s : State) (f : Nat) : State :=
  let u := s.setResid f (slewStep s.time.resid s.time.slew)
  if u.refPassed f then u.skipRef f else u

/-- What the reference timeline's strobe at the count `f` does, when the next one is at `pos`: the start of a radio frame slews S. -/
def State.strobeRef (s : State) (f : Nat) (pos : Int × Nat) : State :=
  if s.time.refTl.off = 0 && (s.refAt pos).time.lastAdj < f then (s.refAt pos).slewAt f else s.refAt pos

@[simp] theorem State.refAt_lastAdj (pos : Int × Nat) : (s.refAt pos).time.lastAdj = s.time.lastAdj := rfl

/-- Inside a radio frame a strobe leaves S as it is. -/
theorem strobeRef_inFrame (f : Nat) (pos : Int × Nat) (hoff : s.time.refTl.off ≠ 0) : s.strobeRef f pos = s.refAt pos := by
  simp [State.strobeRef, hoff]

theorem strobeRef_frameStart {f : Nat} (pos : Int × Nat) (hoff : s.time.refTl.off = 0) (hadj : s.time.lastAdj < f) :
    s.strobeRef f pos = (s.refAt pos).slewAt f := by
  simp [State.strobeRef, hoff, hadj]

theorem exec_timelineStrobe_ref :
    exec (.timelineStrobe t none) s = .next (
      let nom := nominal 0 (s.advance t).time.refTl.k (s.advance t).time.refTl.off
      if (s.advance t).thetaNow < nom then s.advance t
      else (s.advance t).strobeRef ((s.advance t).frcOfTheta nom)
        (nextStrobe (s.advance t).time.refTl.num (s.advance t).time.refTl.k (s.advance t).time.refTl.off)) := rfl

theorem exec_timelineStrobe_cell {c : Nat} {tl : Timeline} (hanchor : (s.advance t).anchor? c = some tl)
    (hdue : nominal tl.toff tl.k tl.off ≤ (s.advance t).thetaNow) :
    exec (.timelineStrobe t (some c)) s
      = .next ((({ s.advance t with time := { (s.advance t).time with anchors := (s.advance t).time.anchors.set c { tl with
          k := (nextStrobe tl.num tl.k tl.off).1, off := (nextStrobe tl.num tl.k tl.off).2 } } }).openWindows c tl.num
            (tl.k, tl.off)).deadlines c (tl.k, tl.off)) := by
  change Host.Outcome.next (doTimelineStrobe t (some c) s) = _
  simp only [doTimelineStrobe, hanchor, if_neg (Int.not_lt.mpr hdue)]

/-! ### An anchor that takes effect -/

/-- The anchor waits for the start of its radio frame, then becomes the cell's timeline there (R97). -/
theorem exec_anchorEffect {c : Nat} {a : PendAnchor} (h : (s.advance t).time.pendAnchors.find? c = some a) :
    let s₁ := s.advance t
    let start := s₁.frcOfTheta (nominal a.toff a.k 0)
    exec (.anchorEffect t c) s = .next (if s₁.thetaNow < nominal a.toff a.k 0 then s₁ else
      (({ s₁ with time := { s₁.time with
        anchors := s₁.time.anchors.set c ⟨a.num, a.toff, a.sfnBase, start, a.k, 0⟩
        pendAnchors := s₁.time.pendAnchors.del c } }).completeWaits fun w => if w = Wait.anchor c then
          some (.ok (leBytes 2 (sfnOf a.sfnBase a.k) ++ leBytes 2 (slotsPer a.num) ++ zeros 4 ++ leBytes 8 start))
          else none).settleWakes) := by
  change Host.Outcome.next (doAnchorEffect t c s) = _
  simp [doAnchorEffect, h]

/-! ### The cluster servo -/

section Servo
variable {rate : Nat} {off : Int} {eth : Bool} (hmember : (s.advance t).time.member = true)
include hmember

/-- A measurement within twice the bound lets the servo set RATE, T going on without a step and the epoch staying (R100). -/
theorem exec_servoRateUpdate_near (hnear : off.natAbs ≤ 2 * (if eth then 50 else 20))
    (hlast : (s.advance t).time.lastServo + 983040 ≤ (s.advance t).time.frc) (hrate : rateOk rate = true) :
    let s₁ := s.advance t
    exec (.servoRateUpdate t rate off eth) s = .next { s₁ with time := { s₁.time with
      misses := 0, aligned := true, lastServo := s₁.time.frc
      convs := ⟨s₁.time.frc, rate, unsgn 96 ((s₁.conv.timeAt s₁.time.frc : Int) - (s₁.time.frc * rate / 4096 : Nat)),
        s₁.conv.epoch⟩ :: s₁.time.convs } } := by
  change Host.Outcome.next (doServoRateUpdate t rate off eth s) = _
  simp only [doServoRateUpdate, hmember, Nat.not_lt.mpr hnear, Nat.not_lt.mpr hlast, hrate, decide_false, Bool.not_true,
    Bool.false_eq_true, Bool.or_self, if_false]
  rfl

/-- The tenth measurement in a row beyond twice the bound ends the alignment (R103). -/
theorem exec_servoRateUpdate_tenth (hfar : 2 * (if eth then 50 else 20) < off.natAbs) (hmisses : (s.advance t).time.misses = 9) :
    exec (.servoRateUpdate t rate off eth) s = .next (({ s.advance t with time := { (s.advance t).time with
      misses := 10, aligned := false } }).postAll 0x0106 2 (unsgn 32 (clampI (-2147483648) 2147483647 off))) := by
  change Host.Outcome.next (doServoRateUpdate t rate off eth s) = _
  simp only [doServoRateUpdate, hmember, hfar, hmisses, Bool.not_true, Bool.false_eq_true, if_false, if_true]
  rfl

end Servo
end Events

/-- Settles O15. The model's choices among the clauses: REFCLK_RESTORED's DATA is counted from the posting of the loss (log entry 43), and
an event of the whole device goes to every function that has subscribed to its area (log entry 6). -/
theorem timeEvents : Obligations.TimeEvents := by
  unfold Obligations.TimeEvents
  intro t s s₁ now
  refine ⟨exec_refclkLoss, fun f => exec_refclkRestored, fun w => exec_ppsCapture_short, fun w => exec_ppsCapture_counted,
    exec_ppsMissing_due, ⟨fun hearly => ?notYet, fun hdue hoff => ?inFrame, fun hdue hoff hadj => ?frameStart⟩,
    fun c tl => exec_timelineStrobe_cell, fun c a ha hearly => ?early, fun c a ha hdue => ?effect,
    fun rate off eth => exec_servoRateUpdate_near, fun rate off eth => exec_servoRateUpdate_tenth⟩
  case notYet => rw [exec_timelineStrobe_ref, if_pos hearly]
  case inFrame =>
    rw [exec_timelineStrobe_ref, if_neg (Int.not_lt.mpr hdue), strobeRef_inFrame _ _ hoff]
    rfl
  case frameStart =>
    rw [← hoff] at hadj
    rw [exec_timelineStrobe_ref, if_neg (Int.not_lt.mpr hdue), strobeRef_frameStart _ hoff hadj, hoff]
    rfl
  case early => rw [exec_anchorEffect ha, if_pos hearly]
  case effect => rw [exec_anchorEffect ha, if_neg (Int.not_lt.mpr hdue)]

end Sys2Proof.Machine

/-! PROOFS. SLOT_PLAN_SUBMIT: a plan becomes tasks, and the checks before it (chapter 04, R109, R114 to R116). -/

namespace Sys2Proof.Machine

/-! ### A plan becomes tasks (R114, R116) -/

theorem assignSeqs_length (p : List Byte) (next : Nat → Nat) (nodes : List (List Byte)) :
    (assignSeqs p next nodes).length = nodes.length := by
  induction nodes generalizing next with
  | nil => rfl
  | cons n nodes ih => rw [assignSeqs, List.length_cons, ih, List.length_cons]

/-- The tasks that a plan's nodes become, under the ids that they take: what `instantiate` lists. -/
def State.planTasks (s : State) (p : List Byte) (g : Graph) (tl : Timeline) : List (Nat × Task) :=
  let n := g.nodes.length
  let gids := freeIds (g.gates.length + s.car.gates.length) s.car.gates.keys 0 g.gates.length
  let seqs := assignSeqs p (fun f => ((s.car.flows.find? f).map Flow.next).getD 0) g.nodes
  (freeIds (n + s.car.tasks.length) s.car.tasks.keys 0 n).zip
    (((List.range n).zip (seqs.zip g.nodes)).map fun x =>
      mkTask p s.car.nextPlan (fld p 2 2) (fld p 8 2) tl.num tl.sfnBase (tpFrame tl s.thetaNow (fld p 4 4)) (tpSlot (fld p 4 4)) gids
        x.1 x.2.1 x.2.2)

section PlanTasks
variable (s : State) (p : List Byte) (g : Graph) (tl : Timeline)

theorem planTasks_length : (s.planTasks p g tl).length = g.nodes.length := by
  obtain ⟨-, -, hids⟩ := freeIds_spec (g.nodes.length + s.car.tasks.length) s.car.tasks.keys 0 g.nodes.length
  simp [State.planTasks, assignSeqs_length, hids (by simp [Tab.keys])]

theorem planTasks_ids_nodup : ((s.planTasks p g tl).map Prod.fst).Nodup := by
  obtain ⟨-, hnodup, hids⟩ := freeIds_spec (g.nodes.length + s.car.tasks.length) s.car.tasks.keys 0 g.nodes.length
  rw [State.planTasks, List.map_fst_zip (by simp [assignSeqs_length, hids (by simp [Tab.keys])])]
  exact hnodup

theorem planTasks_node {j : Nat} (hj : j < (s.planTasks p g tl).length) :
    (s.planTasks p g tl)[j].2.plan = s.car.nextPlan ∧ (s.planTasks p g tl)[j].2.node = j := by
  simp [State.planTasks, mkTask]

/-- Instantiation lists those tasks in some state, and whatever it does after that keeps every task. -/
theorem instantiate_lists (fn : Nat) : ∃ u : State, TasksKept (u.putTasks (s.planTasks p g tl)) (s.instantiate fn p g tl).1 :=
  ⟨_, ((signalGates_kept ..).trans (considerAll_kept ..)).trans (signalGates_kept ..)⟩

/-- Every node of the graph is a task of the new plan. -/
theorem instantiate_taskOfNode (fn : Nat) {j : Nat} (hj : j < g.nodes.length) :
    taskOfNode (s.instantiate fn p g tl).1 s.car.nextPlan j := by
  obtain ⟨u, hkept⟩ := instantiate_lists s p g tl fn
  obtain ⟨hlisted, -⟩ := putTasks_find (s.planTasks p g tl) (planTasks_ids_nodup s p g tl) u
  have hj' : j < (s.planTasks p g tl).length := by rwa [planTasks_length]
  obtain ⟨t, ht, hplan, hnode⟩ := hkept.out _ _ (hlisted _ (List.getElem_mem hj'))
  obtain ⟨hplan', hnode'⟩ := planTasks_node s p g tl hj'
  exact ⟨_, t, ht, hplan.trans hplan', hnode.trans hnode'⟩

end PlanTasks

theorem OnlyFuncs.car {p : Nat → Prop} {s u : State} (h : OnlyFuncs p s u) : u.car = s.car := by
  obtain ⟨o, g, rfl, -⟩ := h; rfl

theorem complete_car (s : State) (fl : Flight) (op : Nat) (r : Reply) : (s.complete fl op r).car = s.car := (complete_only ..).car

theorem taskOfNode_complete {s : State} {fl : Flight} {op : Nat} {r : Reply} {pid j : Nat} (h : taskOfNode s pid j) :
    taskOfNode (s.complete fl op r) pid j := by
  unfold taskOfNode; rwa [complete_car]

section Bodies
variable {i : CmdIn} {s : State}

theorem bodySlotPlan_refused {st : Status} (h : s.planCheck i.fn i.p = some st) : bodySlotPlan i s = (s, .done (.bare st)) := by
  simp [bodySlotPlan, h, refuse]

theorem bodySlotPlan_planned {g : Graph} {tl : Timeline} (h : s.planCheck i.fn i.p = none)
    (hg : s.car.graphs.find? (fld i.p 0 2) = some g) (htl : s.anchor? (fld i.p 2 2) = some tl) :
    bodySlotPlan i s = ((s.instantiate i.fn i.p g tl).1, .done (.ok (s.instantiate i.fn i.p g tl).2)) := by
  simp [bodySlotPlan, h, hg, htl, ok]

end Bodies

/-- Settles O17: a refused plan only completes, and an accepted one is instantiated whole. -/
theorem planAllOrNothing : Obligations.PlanAllOrNothing := by
  unfold Obligations.PlanAllOrNothing
  intro c s fl hready s₁ p
  refine ⟨fun st hst => ?refused, fun hnone g tl hg htl => ?planned⟩
  case refused => exact ⟨_, exec_done rfl hready (bodySlotPlan_refused hst), rfl, complete_car ..⟩
  case planned =>
    exact ⟨_, exec_done rfl hready (bodySlotPlan_planned hnone hg htl), rfl,
      fun j hj => taskOfNode_complete (instantiate_taskOfNode s₁ p g tl fl.fn hj)⟩

/-! ### The checks of a plan, item by item (R115) -/

/-- The flows that a plan maps the local flows of its nodes to. -/
def planFlows (p : List Byte) (g : Graph) : List Nat := (usedFlows g.nodes).map (mappedFlow p)

/-- The buffers of a plan's nodes, rebased. -/
def planBufs (p : List Byte) (g : Graph) : List BufRef :=
  g.nodes.flatMap fun n => [rebase p (fld n 32 8), rebase p (fld n 40 8), rebase p (fld n 48 8)]

/-- How many nodes of a plan will post a completion. -/
def planNotify (g : Graph) : Nat := (g.nodes.filter fun n => bit (fld n 30 1) 0).length

/-- Item 1: the cell, the mapped flows and the buffers are the tenant's, and the cell may be planned for. -/
def State.PlanOwned (s : State) (fn : Nat) (p : List Byte) (g : Graph) : Prop :=
  s.ownsCell fn (fld p 2 2) = true ∧ (∀ f ∈ planFlows p g, s.ownsFlow fn f = true)
    ∧ (∀ b ∈ planBufs p g, s.bufInTenant fn b = true) ∧ s.planCellOk (fld p 2 2) (fld p 4 4) = true

/-- Item 3: the slot, the flows, the tags and the symbols of a plan are good on the cell's timeline. -/
def State.PlanValid (s : State) (p : List Byte) (g : Graph) (tl : Timeline) : Prop :=
  let pt := fld p 4 4
  let k := tpFrame tl s.thetaNow pt
  let n := slotNow tl s.thetaNow
  tpValid tl.num pt = true ∧ s.thetaNow ≤ nominal tl.toff k (symOff tl.num (tpSlot pt) 0)
    ∧ (k - n.1) * slotsPer tl.num + ((tpSlot pt : Int) - n.2) ≤ 16
    ∧ (∀ f ∈ planFlows p g, ∃ x, s.car.flows.find? f = some x ∧ x.enabled = true)
    ∧ (∀ j < g.nodes.length, fld p 12 4 + j ≠ 0xFFFFFFFF)
    ∧ (∀ x ∈ g.gates, gtTimed x = true → gtSym x < symsPer tl.num)
    ∧ (∀ x ∈ g.nodes, bits (fld x 12 4) 11 8 < symsPer tl.num)

/-- Item 4: the plan's epoch has been revoked. -/
def State.PlanRevoked (s : State) (fn : Nat) (p : List Byte) : Prop :=
  ∃ e, s.car.epochs.find? (epochKey fn (fld p 8 2)) = some e ∧ e.st = .revoked

/-- Item 5: the quota, the tables, the flows and the completion queue have room for the plan. -/
def State.PlanFits (s : State) (fn : Nat) (p : List Byte) (g : Graph) : Prop :=
  (s.tenantTasks fn).length + g.nodes.length ≤ s.taskQuota fn
    ∧ s.car.tasks.length + g.nodes.length ≤ 262144 ∧ s.car.gates.length + g.gates.length ≤ 1048576
    ∧ (fld p 8 2 ≠ 0 → s.car.epochs.find? (epochKey fn (fld p 8 2)) = none →
        (s.car.epochs.count fun _ e => e.st == .opened) < 4096)
    ∧ (∀ f ∈ planFlows p g, ∀ x, s.car.flows.find? f = some x →
        x.unreleased + (g.nodes.filter fun n => mappedFlow p (fld n 4 2 % 4) == f).length ≤ 256)
    ∧ (planNotify g = 0 ∨ ∃ q, (s.func fn).qps.find? (fld p 10 1) = some q ∧ planNotify g ≤ q.free)

section PlanChecks
variable {s : State} {fn : Nat} {p : List Byte} {g : Graph} {tl : Timeline}

theorem not_planOwned_iff : (!s.ownsCell fn (fld p 2 2) || !((planFlows p g).all (s.ownsFlow fn))
    || !((planBufs p g).all (s.bufInTenant fn)) || !s.planCellOk (fld p 2 2) (fld p 4 4)) = true ↔ ¬ s.PlanOwned fn p g := by
  rw [← Bool.not_eq_false, not_iff_not]
  simp [State.PlanOwned, and_assoc]

theorem not_planValid_iff :
    let pt := fld p 4 4
    let k := tpFrame tl s.thetaNow pt
    let n := slotNow tl s.thetaNow
    (!tpValid tl.num pt || decide (nominal tl.toff k (symOff tl.num (tpSlot pt) 0) < s.thetaNow)
      || decide (16 < (k - n.1) * slotsPer tl.num + ((tpSlot pt : Int) - n.2))
      || !((planFlows p g).all fun f => (s.car.flows.find? f).any Flow.enabled)
      || ((List.range g.nodes.length).any fun j => fld p 12 4 + j == 0xFFFFFFFF)
      || (g.gates.any fun x => gtTimed x && decide (symsPer tl.num ≤ gtSym x))
      || (g.nodes.any fun x => decide (symsPer tl.num ≤ bits (fld x 12 4) 11 8))) = true ↔ ¬ s.PlanValid p g tl := by
  dsimp only
  rw [← Bool.not_eq_false, not_iff_not]
  simp [State.PlanValid, and_assoc, Option.any_eq_true]

theorem planRevoked_iff :
    ((s.car.epochs.find? (epochKey fn (fld p 8 2))).any fun e => e.st == .revoked) = true ↔ s.PlanRevoked fn p := by
  simp [State.PlanRevoked, Option.any_eq_true]

/-- The flows of a valid plan exist, so each flow's room is that of a listed flow. -/
theorem not_planFits_iff (hvalid : s.PlanValid p g tl) :
    (decide (s.taskQuota fn < (s.tenantTasks fn).length + g.nodes.length)
      || decide (262144 < s.car.tasks.length + g.nodes.length)
      || decide (1048576 < s.car.gates.length + g.gates.length)
      || (fld p 8 2 != 0 && (s.car.epochs.find? (epochKey fn (fld p 8 2))).isNone
          && decide (4096 ≤ s.car.epochs.count fun _ e => e.st == .opened))
      || ((planFlows p g).any fun f => decide (256 < ((s.car.flows.find? f).map Flow.unreleased).getD 0
            + (g.nodes.filter fun n => mappedFlow p (fld n 4 2 % 4) == f).length))
      || (decide (0 < planNotify g)
          && decide ((((s.func fn).qps.find? (fld p 10 1)).map QueuePair.free).getD 0 < planNotify g))) = true
      ↔ ¬ s.PlanFits fn p g := by
  obtain ⟨-, -, -, hflows, -⟩ := hvalid
  have hroom (f : Nat) (hf : f ∈ planFlows p g) (n : Nat) :
      ((s.car.flows.find? f).map Flow.unreleased).getD 0 + n ≤ 256 ↔
        ∀ x, s.car.flows.find? f = some x → x.unreleased + n ≤ 256 := by
    obtain ⟨x, hx, -⟩ := hflows f hf
    simp [hx]
  have hrooms := forall₂_congr fun f hf => hroom f hf (g.nodes.filter fun n => mappedFlow p (fld n 4 2 % 4) == f).length
  have hqueue : (0 < planNotify g → planNotify g ≤ (((s.func fn).qps.find? (fld p 10 1)).map QueuePair.free).getD 0) ↔
      (planNotify g = 0 ∨ ∃ q, (s.func fn).qps.find? (fld p 10 1) = some q ∧ planNotify g ≤ q.free) := by
    cases (s.func fn).qps.find? (fld p 10 1) <;> simp <;> omega
  rw [← Bool.not_eq_false, not_iff_not]
  simp [State.PlanFits, and_assoc, ← hqueue, hrooms]

open Classical in
/-- The first item that fails gives the status. -/
theorem planCheck_eq (hg : s.car.graphs.find? (fld p 0 2) = some g) :
    s.planCheck fn p =
      if ¬ s.PlanOwned fn p g then some .notPermitted
      else match s.anchor? (fld p 2 2) with
      | none => some .notReady
      | some tl =>
        if ¬ s.PlanValid p g tl then some .badParam
        else if s.PlanRevoked fn p then some .notPermitted
        else if ¬ s.PlanFits fn p g then some .noResource
        else none := by
  unfold State.planCheck
  simp only [hg, Option.map_some, Option.getD_some, Option.isNone_some, Bool.false_or]
  refine ite_congr (propext not_planOwned_iff) (fun _ => rfl) fun _ => ?_
  cases s.anchor? (fld p 2 2) with
  | none => rfl
  | some tl =>
    refine ite_congr (propext not_planValid_iff) (fun _ => rfl) fun hvalid => ?_
    exact ite_congr (propext planRevoked_iff) (fun _ => rfl) fun _ =>
      ite_congr (propext (not_planFits_iff (not_not.mp hvalid))) (fun _ => rfl) fun _ => rfl

section ByItem
variable (hg : s.car.graphs.find? (fld p 0 2) = some g)
include hg

theorem planCheck_notOwned (howned : ¬ s.PlanOwned fn p g) : s.planCheck fn p = some .notPermitted := by
  rw [planCheck_eq hg, if_pos howned]

theorem planCheck_noTimeline (howned : s.PlanOwned fn p g) (htl : s.anchor? (fld p 2 2) = none) :
    s.planCheck fn p = some .notReady := by
  simp [planCheck_eq hg, howned, htl]

variable (howned : s.PlanOwned fn p g) (htl : s.anchor? (fld p 2 2) = some tl)
include howned htl

theorem planCheck_notValid (hvalid : ¬ s.PlanValid p g tl) : s.planCheck fn p = some .badParam := by
  simp [planCheck_eq hg, howned, htl, hvalid]

theorem planCheck_revoked (hvalid : s.PlanValid p g tl) (hrev : s.PlanRevoked fn p) : s.planCheck fn p = some .notPermitted := by
  simp [planCheck_eq hg, howned, htl, hvalid, hrev]

theorem planCheck_notFits (hvalid : s.PlanValid p g tl) (hrev : ¬ s.PlanRevoked fn p) (hfits : ¬ s.PlanFits fn p g) :
    s.planCheck fn p = some .noResource := by
  simp [planCheck_eq hg, howned, htl, hvalid, hrev, hfits]

theorem planCheck_passed (hvalid : s.PlanValid p g tl) (hrev : ¬ s.PlanRevoked fn p) (hfits : s.PlanFits fn p g) :
    s.planCheck fn p = none := by
  simp [planCheck_eq hg, howned, htl, hvalid, hrev, hfits]

end ByItem
end PlanChecks

/-- Settles O18. The model's choices among the clauses: a node's DEADLINE symbol is judged as R99 judges a TL_POINT (log entry 57), and
"16 slots ahead" counts slot indices from the slot of the present (log entry 55). -/
theorem planChecksInOrder : Obligations.PlanChecksInOrder := by
  unfold Obligations.PlanChecksInOrder
  rintro s fn p g nodes hg rfl
  intro cell flows bufs key item1
  refine ⟨planCheck_notOwned hg, planCheck_noTimeline hg, fun tl htl howned => ?_⟩
  intro pt k n item3 item5
  have hopen (hrev : ∀ e, s.car.epochs.find? key = some e → e.st ≠ .revoked) : ¬ s.PlanRevoked fn p :=
    fun ⟨e, he, hst⟩ => hrev e he hst
  exact ⟨planCheck_notValid hg howned htl, fun hvalid e he hst => planCheck_revoked hg howned htl hvalid ⟨e, he, hst⟩,
    fun hvalid hrev => planCheck_notFits hg howned htl hvalid (hopen hrev),
    fun hvalid hrev => planCheck_passed hg howned htl hvalid (hopen hrev)⟩

end Sys2Proof.Machine

/-! PROOFS. The other scheduler commands: graphs, epochs, flows, the Observing Log (chapter 04, R112, R113, R121,
R124, R132 to R134, R137). -/

namespace Sys2Proof.Machine

/-! ### GRAPH_DEFINE (R112, R113) -/

/-- The templates of a GRAPH_DEFINE are well formed. -/
def State.TemplatesOk (s : State) (fn : Nat) (p : List Byte) : Prop :=
  ((pieces 4 (fld p 4 2) (p.drop 16)).map leNat).all gateTemplOk = true
    ∧ (pieces 64 (fld p 2 2) (p.drop (16 + 4 * fld p 4 2))).all (s.nodeOk fn (fld p 4 2)) = true

/-- The graph that a GRAPH_DEFINE describes. -/
def graphOf (fn : Nat) (p : List Byte) : Graph :=
  ⟨fn, (pieces 4 (fld p 4 2) (p.drop 16)).map leNat, pieces 64 (fld p 2 2) (p.drop (16 + 4 * fld p 4 2))⟩

section GraphDefine
variable {i : CmdIn} {s : State}

theorem bodyGraphDefine_badTemplates (h : ¬ s.TemplatesOk i.fn i.p) : bodyGraphDefine i s = (s, .done (.bare .badParam)) := by
  unfold State.TemplatesOk at h
  simp only [bodyGraphDefine, ← Bool.not_and, Bool.and_eq_true, Bool.not_eq_true', ← Bool.not_eq_true, h, not_false_eq_true, if_true,
    refuse]

variable (hok : s.TemplatesOk i.fn i.p)
include hok

theorem bodyGraphDefine_busy (hbusy : s.graphBusy (fld i.p 0 2) = true) : bodyGraphDefine i s = (s, .done (.bare .noResource)) := by
  obtain ⟨hgates, hnodes⟩ := hok
  simp only [bodyGraphDefine, hgates, hnodes, hbusy, Bool.not_true, Bool.or_self, Bool.false_eq_true, if_false, if_true, refuse]

variable (hidle : s.graphBusy (fld i.p 0 2) = false)
include hidle

theorem bodyGraphDefine_deleted (hn : fld i.p 2 2 = 0) :
    bodyGraphDefine i s = ({ s with car := { s.car with graphs := s.car.graphs.del (fld i.p 0 2) } }, .done (.ok [])) := by
  obtain ⟨hgates, -⟩ := hok
  simp [bodyGraphDefine, hgates, hidle, hn, pieces, ok, State.modCar]

variable (hn : fld i.p 2 2 ≠ 0) (hnew : s.car.graphs.find? (fld i.p 0 2) = none)
include hn hnew

theorem bodyGraphDefine_full (hfull : 1024 ≤ s.car.graphs.length ∨ 65536 < s.nodeCount + fld i.p 2 2) :
    bodyGraphDefine i s = (s, .done (.bare .noResource)) := by
  obtain ⟨hgates, hnodes⟩ := hok
  simp [bodyGraphDefine, hgates, hnodes, hidle, hn, hnew, hfull, Tab.has, refuse]

theorem bodyGraphDefine_defined (hgraphs : s.car.graphs.length < 1024) (htotal : s.nodeCount + fld i.p 2 2 ≤ 65536) :
    bodyGraphDefine i s
      = ({ s with car := { s.car with graphs := s.car.graphs.set (fld i.p 0 2) (graphOf i.fn i.p) } }, .done (.ok [])) := by
  obtain ⟨hgates, hnodes⟩ := hok
  simp [bodyGraphDefine, hgates, hnodes, hidle, hn, hnew, Nat.not_le.mpr hgraphs, Nat.not_lt.mpr htotal, Tab.has, ok, graphOf,
    State.modCar]

end GraphDefine

/-! ### EPOCH_COMMIT and EPOCH_REVOKE (R132 to R134) -/

/-- The state with a tenant's epoch set anew. -/
def State.setEpoch (s : State) (fn ep : Nat) (e : Epoch) : State :=
  s.modCar fun c => { c with epochs := c.epochs.set (epochKey fn ep) e }

section Epochs
variable {i : CmdIn} {s : State} {e : Epoch}

theorem bodyEpochCommit_unused (h : s.car.epochs.find? (epochKey i.fn (fld i.p 0 2)) = none) :
    bodyEpochCommit i s = (s, .done (.bare .notReady)) := by
  simp [bodyEpochCommit, h, refuse]

theorem bodyEpochRevoke_unused (h : s.car.epochs.find? (epochKey i.fn (fld i.p 0 2)) = none) :
    bodyEpochRevoke i s = (s, .done (.bare .notReady)) := by
  simp [bodyEpochRevoke, h, refuse]

variable (he : s.car.epochs.find? (epochKey i.fn (fld i.p 0 2)) = some e)
include he

theorem bodyEpochCommit_closed (hst : e.st ≠ .opened) : bodyEpochCommit i s = (s, .done (.bare .notPermitted)) := by
  simp [bodyEpochCommit, he, hst, refuse]

theorem bodyEpochRevoke_closed (hst : e.st ≠ .opened) : bodyEpochRevoke i s = (s, .done (.bare .notPermitted)) := by
  simp [bodyEpochRevoke, he, hst, refuse]

theorem bodyEpochCommit_open (hst : e.st = .opened) :
    bodyEpochCommit i s = ((s.setEpoch i.fn (fld i.p 0 2) { e with st := .committed }).settleEpoch i.fn (fld i.p 0 2),
      .done (.ok (leBytes 4 e.live ++ leBytes 4 e.released))) := by
  simp [bodyEpochCommit, he, hst, ok, State.setEpoch]

theorem bodyEpochRevoke_open (hst : e.st = .opened) :
    let u := ((s.setEpoch i.fn (fld i.p 0 2) { e with st := .revoked }).revokeAll (s.epochTasks i.fn (fld i.p 0 2))).settleEpoch
      i.fn (fld i.p 0 2)
    let res := leBytes 4 e.live ++ leBytes 4 e.released
    bodyEpochRevoke i s = if u.car.epochs.has (epochKey i.fn (fld i.p 0 2)) then (u, .later (.epochRevoke i.fn (fld i.p 0 2) res))
      else (u, .done (.ok res)) := by
  have hopen : (e.st != .opened) = false := by simp [hst]
  simp only [bodyEpochRevoke, he, hopen, Bool.false_eq_true, if_false]
  rfl

end Epochs

/-! ### OLOG_CONFIG (R137) -/

/-- The Observing Log as an OLOG_CONFIG sets it, empty. -/
def ologOf (p : List Byte) (en : Bool) : Olog :=
  ⟨fld p 0 8, fld p 8 4, en, bit (fld p 12 1) 1, fld p 13 1, fld p 14 2, fld p 16 2, fld p 18 2, fld p 20 2, 0, 0⟩

section OlogConfig
variable {i : CmdIn} {s : State}

theorem bodyOlogConfig_disabled (hen : bit (fld i.p 12 1) 0 = false) :
    bodyOlogConfig i s = ({ s with car := { s.car with olog := ologOf i.p false } }, .done (.ok [])) := by
  simp [bodyOlogConfig, hen, ok, ologOf, State.modCar]

variable (hen : bit (fld i.p 12 1) 0 = true)
include hen

theorem bodyOlogConfig_held
    (hheld : (s.heldByOther fun x => overlaps (fld i.p 0 8) (ringBytes (fld i.p 8 4)) x.hbmBase x.hbmSize) = true) :
    bodyOlogConfig i s = (s, .done (.bare .notPermitted)) := by
  simp [bodyOlogConfig, hen, hheld, refuse]

theorem bodyOlogConfig_enabled
    (hfree : (s.heldByOther fun x => overlaps (fld i.p 0 8) (ringBytes (fld i.p 8 4)) x.hbmBase x.hbmSize) = false) :
    bodyOlogConfig i s = (({ s with car := { s.car with olog := ologOf i.p true } }).write ⟨initMelvi, none, false, none⟩
      (fld i.p 0 8) (zeros 12) false, .done (.ok [])) := by
  simp [bodyOlogConfig, hen, hfree, ok, ologOf, State.modCar]

end OlogConfig

/-- Settles O19. -/
theorem carillonCommandsComplete : Obligations.CarillonCommandsComplete := by
  unfold Obligations.CarillonCommandsComplete
  intro c s fl s₁ p g n m gates nodes templates key other
  refine ⟨fun h hbad => ?_, fun h hok hbusy => ?_, fun h hok hidle hn => ?_, fun h hok hidle hn hnew hgraphs hnodes => ?_,
    fun h hok hidle hn hnew hfull => ?_, fun h hnone => ?_, fun e h he hst => ?_, fun e h he hst => ?_, fun h hnone => ?_,
    fun e h he hst => ?_, fun e h he hst => ?revoke, fun h => ?_, fun h hen hheld => ?_, fun h hen hfree => ?_, fun h hen => ?_⟩
  · exact exec_done rfl h (bodyGraphDefine_badTemplates hbad)
  · exact exec_done rfl h (bodyGraphDefine_busy hok hbusy)
  · exact exec_done rfl h (bodyGraphDefine_deleted hok hidle hn)
  · exact exec_done rfl h (bodyGraphDefine_defined (i := fl.input c) hok hidle hn hnew hgraphs hnodes)
  · exact exec_done rfl h (bodyGraphDefine_full (i := fl.input c) hok hidle hn hnew hfull)
  · exact exec_done rfl h (bodyEpochCommit_unused hnone)
  · exact exec_done rfl h (bodyEpochCommit_closed he hst)
  · exact exec_done rfl h (bodyEpochCommit_open he hst)
  · exact exec_done rfl h (bodyEpochRevoke_unused hnone)
  · exact exec_done rfl h (bodyEpochRevoke_closed he hst)
  case revoke =>
    intro u res
    have hbody := bodyEpochRevoke_open (i := fl.input c) he hst
    split
    next hlive => exact exec_later rfl h (hbody.trans (if_pos hlive))
    next hgone => exact exec_done rfl h (hbody.trans (if_neg hgone))
  · exact exec_done (body := bodyClassReserve) rfl h rfl
  · exact exec_done rfl h (bodyOlogConfig_held hen hheld)
  · exact exec_done rfl h (bodyOlogConfig_enabled hen hfree)
  · exact exec_done rfl h (bodyOlogConfig_disabled hen)

/-! ### FLOW_CONFIG (R124) -/

/-- The state with a flow set anew. -/
def State.setFlow (s : State) (f : Nat) (x : Flow) : State := { s with car := { s.car with flows := s.car.flows.set f x } }

section FlowConfig
variable {i : CmdIn} {s : State}

theorem bodyFlowConfig_notOwned (howns : s.ownsFlow i.fn (fld i.p 0 2) = false) :
    bodyFlowConfig i s = (s, .done (.bare .notPermitted)) := by
  simp [bodyFlowConfig, howns, refuse]

variable (howns : s.ownsFlow i.fn (fld i.p 0 2) = true)
include howns

theorem bodyFlowConfig_inUse {x : Flow} (hx : s.car.flows.find? (fld i.p 0 2) = some x) (hused : x.unreleased ≠ 0) :
    bodyFlowConfig i s = (s, .done (.bare .noResource)) := by
  simp [bodyFlowConfig, howns, hx, hused, refuse]

variable (hidle : ∀ x, s.car.flows.find? (fld i.p 0 2) = some x → x.unreleased = 0)
include hidle

theorem bodyFlowConfig_enabled (hen : fld i.p 2 1 = 1) : bodyFlowConfig i s = (s.setFlow (fld i.p 0 2)
    ⟨true, fld i.p 3 1 == 1, fld i.p 4 2, fld i.p 4 2, 0, []⟩, .done (.ok (leBytes 2 (fld i.p 4 2) ++ leBytes 2 0))) := by
  have hfree : ((s.car.flows.find? (fld i.p 0 2)).any fun x => x.unreleased != 0) = false := by simpa [Option.any_eq_false] using hidle
  simp [bodyFlowConfig, howns, hfree, hen, ok, State.setFlow, State.modCar]

/-- A disabled flow's head stays where it stands. -/
theorem bodyFlowConfig_disabled (hdis : fld i.p 2 1 = 0) :
    let h := ((s.car.flows.find? (fld i.p 0 2)).map Flow.head).getD 0
    bodyFlowConfig i s
      = (s.setFlow (fld i.p 0 2) ⟨false, fld i.p 3 1 == 1, h, h, 0, []⟩, .done (.ok (leBytes 2 h ++ leBytes 2 0))) := by
  have hfree : ((s.car.flows.find? (fld i.p 0 2)).any fun x => x.unreleased != 0) = false := by simpa [Option.any_eq_false] using hidle
  simp [bodyFlowConfig, howns, hfree, hdis, ok, State.setFlow, State.modCar]

end FlowConfig

/-- Settles O20. -/
theorem flowConfigRule : Obligations.FlowConfigRule := by
  unfold Obligations.FlowConfigRule
  intro c s fl h s₁ p f set
  refine ⟨fun howns => ?_, fun x howns hx hused => ?_, fun howns hidle hen => ?_, fun howns hidle hdis => ?disabled⟩
  · exact exec_done rfl h (bodyFlowConfig_notOwned howns)
  · exact exec_done rfl h (bodyFlowConfig_inUse howns hx hused)
  · exact exec_done rfl h (bodyFlowConfig_enabled howns hidle hen)
  case disabled =>
    exact ⟨((s₁.car.flows.find? f).map Flow.head).getD 0, fun x hx => by simp [hx],
      exec_done rfl h (bodyFlowConfig_disabled howns hidle hdis)⟩

end Sys2Proof.Machine

/-! PROOFS. The cell commands (chapter 04, R141 to R143; R488). -/

namespace Sys2Proof.Machine

/-- The state with a cell set anew. -/
def State.setCell (s : State) (c : Nat) (x : Cell) : State := { s with cells := s.cells.set c x }

/-! ### CELL_CREATE (R141, R143) -/

section CellCreate
variable {i : CmdIn} {s : State} (howns : s.ownsCell i.fn (fld i.p 0 2) = true)
  (hmode : s.pow.mode = .service ∨ s.pow.mode = .maint) (hnew : s.cells.find? (fld i.p 0 2) = none)
include howns hmode hnew

theorem bodyCellCreate_full (hfull : 384 ≤ s.cells.length ∨ s.acsOver (fld i.p 0 2) (fld i.p 6 2) (fld i.p 8 2) = true) :
    bodyCellCreate i s = (s, .done (.bare .noResource)) := by
  rcases hmode with hmode | hmode <;> simp [bodyCellCreate, howns, hmode, hnew, hfull, Tab.has, refuse]

variable (hroom : s.cells.length < 384) (hacs : s.acsOver (fld i.p 0 2) (fld i.p 6 2) (fld i.p 8 2) = false)
include hroom hacs

theorem bodyCellCreate_noTimeline (htl : s.anchor? (fld i.p 0 2) = none) :
    bodyCellCreate i s = (s, .done (.bare .notReady)) := by
  rcases hmode with hmode | hmode <;> simp [bodyCellCreate, howns, hmode, hnew, Nat.not_le.mpr hroom, hacs, htl, Tab.has, refuse]

/-- The cell takes its numerology from its timeline (R143). -/
theorem bodyCellCreate_created {tl : Timeline} (htl : s.anchor? (fld i.p 0 2) = some tl) :
    bodyCellCreate i s = (s.setCell (fld i.p 0 2) ⟨.service, fld i.p 2 1, fld i.p 3 1, fld i.p 4 2, fld i.p 6 2, fld i.p 8 2,
      fld i.p 10 1, fld i.p 11 1, fld i.p 12 2, fld i.p 14 1, tl.num, false, false⟩, .done (.ok [])) := by
  rcases hmode with hmode | hmode <;>
    simp [bodyCellCreate, State.setCell, howns, hmode, hnew, Nat.not_le.mpr hroom, hacs, htl, Tab.has, ok]

end CellCreate

/-! ### CELL_MODIFY (R141) -/

/-- A bit of a mask that meets none of another mask's bits. -/
theorem bit_of_land_eq_zero {m mask k : Nat} (h : m &&& mask = 0) (hk : mask.testBit k = true) : bit m k = false := by
  have hbit : (m &&& mask).testBit k = false := by rw [h, Nat.zero_testBit]
  simpa [bit, hk] using hbit

theorem modCell_st (p : List Byte) (x : Cell) : (modCell p x).st = x.st := rfl

theorem modCell_num (p : List Byte) (x : Cell) : (modCell p x).num = x.num := rfl

/-- A mask of HOME alone, bit 7, leaves the other fields. -/
theorem modCell_home {p : List Byte} (x : Cell) (h : fld p 2 2 &&& 0xFF7F = 0) : { modCell p x with home := x.home } = x := by
  simp (disch := decide) [modCell, bit_of_land_eq_zero h]

section ExistingCell
variable {i : CmdIn} {s : State} {x : Cell} (hx : s.cells.find? (fld i.p 0 2) = some x)
include hx

theorem bodyCellModify_inService (hst : x.st = .service) (hmask : fld i.p 2 2 &&& 0xFF7F ≠ 0) :
    bodyCellModify i s = (s, .done (.bare .notPermitted)) := by
  simp [bodyCellModify, hx, hst, hmask, refuse]

theorem bodyCellModify_modified (howns : s.ownsCell i.fn (fld i.p 0 2) = true)
    (hst : x.st = .hibernated ∨ (x.st = .service ∧ fld i.p 2 2 &&& 0xFF7F = 0))
    (hacs : s.acsOver (fld i.p 0 2) (modCell i.p x).acsDl (modCell i.p x).acsUl = false) :
    bodyCellModify i s = (s.setCell (fld i.p 0 2) (modCell i.p x), .done (.ok [])) := by
  rcases hst with hst | ⟨hst, hmask⟩
  · simp [bodyCellModify, State.setCell, hx, howns, hst, hacs, ok]
  · simp [bodyCellModify, State.setCell, hx, howns, hst, hmask, hacs, ok]

/-! ### CELL_DELETE -/

theorem bodyCellDelete_inUse (howns : s.ownsCell i.fn (fld i.p 0 2) = true) (hst : x.st ≠ .hibernating)
    (htasks : s.cellTasks (fld i.p 0 2) = true) : bodyCellDelete i s = (s, .done (.bare .noResource)) := by
  simp [bodyCellDelete, hx, howns, hst, htasks, refuse]

theorem bodyCellDelete_deleted (howns : s.ownsCell i.fn (fld i.p 0 2) = true) (hst : x.st ≠ .hibernating)
    (htasks : s.cellTasks (fld i.p 0 2) = false) :
    bodyCellDelete i s = ({ s with cells := s.cells.del (fld i.p 0 2)
                                   cal := { s.cal with arrays := s.cal.arrays.del (fld i.p 0 2) } }, .done (.ok [])) := by
  simp [bodyCellDelete, hx, howns, hst, htasks, ok]

/-! ### CELL_HIBERNATE (R142) -/

theorem bodyCellHibernate_notInService (hst : x.st ≠ .service) : bodyCellHibernate i s = (s, .done (.bare .notPermitted)) := by
  simp [bodyCellHibernate, hx, hst, refuse]

omit hx in
/-- A cell with a task does not change its state. -/
theorem settleCell_of_tasks {c : Nat} (htasks : s.cellTasks c = true) : s.settleCell c = s := by
  unfold State.cellTasks at htasks
  unfold State.settleCell
  split
  · rfl
  · simp [htasks]

theorem bodyCellHibernate_waits (howns : s.ownsCell i.fn (fld i.p 0 2) = true) (hst : x.st = .service)
    (htasks : s.cellTasks (fld i.p 0 2) = true) :
    bodyCellHibernate i s = (s.setCell (fld i.p 0 2) { x with st := .hibernating, watchPrach := bit (fld i.p 2 1) 0 },
      .later (.cellIdle (fld i.p 0 2))) := by
  have hstays (y : Cell) : (s.setCell (fld i.p 0 2) y).settleCell (fld i.p 0 2) = s.setCell (fld i.p 0 2) y :=
    settleCell_of_tasks htasks
  unfold State.setCell at hstays ⊢
  simp [bodyCellHibernate, hx, howns, hst, hstays, Tab.find?_set]

/-! ### CELL_WAKE (R488) -/

theorem bodyCellWake_notHibernated (hst : x.st ≠ .hibernated) : bodyCellWake i s = (s, .done (.bare .notPermitted)) := by
  simp [bodyCellWake, hx, hst, refuse]

variable (howns : s.ownsCell i.fn (fld i.p 0 2) = true) (hst : x.st = .hibernated)
include howns hst

theorem bodyCellWake_ready (hready : ((homeRegions x.home).foldl (fun s r => s.rouse r) s).wakeReady (fld i.p 0 2) x = true) :
    let u := (homeRegions x.home).foldl (fun s r => s.rouse r) s
    bodyCellWake i s = (u.setCell (fld i.p 0 2) { x with st := .service, failed := false },
      .done (.ok (leBytes 4 (u.firstSlot (fld i.p 0 2))))) := by
  simp only [bodyCellWake, hx, howns, hst, hready]
  rfl

theorem bodyCellWake_waits (hasleep : ((homeRegions x.home).foldl (fun s r => s.rouse r) s).wakeReady (fld i.p 0 2) x = false) :
    bodyCellWake i s = ((homeRegions x.home).foldl (fun s r => s.rouse r) s, .later (.cellWake (fld i.p 0 2))) := by
  simp [bodyCellWake, hx, howns, hst, hasleep]

end ExistingCell

/-! ### A cell that is not created -/

section NoCell
variable {i : CmdIn} {s : State} (hnone : s.cells.find? (fld i.p 0 2) = none)
include hnone

theorem bodyCellDelete_noCell : bodyCellDelete i s = (s, .done (.bare .notPermitted)) := by
  simp [bodyCellDelete, hnone, refuse]

theorem bodyCellHibernate_noCell : bodyCellHibernate i s = (s, .done (.bare .notPermitted)) := by
  simp [bodyCellHibernate, hnone, refuse]

end NoCell

/-- Settles O21. -/
theorem cellCommandsComplete : Obligations.CellCommandsComplete := by
  unfold Obligations.CellCommandsComplete
  intro c s fl s₁ p k owns put
  refine ⟨fun tl h howns hmode hnew hroom hacs htl => ?_, fun h howns hmode hnew hfull => ?_,
    fun h howns hmode hnew hroom hacs htl => ?_, fun x h howns hx hst hmask => ?_, fun x h howns hx hst hacs => ?_,
    fun x h hx => ⟨modCell_st .., modCell_num .., modCell_home x⟩, fun x h howns hx hst htasks => ?_,
    fun x h howns hx hst htasks => ?_, fun x h howns hx hst => ?_, fun x h howns hx hst htasks => ?_,
    fun x h howns hx hst => ⟨fun hready => ?_, fun hasleep => ?_⟩, fun h hnone => ?_, fun h hnone => ?_, fun x h hx hst => ?_⟩
  · exact exec_done rfl h (bodyCellCreate_created (i := fl.input c) howns hmode hnew hroom hacs htl)
  · exact exec_done rfl h (bodyCellCreate_full (i := fl.input c) howns hmode hnew hfull)
  · exact exec_done rfl h (bodyCellCreate_noTimeline (i := fl.input c) howns hmode hnew hroom hacs htl)
  · exact exec_done rfl h (bodyCellModify_inService hx hst hmask)
  · exact exec_done rfl h (bodyCellModify_modified hx howns hst hacs)
  · exact exec_done rfl h (bodyCellDelete_inUse hx howns hst htasks)
  · exact exec_done rfl h (bodyCellDelete_deleted hx howns hst htasks)
  · exact exec_done rfl h (bodyCellHibernate_notInService hx hst)
  · exact exec_later rfl h (bodyCellHibernate_waits hx howns hst htasks)
  · exact exec_done rfl h (bodyCellWake_ready hx howns hst hready)
  · exact exec_later rfl h (bodyCellWake_waits hx howns hst hasleep)
  · exact exec_done rfl h (bodyCellDelete_noCell hnone)
  · exact exec_done rfl h (bodyCellHibernate_noCell hnone)
  · exact exec_done rfl h (bodyCellWake_notHibernated hx hst)

end Sys2Proof.Machine

/-! PROOFS. Release, and the other events of the scheduler (chapter 04, R111, R113, R118, R119, R122, R123, R125, R126; R153, R169). -/

namespace Sys2Proof.Machine

/-! ### Releases (R125, R126) -/

section Release
variable {t id : Nat} {s : State} {k : Task}

/-- When a held task's turn has come (R125). -/
theorem releasable_iff : s.releasable k = true ↔ k.st = .doneHeld ∧ k.origin = none
    ∧ (∃ f, s.car.flows.find? k.flow = some f ∧ f.head = k.seq) ∧ (k.fail ≠ none ∨ s.speculative k = false) := by
  simp [State.releasable, Option.any_eq_true, Option.isSome_iff_ne_none, and_assoc]

theorem exec_release (hrun : (s.advance t).stopped = false) (hk : (s.advance t).task? id = some k) :
    exec (.release t id) s
      = .next (if (s.advance t).releasable k then (s.advance t).release id k else s.advance t) := by
  change Host.Outcome.next (doRelease t id s) = _
  simp [doRelease, hrun, hk]

/-- As failed: FAILED to OUT_GATE, the completion, FREE (R126). -/
theorem release_failed {st : Status} (hfail : k.fail = some st) :
    s.release id k
      = (((s.ologTask 3 id k st.code 0).signalGates (sig k.outGate (some st))).taskDone id k st).freeTask id k true := by
  simp only [State.release, hfail]

/-- Clean, of a task without HARQ: its lines first, then OUT_GATE, the completion, FREE (R126). -/
theorem release_clean (hfail : k.fail = none) (hharq : k.harq = false) :
    let st : Status := if k.late then .deadlineMissed else .success
    s.release id k
      = (((((s.drainLines id k).settleLines id true).ologTask 3 id k st.code 0).signalGates (sig k.outGate none)).taskDone id k st).freeTask
          id k true := by
  simp only [State.release, hfail, hharq, Bool.false_eq_true, if_false, Option.getD_none]

end Release

/-- Settles O22. -/
theorem releaseInOrder : Obligations.ReleaseInOrder := by
  unfold Obligations.ReleaseInOrder
  intro t id s k hrun hk s₁ turn
  have hexec := exec_release hrun hk
  have hturn (h : turn) : exec (.release t id) s = .next (s₁.release id k) := by rw [hexec, if_pos (releasable_iff.mpr h)]
  refine ⟨fun h => ?notYet, hturn, fun st h hfail => ?failed, fun h hfail hharq => ?clean⟩
  case notYet => rw [hexec, if_neg (mt releasable_iff.mp h)]
  case failed => rw [hturn h, release_failed hfail]
  case clean => rw [hturn h, release_clean hfail hharq]

/-! ### TIMED_GATE_EXPIRY (R113) -/

section Events
variable {t e : Nat} {s : State} (hrun : (s.advance t).stopped = false)

include hrun in
theorem exec_timedGateExpiry {g sym us : Nat} {gt : Gate} {p : Plan} {tl : Timeline} (hgate : (s.advance t).car.gates.find? g = some gt)
    (htimed : gt.timed = some (sym, us)) (hplan : (s.advance t).car.plans.find? gt.plan = some p)
    (htl : (s.advance t).anchor? p.cell = some tl) (hfired : gt.fired = false) :
    exec (.timedGateExpiry t g) s
      = .next (if (s.advance t).time.frc < (s.advance t).frcOfPos tl p.k (symOff tl.num p.slot sym) + usToFrc us then s.advance t
          else (s.advance t).signalGates [(g, none)]) := by
  change Host.Outcome.next (doTimedGateExpiry t g s) = _
  simp [doTimedGateExpiry, hrun, hgate, htimed, hplan, htl, hfired]

/-! ### DISPATCH (R119) -/

theorem exec_dispatch_notAble (h : (s.advance t).ableEngine e = false) : exec (.dispatch t e) s = .next (s.advance t) := by
  change Host.Outcome.next (doDispatch t e s) = _
  simp [doDispatch, h]

/-- A task whose descriptor is not poison starts, with a DISPATCH record. -/
theorem dispatchTo_clean {id : Nat} {k : Task} (h : s.poisonIn (taskAddr id) 64 = false) :
    s.dispatchTo e id k = (s.startOn e id k).olog 0 id k (some e) (engRegion e) 0 ((s.time.frc - k.readyAt) * 3125 / 3072) := by
  simp only [State.dispatchTo, h, Bool.false_eq_true, if_false]

theorem exec_dispatch_picked {x : Nat × Task} (h : (s.advance t).ableEngine e = true) (hx : (s.advance t).pickTask e = some x) :
    exec (.dispatch t e) s = .next ((s.advance t).dispatchTo e x.1 x.2) := by
  change Host.Outcome.next (doDispatch t e s) = _
  simp [doDispatch, h, hx]

/-! ### TASK_FINISH (R111, R118) -/

section Finish
variable {id : Nat} {k : Task}

/-- The status that a task ends with: a late error of a VDE counts against a clean end. -/
def State.endStatus (s : State) (e : Nat) (st : Status) : Status := if st = .success then ((s.vde e).bank.lateErr).getD st else st

theorem endStatus_clean (h : (s.vde e).bank.lateErr = none) : s.endStatus e .success = .success := by
  simp [State.endStatus, h]

theorem endStatus_failed {st : Status} (h : st ≠ .success) : s.endStatus e st = st := if_neg h

theorem finishTask_clean (hstays : k.leave = .no) (hlocal : k.origin = none) :
    s.finishTask e id k .success
      = ((s.vacate e).modTask id fun k => { k with st := .doneHeld, engine := none, region := none }).signalGates (sig k.doneGate none) := by
  simp [State.finishTask, hstays, hlocal]

theorem finishTask_failed {st : Status} (hst : st ≠ .success) (hstays : k.leave = .no) (hlocal : k.origin = none) :
    s.finishTask e id k st = ((s.vacate e).modTask id fun k => k.failHeld st).signalGates (sig k.doneGate (some st)) := by
  simp [State.finishTask, State.failTask, hst, hstays, hlocal]

include hrun in
theorem exec_taskFinish {st : Status} (htask : ((s.advance t).eng e).task = some id) (hended : ((s.advance t).eng e).ended = some st)
    (hk : (s.advance t).task? id = some k) (hquiet : (s.advance t).edmaQuiet e = true) :
    exec (.taskFinish t e) s = .next ((s.advance t).finishTask e id k ((s.advance t).endStatus e st)) := by
  change Host.Outcome.next (doTaskFinish t e s) = _
  simp [doTaskFinish, hrun, htask, hended, hk, hquiet, State.endStatus]

end Finish

/-! ### ENGINE_ZEROING_DONE (R153, R169) -/

theorem zeroingDone_main (halt : (s.eng e).zAlt = false) (hmain : (s.eng e).zMain = true) :
    s.zeroingDone e = s.modEng e fun r => { r with zMain := false } := by
  simp [State.zeroingDone, halt, hmain]

/-- The main bank resumes the suspended task, its yield timer started again. -/
theorem zeroingDone_resumes {id : Nat} (halt : (s.eng e).zAlt = true) (hsusp : (s.eng e).suspended = some id)
    (hkept : (s.eng e).dropSusp = false) :
    s.zeroingDone e = (((s.modVde e fun v => { v with inAlt := false }).modEng e fun r => { r with
        zAlt := false, suspended := none, task := some id, lastYield := s.time.frc, trapAt := none }).modVde e fun v => { v with
          main := { v.main with timerEnd := s.time.frc + yieldCounts } }).modTask id fun k => { k with suspended := false } := by
  simp only [State.zeroingDone, halt, hsusp, hkept, Bool.false_eq_true, if_false, if_true]
  rfl

include hrun in
theorem exec_engineZeroingDone : exec (.engineZeroingDone t e) s
    = .next (((s.advance t).zeroingDone e).releaseMesh fun h => h == .zeroing e) := by
  change Host.Outcome.next (doEngineZeroingDone t e s) = _
  simp [doEngineZeroingDone, hrun]

/-! ### UNIT_BOUNDARY (R122, R123) -/

section Boundary

section Reached
variable (htype : engType e ≠ some 1) (hended : ((s.advance t).eng e).ended = none)
include hrun htype hended

theorem exec_unitBoundary_leaving {x : Job × (Job → State → State)} (h : (s.advance t).leaving? e = some x) :
    exec (.unitBoundary t e) s = .next (x.2 x.1 (s.advance t)) := by
  change Host.Outcome.next (doUnitBoundary t e s) = _
  simp [doUnitBoundary, hrun, htype, hended, h]

theorem exec_unitBoundary_yields (h : (s.advance t).leaving? e = none) :
    exec (.unitBoundary t e) s = .next ((s.advance t).yieldAt e) := by
  change Host.Outcome.next (doUnitBoundary t e s) = _
  simp [doUnitBoundary, hrun, htype, hended, h]

end Reached

variable {id : Nat} {k : Task} (htask : (s.eng e).task = some id) (hk : s.task? id = some k)
include htask hk

theorem leaving?_stays (hstays : k.leave = .no) : s.leaving? e = none := by
  cases htype : engType e <;> simp [State.leaving?, htype, htask, hk, hstays]

theorem yieldAt_leaves (hleaves : k.leave ≠ .no) : s.yieldAt e = (s.olog 1 id k (some e) (engRegion e) 0 0).leaveEngine e id k := by
  simp [State.yieldAt, htask, hk, hleaves]

variable (hstays : k.leave = .no) (hawake : (s.region (engRegion e)).prepare = false)
include hstays hawake

theorem yieldAt_goesOn (hnone : s.preemptBy e k = none) : s.yieldAt e
    = (s.modEng e fun r => { r with lastYield := s.time.frc, trapAt := none }).olog 1 id k (some e) (engRegion e) 0 0 := by
  simp [State.yieldAt, htask, hk, hstays, hawake, hnone]

theorem yieldAt_preempted {v : Nat × Task} (hv : s.preemptBy e k = some v) : s.yieldAt e = s.preempt e id k v := by
  simp [State.yieldAt, htask, hk, hstays, hawake, hv]

end Boundary
end Events

/-- Settles O23. That an operation in progress ends after a free number of units when its task leaves is the model's choice (log entry
31); the clause is about the boundary at which it leaves. -/
theorem schedulerEvents : Obligations.SchedulerEvents := by
  unfold Obligations.SchedulerEvents
  intro t s hrun s₁
  refine ⟨fun g gt sym us p tl hgate htimed hplan htl hfired => ?timedGate, fun e => exec_dispatch_notAble,
    fun e id k hable hpick hclean => ?dispatch, fun e id k htask hended hlate hk hquiet hstays hlocal => ?clean,
    fun e id k st htask hended hst hk hquiet hstays hlocal => ?failed, fun e halt hmain => ?idle,
    fun e id halt hsusp hkept => ?resumed, fun e htype hended => ?boundary, fun e id k => yieldAt_leaves,
    fun e id k htype hended htask hk hstays hawake hnone => ?goesOn,
    fun e id k v htype hended htask hk hstays hawake hv => ?preempted⟩
  case timedGate =>
    intro at_
    rw [exec_timedGateExpiry hrun hgate htimed hplan htl hfired]
    exact ⟨fun hearly => by rw [if_pos hearly], fun hdue => by rw [if_neg (Nat.not_lt.mpr hdue)]⟩
  case dispatch => rw [exec_dispatch_picked hable hpick, dispatchTo_clean hclean]
  case clean =>
    rw [exec_taskFinish hrun htask hended hk hquiet, endStatus_clean hlate, finishTask_clean hstays hlocal]
  case failed =>
    rw [exec_taskFinish hrun htask hended hk hquiet, endStatus_failed hst, finishTask_failed hst hstays hlocal]
  case idle => rw [exec_engineZeroingDone hrun, zeroingDone_main halt hmain]
  case resumed => rw [exec_engineZeroingDone hrun, zeroingDone_resumes halt hsusp hkept]; rfl
  case boundary =>
    exact ⟨fun j f => exec_unitBoundary_leaving hrun htype hended, exec_unitBoundary_yields hrun htype hended⟩
  case goesOn =>
    rw [exec_unitBoundary_yields hrun htype hended (leaving?_stays htask hk hstays), yieldAt_goesOn htask hk hstays hawake hnone]
  case preempted =>
    rw [exec_unitBoundary_yields hrun htype hended (leaving?_stays htask hk hstays), yieldAt_preempted htask hk hstays hawake hv]

end Sys2Proof.Machine

/-! PROOFS. Pointers: linear, circular and bit-reversed updates (chapter 05, R158). -/

namespace Sys2Proof.Machine

/-! ### Bit reversal (R158) -/

theorem bitRev_lt : ∀ w v : Nat, bitRev w v < 2 ^ w
  | 0, _ => Nat.one_pos
  | w + 1, v => by
    have hrest := bitRev_lt w (v / 2)
    have hbit : (v % 2) * 2 ^ w ≤ 1 * 2 ^ w := Nat.mul_le_mul_right _ (by omega)
    rw [bitRev, Nat.pow_succ]
    omega

theorem testBit_bitRev : ∀ w v i : Nat, (bitRev w v).testBit i = (decide (i < w) && v.testBit (w - 1 - i))
  | 0, v, i => by simp [bitRev]
  | w + 1, v, i => by
    rw [bitRev, Nat.mul_comm, Nat.testBit_two_pow_mul_add _ (bitRev_lt w _)]
    rcases Nat.lt_trichotomy i w with hi | rfl | hi
    · have hnext : w - 1 - i + 1 = w - i := by omega
      simp [testBit_bitRev w, hi, Nat.lt_succ_of_lt hi, ← Nat.testBit_succ, hnext]
    · simp
    · have htop : (v % 2).testBit (i - w) = false := by
        apply Nat.testBit_lt_two_pow
        calc v % 2 < 2 ^ 1 := Nat.mod_lt _ Nat.two_pos
          _ ≤ 2 ^ (i - w) := Nat.pow_le_pow_right Nat.two_pos (by omega)
      simp [htop, Nat.not_lt.mpr hi.le, Nat.not_le.mpr hi]

/-- Reversing twice leaves the low bits as they were. -/
theorem bitRev_bitRev (w v : Nat) : bitRev w (bitRev w v) = v % 2 ^ w := by
  apply Nat.eq_of_testBit_eq
  intro i
  rw [testBit_bitRev, testBit_bitRev, Nat.testBit_mod_two_pow]
  by_cases hi : i < w
  · have hback : w - 1 - (w - 1 - i) = i := by omega
    simp [hi, hback, show w - 1 - i < w by omega]
  · simp [hi]

/-! ### Pointers (R158) -/

theorem unsgn_natCast (k n : Nat) : unsgn k (n : Int) = n % 2 ^ k := by
  unfold unsgn
  exact_mod_cast Int.toNat_natCast (n % 2 ^ k)

theorem unsgn_congr {k : Nat} {x y : Int} (h : x ≡ y [ZMOD 2 ^ k]) : unsgn k x = unsgn k y := congrArg Int.toNat h

/-- The low bits of a word read as signed are those of the word. -/
theorem unsgn_toInt {k : Nat} (hk : k ≤ 32) (m : Word) : unsgn k m.toInt = m.toNat % 2 ^ k := by
  have hword : m.toInt ≡ m.toNat [ZMOD 2 ^ 32] := by
    rw [BitVec.toInt_eq_toNat_bmod]
    exact Int.bmod_emod
  rw [← unsgn_natCast]
  exact unsgn_congr (hword.of_dvd (pow_dvd_pow 2 hk))

/-- The low bits of an offset taken over the integers are those of the offset taken modulo 2³². -/
theorem unsgn_offset {k : Nat} (hk : k ≤ 32) (p b : Word) : unsgn k ((p.toNat : Int) - b.toNat) = (p - b).toNat % 2 ^ k := by
  have hword : (p.toNat : Int) - b.toNat ≡ (p - b).toNat [ZMOD 2 ^ 32] := by
    have hsub := BitVec.toNat_sub p b
    have hp := p.isLt
    have hb := b.isLt
    unfold Int.ModEq
    omega
  rw [← unsgn_natCast]
  exact unsgn_congr (hword.of_dvd (pow_dvd_pow 2 hk))

theorem ptrUpdate_linear (md : Nat) (p m l b : Word) : ptrUpdate 0 p m l b = p + m ∧ ptrUpdate md p m 0 b = p + m := by
  simp [ptrUpdate]

/-- A circular update by at most the length stays in the buffer. -/
theorem ptrUpdate_circular {p m l b : Word} (hl : 0 < l.toNat) (hfits : b.toNat + l.toNat ≤ 2 ^ 32) (hlo : b.toNat ≤ p.toNat)
    (hhi : p.toNat < b.toNat + l.toNat) (hm : m.toInt.natAbs ≤ l.toNat) :
    ∃ r : Int, ((ptrUpdate 1 p m l b).toNat : Int) = r ∧ b.toNat ≤ r ∧ r < b.toNat + l.toNat
      ∧ (r = p.toNat + m.toInt ∨ r = p.toNat + m.toInt - l.toNat ∨ r = p.toNat + m.toInt + l.toNat) := by
  have hl0 : l ≠ 0 := fun h => by simp [h] at hl
  simp only [ptrUpdate, hl0, decide_false, Bool.or_false, Nat.one_ne_zero, Bool.false_eq_true, if_false, if_true, BitVec.toNat_ofInt]
  refine ⟨_, rfl, ?_⟩
  split
  · omega
  · split <;> omega

theorem ptrUpdate_bitReversed {p m l b : Word} {k : Nat} (hl : 0 < l.toNat) (hlog : Nat.log2 l.toNat = k) :
    (ptrUpdate 2 p m l b - b).toNat
      = bitRev k ((bitRev k ((p - b).toNat % 2 ^ k) + bitRev k (m.toNat % 2 ^ k)) % 2 ^ k) := by
  have hl0 : l ≠ 0#32 := fun h => by simp [h] at hl
  have hk : k ≤ 32 := hlog ▸ ((Nat.log2_lt hl.ne').mpr l.isLt).le
  have hnext : ptrUpdate 2 p m l b = BitVec.ofNat 32 (b.toNat
      + bitRev k ((bitRev k ((p - b).toNat % 2 ^ k) + bitRev k (m.toNat % 2 ^ k)) % 2 ^ k)) := by
    simp [ptrUpdate, hl0, hlog, unsgn_offset hk, unsgn_toInt hk, -BitVec.toNat_sub]
  have hlt := (bitRev_lt k ((bitRev k ((p - b).toNat % 2 ^ k) + bitRev k (m.toNat % 2 ^ k)) % 2 ^ k)).trans_le
    (Nat.pow_le_pow_right Nat.two_pos hk)
  rw [hnext, BitVec.ofNat_add, BitVec.ofNat_toNat, BitVec.setWidth_eq, BitVec.add_comm, BitVec.add_sub_cancel, BitVec.toNat_ofNat,
    Nat.mod_eq_of_lt hlt]

/-- Settles O28. -/
theorem pointerUpdate : Obligations.PointerUpdate := by
  unfold Obligations.PointerUpdate
  intro p m l b
  refine ⟨fun md => ptrUpdate_linear md p m l b, fun hl hfits hlo hhi hm => ?circular, fun hl => ?bitReversed⟩
  case circular =>
    obtain ⟨r, hr, hge, hlt, hsum⟩ := ptrUpdate_circular hl hfits hlo hhi hm
    refine ⟨by omega, by omega, Int.emod_eq_zero_of_dvd ?_⟩
    rcases hsum with rfl | rfl | rfl <;> simp [hr]
  case bitReversed =>
    intro k q o o'
    have ho' : o' = _ := ptrUpdate_bitReversed hl rfl
    rw [ho', bitRev_bitRev, bitRev_bitRev, Nat.mod_mod, Nat.mod_mod]
    exact ⟨bitRev_lt .., rfl, rfl⟩

end Sys2Proof.Machine

/-! PROOFS. Vector operations: lanes, SAT and poison (chapter 05, R159, R162, R164; chapter 06, R183). -/

namespace Sys2Proof.Machine

/-! ### Lanes of a V register (R159, R162, R183) -/

theorem sat16_eq (x : Int) : sat16 x = max (-32768) (min 32767 x) := by
  unfold sat16 clampI
  split
  · omega
  · split <;> omega

theorem sats16_iff (x : Int) : sats16 x = true ↔ x < -32768 ∨ 32767 < x := by
  simp [sats16]

/-- A saturated lane is written as it is. -/
theorem lane_ofLanes_sat16 (f : Nat → Int) {j : Nat} (h : j < 32) :
    lane (ofLanes fun j => sat16 (f j)) j = max (-32768) (min 32767 (f j)) := by
  rw [lane_ofLanes _ h, sat16_eq, sgn16_unsgn _ (by omega) (by omega)]

/-- What an operation of real lanes leaves in its bank: register `d` with the lanes `f`, wrapped or saturated; SAT; and the rest. -/
def LaneResult (b b' : Bank) (d : Nat) (saturates : Bool) (f : Nat → Int) : Prop :=
  (∀ j < 32, lane (b'.getV d) j = if saturates then max (-32768) (min 32767 (f j)) else sgn 16 (unsgn 16 (f j)))
  ∧ (b'.sat = true ↔ b.sat = true ∨ (saturates = true ∧ ∃ j < 32, f j < -32768 ∨ 32767 < f j))
  ∧ (∀ n, n ≠ d → b'.getV n = b.getV n) ∧ (∀ n, n ≠ rV d → b'.poisoned n = b.poisoned n)
  ∧ b' = { b with v := b'.v, pois := b'.pois, sat := b'.sat }

section Lanes
variable {b : Bank} (hb : b.wf) {d : Nat} {q : Bool}
include hb

theorem setV_laneResult (f : Nat → Int) : LaneResult b (b.setV d (ofLanes f) q) d false f := by
  have h := setV_wrote (d := d) (q := q) hb (ofLanes f)
  refine ⟨fun j hj => ?_, by simp [Bank.setV, Bank.mark], h.other, h.clean, rfl⟩
  rw [h.val, lane_ofLanes f hj, if_neg Bool.false_ne_true]

theorem setV_raiseSat_laneResult (f : Nat → Int) :
    LaneResult b ((b.setV d (ofLanes fun j => sat16 (f j)) q).raiseSat ((List.range 32).any fun j => sats16 (f j))) d true f := by
  have h := (setV_wrote (d := d) (q := q) hb (ofLanes fun j => sat16 (f j))).raiseSat ((List.range 32).any fun j => sats16 (f j))
  refine ⟨fun j hj => ?_, ?_, h.other, h.clean, setV_raiseSat_rest ..⟩
  · rw [h.val, lane_ofLanes_sat16 f hj, if_pos rfl]
  · rw [setV_raiseSat, Bool.or_eq_true, List.any_eq_true]
    simp only [List.mem_range, sats16_iff, true_and]

theorem vvWrap_result (f : Int → Int → Int) (w : Nat) (p : Nat × Bool) : LaneResult b ((vvWrap f w).eff p b) (wD w) false
    fun j => f (lane (b.getV (wA w)) j) (lane (b.getV (wB w)) j) := setV_laneResult hb _

theorem vvSat_result (f : BitVec 512 → BitVec 512 → Nat → Int) (l : Option Producer) (w : Nat) (p : Nat × Bool) :
    LaneResult b ((vvSat f l w).eff p b) (wD w) true (f (b.getV (wA w)) (b.getV (wB w))) := setV_raiseSat_laneResult hb _

theorem vUnSat_result (f : BitVec 512 → Nat → Int) (w : Nat) (p : Nat × Bool) :
    LaneResult b ((vUnSat f w).eff p b) (wD w) true (f (b.getV (wA w))) := setV_raiseSat_laneResult hb _

end Lanes

theorem asr_prods (u w : BitVec 512) : (fun j => asr (prods cprod u w j) 15) = fun j => let k := j / 2 * 2
    if j % 2 = 0 then (lane u k * lane w k - lane u (k + 1) * lane w (k + 1)) / 2 ^ 15
    else (lane u k * lane w (k + 1) + lane u (k + 1) * lane w k) / 2 ^ 15 := by
  funext j
  unfold prods
  dsimp only
  split <;> rfl

theorem laneOps_result {b : Bank} (hb : b.wf) (w : Nat) (p : Nat × Bool) :
    ∀ r ∈ laneOps, LaneResult b ((r.1 w).eff p b) (bits w 53 49) r.2.1 (r.2.2 w (lane (b.getV (bits w 48 44))) (lane (b.getV (bits w 43 39)))) := by
  have hprods := vvSat_result hb (fun x y j => asr (prods cprod x y j) 15) (some .vmulh) w p
  rw [asr_prods] at hprods
  simp only [laneOps, List.forall_mem_cons]
  refine ⟨vvWrap_result hb .., vvWrap_result hb .., vvSat_result hb .., vvSat_result hb .., ?_, ?_,
    vvWrap_result hb .., vvWrap_result hb .., ?_, ?_, hprods, nofun⟩
  · exact vUnSat_result hb (fun x j => asr (lane x j) (wImm5 w)) w p
  · exact vUnSat_result hb (fun x j => lane x j * 2 ^ wImm5 w) w p
  · exact vUnSat_result hb (fun x j => if j % 2 = 0 then lane x j else -(lane x j)) w p
  · exact vvSat_result hb (fun x y j => asr (lane x j * lane y j) 15) _ w p

section Lanes
variable {b : Bank} (hb : b.wf) (w : Nat) (p : Nat × Bool)
include hb

/-! The result is poisoned exactly when a source is (R164). -/

theorem vvWrap_poisoned (f : Int → Int → Int) :
    ((vvWrap f w).eff p b).poisoned (rV (wD w)) = (b.poisoned (rV (wA w)) || b.poisoned (rV (wB w))) := (setV_wrote hb _).pois

theorem vvSat_poisoned (f : BitVec 512 → BitVec 512 → Nat → Int) (l : Option Producer) :
    ((vvSat f l w).eff p b).poisoned (rV (wD w)) = (b.poisoned (rV (wA w)) || b.poisoned (rV (wB w))) :=
  ((setV_wrote hb _).raiseSat _).pois

theorem vUnSat_poisoned (f : BitVec 512 → Nat → Int) :
    ((vUnSat f w).eff p b).poisoned (rV (wD w)) = b.poisoned (rV (wA w)) := ((setV_wrote hb _).raiseSat _).pois

theorem vBit_poisoned (f : BitVec 512 → BitVec 512 → BitVec 512) :
    ((vBit f w).eff p b).poisoned (rV (wD w)) = (b.poisoned (rV (wA w)) || b.poisoned (rV (wB w))) := (setV_wrote hb _).pois

theorem setV_result {d : Nat} {q : Bool} (v : BitVec 512) : (b.setV d v q).getV d = v ∧ (∀ n, n ≠ d → (b.setV d v q).getV n = b.getV n)
    ∧ b.setV d v q = { b with v := (b.setV d v q).v, pois := (b.setV d v q).pois } :=
  ⟨(setV_wrote hb v).val, (setV_wrote hb v).other, setV_rest v⟩

end Lanes

/-! ### VSPLAT and VGET -/

/-- A lane is the signed reading of sixteen bits alone. -/
theorem sgn_congr {w u v : Nat} (h : u % 2 ^ w = v % 2 ^ w) : sgn w u = sgn w v := by rw [← sgn_mod, h, sgn_mod]

theorem sgn16_unsgn_sgn16 (v : Nat) : sgn 16 (unsgn 16 (sgn 16 v)) = sgn 16 v := by
  have hrange : -32768 ≤ sgn 16 v ∧ sgn 16 v ≤ 32767 := by
    unfold sgn
    norm_num
    split <;> omega
  exact sgn16_unsgn _ hrange.1 hrange.2

/-- The halves of a word cut from a V register are two of its lanes. -/
theorem sgn16_ofNat_lo (v : BitVec 512) (l : Nat) : sgn 16 (BitVec.ofNat 32 (v.toNat >>> (32 * l))).toNat = lane v (2 * l) := by
  rw [lane, BitVec.toNat_ofNat, show 16 * (2 * l) = 32 * l by omega]
  exact sgn_congr (Nat.mod_mod_of_dvd _ (pow_dvd_pow 2 (by decide)))

theorem sgn16_ofNat_hi (v : BitVec 512) (l : Nat) :
    sgn 16 ((BitVec.ofNat 32 (v.toNat >>> (32 * l))).toNat / 65536) = lane v (2 * l + 1) := by
  rw [lane, BitVec.toNat_ofNat, show 16 * (2 * l + 1) = 32 * l + 16 by omega, Nat.shiftRight_add, Nat.shiftRight_eq_div_pow _ 16]
  exact sgn_congr (by omega)

/-- Settles O25. -/
theorem vectorResults : Obligations.VectorResults := by
  unfold Obligations.VectorResults
  intro w p b hb d va vb a c
  refine ⟨laneOps_result hb w p, ?bitwise, ?twoSources, ?oneSource, ?splat, ?get⟩
  case bitwise =>
    simp only [List.forall_mem_cons]
    exact ⟨setV_result hb _, setV_result hb _, setV_result hb _, setV_result hb _, nofun⟩
  case twoSources =>
    simp only [List.forall_mem_cons]
    exact ⟨vvWrap_poisoned hb w p _, vvWrap_poisoned hb w p _, vvSat_poisoned hb w p _ _, vvSat_poisoned hb w p _ _,
      vBit_poisoned hb w p _, vBit_poisoned hb w p _, vBit_poisoned hb w p _, vvWrap_poisoned hb w p _, vvWrap_poisoned hb w p _,
      vvSat_poisoned hb w p _ _, vvSat_poisoned hb w p _ _, nofun⟩
  case oneSource =>
    simp only [List.forall_mem_cons]
    exact ⟨(setV_wrote hb _).pois, vUnSat_poisoned hb w p _, vUnSat_poisoned hb w p _, vUnSat_poisoned hb w p _, nofun⟩
  case splat =>
    intro b' x
    have h : WroteV b b' d _ _ := setV_wrote hb _
    refine ⟨fun j hj => ?_, setV_rest _, h.pois⟩
    rw [h.val, lane_ofLanes _ hj, sgn16_unsgn_sgn16]
    rfl
  case get =>
    intro b' l
    have h : WroteG b b' d _ _ := setG_wrote hb _
    refine ⟨?_, ?_, setG_rest _, h.other, h.pois⟩
    · rw [h.val]; exact sgn16_ofNat_lo ..
    · rw [h.val]; exact sgn16_ofNat_hi ..

end Sys2Proof.Machine

/-! PROOFS. Accumulators: exact sums modulo 2^40, AOV and poison, and the delay line of FTAP (chapter 05, R160, R161, R163, R164). -/

namespace Sys2Proof.Machine

/-! ### Accumulation (R160, R164) -/

theorem wraps40_iff (x : Int) : wraps40 x = true ↔ x < -(2 ^ 39) ∨ 2 ^ 39 ≤ x := by
  simp only [wraps40, Bool.or_eq_true, decide_eq_true_eq]
  omega

section Accumulators
variable {b : Bank} (hb : b.wf) {acc : Nat} {q : Bool}
include hb

theorem mark_wf (r : Nat) : (b.mark r q).wf := by
  obtain ⟨hg, hv, ha, hp⟩ := hb
  refine ⟨hg, hv, ha, ?_⟩
  unfold Bank.mark
  cases q
  · exact Tab.sorted_del hp
  · exact Tab.sorted_set hp

theorem setA_wf (v : BitVec 1280) : (b.setA acc v q).wf := by
  obtain ⟨hg, hv, ha, hp⟩ := hb
  have hput : Bank.wf { b with a := b.a.put 0 acc v } := ⟨hg, hv, Tab.wf_put ha, hp⟩
  exact mark_wf hput _

theorem setV_wf {d : Nat} (v : BitVec 512) : (b.setV d v q).wf := by
  obtain ⟨hg, hv, ha, hp⟩ := hb
  have hput : Bank.wf { b with v := b.v.put 0 d v } := ⟨hg, Tab.wf_put hv, ha, hp⟩
  exact mark_wf hput _

theorem raiseAov_wf (x : Bool) : (b.raiseAov x).wf := hb

theorem accumulate_wf (f : Nat → Int) : (b.accumulate acc f q).wf := raiseAov_wf (setA_wf hb _) _

theorem accumulate_accumulates (f : Nat → Int) : accumulates b (b.accumulate acc f q) acc f q := by
  have h : WroteA b (b.accumulate acc f q) acc (ofParts fun i => accPart (b.getA acc) i + f i) (b.poisoned (rA acc) || q) :=
    (setA_wrote hb _).raiseAov _
  refine ⟨fun i hi => ?_, ?_, h.pois, h.other, setA_raiseAov_rest _ _⟩
  · rw [h.val, accPart_ofParts _ hi]
  · rw [Bank.accumulate, setA_raiseAov, Bool.or_eq_true, List.any_eq_true]
    simp only [List.mem_range, wraps40_iff]

theorem setA_result (f : Nat → Int) : (∀ i < 32, accPart ((b.setA acc (ofParts f) q).getA acc) i = sgn 40 (unsgn 40 (f i)))
    ∧ (b.setA acc (ofParts f) q).poisoned (rA acc) = q
    ∧ b.setA acc (ofParts f) q = { b with a := (b.setA acc (ofParts f) q).a, pois := (b.setA acc (ofParts f) q).pois } := by
  have h := setA_wrote (d := acc) (q := q) hb (ofParts f)
  exact ⟨fun i hi => by rw [h.val, accPart_ofParts _ hi], h.pois, setA_rest _⟩

end Accumulators

/-! ### VSUMA -/

theorem sgn_emod (w v : Nat) : sgn w v % 2 ^ w = (v : Int) % 2 ^ w := by
  unfold sgn
  dsimp only
  split
  · push_cast; exact Int.emod_emod _ _
  · push_cast; rw [Int.sub_emod_right]; exact Int.emod_emod _ _

theorem wrap40_modEq (x : Int) : wrap40 x ≡ x [ZMOD 2 ^ 40] := by
  have hnat : ((unsgn 40 x : Nat) : Int) = x % 2 ^ 40 := Int.toNat_of_nonneg (Int.emod_nonneg _ (by decide))
  unfold wrap40 Int.ModEq
  rw [sgn_emod, hnat, Int.emod_emod]

/-- Sums that wrap at every addition agree with the exact sum modulo 2⁴⁰. -/
theorem foldl_wrap40_modEq (f : Nat → Int) (l : List Nat) (x : Int × Bool) :
    (l.foldl (fun s k => let x := s.1 + f k; (wrap40 x, s.2 || wraps40 x)) x).1 ≡ x.1 + (l.map f).sum [ZMOD 2 ^ 40] := by
  induction l generalizing x with
  | nil => simp
  | cons k l ih =>
    rw [List.foldl_cons, List.map_cons, List.sum_cons, ← Int.add_assoc]
    exact (ih _).trans ((wrap40_modEq _).add_right _)

theorem unsgn_sumParts (a : BitVec 1280) (im : Nat) :
    unsgn 40 (sumParts a im).1 = unsgn 40 ((List.range 16).map fun k => accPart a (2 * k + im)).sum := by
  have hsum := foldl_wrap40_modEq (fun k => accPart a (2 * k + im)) (List.range 16) (0, false)
  rw [Int.zero_add] at hsum
  exact unsgn_congr hsum

/-! ### The delay line of FTAP (R163) -/

/-- One tap: the products of a coefficient with the elements of the window. -/
theorem tapProds_eq (cr ci : Int) (v : BitVec 512) :
    tapProds cr ci v = mulPart (lane v) (fun j => if j % 2 = 0 then cr else ci) := by
  funext i
  have hodd : ¬ (i / 2 * 2 + 1) % 2 = 0 := by omega
  simp only [tapProds, mulPart, cprod, Nat.mul_mod_left, hodd, if_true, if_false]

theorem lane_ofLanes_lane {f : Nat → Int} {v : BitVec 512} {j k : Nat} (hj : j < 32) (h : f j = lane v k) :
    lane (ofLanes f) j = lane v k := by
  rw [lane_ofLanes _ hj, h]
  exact sgn16_unsgn_sgn16 _

/-- The window of registers `v` and `v + 1` of `b` moved on by one element; nothing else of `m` changes. -/
def Moved (b m b' : Bank) (v : Nat) : Prop :=
  (∀ j < 30, lane (b'.getV v) j = lane (b.getV v) (j + 2) ∧ lane (b'.getV (v + 1)) j = lane (b.getV (v + 1)) (j + 2))
  ∧ (∀ j < 2, lane (b'.getV v) (30 + j) = lane (b.getV (v + 1)) j ∧ lane (b'.getV (v + 1)) (30 + j) = 0)
  ∧ (∀ n, n ≠ v → n ≠ v + 1 → b'.getV n = b.getV n) ∧ b' = { m with v := b'.v, pois := b'.pois }

/-- The shift of two registers, each written with the lanes that move into it. -/
theorem shiftPair_writes {m : Bank} (hm : m.wf) (v : Nat) :
    (m.shiftPair v).getV v = ofLanes (fun j => if j < 30 then lane (m.getV v) (j + 2) else lane (m.getV (v + 1)) (j - 30))
    ∧ (m.shiftPair v).getV (v + 1) = ofLanes (fun j => if j < 30 then lane (m.getV (v + 1)) (j + 2) else 0)
    ∧ ∀ n, n ≠ v → n ≠ v + 1 → (m.shiftPair v).getV n = m.getV n := by
  have hlow {q : Bool} {x : BitVec 512} : WroteV m (m.setV v x q) v x q := setV_wrote hm x
  have hhigh {q q' : Bool} {x y : BitVec 512} : WroteV (m.setV v x q) ((m.setV v x q).setV (v + 1) y q') (v + 1) y q' :=
    setV_wrote (setV_wf hm x) y
  exact ⟨(hhigh.other v (by omega)).trans hlow.val, hhigh.val, fun n h h' => (hhigh.other n h').trans (hlow.other n h)⟩

theorem setV_setV_rest {m : Bank} {d d' : Nat} {x y : BitVec 512} {q q' : Bool} : (m.setV d x q).setV d' y q'
    = { m with v := ((m.setV d x q).setV d' y q').v, pois := ((m.setV d x q).setV d' y q').pois } := rfl

theorem shiftPair_moved {m : Bank} (hm : m.wf) (v : Nat) : Moved m m (m.shiftPair v) v := by
  obtain ⟨hlow, hhigh, hother⟩ := shiftPair_writes hm v
  refine ⟨fun j hj => ⟨?_, ?_⟩, fun j hj => ⟨?_, ?_⟩, hother, setV_setV_rest⟩
  · rw [hlow]; exact lane_ofLanes_lane (by omega) (if_pos hj)
  · rw [hhigh]; exact lane_ofLanes_lane (by omega) (if_pos hj)
  · rw [hlow]; exact lane_ofLanes_lane (by omega) (by rw [if_neg (by omega), Nat.add_sub_cancel_left])
  · rw [hhigh, lane_ofLanes _ (by omega), if_neg (by omega)]; rfl

/-- The window read before other registers of the bank changed. -/
theorem Moved.of_getV {b m b' : Bank} {v : Nat} (h : Moved m m b' v) (hv : m.v = b.v) : Moved b m b' v := by
  have hget : ∀ n, m.getV n = b.getV n := fun n => by rw [Bank.getV, hv]; rfl
  simpa only [Moved, hget] using h

/-! ### The operations -/

theorem setA_raiseAov_v {b : Bank} {d : Nat} {q : Bool} (v : BitVec 1280) (x : Bool) : ((b.setA d v q).raiseAov x).v = b.v := rfl

theorem accumulate_v {b : Bank} {acc : Nat} {q : Bool} (f : Nat → Int) : (b.accumulate acc f q).v = b.v := setA_raiseAov_v _ _

/-- The terms of one tap, its coefficient at bit `sh` of the P-bus operand. -/
def tapAt (x sh : Nat) (v : BitVec 512) : Nat → Int := tapProds (sgn 16 (x >>> sh)) (sgn 16 (x >>> (sh + 16))) v

section Operations
variable {b : Bank} (hb : b.wf) (w : Nat) (p : Nat × Bool)
include hb

theorem avOp_accumulates (f : BitVec 512 → BitVec 512 → Nat → Int) : accumulates b ((avOp f w).eff p b) (wAa w)
    (f (b.getV (wA w)) (b.getV (wB w))) (b.poisoned (rV (wA w)) || b.poisoned (rV (wB w))) := accumulate_accumulates hb _

/-- Aa takes the product with the Y-bus weight, then Ab that with the P-bus operand (R161). -/
theorem dualOp_accumulates (f : BitVec 512 → BitVec 512 → Nat → Int) : ∃ m,
    accumulates b m (wAa w) (f (b.getV (wVu w)) (b.getV (wVw w))) (b.poisoned (rV (wVu w)) || b.poisoned (rV (wVw w)))
    ∧ accumulates m ((dualOp f w).eff p b) (wAb w) (f (b.getV (wVu w)) (BitVec.ofNat 512 p.1)) (b.poisoned (rV (wVu w)) || p.2) :=
  ⟨_, accumulate_accumulates hb _, accumulate_accumulates (accumulate_wf hb _) _⟩

theorem ftapOp1_result : ∃ m, accumulates b m (wAa w) (tapAt p.1 0 (b.getV (wFt w))) (b.poisoned (rV (wFt w)) || p.2)
    ∧ Moved b m ((ftapOp1 w).eff p b) (wFt w) :=
  ⟨b.accumulate (wAa w) (tapAt p.1 0 (b.getV (wFt w))) (b.poisoned (rV (wFt w)) || p.2), accumulate_accumulates hb _,
    (shiftPair_moved (accumulate_wf hb _) _).of_getV (accumulate_v _)⟩

theorem ftapOp2_result : ∃ m m', accumulates b m (wAa w) (tapAt p.1 0 (b.getV (wFt w))) (b.poisoned (rV (wFt w)) || p.2)
    ∧ accumulates m m' (wAb w) (tapAt p.1 32 (b.getV (wFt w))) (b.poisoned (rV (wFt w)) || p.2)
    ∧ Moved b m' ((ftapOp2 w).eff p b) (wFt w) :=
  ⟨b.accumulate (wAa w) (tapAt p.1 0 (b.getV (wFt w))) (b.poisoned (rV (wFt w)) || p.2), _, accumulate_accumulates hb _,
    accumulate_accumulates (accumulate_wf hb _) (tapAt p.1 32 (b.getV (wFt w))),
    (shiftPair_moved (accumulate_wf (accumulate_wf hb _) _) _).of_getV ((accumulate_v _).trans (accumulate_v _))⟩

theorem vsumaOp_result :
    let b' := (vsumaOp w).eff p b
    (∀ h < 2, accPart (b'.getA (wAa w)) h = sgn 40 (unsgn 40 (((List.range 16).map fun k => accPart (b.getA (wAb w)) (2 * k + h)).sum)))
    ∧ (∀ i < 32, 2 ≤ i → accPart (b'.getA (wAa w)) i = 0) ∧ b'.poisoned (rA (wAa w)) = b.poisoned (rA (wAb w))
    ∧ b' = { b with a := b'.a, pois := b'.pois, aov := b'.aov } := by
  intro b'
  have h : WroteA b b' (wAa w) _ _ := (setA_wrote hb _).raiseAov _
  refine ⟨fun i hi => ?_, fun i hi h2 => ?_, h.pois, setA_raiseAov_rest _ _⟩
  · rw [h.val, accPart_ofParts _ (by omega), ← unsgn_sumParts]
    interval_cases i <;> rfl
  · rw [h.val, accPart_ofParts _ hi, if_neg (by omega), if_neg (by omega)]
    rfl

end Operations

/-- Settles O26. -/
theorem accumulatorResults : Obligations.AccumulatorResults := by
  unfold Obligations.AccumulatorResults
  intro w p b hb ac ab va vb a c po pv
  refine ⟨avOp_accumulates hb w p _, avOp_accumulates hb w p _, avOp_accumulates hb w p _, avOp_accumulates hb w p _,
    accumulate_accumulates hb _, accumulate_accumulates hb _, accumulate_accumulates hb _, setA_result hb _,
    ?clear, vsumaOp_result hb w p, ?dual, ?tap⟩
  case clear =>
    have h : WroteA b (b.setA ac 0 false) ac 0 false := setA_wrote hb 0
    exact ⟨h.val, h.pois, setA_rest _⟩
  case dual =>
    intro u y pu py
    simp only [List.forall_mem_cons]
    exact ⟨dualOp_accumulates hb w p fun x y => prods cprod x y, dualOp_accumulates hb w p fun x y => prods cprodConj x y,
      dualOp_accumulates hb w p rprods, nofun⟩
  case tap =>
    intro v tap moved
    have htap : ∀ sh, tap sh = tapAt p.1 sh (b.getV v) := fun sh => (tapProds_eq ..).symm
    rw [htap 0, htap 32]
    exact ⟨ftapOp1_result hb w p, ftapOp2_result hb w p⟩

end Sys2Proof.Machine

/-! PROOFS. Scalar operations (chapter 05, R164; chapter 06, R185). -/

namespace Sys2Proof.Machine

/-! ### Scalar registers (R164, R185) -/

/-- The destination, its poison, and nothing else of the bank. -/
def OnlyG (b b' : Bank) (d : Nat) (v : Word) (q : Bool) : Prop :=
  b'.getG d = v ∧ b'.poisoned d = q ∧ (∀ n, n ≠ d → b'.getG n = b.getG n ∧ b'.poisoned n = b.poisoned n)
    ∧ b' = { b with g := b'.g, pois := b'.pois }

section Scalars
variable {b : Bank} (hb : b.wf) (w : Nat) (p : Nat × Bool)
include hb

theorem setG_onlyG (d : Nat) (v : Word) (q : Bool) : OnlyG b (b.setG d v q) d v q :=
  have h : WroteG b (b.setG d v q) d v q := setG_wrote hb v
  ⟨h.val, h.pois, fun n hn => ⟨h.other n hn, h.clean n hn⟩, setG_rest v⟩

theorem sOp_onlyG (f : Word → Word → Word) : OnlyG b ((sOp f w).eff p b) (wD w) (f (b.getG (wA w)) (b.getG (wB w)))
    (b.poisoned (wA w) || b.poisoned (wB w)) := setG_onlyG hb ..

theorem sOpI_onlyG (f : Word → Word → Word) : OnlyG b ((sOpI f w).eff p b) (wD w) (f (b.getG (wA w)) (wImm10 w))
    (b.poisoned (wA w)) := setG_onlyG hb ..

theorem gOp_onlyG (f : Word → Word) : OnlyG b ((gOp f w).eff p b) (wGd w) (f (b.getG (wGs w))) (b.poisoned (wGs w)) :=
  setG_onlyG hb ..

end Scalars

/-- Every row of `scalarFns` pairs a function with its register and immediate forms. -/
theorem scalarFns_forms : ∀ r ∈ scalarFns, r.1 = (sOp r.2, sOpI r.2) := by
  simp only [scalarFns, List.forall_mem_cons]
  exact ⟨rfl, rfl, rfl, rfl, rfl, rfl, rfl, rfl, rfl, rfl, rfl, rfl, rfl, rfl, nofun⟩

/-- Settles O27. -/
theorem scalarResults : Obligations.ScalarResults := by
  unfold Obligations.ScalarResults
  intro w p b hb onlyG sd sa
  refine ⟨fun r hr => ?_, gOp_onlyG hb w p _, gOp_onlyG hb w p _, rfl, rfl⟩
  rw [scalarFns_forms r hr]
  exact ⟨sOp_onlyG hb w p _, sOpI_onlyG hb w p _⟩

end Sys2Proof.Machine

/-! PROOFS. VDE words issue under their format and opcode (chapter 05, R165, R168, R175; chapter 06, R182, R185 to R187). -/

namespace Sys2Proof.Machine

/-! ### Rows that issue, and rows that do not (R165, R175) -/

/-- A word that issues in its row takes its own effect. -/
theorem exec_issued {i : Instr} {s u v : State} {t e fmt opc : Nat} {x : WordCtx} {act : WordCtx → State → State}
    (hrow : exec i s = .next (s.vdeRow t e fmt opc act)) (h : Issues s t e fmt opc x u) (hact : act x u = v) : exec i s = .next v := by
  rw [hrow, vdeRow_issues act h, hact]

/-- The address of the word at a kernel's offset. -/
def State.fetchAddr (s : State) (e : Nat) (k : Kernel) : Nat := engBase e + k.codeBase + 8 * (s.vde e).bank.pc

section Row
variable {s : State} {t e fmt opc : Nat} {act : WordCtx → State → State}

theorem vdeRow_noKernel (h : (s.advance t).vdeRuns e = none) : s.vdeRow t e fmt opc act = s.advance t := by
  simp only [State.vdeRow, h]

variable {id : Nat} {tk : Task} {k : Kernel} (hruns : (s.advance t).vdeRuns e = some (id, tk, k))
include hruns

theorem vdeRow_timerOut (h : ((s.advance t).vde e).bank.timerEnd ≤ (s.advance t).time.frc) :
    s.vdeRow t e fmt opc act = s.advance t := by
  simp only [State.vdeRow, hruns, if_pos h]

variable (htimer : (s.advance t).time.frc < ((s.advance t).vde e).bank.timerEnd)
include htimer

theorem vdeRow_poisonedWord (hmiss : ((s.advance t).vde e).bank.cacheHit = false)
    (hpois : (s.advance t).poisonIn ((s.advance t).fetchAddr e k) 8 = true) :
    s.vdeRow t e fmt opc act = ((s.advance t).logRead ((s.advance t).taskWho id tk (initEng e))
      ((s.advance t).fetchAddr e k) 8).stopKernel e .poisoned := by
  rw [State.fetchAddr] at hpois ⊢
  simp [State.vdeRow, hruns, Nat.not_le.mpr htimer, hmiss, hpois]

theorem vdeRow_otherWord (hclean : ((s.advance t).vde e).bank.cacheHit = true
      ∨ (s.advance t).poisonIn ((s.advance t).fetchAddr e k) 8 = false)
    (hother : wFmt (leNat ((s.advance t).bytesAt ((s.advance t).fetchAddr e k) 8)) ≠ fmt
      ∨ wOpc (leNat ((s.advance t).bytesAt ((s.advance t).fetchAddr e k) 8)) ≠ opc) :
    s.vdeRow t e fmt opc act = s.advance t := by
  have hfetch : (!((s.advance t).vde e).bank.cacheHit
      && (s.advance t).poisonIn ((s.advance t).fetchAddr e k) 8) = false := by
    rcases hclean with h | h <;> simp [h]
  have hrow := not_and_or.mpr hother
  rw [State.fetchAddr] at hfetch hrow
  simp [State.vdeRow, hruns, Nat.not_le.mpr htimer, hfetch, hrow]

end Row

/-! ### Every row carries out its word (R182, R185 to R187) -/

theorem exec_vsWords : ∀ r ∈ vsWords, ∀ (t e : Nat) (s : State),
    exec (r.1 t e) s = .next (s.vdeRow t e r.2.1 r.2.2.1 fun x u => runVS (r.2.2.2 x.w) x u) := by
  simp only [vsWords, List.cons_append, List.nil_append, List.forall_mem_cons, List.not_mem_nil, false_imp_iff,
    implies_true, and_true]
  and_intros <;> intros <;> rfl

theorem exec_mcWords : ∀ r ∈ mcWords, ∀ (t e : Nat) (s : State),
    exec (r.1 t e) s = .next (s.vdeRow t e r.2.1 r.2.2.1 r.2.2.2) := by
  simp only [mcWords, List.cons_append, List.nil_append, List.forall_mem_cons, List.not_mem_nil, false_imp_iff,
    implies_true, and_true]
  and_intros <;> intros <;> rfl

/-- Every row of Tables 6-6, 6-7, 6-9 and 6-10 is the row of its FMT and OPC. -/
theorem exec_vdeWord : ∀ i ∈ vsWords.map (fun r => (r.1, r.2.1, r.2.2.1)) ++ mcWords.map (fun r => (r.1, r.2.1, r.2.2.1)),
    ∃ act, ∀ (t e : Nat) (s : State), exec (i.1 t e) s = .next (s.vdeRow t e i.2.1 i.2.2 act) := by
  intro i hi
  rcases List.mem_append.mp hi with hi | hi <;> obtain ⟨r, hr, rfl⟩ := List.mem_map.mp hi
  · exact ⟨_, exec_vsWords r hr⟩
  · exact ⟨_, exec_mcWords r hr⟩

/-- Settles O24. That a kernel whose timer has run out issues nothing until the yield trap is the model's reading of R168 and R194 (log
entry 66). -/
theorem vdeWordsIssue : Obligations.VdeWordsIssue := by
  unfold Obligations.VdeWordsIssue
  refine ⟨fun r hr t e s u x h => ?vs, fun r hr t e s u x h => ?mc, fun i hi t e s => ?idle⟩
  case vs => exact exec_issued (exec_vsWords r hr t e s) h rfl
  case mc => exact exec_issued (exec_mcWords r hr t e s) h rfl
  case idle =>
    intro s₁ b
    obtain ⟨act, hexec⟩ := exec_vdeWord i hi
    rw [hexec]
    exact ⟨fun h => congrArg _ (vdeRow_noKernel h), fun id tk k hruns => ⟨fun h => congrArg _ (vdeRow_timerOut hruns h),
      fun htimer hmiss hpois => congrArg _ (vdeRow_poisonedWord hruns htimer hmiss hpois),
      fun htimer hclean hother => congrArg _ (vdeRow_otherWord hruns htimer hclean hother)⟩⟩

end Sys2Proof.Machine

/-! PROOFS. Format M words (chapter 05, R149 to R151, R162, R164, R165; chapter 06, R186). -/

namespace Sys2Proof.Machine

/-! ### The end of a word, and of a format M word -/

/-- Where a kernel goes on after a word without a branch (R190). -/
def State.follow (s : State) (x : WordCtx) (c i : Nat) : State := s.goOn x i c (s.vde x.e).bank.fall.1 (s.vde x.e).bank.fall.2

/-- The cycle in which a format M word issues: after the stalls of the registers it reads and of its address (R195). -/
def Bank.issueM (b : Bank) (x : WordCtx) (reads : List (Nat × RegUse)) : Nat :=
  b.cycles + b.stall (reads ++ ((memUse x.w).regs b).map fun r => (r, RegUse.addr))

section FormatM
variable {x : WordCtx} {s v : State} {reads : List (Nat × RegUse)} {act : WordCtx → Nat → Nat → Bank → Prog → Prog} {b : Bank}
  (hb : (s.vde x.e).bank = b)
include hb

theorem runM_poisonedAddress (hbad : (memUse x.w).bad b = true) : runM reads act x s = s.stopKernel x.e .poisoned := by
  simp only [runM, hb, hbad, if_true]
  rfl

variable (hclean : (memUse x.w).bad b = false)
include hclean

theorem runM_fails {st : Status}
    (hact : act x (b.issueM x reads) (b.getG (rP (memUse x.w).p)).toNat b ⟨s, 0, none⟩ = (⟨s, 0, none⟩ : Prog).fail st) :
    runM reads act x s = s.stopKernel x.e st := by
  rw [Bank.issueM] at hact
  simp only [runM, hb, hclean, hact]
  rfl

theorem runM_goesOn {n : Nat}
    (hact : act x (b.issueM x reads) (b.getG (rP (memUse x.w).p)).toNat b ⟨s, 0, none⟩ = ⟨v, n, none⟩) :
    runM reads act x s = (putPtr x b (memUse x.w) v).follow x (1 + n) (b.issueM x reads) := by
  rw [Bank.issueM] at hact ⊢
  simp only [runM, hb, hclean, hact]
  rfl

end FormatM

/-! ### Accesses to X-RAM (R149 to R151, R165) -/

/-- The task under which a word accesses memory, and as it is listed in a state. -/
abbrev WordCtx.who (x : WordCtx) (s : State) : Who := s.taskWho x.id x.task (initEng x.e)
abbrev WordCtx.taskIn (x : WordCtx) (s : State) : Task := (s.task? x.id).getD x.task

section Access
variable {x : WordCtx} {a : Prog} {i addr n align d : Nat} {same p : Bool} {bs : List Byte} {u : State}

theorem loadLocal_fails (h : addr % align ≠ 0 ∨ localPlace x.e x.alt addr n = .none) :
    (loadLocal x i addr n align same a).1 = a.fail .busError := by
  rcases h with h | h
  · simp [loadLocal, h]
  · simp only [loadLocal, h]
    split <;> rfl

theorem storeLocal_fails (h : addr % align ≠ 0 ∨ localPlace x.e x.alt addr bs.length = .none) :
    storeLocal x addr align bs p a = a.fail .busError := by
  rcases h with h | h
  · simp [storeLocal, h]
  · simp only [storeLocal, h]
    split <;> rfl

theorem loadDev_success (h : a.s.access (x.who a.s) d n false = .success) :
    loadDev x a d n = ({ a with s := a.s.logRead (x.who a.s) d n },
      a.s.taskBytes (x.taskIn a.s) d n, a.s.taskPoison (x.taskIn a.s) d n) := by
  simp only [loadDev, h]

variable (haligned : addr % align = 0)
include haligned

theorem loadLocal_xram (hplace : localPlace x.e x.alt addr n = .xram d)
    (h : a.s.access (x.who a.s) d n false = .success) :
    loadLocal x i addr n align same a
      = ({ a with s := a.s.logRead (x.who a.s) d n, extra := a.extra + b2n (crosses addr n) },
        ⟨a.s.taskBytes (x.taskIn a.s) d n, a.s.taskPoison (x.taskIn a.s) d n,
          some (if crosses addr n || same then .load4 else .load3)⟩) := by
  simp only [loadLocal, haligned, hplace, loadDev_success h]
  rfl

/-- The cost of a store (Table 5-2). -/
def storeCost (addr n : Nat) : Nat := b2n (crosses addr n) + 2 * b2n (addr % 8 != 0 || n % 8 != 0)

theorem storeLocal_xram (hplace : localPlace x.e x.alt addr bs.length = .xram d)
    (h : a.s.taskWrite x.id (initEng x.e) d bs false = (u, .success)) :
    storeLocal x addr align bs false a = { a with s := u, extra := a.extra + storeCost addr bs.length } := by
  simp only [storeLocal, haligned, hplace, bne_self_eq_false, Bool.false_eq_true, if_false, storeDev, h, storeCost]

end Access

theorem loadP_reads {x : WordCtx} {a : Prog} {addr n : Nat} (haligned : addr % n = 0)
    (hin : within addr n x.k.codeBase (x.k.dataBase + x.k.dataBytes - x.k.codeBase) = true)
    (h : a.s.access (x.who a.s) (engBase x.e + addr) n false = .success) :
    loadP x addr n a
      = ({ a with s := a.s.logRead (x.who a.s) (engBase x.e + addr) n, extra := a.extra + b2n (!x.hit) },
        leNat (a.s.taskBytes (x.taskIn a.s) (engBase x.e + addr) n),
        a.s.taskPoison (x.taskIn a.s) (engBase x.e + addr) n) := by
  have hok : (addr % n != 0 || !within addr n x.k.codeBase (x.k.dataBase + x.k.dataBytes - x.k.codeBase)) = false := by
    rw [haligned, hin]; rfl
  rw [loadP, hok, if_neg Bool.false_ne_true, loadDev_success h]

theorem crosses_of_aligned {a : Nat} (h : a % 4 = 0) : crosses a 4 = false := by
  have hline : a / 64 = (a + 4 - 1) / 64 := by omega
  simp [crosses, hline]

/-! ### What each format M word does in X-RAM (R162, R164, R165, R186) -/

theorem leBytes_length : ∀ n v : Nat, (leBytes n v).length = n
  | 0, _ => rfl
  | n + 1, v => congrArg Nat.succ (leBytes_length n (v / 256))

section Loads
variable {x : WordCtx} {s : State} {addr i d : Nat} {b : Bank}

theorem ldsAct_loads (haligned : addr % 4 = 0) (hplace : localPlace x.e x.alt addr 4 = .xram d)
    (h : s.access (x.who s) d 4 false = .success) :
    ldsAct x i addr b ⟨s, 0, none⟩ = ⟨(s.logRead (x.who s) d 4).modBank x.e fun b =>
      (b.setG (wReg x.w) (BitVec.ofNat 32 (leNat (s.taskBytes (x.taskIn s) d 4)))
        (s.taskPoison (x.taskIn s) d 4)).wrote i [(wReg x.w, some .load3)], 0, none⟩ := by
  simp only [ldsAct, loadLocal_xram (a := ⟨s, 0, none⟩) haligned hplace h, crosses_of_aligned haligned, Option.isSome_none,
    Bool.false_eq_true, if_false, Bool.or_self]
  rfl

theorem vldAct_loads (haligned : addr % 2 = 0) (hplace : localPlace x.e x.alt addr 64 = .xram d)
    (h : s.access (x.who s) d 64 false = .success) :
    vldAct x i addr b ⟨s, 0, none⟩ = ⟨(s.logRead (x.who s) d 64).modBank x.e fun b =>
      (b.setV (wRegV x.w) (bytesVec (s.taskBytes (x.taskIn s) d 64))
        (s.taskPoison (x.taskIn s) d 64)).wrote i
        [(rV (wRegV x.w), some (if crosses addr 64 then .load4 else .load3))], b2n (crosses addr 64), none⟩ := by
  simp only [vldAct, loadLocal_xram (a := ⟨s, 0, none⟩) haligned hplace h, Option.isSome_none, Bool.false_eq_true, if_false,
    Nat.zero_add, Bool.or_false]

theorem vldpAct_loads (haligned : addr % 64 = 0)
    (hin : within addr 64 x.k.codeBase (x.k.dataBase + x.k.dataBytes - x.k.codeBase) = true)
    (h : s.access (x.who s) (engBase x.e + addr) 64 false = .success) :
    vldpAct x i addr b ⟨s, 0, none⟩ = ⟨(s.logRead (x.who s) (engBase x.e + addr) 64).modBank x.e fun b =>
      (b.setV (wRegV x.w) (BitVec.ofNat 512 (leNat (s.taskBytes (x.taskIn s) (engBase x.e + addr) 64)))
        (s.taskPoison (x.taskIn s) (engBase x.e + addr) 64)).wrote i
        [(rV (wRegV x.w), some .load3)], b2n (!x.hit), none⟩ := by
  simp only [vldpAct, loadP_reads (a := ⟨s, 0, none⟩) haligned hin h, Option.isSome_none, Bool.false_eq_true, if_false, Nat.zero_add]

theorem ldsAct_fails (h : addr % 4 ≠ 0 ∨ localPlace x.e x.alt addr 4 = .none) :
    ldsAct x i addr b ⟨s, 0, none⟩ = (⟨s, 0, none⟩ : Prog).fail .busError := by
  have hload := loadLocal_fails (i := i) (same := false) (a := ⟨s, 0, none⟩) h
  simp only [ldsAct, hload]
  rfl

theorem vldAct_fails (h : addr % 2 ≠ 0 ∨ localPlace x.e x.alt addr 64 = .none) :
    vldAct x i addr b ⟨s, 0, none⟩ = (⟨s, 0, none⟩ : Prog).fail .busError := by
  have hload := loadLocal_fails (i := i) (same := false) (a := ⟨s, 0, none⟩) h
  simp only [vldAct, hload]
  rfl

end Loads

theorem storeCost_of_dvd {a n : Nat} (h : n % 8 = 0) : storeCost a n = b2n (crosses a n) + 2 * b2n (a % 8 != 0) := by
  simp [storeCost, h]

section Stores
variable {x : WordCtx} {s u : State} {addr i d : Nat} {b : Bank}

theorem stsAct_stores (haligned : addr % 4 = 0) (hplace : localPlace x.e x.alt addr 4 = .xram d) (hclean : b.poisoned (wReg x.w) = false)
    (h : s.taskWrite x.id (initEng x.e) d (leBytes 4 (b.getG (wReg x.w)).toNat) false = (u, .success)) :
    stsAct x i addr b ⟨s, 0, none⟩ = ⟨u, 2, none⟩ := by
  rw [← leBytes_length 4 (b.getG (wReg x.w)).toNat] at hplace
  rw [stsAct, hclean, storeLocal_xram haligned hplace h, leBytes_length, storeCost, crosses_of_aligned haligned]
  simp [b2n]

theorem vstAct_stores (haligned : addr % 2 = 0) (hplace : localPlace x.e x.alt addr 64 = .xram d)
    (hclean : b.poisoned (rV (wRegV x.w)) = false)
    (h : s.taskWrite x.id (initEng x.e) d (leBytes 64 (b.getV (wRegV x.w)).toNat) false = (u, .success)) :
    vstAct x i addr b ⟨s, 0, none⟩ = ⟨u, b2n (crosses addr 64) + 2 * b2n (addr % 8 != 0), none⟩ := by
  rw [← leBytes_length 64 (b.getV (wRegV x.w)).toNat] at hplace
  rw [vstAct, hclean, vecBytes, storeLocal_xram haligned hplace h, leBytes_length, Nat.zero_add, storeCost_of_dvd rfl]

theorem stsAct_fails (h : addr % 4 ≠ 0 ∨ localPlace x.e x.alt addr 4 = .none) :
    stsAct x i addr b ⟨s, 0, none⟩ = (⟨s, 0, none⟩ : Prog).fail .busError := by
  rw [← leBytes_length 4 (b.getG (wReg x.w)).toNat] at h
  exact storeLocal_fails h

theorem vstAct_fails (h : addr % 2 ≠ 0 ∨ localPlace x.e x.alt addr 64 = .none) :
    vstAct x i addr b ⟨s, 0, none⟩ = (⟨s, 0, none⟩ : Prog).fail .busError := by
  rw [← leBytes_length 64 (b.getV (wRegV x.w)).toNat] at h
  exact storeLocal_fails h

/-! The parts of an accumulator, shifted and saturated, and SAT (R162). -/

/-- The bytes of the parts stored. -/
def narrowedBytes (a : BitVec 1280) (sh : Nat) (idx : List Nat) : List Byte :=
  idx.flatMap fun i => leBytes 2 (unsgn 16 (max (-32768) (min 32767 (accPart a i / 2 ^ sh))))

/-- Whether a part stored saturates. -/
def narrows (a : BitVec 1280) (sh : Nat) (idx : List Nat) : Bool :=
  idx.any fun i => accPart a i / 2 ^ sh < -32768 || 32767 < accPart a i / 2 ^ sh

theorem narrowed_eq (a : BitVec 1280) (sh : Nat) (idx : List Nat) : narrowed a sh idx = (narrowedBytes a sh idx, narrows a sh idx) := by
  simp only [narrowed, narrowedBytes, narrows, List.flatMap_map, List.any_map, sat16_eq]
  rfl

theorem narrowedBytes_length (a : BitVec 1280) (sh : Nat) (idx : List Nat) : (narrowedBytes a sh idx).length = 2 * idx.length := by
  simp [narrowedBytes, List.length_flatMap, leBytes_length, Nat.mul_comm]

/-- SAT of the running bank, set when a part stored saturates. -/
def State.noteSat (s : State) (e : Nat) (sat : Bool) : State := if sat then s.modBank e fun b => { b with sat := true } else s

theorem storeAcc_stores {idx : List Nat} {n : Nat} (hn : 2 * idx.length = n) (hwords : n % 8 = 0) (haligned : addr % 2 = 0)
    (hplace : localPlace x.e x.alt addr n = .xram d) (hclean : b.poisoned (rA (wRegA x.w)) = false)
    (h : s.taskWrite x.id (initEng x.e) d (narrowedBytes (b.getA (wRegA x.w)) (wShift x.w) idx) false = (u, .success)) :
    storeAcc idx x i addr b ⟨s, 0, none⟩
      = ⟨u.noteSat x.e (narrows (b.getA (wRegA x.w)) (wShift x.w) idx), b2n (crosses addr n) + 2 * b2n (addr % 8 != 0), none⟩ := by
  have hlen : (narrowedBytes (b.getA (wRegA x.w)) (wShift x.w) idx).length = n := (narrowedBytes_length ..).trans hn
  rw [← hlen] at hplace
  rw [storeAcc, hclean, narrowed_eq, storeLocal_xram haligned hplace h, hlen, Nat.zero_add, storeCost_of_dvd hwords]
  cases narrows (b.getA (wRegA x.w)) (wShift x.w) idx <;> rfl

end Stores

/-! ### The statement -/

theorem loadConst_eq (v : WordCtx → Word) (x : WordCtx) (s : State) : loadConst v x s
    = (s.modBank x.e fun b => (b.setG (wReg x.w) (v x) false).wrote (s.vde x.e).bank.cycles
        [(wReg x.w, some (gProd (wReg x.w)))]).follow x 1 (s.vde x.e).bank.cycles := rfl

/-- A poisoned address register, a misaligned or an unmapped address stops the kernel (R149, R165). -/
theorem exec_memory_stops {i : Instr} {s u : State} {t opc align n : Nat} {x : WordCtx} {row : WordCtx → State → State}
    {reads : List (Nat × RegUse)} {act : WordCtx → Nat → Nat → Bank → Prog → Prog} (h : Issues s t x.e 3 opc x u)
    (hexec : exec i s = .next (s.vdeRow t x.e 3 opc row)) (hrow : row x u = runM reads act x u)
    (hfails : ∀ {j addr : Nat} {b : Bank}, addr % align ≠ 0 ∨ localPlace x.e x.alt addr n = .none →
      act x j addr b ⟨u, 0, none⟩ = (⟨u, 0, none⟩ : Prog).fail .busError) :
    let b := (u.vde x.e).bank
    let a := (b.getG (rP (memUse x.w).p)).toNat
    ((memUse x.w).bad b = true → exec i s = .next (u.stopKernel x.e .poisoned))
    ∧ ((memUse x.w).bad b = false → a % align ≠ 0 ∨ localPlace x.e x.alt a n = .none →
        exec i s = .next (u.stopKernel x.e .busError)) :=
  ⟨fun hbad => exec_issued hexec h (hrow.trans (runM_poisonedAddress rfl hbad)),
    fun hclean haddr => exec_issued hexec h (hrow.trans (runM_fails rfl hclean (hfails haddr)))⟩

/-- Settles O30. -/
theorem memoryWords : Obligations.MemoryWords := by
  unfold Obligations.MemoryWords
  intro t e s u x opc h b q a tk who cy next
  obtain rfl := h.eng
  refine ⟨?constants, fun d hclean hplace haligned hacc hopc => ?lds, fun d hclean hplace haligned hacc hopc => ?vld,
    fun hclean haligned hin hacc hopc => ?vldp, fun d u' hclean hplace haligned hreg hopc hwrite => ?sts,
    fun d u' hclean hplace haligned hreg hopc hwrite => ?vst, ?narrow, ?stops⟩
  case constants =>
    exact ⟨fun hopc => exec_issued rfl (hopc ▸ h) (loadConst_eq ..), fun hopc => exec_issued rfl (hopc ▸ h) (loadConst_eq ..)⟩
  case lds =>
    subst hopc
    refine exec_issued (act := runM [] ldsAct) rfl h ?_
    exact (runM_goesOn rfl hclean (ldsAct_loads haligned hplace hacc) :)
  case vld =>
    subst hopc
    refine exec_issued (act := runM [] vldAct) rfl h ?_
    exact (runM_goesOn rfl hclean (vldAct_loads haligned hplace hacc) :)
  case vldp =>
    subst hopc
    refine exec_issued (act := runM [] vldpAct) rfl h ?_
    exact (runM_goesOn rfl hclean (vldpAct_loads haligned hin hacc) :)
  case sts =>
    subst hopc
    refine exec_issued (act := fun x => runM [(wReg x.w, .any)] stsAct x) rfl h ?_
    exact (runM_goesOn rfl hclean (stsAct_stores haligned hplace hreg hwrite) :)
  case vst =>
    subst hopc
    refine exec_issued (act := fun x => runM [(rV (wRegV x.w), .any)] vstAct x) rfl h ?_
    exact (runM_goesOn rfl hclean (vstAct_stores haligned hplace hreg hwrite) :)
  case narrow =>
    intro part sat flag d u' hclean haligned hreg
    refine ⟨fun hplace hopc hwrite => ?_, fun hplace hopc hwrite => ?_⟩ <;> subst hopc
    · refine exec_issued (act := fun x => runM [(rA (wRegA x.w), .narrow)] vstSAct x) rfl h ?_
      exact (runM_goesOn rfl hclean (storeAcc_stores (idx := List.range 32) (n := 64) rfl rfl haligned hplace hreg hwrite) :)
    · refine exec_issued (act := fun x => runM [(rA (wRegA x.w), .narrow)] vstSReAct x) rfl h ?_
      exact (runM_goesOn rfl hclean
        (storeAcc_stores (idx := (List.range 16).map fun k => 2 * k) (n := 32) rfl rfl haligned hplace hreg hwrite) :)
  case stops =>
    simp only [List.forall_mem_cons]
    refine ⟨fun hopc => ?_, fun hopc => ?_, fun hopc => ?_, fun hopc => ?_, nofun⟩ <;> subst hopc
    · exact exec_memory_stops (row := runM [] ldsAct) h rfl rfl ldsAct_fails
    · exact exec_memory_stops (row := fun x => runM [(wReg x.w, .any)] stsAct x) h rfl rfl stsAct_fails
    · exact exec_memory_stops (row := runM [] vldAct) h rfl rfl vldAct_fails
    · exact exec_memory_stops (row := fun x => runM [(rV (wRegV x.w), .any)] vstAct x) h rfl rfl vstAct_fails

end Sys2Proof.Machine

/-! PROOFS. Format C words, the yield trap and the abort (chapter 05, R165 to R168; chapter 06, R187 to R194). -/

namespace Sys2Proof.Machine

/-! ### What a control word does when it issues (R165, R187 to R192) -/

section FormatC
variable {x : WordCtx} {s : State} {b : Bank}

theorem runC_noReads (act : WordCtx → Nat → Bank → State → State) (x : WordCtx) (s : State) :
    runC [] act x s = act x (s.vde x.e).bank.cycles (s.vde x.e).bank s := rfl

theorem runC_oneRead (r : Nat) (act : WordCtx → Nat → Bank → State → State) (x : WordCtx) (s : State) :
    let b := (s.vde x.e).bank
    runC [r] act x s = if b.poisoned r then s.stopKernel x.e .poisoned else act x (b.cycles + b.stall [(r, .branch)]) b s := by
  simp [runC]

theorem branchIf_eq (p : Word → Bool) (x : WordCtx) (s : State) :
    let b := (s.vde x.e).bank
    let i := b.cycles + b.stall [(wSa x.w, .branch)]
    branchIf p x s = if b.poisoned (wSa x.w) then s.stopKernel x.e .poisoned
      else if p (b.getG (wSa x.w)) then jumpTo x i (wTgt x.w) b s else fallOn x i 1 b s :=
  runC_oneRead ..

theorem rttAct_outside (h : (s.vde x.e).bank.trap = none) : rttAct x s = s.stopKernel x.e .busError := by
  simp only [rttAct, runC_noReads, h]

theorem rttAct_returns {o : Nat} (h : (s.vde x.e).bank.trap = some o) :
    rttAct x s = (s.goOn x (s.vde x.e).bank.cycles 3 o (s.vde x.e).bank.loops).modBank x.e fun c => { c with trap := none } := by
  simp only [rttAct, runC_noReads, h]

theorem loopAct_reads (h : (s.vde x.e).bank.poisoned (wSa x.w) = false) :
    let b := (s.vde x.e).bank
    loopAct x s = startLoop (b.getG (wSa x.w)).toNat x (b.cycles + b.stall [(wSa x.w, .branch)]) b s := by
  intro b
  rw [loopAct, runC_oneRead, h, if_neg Bool.false_ne_true]

/-! The start of a loop (R190, R191). -/

variable {n i : Nat}

theorem startLoop_inTrap (h : b.trap ≠ none) : startLoop n x i b s = s.stopKernel x.e .notPermitted := by
  rw [startLoop, if_pos (Option.isSome_iff_ne_none.mpr h)]

variable (htrap : b.trap = none)
include htrap

theorem startLoop_zero (h : n = 0) :
    startLoop n x i b s = s.goOn x i 3 (wTgt x.w + 1) (loopJump (wTgt x.w + 1) b.loops) := by
  simp [startLoop, htrap, h]

theorem startLoop_full (hn : 0 < n) (h : 3 ≤ b.loops.length) : startLoop n x i b s = s.stopKernel x.e .notPermitted := by
  simp [startLoop, htrap, hn.ne', h]

theorem startLoop_starts (hn : 0 < n) (h : b.loops.length < 3) :
    startLoop n x i b s = s.goOn x i 1 (b.pc + 1) (⟨b.pc + 1, wTgt x.w, n⟩ :: b.loops) := by
  simp [startLoop, htrap, hn.ne', Nat.not_le.mpr h]

end FormatC

/-- A row that starts a loop of `n` passes. -/
theorem exec_startLoop {instr : Instr} {s u : State} {x : WordCtx} {n i : Nat} {b : Bank}
    (hexec : exec instr s = .next (startLoop n x i b u)) :
    (b.trap ≠ none → exec instr s = .next (u.stopKernel x.e .notPermitted))
    ∧ (b.trap = none → n = 0 → exec instr s = .next (u.goOn x i 3 (wTgt x.w + 1) (loopJump (wTgt x.w + 1) b.loops)))
    ∧ (b.trap = none → 0 < n → 3 ≤ b.loops.length → exec instr s = .next (u.stopKernel x.e .notPermitted))
    ∧ (b.trap = none → 0 < n → b.loops.length < 3 →
        exec instr s = .next (u.goOn x i 1 (b.pc + 1) (⟨b.pc + 1, wTgt x.w, n⟩ :: b.loops))) := by
  rw [hexec]
  exact ⟨fun h => congrArg _ (startLoop_inTrap h), fun h hn => congrArg _ (startLoop_zero h hn),
    fun h hn hfull => congrArg _ (startLoop_full h hn hfull), fun h hn hroom => congrArg _ (startLoop_starts h hn hroom)⟩

/-! ### Going on, the yield trap and the abort (R168, R188, R193, R194) -/

/-- The repeat cache after a word, the loops `ls` going on: the word taken in when it is served, all words dropped when the loop
served ends (R193). -/
def Bank.cacheAfter (b : Bank) (ls : List Loop) : List Nat :=
  if servedLoop b.loops == servedLoop ls then if b.served && !b.cache.contains b.pc then b.pc :: b.cache else b.cache else []

theorem goOn_eq (u : State) (x : WordCtx) (i c n : Nat) (ls : List Loop) :
    let u' := u.modBank x.e fun b => { b with cycles := i + c, cache := b.cacheAfter ls, pc := n, loops := ls }
    u.goOn x i c n ls = if x.k.codeWords ≤ n then u'.stopKernel x.e .busError else u' := rfl

/-- A kernel runs only while the device is not stopped. -/
theorem not_stopped_of_vdeRuns {s : State} {e : Nat} {r : Nat × Task × Kernel} (h : s.vdeRuns e = some r) : s.stopped = false := by
  unfold State.vdeRuns at h
  split at h
  · cases h
  next hgo => simp only [Bool.or_eq_true, not_or, Bool.not_eq_true] at hgo; exact hgo.2

section Timer
variable {t e : Nat} {s : State} {r : Nat × Task × Kernel} (hruns : (s.advance t).vdeRuns e = some r)
  (hout : ((s.advance t).vde e).bank.timerEnd ≤ (s.advance t).time.frc)
include hruns hout

theorem exec_yieldTrap_enters (h : ((s.advance t).eng e).trapAt = none) : exec (.yieldTrap t e) s
    = .next (((s.advance t).modEng e fun g => { g with trapAt := some (s.advance t).time.frc }).modBank e fun c =>
        { c with trap := some c.pc, pc := r.2.2.trap, cycles := c.cycles + 3, timerEnd := (s.advance t).time.frc + 394 }) := by
  change Host.Outcome.next (doYieldTrap t e s) = _
  simp [doYieldTrap, not_stopped_of_vdeRuns hruns, hruns, Nat.not_lt.mpr hout, h, trapCounts]

theorem exec_yieldAbort_aborts (h : ((s.advance t).eng e).trapAt ≠ none) :
    exec (.yieldAbort t e) s = .next ((s.advance t).stopKernel e .deadlineMissed) := by
  change Host.Outcome.next (doYieldAbort t e s) = _
  simp [doYieldAbort, not_stopped_of_vdeRuns hruns, hruns, Nat.not_lt.mpr hout, h]

end Timer

/-- Settles O32. The words that read no register and those that read one are carried out by `runC`; a loop of either form by `startLoop`. -/
theorem controlWords : Obligations.ControlWords := by
  unfold Obligations.ControlWords
  refine ⟨fun t e s u x opc h => ?words, fun u x i c n ls => ⟨fun b => b.cacheAfter ls, goOn_eq ..⟩, fun t e s r => ?timer⟩
  case words =>
    intro b br loopsTo follow jump v
    obtain rfl := h.eng
    refine ⟨fun hopc => ?nop, fun hopc => ?br, ?branches, fun hopc => ?call, fun hopc => ?ret, fun hopc => ?rtt, ?loops,
      fun hopc => ?yield, fun hopc => ?exit, fun hopc => ?exitF⟩
    case nop => subst hopc; exact exec_issued rfl h (runC_noReads ..)
    case br => subst hopc; exact exec_issued rfl h (runC_noReads ..)
    case branches =>
      simp only [List.forall_mem_cons]
      refine ⟨fun hopc => ?_, fun hopc => ?_, fun hopc => ?_, fun hopc => ?_, nofun⟩ <;> subst hopc
      · exact exec_issued (act := brzAct) rfl h (branchIf_eq ..)
      · exact exec_issued (act := brnzAct) rfl h (branchIf_eq ..)
      · exact exec_issued (act := brltAct) rfl h (branchIf_eq ..)
      · exact exec_issued (act := brgeAct) rfl h (branchIf_eq ..)
    case call => subst hopc; exact exec_issued rfl h (runC_noReads ..)
    case ret => subst hopc; exact exec_issued (act := retAct) rfl h (runC_oneRead ..)
    case rtt =>
      subst hopc
      exact ⟨fun htrap => exec_issued (act := rttAct) rfl h (rttAct_outside htrap),
        fun o htrap => exec_issued (act := rttAct) rfl h (rttAct_returns htrap)⟩
    case loops =>
      simp only [List.forall_mem_cons]
      refine ⟨fun hopc hclean => ?_, fun hopc _ => ?_, nofun⟩ <;> subst hopc
      · exact exec_startLoop (exec_issued (act := loopAct) rfl h (loopAct_reads (hclean rfl)))
      · exact exec_startLoop (exec_issued (act := loopIAct) rfl h (runC_noReads ..))
    case yield => subst hopc; exact exec_issued rfl h (runC_noReads ..)
    case exit => subst hopc; exact exec_issued rfl h (runC_noReads ..)
    case exitF => subst hopc; exact exec_issued rfl h (runC_noReads ..)
  case timer =>
    intro s₁ b hruns hout
    exact ⟨exec_yieldTrap_enters hruns hout, exec_yieldAbort_aborts hruns hout⟩

end Sys2Proof.Machine

/-! PROOFS. Words of formats V and S: the operation, the moves, the pointers (chapter 06, R178, R180, R181, R190, R195). -/

namespace Sys2Proof.Machine

/-! ### The steps of a word (R178, R195) -/

/-- The cycle in which a format V or S word issues: after the stalls of what its operation, its P-bus operand and its moves read (R195). -/
def Bank.issueVS (b : Bank) (o : Uop) (x : WordCtx) : Nat :=
  b.cycles + b.stall (o.reads ++ (if o.pwidth = 0 then [] else ((pbUse (wPb x.w)).regs b).map fun r => (r, RegUse.addr))
    ++ (movesOf x.w).flatMap fun m => m.reads b)

/-- The operation of a word that issues at cycle `i`, given its P-bus operand and the operand's poison (R178 step 2). -/
def State.operate (s : State) (o : Uop) (x : WordCtx) (i : Nat) (p : Nat × Bool) : State :=
  s.modBank x.e fun b => (o.eff p b).wrote i o.writes

section Moves
variable {w : Nat} {m : Move}

theorem movesOf_none (hx : moveOf (wX w) = none) (hy : moveOf (wY w) = none) : movesOf w = [] := by
  simp [movesOf, hx, hy]

theorem movesOf_one (hx : moveOf (wX w) = some m) (hy : moveOf (wY w) = none) : movesOf w = [m] := by
  simp [movesOf, hx, hy]

theorem sameRam_one (x : WordCtx) (b : Bank) (m : Move) : sameRam x b [m] = false := by
  simp only [sameRam, List.map_cons, List.map_nil]
  cases localPlace x.e x.alt (b.getG (rP m.ptr.p)).toNat 64 <;> rfl

end Moves

/-! The cycle of a word without moves, with one move, and with a P-bus operand and no move (R195). -/

section Issue
variable {b : Bank} {o : Uop} {x : WordCtx}

theorem issueVS_noMoves (hp : o.pwidth = 0) (hmoves : movesOf x.w = []) : b.issueVS o x = b.cycles + b.stall o.reads := by
  simp [Bank.issueVS, hp, hmoves]

theorem issueVS_oneMove {m : Move} (hp : o.pwidth = 0) (hmoves : movesOf x.w = [m]) :
    b.issueVS o x = b.cycles + b.stall (o.reads ++ m.reads b) := by
  simp [Bank.issueVS, hp, hmoves]

theorem issueVS_operand (hp : o.pwidth ≠ 0) (hmoves : movesOf x.w = []) :
    b.issueVS o x = b.cycles + b.stall (o.reads ++ ((pbUse (wPb x.w)).regs b).map fun r => (r, RegUse.addr)) := by
  simp [Bank.issueVS, hp, hmoves]

theorem reads_of_load {m : Move} (h : m.load = true) : m.reads b = (m.ptr.regs b).map fun r => (r, RegUse.addr) := by
  simp [Move.reads, h]

theorem reads_of_store {m : Move} (h : m.load = false) :
    m.reads b = (rV m.v, .any) :: (m.ptr.regs b).map fun r => (r, RegUse.addr) := by
  simp [Move.reads, h]

end Issue

section FormatVS
variable {o : Uop} {x : WordCtx} {s v : State} {b : Bank} {i : Nat} (hb : (s.vde x.e).bank = b) (hi : b.issueVS o x = i)
include hb hi

theorem runVS_noMoves (hp : o.pwidth = 0) (hmoves : movesOf x.w = []) :
    runVS o x s = (s.operate o x i (0, false)).follow x 1 i := by
  subst hi
  simp only [runVS, hb, readP, Bank.issueVS, hp, hmoves]
  rfl

theorem runVS_oneMove {m : Move} {n : Nat} (hp : o.pwidth = 0) (hmoves : movesOf x.w = [m])
    (hmove : doMove x i b false m ⟨s.operate o x i (0, false), 0, none⟩ = ⟨v, n, none⟩) :
    runVS o x s = (putPtr x b m.ptr v).follow x (1 + n) i := by
  subst hi
  simp only [Bank.issueVS, State.operate, hp, hmoves, if_true] at hmove ⊢
  simp only [runVS, hb, readP, hp, hmoves, sameRam_one, b2n, Bool.false_eq_true, Option.isSome_none, if_true, if_false,
    List.foldl_cons, List.foldl_nil, hmove]
  rfl

theorem runVS_operand {n : Nat} {p : Nat × Bool} (hp : o.pwidth ≠ 0) (hmoves : movesOf x.w = [])
    (hread : readP x b o ⟨s, 0, none⟩ = (⟨v, n, none⟩, p)) :
    runVS o x s = (putPtr x b (pbUse (wPb x.w)) (v.operate o x i p)).follow x (1 + n) i := by
  subst hi
  have hread' : readP x b o ⟨s, b2n (sameRam x b []), none⟩ = (⟨v, n, none⟩, p) := hread
  simp only [runVS, hb, Bank.issueVS, hp, hmoves, hread', if_false]
  rfl

end FormatVS

/-! ### Moves to and from X-RAM, and P-bus operands (R178, R180) -/

section Access
variable {x : WordCtx} {s u : State} {b : Bank} {m : Move} {i d : Nat} (hclean : m.ptr.bad b = false)
include hclean

theorem doMove_loads (hload : m.load = true) (haligned : (b.getG (rP m.ptr.p)).toNat % 2 = 0)
    (hplace : localPlace x.e x.alt (b.getG (rP m.ptr.p)).toNat 64 = .xram d) (h : s.access (x.who s) d 64 false = .success) :
    let c := crosses (b.getG (rP m.ptr.p)).toNat 64
    doMove x i b false m ⟨s, 0, none⟩ = ⟨(s.logRead (x.who s) d 64).modBank x.e fun b =>
      (b.setV m.v (bytesVec (s.taskBytes (x.taskIn s) d 64)) (s.taskPoison (x.taskIn s) d 64)).wrote i
        [(rV m.v, some (if c then .load4 else .load3))], b2n c, none⟩ := by
  simp [doMove, hclean, hload, loadLocal_xram (a := ⟨s, 0, none⟩) haligned hplace h]

theorem doMove_stores (hstore : m.load = false) (haligned : (b.getG (rP m.ptr.p)).toNat % 8 = 0)
    (hplace : localPlace x.e x.alt (b.getG (rP m.ptr.p)).toNat 64 = .xram d) (hreg : b.poisoned (rV m.v) = false)
    (h : s.taskWrite x.id (initEng x.e) d (vecBytes (b.getV m.v)) false = (u, .success)) :
    doMove x i b false m ⟨s, 0, none⟩ = ⟨u, b2n (crosses (b.getG (rP m.ptr.p)).toNat 64), none⟩ := by
  have hlen : (vecBytes (b.getV m.v)).length = 64 := leBytes_length ..
  rw [← hlen] at hplace
  have heven : (b.getG (rP m.ptr.p)).toNat % 2 = 0 := by omega
  have hstored := storeLocal_xram (a := ⟨s, 0, none⟩) heven hplace h
  rw [hlen, storeCost_of_dvd rfl, haligned] at hstored
  simp [doMove, hclean, hstore, hreg, hstored, b2n]

end Access

theorem readP_reads {o : Uop} {x : WordCtx} {s : State} {b : Bank} (hp : o.pwidth ≠ 0) (hclean : (pbUse (wPb x.w)).bad b = false)
    (haligned : (b.getG (rP (pbUse (wPb x.w)).p)).toNat % o.pwidth = 0)
    (hin : within (b.getG (rP (pbUse (wPb x.w)).p)).toNat o.pwidth x.k.codeBase (x.k.dataBase + x.k.dataBytes - x.k.codeBase) = true)
    (h : s.access (x.who s) (engBase x.e + (b.getG (rP (pbUse (wPb x.w)).p)).toNat) o.pwidth false = .success) :
    let d := engBase x.e + (b.getG (rP (pbUse (wPb x.w)).p)).toNat
    readP x b o ⟨s, 0, none⟩ = (⟨s.logRead (x.who s) d o.pwidth, b2n (!x.hit), none⟩,
      leNat (s.taskBytes (x.taskIn s) d o.pwidth), s.taskPoison (x.taskIn s) d o.pwidth) := by
  simp [readP, hp, hclean, loadP_reads (a := ⟨s, 0, none⟩) haligned hin h]

/-- Settles O29. Each clause: the cycle in which the word issues, what its one access does, and so where the word leaves the kernel. -/
theorem operationsAndMoves : Obligations.OperationsAndMoves := by
  unfold Obligations.OperationsAndMoves
  intro r hr t e s u x h o b who next
  obtain rfl := h.eng
  have hexec := exec_vsWords r hr t x.e
  refine ⟨fun hp hx hy => ?plain, fun m d hp hx hy hload hclean haligned hplace => ?load,
    fun m d v' hp hx hy hstore hclean haligned hplace hreg => ?store, fun hp hx hy => ?operand⟩
  case plain =>
    have hmoves := movesOf_none hx hy
    exact exec_issued (hexec s) h (runVS_noMoves rfl (issueVS_noMoves hp hmoves) hp hmoves)
  case load =>
    intro i v tk c hacc
    have hmoves := movesOf_one hx hy
    have hi : b.issueVS o x = i := by rw [issueVS_oneMove hp hmoves, reads_of_load hload]
    exact exec_issued (hexec s) h (runVS_oneMove rfl hi hp hmoves (doMove_loads hclean hload haligned hplace hacc))
  case store =>
    intro i hwrite
    have hmoves := movesOf_one hx hy
    have hi : b.issueVS o x = i := by rw [issueVS_oneMove hp hmoves, reads_of_store hstore]
    exact exec_issued (hexec s) h (runVS_oneMove rfl hi hp hmoves (doMove_stores hclean hstore haligned hplace hreg hwrite))
  case operand =>
    intro q a hclean haligned hin hacc i tk
    have hmoves := movesOf_none hx hy
    exact exec_issued (hexec s) h
      (runVS_operand rfl (issueVS_operand hp.ne' hmoves) hp.ne' hmoves (readP_reads hp.ne' hclean haligned hin hacc))

end Sys2Proof.Machine

/-! PROOFS. KERNEL_LOAD: the checks of an image, its place in P-RAM, unloading (chapter 06, R197 to R202). -/

namespace Sys2Proof.Machine

/-! ### The place of a kernel in its part of P-RAM (R200) -/

/-- `n` bytes at `a` lie in their part of P-RAM, beside every resident kernel. -/
def State.pramFits (s : State) (pre : Bool) (n a : Nat) : Bool :=
  decide (a + n ≤ (pramPart pre).1 + (pramPart pre).2) && s.kernels.all fun k => !overlaps a n k.2.codeBase k.2.body.length

section Place
variable {s : State} {pre : Bool} {n a : Nat}

theorem pramFits_eq_true : s.pramFits pre n a = true ↔ a + n ≤ (pramPart pre).1 + (pramPart pre).2
    ∧ ∀ k ∈ s.kernels, overlaps a n k.2.codeBase k.2.body.length = false := by
  simp [State.pramFits]

theorem pramFits_eq_false : s.pramFits pre n a = false ↔ (pramPart pre).1 + (pramPart pre).2 < a + n
    ∨ ∃ k ∈ s.kernels, overlaps a n k.2.codeBase k.2.body.length = true := by
  simp [← Bool.not_eq_true, pramFits_eq_true, imp_iff_not_or]

/-- The place taken is a line of the part that fits, and no line below it does. -/
theorem pramPlace_eq_some (h : s.pramPlace pre n = some a) : ∃ i, a = (pramPart pre).1 + 64 * i ∧ s.pramFits pre n a = true
    ∧ ∀ j < i, s.pramFits pre n ((pramPart pre).1 + 64 * j) = false := by
  have hfind : (((List.range ((pramPart pre).2 / 64)).map fun i => (pramPart pre).1 + 64 * i).find? (s.pramFits pre n)) = some a := h
  rw [List.find?_map, Option.map_eq_some_iff] at hfind
  obtain ⟨i, hi, rfl⟩ := hfind
  obtain ⟨hfits, -, hlower⟩ := List.find?_range_eq_some.mp hi
  exact ⟨i, rfl, hfits, fun j hj => by simpa using hlower j hj⟩

/-- A place is a free line of its part, and every lower line leaves the part or meets a resident kernel. -/
theorem pramPlace_lowest (h : s.pramPlace pre n = some a) :
    let lo := (pramPart pre).1
    lo ≤ a ∧ (a - lo) % 64 = 0 ∧ a + n ≤ lo + (pramPart pre).2
      ∧ (∀ k ∈ s.kernels, overlaps a n k.2.codeBase k.2.body.length = false)
      ∧ ∀ y, lo ≤ y → (y - lo) % 64 = 0 → y < a →
        lo + (pramPart pre).2 < y + n ∨ ∃ k ∈ s.kernels, overlaps y n k.2.codeBase k.2.body.length = true := by
  intro lo
  obtain ⟨i, ha, hfits, hlower⟩ := pramPlace_eq_some h
  obtain ⟨hin, hfree⟩ := pramFits_eq_true.mp hfits
  refine ⟨by omega, by omega, hin, hfree, fun y hlo hline hy => pramFits_eq_false.mp ?_⟩
  have hyline : y = (pramPart pre).1 + 64 * ((y - lo) / 64) := by omega
  rw [hyline]
  exact hlower _ (by omega)

end Place

/-! ### An image that is loaded, and what refuses it (R197, R199 to R201) -/

/-- The image that a KERNEL_LOAD carries. -/
abbrev CmdIn.image (i : CmdIn) : List Byte := (i.p.drop 16).take (fld i.p 4 4)

/-- The parts of an image: what its trailer authenticates, the bytes kept in P-RAM, the trailer. -/
abbrev kiSigned (m : List Byte) : List Byte := m.take (kiLen m - 1408)
abbrev kiBody (m : List Byte) : List Byte := (kiSigned m).drop 64
abbrev kiTrailer (m : List Byte) : List Byte := m.drop (kiLen m - 1408)

/-- The kernel that an image of function `fn` becomes at `base`. -/
abbrev kernelAt (fn base : Nat) (m : List Byte) : Kernel :=
  ⟨fn, kiPre m, base, kiWords m, kiData m, fld m 16 4, fld m 20 4, (kiTrailer m).take 64, kiBody m⟩

/-- An image kept as a kernel under its id, written into every VDE awake and not fenced, and measured. -/
abbrev State.installImage (s : State) (id fn base : Nat) (m : List Byte) : State :=
  ({ s with kernels := s.kernels.set id (kernelAt fn base m) }.spreadKernel (kernelAt fn base m)).chainKernel ((kiTrailer m).take 64)

section Load
variable {i : CmdIn} {s : State} (hload : fld i.p 0 1 ≠ 1)
include hload

theorem bodyKernelLoad_resident (hres : s.kernels.has (fld i.p 2 2) = true) :
    bodyKernelLoad i s = (s, .done (.bare .noResource)) := by
  simp [bodyKernelLoad, hload, hres, refuse]

variable (hnew : s.kernels.has (fld i.p 2 2) = false)
include hnew

theorem bodyKernelLoad_unauthentic (hauth : s.trailerAuth useKernel (kiSigned i.image) (kiTrailer i.image) = false) :
    bodyKernelLoad i s = (s, .done (.bare .authFail)) := by
  simp [bodyKernelLoad, hload, hnew, hauth, refuse]

variable (hauth : s.trailerAuth useKernel (kiSigned i.image) (kiTrailer i.image) = true)
include hauth

theorem bodyKernelLoad_badCode (hcode : codeSectionOk (kiSection i.image) (fld i.image 16 4) (fld i.image 20 4) = false) :
    bodyKernelLoad i s = (s, .done (.bare .badParam)) := by
  simp [bodyKernelLoad, hload, hnew, hauth, hcode, refuse]

variable (hcode : codeSectionOk (kiSection i.image) (fld i.image 16 4) (fld i.image 20 4) = true)
include hcode

theorem bodyKernelLoad_noRoom (hplace : s.pramPlace (kiPre i.image) (kiBody i.image).length = none) :
    bodyKernelLoad i s = (s, .done (.bare .noResource)) := by
  simp only [bodyKernelLoad, if_neg hload, hnew, hauth, hcode, hplace, Bool.not_true, Bool.false_eq_true, if_false, refuse]

theorem bodyKernelLoad_placed {base : Nat} (hplace : s.pramPlace (kiPre i.image) (kiBody i.image).length = some base) :
    let u := s.installImage (fld i.p 2 2) i.fn base i.image
    bodyKernelLoad i s
      = (u, .done (.ok (leBytes 4 base ++ leBytes 4 (u.pramFree (kiPre i.image)) ++ (kiTrailer i.image).take 8))) := by
  simp only [bodyKernelLoad, if_neg hload, hnew, hauth, hcode, hplace, Bool.not_true, Bool.false_eq_true, if_false, ok]

end Load

/-! ### An unload, and what refuses it (R202) -/

section Unload
variable {i : CmdIn} {s : State} (hunload : fld i.p 0 1 = 1)
include hunload

theorem bodyKernelLoad_absent (hfind : s.kernels.find? (fld i.p 2 2) = none) :
    bodyKernelLoad i s = (s, .done (.bare .badParam)) := by
  simp [bodyKernelLoad, hunload, hfind, refuse]

variable {k : Kernel} (hfind : s.kernels.find? (fld i.p 2 2) = some k)
include hfind

theorem bodyKernelLoad_otherTenant (hfn : k.fn ≠ i.fn) : bodyKernelLoad i s = (s, .done (.bare .notPermitted)) := by
  simp [bodyKernelLoad, hunload, hfind, hfn, refuse]

variable (hfn : k.fn = i.fn)
include hfn

theorem bodyKernelLoad_used (hused : s.kernelUsed (fld i.p 2 2) = true) :
    bodyKernelLoad i s = (s, .done (.bare .noResource)) := by
  simp [bodyKernelLoad, hunload, hfind, hfn, hused, refuse]

theorem bodyKernelLoad_unloaded (hunused : s.kernelUsed (fld i.p 2 2) = false) :
    let u := { s with kernels := s.kernels.del (fld i.p 2 2) }
    bodyKernelLoad i s = (u, .done (.ok (leBytes 4 0 ++ leBytes 4 (u.pramFree k.preempting) ++ k.digest.take 8))) := by
  simp [bodyKernelLoad, hunload, hfind, hfn, hunused, ok]

end Unload

/-- Settles O33. The lowest free place, and NO_RESOURCE where no place is large enough, are the model's reading of R200 (log entry 108). -/
theorem kernelLoads : Obligations.KernelLoads := by
  unfold Obligations.KernelLoads
  intro c s fl h s₁ p id m n part refused
  refine ⟨fun hload => ⟨fun hres => ?_, fun hnew => ?load⟩,
    fun hunload => ⟨fun hfind => ?_, fun k hfind => ⟨fun hfn => ?_, fun hfn hused => ?_, fun hfn hunused => ?_⟩⟩,
    fun pre z a => pramPlace_lowest⟩
  · exact exec_done rfl h (bodyKernelLoad_resident hload hres)
  case load =>
    split_ifs with hauth hcode
    · exact exec_done rfl h (bodyKernelLoad_unauthentic hload hnew hauth)
    · rw [Bool.not_eq_false] at hauth
      exact exec_done rfl h (bodyKernelLoad_badCode hload hnew hauth hcode)
    · rw [Bool.not_eq_false] at hauth hcode
      split
      next hplace => exact exec_done rfl h (bodyKernelLoad_noRoom hload hnew hauth hcode hplace)
      next base hplace =>
        have hbody := bodyKernelLoad_placed (i := fl.input c) hload hnew hauth hcode hplace
        exact exec_done rfl h hbody
  · exact exec_done rfl h (bodyKernelLoad_absent hunload hfind)
  · exact exec_done rfl h (bodyKernelLoad_otherTenant hunload hfind hfn)
  · exact exec_done rfl h (bodyKernelLoad_used hunload hfind hfn hused)
  · exact exec_done rfl h (bodyKernelLoad_unloaded hunload hfind hfn hunused)

end Sys2Proof.Machine

/-! PROOFS. Matrix arithmetic: BFP16 sums, NORMALISE, covariances, the solver's numbers (chapter 07, R207, R210 to R212, R217, R218). -/

namespace Sys2Proof.Machine

/-! ### The largest exponent of a group -/

/-- `(a :: l).foldl max a` is the maximum of `a :: l`: how the model writes a group's exponent. -/
theorem foldl_max_head (a : Int) (l : List Int) :
    (a :: l).foldl max a ∈ a :: l ∧ ∀ b ∈ a :: l, b ≤ (a :: l).foldl max a := by
  have h : (a :: l).max? = some ((a :: l).foldl max a) := by
    rw [List.max?_cons', List.foldl_cons, max_self]
  exact List.max?_eq_some_iff.mp h

/-! ### Sums of products (R210, R211) -/

theorem capPart_lt (x : Int) : (capPart x).1 < 2 ^ 47 := by
  unfold capPart
  split <;> omega

theorem capPart_of_not_held {x : Int} (h : (capPart x).2 = false) : (capPart x).1 = x := by
  unfold capPart at h ⊢
  split at h
  · cases h
  · rw [if_neg ‹_›]

/-- One product added to a sum of exponent `e`. -/
def addElt (e : Int) (a : Elt × Bool) (p : Elt) : Elt × Bool :=
  let r := capPart (a.1.re + asr p.re (e - p.ex).toNat)
  let i := capPart (a.1.im + asr p.im (e - p.ex).toNat)
  (⟨r.1, i.1, e, a.1.bad || p.bad⟩, a.2 || r.2 || i.2)

/-- The exponent of a sum. -/
def topEx (l : List Elt) : Int := (l.map Elt.ex).foldl max (l.headD ⟨0, 0, 0, false⟩).ex

theorem sumElts_eq (l : List Elt) : sumElts l = l.foldl (addElt (topEx l)) (⟨0, 0, topEx l, false⟩, false) := rfl

/-- What the sum of the products `l` at exponent `e` is: exact as long as no part was held. -/
structure IsSum (e : Int) (l : List Elt) (r : Elt × Bool) : Prop where
  ex : r.1.ex = e
  bad : r.1.bad = true ↔ ∃ p ∈ l, p.bad = true
  unheld : r.2 = false → r.1.re = (l.map fun p => p.re / 2 ^ (e - p.ex).toNat).sum
    ∧ r.1.im = (l.map fun p => p.im / 2 ^ (e - p.ex).toNat).sum
  re_lt : r.1.re < 2 ^ 47
  im_lt : r.1.im < 2 ^ 47

theorem IsSum.nil (e : Int) : IsSum e [] (⟨0, 0, e, false⟩, false) where
  ex := rfl
  bad := by simp
  unheld _ := ⟨rfl, rfl⟩
  re_lt := (by decide : (0 : Int) < 2 ^ 47)
  im_lt := (by decide : (0 : Int) < 2 ^ 47)

theorem IsSum.concat {e : Int} {l : List Elt} {r : Elt × Bool} (h : IsSum e l r) (p : Elt) : IsSum e (l ++ [p]) (addElt e r p) where
  ex := rfl
  bad := by simp [addElt, h.bad, or_and_right, exists_or]
  unheld hheld := by
    simp only [addElt, Bool.or_eq_false_iff] at hheld
    obtain ⟨⟨hprev, hre⟩, him⟩ := hheld
    obtain ⟨hsumRe, hsumIm⟩ := h.unheld hprev
    refine ⟨(capPart_of_not_held hre).trans ?_, (capPart_of_not_held him).trans ?_⟩
    · simp [hsumRe, asr]
    · simp [hsumIm, asr]
  re_lt := capPart_lt _
  im_lt := capPart_lt _

theorem sumElts_isSum (l : List Elt) : IsSum (topEx l) l (sumElts l) := by
  rw [sumElts_eq]
  generalize topEx l = e
  induction l using List.reverseRecOn with
  | nil => exact .nil e
  | append_singleton l p ih =>
    rw [List.foldl_concat]
    exact ih.concat p

/-! ### Covariances (R217) -/

theorem sumElts_im_eq_zero {l : List Elt} (h : ∀ p ∈ l, p.im = 0) : (sumElts l).1.im = 0 := by
  rw [sumElts_eq]
  refine List.foldlRecOn (motive := fun a : Elt × Bool => a.1.im = 0) _ _ rfl fun a ha p hp => ?_
  simp [addElt, ha, h p hp, asr, capPart]

theorem mul_conj_self_im (a : Elt) : (a.mul a.conj).im = 0 := by
  simp only [Elt.mul, Elt.conj, cprod]
  ring

theorem gramElt_diagonal_im (f : Nat → Nat → Elt) (n r : Nat) : (gramElt f n r r).1.im = 0 := by
  simp only [gramElt, le_refl, if_true, min_self, max_self]
  refine sumElts_im_eq_zero fun p hp => ?_
  obtain ⟨k, -, rfl⟩ := List.mem_map.mp hp
  exact mul_conj_self_im _

theorem gramElt_below (f : Nat → Nat → Elt) (n : Nat) {r c : Nat} (h : r < c) : (gramElt f n c r).1 = (gramElt f n r c).1.conj := by
  simp only [gramElt, if_neg (Nat.not_le.mpr h), if_pos h.le, min_comm c r, max_comm c r]

/-! ### NORMALISE (R212) -/

theorem sats16_asr_eq_false {y : Int} {n : Nat} : sats16 (asr y n) = false ↔ -32768 * 2 ^ n ≤ y ∧ y < 32768 * 2 ^ n := by
  have hpos : (0 : Int) < 2 ^ n := by positivity
  rw [Bool.eq_false_iff, ne_eq, sats16_iff, not_or, asr, not_lt, not_lt, Int.le_ediv_iff_mul_le hpos,
    ← Int.ediv_lt_iff_lt_mul hpos]
  omega

theorem sats16_asr_mono {y : Int} {n m : Nat} (hnm : n ≤ m) (h : sats16 (asr y n) = false) : sats16 (asr y m) = false := by
  rw [sats16_asr_eq_false] at h ⊢
  have hpow : (2 : Int) ^ n ≤ 2 ^ m := pow_le_pow_right₀ (by decide) hnm
  omega

theorem partsFit_iff {ys : List Int} {n : Nat} : partsFit ys n = true ↔ ∀ y ∈ ys, sats16 (asr y n) = false := by
  simp [partsFit]

theorem partsFit_mono {ys : List Int} {n m : Nat} (hnm : n ≤ m) (h : partsFit ys n = true) : partsFit ys m = true :=
  partsFit_iff.mpr fun y hy => sats16_asr_mono hnm (partsFit_iff.mp h y hy)

/-- The smallest shift after which every part fits 16 bits. -/
def fitShift (ys : List Int) : Nat := ((List.range 128).find? (partsFit ys)).getD 128

theorem fitShift_least {ys : List Int} {m : Nat} (hm : m < 128) (h : partsFit ys m = true) :
    partsFit ys (fitShift ys) = true ∧ ∀ k < fitShift ys, partsFit ys k = false := by
  obtain ⟨n, hn⟩ := Option.isSome_iff_exists.mp (List.find?_isSome.mpr ⟨m, List.mem_range.mpr hm, h⟩)
  obtain ⟨hfit, -, hleast⟩ := List.find?_range_eq_some.mp hn
  rw [fitShift, hn]
  exact ⟨hfit, fun k hk => by simpa using hleast k hk⟩

/-- Flooring a part of less than 101 bits at any exponent leaves one that a shift of 85 makes fit. -/
theorem floored_fits_85 {x : Int} (d : Nat) (h : -(2 ^ 100) ≤ x ∧ x < 2 ^ 100) : sats16 (asr (x / 2 ^ d) 85) = false := by
  have hone : (1 : Int) ≤ 2 ^ d := one_le_pow₀ (by decide)
  have hpos : (0 : Int) < 2 ^ d := by positivity
  rw [sats16_asr_eq_false, Int.le_ediv_iff_mul_le hpos, Int.ediv_lt_iff_lt_mul hpos]
  constructor <;> nlinarith

/-- What NORMALISE answers for parts `ys` at the exponent `emax`. -/
structure IsNormal (emax : Int) (ys : List Int) (n : List Int × Int × Bool × Bool) : Prop where
  length : n.1.length = ys.length
  ex_ge : -16 ≤ n.2.1
  ex_le : n.2.1 ≤ 15
  mantissa : ∀ m ∈ n.1, -32768 ≤ m ∧ m ≤ 32767
  shifted : n.2.2.1 = false → n.1 = ys.map fun y => y / (2 : Int) ^ (n.2.1 - emax).toNat
  least : n.2.2 = (false, false) → emax < n.2.1 →
    ∃ y ∈ ys, y / (2 : Int) ^ (n.2.1 - emax - 1).toNat < -32768 ∨ 32767 < y / (2 : Int) ^ (n.2.1 - emax - 1).toNat
  saturated : n.2.2.1 = true → n.2.1 = 15
  underflow : n.2.2.2 = true → n.2.1 = -16

theorem mantissas_of_partsFit {ys : List Int} {n : Nat} (h : partsFit ys n = true) :
    ∀ m ∈ ys.map fun y => asr y n, -32768 ≤ m ∧ m ≤ 32767 := by
  refine List.forall_mem_map.mpr fun y hy => ?_
  have hin := mt (sats16_iff _).mpr (Bool.eq_false_iff.mp (partsFit_iff.mp h y hy))
  omega

section Normalise
variable (a : Part) (g : List Part)

/-- The largest exponent of a group. -/
def groupTop : Int := ((a :: g).map Prod.snd).foldl max a.2
/-- A group's parts, floored to its largest exponent. -/
def groupParts : List Int := (a :: g).map fun p => p.1 / (2 : Int) ^ (groupTop a g - p.2).toNat

variable {a g}

/-! The three ends of NORMALISE: the exponent is raised to -16, held at 15, or within its range. -/

theorem normalise_underflows (h : groupTop a g + fitShift (groupParts a g) < -16) :
    normalise (a :: g) = ((groupParts a g).map fun y => asr y (-16 - groupTop a g).toNat, -16, false, true) := if_pos h

theorem normalise_saturates (h : 15 < groupTop a g + fitShift (groupParts a g)) :
    ∃ f : Int → Int, normalise (a :: g) = ((groupParts a g).map fun y => sat16 (f y), 15, true, false) :=
  ⟨_, (if_neg (lt_trans (by decide) h).not_gt).trans (if_pos h)⟩

theorem normalise_fits (hlo : -16 ≤ groupTop a g + fitShift (groupParts a g)) (hhi : groupTop a g + fitShift (groupParts a g) ≤ 15) :
    normalise (a :: g) = ((groupParts a g).map fun y => asr y (fitShift (groupParts a g)),
      groupTop a g + fitShift (groupParts a g), false, false) :=
  (if_neg hlo.not_gt).trans (if_neg hhi.not_gt)

theorem isNormal_of_underflow (hfit : partsFit (groupParts a g) (fitShift (groupParts a g)) = true)
    (h : groupTop a g + fitShift (groupParts a g) < -16) : IsNormal (groupTop a g) (groupParts a g) (normalise (a :: g)) := by
  rw [normalise_underflows h]
  exact {
    length := List.length_map ..
    ex_ge := le_rfl
    ex_le := (by decide : (-16 : Int) ≤ 15)
    mantissa := mantissas_of_partsFit (partsFit_mono (by omega) hfit)
    shifted := fun _ => rfl
    least := nofun
    saturated := nofun
    underflow := fun _ => rfl }

theorem isNormal_of_saturation (h : 15 < groupTop a g + fitShift (groupParts a g)) :
    IsNormal (groupTop a g) (groupParts a g) (normalise (a :: g)) := by
  obtain ⟨f, hf⟩ := normalise_saturates h
  have hclamped (y : Int) : -32768 ≤ sat16 (f y) ∧ sat16 (f y) ≤ 32767 := by
    rw [sat16_eq]
    omega
  rw [hf]
  exact {
    length := List.length_map ..
    ex_ge := (by decide : (-16 : Int) ≤ 15)
    ex_le := le_rfl
    mantissa := List.forall_mem_map.mpr fun y _ => hclamped y
    shifted := nofun
    least := nofun
    saturated := fun _ => rfl
    underflow := nofun }

theorem isNormal_of_fit (hfit : partsFit (groupParts a g) (fitShift (groupParts a g)) = true)
    (hleast : ∀ k < fitShift (groupParts a g), partsFit (groupParts a g) k = false)
    (hlo : -16 ≤ groupTop a g + fitShift (groupParts a g)) (hhi : groupTop a g + fitShift (groupParts a g) ≤ 15) :
    IsNormal (groupTop a g) (groupParts a g) (normalise (a :: g)) := by
  rw [normalise_fits hlo hhi]
  refine {
    length := List.length_map ..
    ex_ge := hlo
    ex_le := hhi
    mantissa := mantissas_of_partsFit hfit
    shifted := fun _ => by simp [asr]
    least := fun _ hlt => ?_
    saturated := nofun
    underflow := nofun }
  have hshift : 0 < fitShift (groupParts a g) := by simpa using hlt
  have hprev := hleast (fitShift (groupParts a g) - 1) (by omega)
  rw [partsFit, List.all_eq_false] at hprev
  obtain ⟨y, hy, hout⟩ := hprev
  rw [Bool.not_eq_true, Bool.not_eq_false'] at hout
  rw [show (groupTop a g + fitShift (groupParts a g) - groupTop a g - 1).toNat = fitShift (groupParts a g) - 1 by omega]
  exact ⟨y, hy, (sats16_iff _).mp hout⟩

theorem normalise_isNormal (h : ∀ p ∈ a :: g, -(2 ^ 100) ≤ p.1 ∧ p.1 < 2 ^ 100) :
    IsNormal (groupTop a g) (groupParts a g) (normalise (a :: g)) := by
  have h85 : partsFit (groupParts a g) 85 = true :=
    partsFit_iff.mpr (List.forall_mem_map.mpr fun p hp => floored_fits_85 _ (h p hp))
  obtain ⟨hfit, hleast⟩ := fitShift_least (by decide) h85
  rcases lt_or_ge (groupTop a g + fitShift (groupParts a g)) (-16) with hlo | hlo
  · exact isNormal_of_underflow hfit hlo
  rcases lt_or_ge 15 (groupTop a g + fitShift (groupParts a g)) with hhi | hhi
  · exact isNormal_of_saturation hhi
  · exact isNormal_of_fit hfit hleast hlo hhi

end Normalise

/-! ### The solver's numbers (R218) -/

theorem shiftBy_eq_floor (x k : Int) : shiftBy x k = ⌊(x : ℚ) / 2 ^ k⌋ := by
  unfold shiftBy
  split
  next hk =>
    obtain ⟨m, hm⟩ := Int.eq_ofNat_of_zero_le (a := -k) (by omega)
    obtain rfl : k = -m := by omega
    have hmul : (x : ℚ) / 2 ^ (-(m : Int)) = ((x * 2 ^ m : Int) : ℚ) := by simp
    rw [hmul, Int.floor_intCast, neg_neg, Int.toNat_natCast]
  next hk =>
    obtain ⟨m, rfl⟩ := Int.eq_ofNat_of_zero_le (not_lt.mp hk)
    have hdiv := Rat.floor_intCast_div_natCast x (2 ^ m)
    simpa [asr] using hdiv.symm

theorem le_shiftBy_iff {x k : Int} : -(2 ^ 23) ≤ shiftBy x k ↔ -(2 : ℚ) ^ (k + 23) ≤ x := by
  rw [shiftBy_eq_floor, Int.le_floor, le_div_iff₀ (by positivity), add_comm k, zpow_add₀ two_ne_zero]
  norm_num

theorem shiftBy_lt_iff {x k : Int} : shiftBy x k < 2 ^ 23 ↔ (x : ℚ) < 2 ^ (k + 23) := by
  rw [shiftBy_eq_floor, Int.floor_lt, div_lt_iff₀ (by positivity), add_comm k, zpow_add₀ two_ne_zero]
  norm_num

theorem log2_bounds {n : Nat} (h : n ≠ 0) : (2 : Int) ^ n.log2 ≤ n ∧ (n : Int) < 2 ^ (n.log2 + 1) :=
  ⟨mod_cast Nat.log2_self_le h, mod_cast Nat.lt_log2_self⟩

/-- The power of two that the model's shift is measured against bounds `x`, and the one below it does not. -/
theorem snShift_bounds {x : Int} (h : x ≠ 0) :
    (-(2 : ℚ) ^ (snShift x + 23) ≤ x ∧ (x : ℚ) < 2 ^ (snShift x + 23))
      ∧ ((x : ℚ) < -2 ^ (snShift x - 1 + 23) ∨ (2 : ℚ) ^ (snShift x - 1 + 23) ≤ x) := by
  unfold snShift
  split_ifs with hpos hneg
  · obtain ⟨hle, hlt⟩ := log2_bounds (n := x.toNat) (by omega)
    rw [Int.toNat_of_nonneg hpos.le] at hle hlt
    have hx : (0 : ℚ) < x := by exact_mod_cast hpos
    rw [sub_add_cancel, show (x.toNat.log2 : Int) + 1 - 23 - 1 + 23 = x.toNat.log2 by ring]
    refine ⟨⟨(neg_nonpos.mpr (by positivity)).trans hx.le, ?_⟩, .inr ?_⟩
    · exact_mod_cast hlt
    · exact_mod_cast hle
  · subst hneg
    norm_num
  · obtain ⟨hle, hlt⟩ := log2_bounds (n := (-x).toNat - 1) (by omega)
    set l := ((-x).toNat - 1).log2
    have hhi : -(2 : Int) ^ (l + 1) ≤ x := by omega
    have hlo : x < -2 ^ l := by omega
    have hx : (x : ℚ) < 0 := by exact_mod_cast (by omega : x < 0)
    rw [sub_add_cancel, show (l : Int) + 1 - 23 - 1 + 23 = l by ring]
    refine ⟨⟨?_, hx.trans (by positivity)⟩, .inl ?_⟩
    · exact_mod_cast hhi
    · exact_mod_cast hlo

theorem snNorm_of_ne_zero {x : Int} (e : Int) (h : x ≠ 0) : snNorm x e = ⟨shiftBy x (snShift x), e + snShift x⟩ := if_neg h

/-- The model's shift makes `x` fit 24 bits, and it is the smallest that does. -/
theorem snShift_least {x : Int} (h : x ≠ 0) : (-(2 ^ 23) ≤ shiftBy x (snShift x) ∧ shiftBy x (snShift x) < 2 ^ 23)
    ∧ (shiftBy x (snShift x - 1) < -(2 ^ 23) ∨ 2 ^ 23 ≤ shiftBy x (snShift x - 1)) := by
  obtain ⟨⟨hge, hlt⟩, hout⟩ := snShift_bounds h
  refine ⟨⟨le_shiftBy_iff.mpr hge, shiftBy_lt_iff.mpr hlt⟩, hout.imp (fun hx => ?_) fun hx => ?_⟩
  · exact not_le.mp fun hle => (le_shiftBy_iff.mp hle).not_gt hx
  · exact not_lt.mp fun hlt => (shiftBy_lt_iff.mp hlt).not_ge hx

/-! ### The statement -/

/-- Settles O35. -/
theorem matrixArithmetic : Obligations.MatrixArithmetic := by
  unfold Obligations.MatrixArithmetic
  refine ⟨?sum, ?normal, fun f n r c => gramElt_below f n, gramElt_diagonal_im, ?norm, ?ops⟩
  case sum =>
    intro l a x r
    have hsum := sumElts_isSum (a :: l)
    obtain ⟨hmem, hmax⟩ := foldl_max_head a.ex (l.map Elt.ex)
    rw [← List.map_cons] at hmem hmax
    have hex : r.1.ex = topEx (a :: l) := hsum.ex
    rw [hex]
    exact ⟨fun p hp => hmax _ (List.mem_map_of_mem hp), List.mem_map.mp hmem,
      hsum.bad, hsum.unheld, hsum.re_lt, hsum.im_lt⟩
  case normal =>
    intro g a hparts n emax ys
    have hn := normalise_isNormal hparts
    exact ⟨hn.length.trans (List.length_map ..), hn.ex_ge, hn.ex_le, hn.mantissa, hn.shifted, hn.least, hn.saturated, hn.underflow⟩
  case norm =>
    intro x e hx a k
    have hk : k = snShift x := by simp [k, a, snNorm_of_ne_zero e hx]
    have hm : a.m = shiftBy x (snShift x) := by simp [a, snNorm_of_ne_zero e hx]
    obtain ⟨hfit, hleast⟩ := snShift_least hx
    rw [hk, hm]
    exact ⟨hfit, rfl, hleast⟩
  case ops =>
    intro a b ha hb
    exact ⟨rfl, if_pos rfl, by simp [SNum.add, ha]⟩

end Sys2Proof.Machine

/-! PROOFS. The rows of the fixed-function engines (chapters 07 to 09, R213, R214, R228, R233, R239, R240, R243, R252, R261, R276, R277). -/

namespace Sys2Proof.Machine

/-! ### A row carries out the operation of the engine's task -/

/-- Run an operation of a job as far as it goes: to its end, to the boundary of a pending revoke or skip, or until it waits. -/
def State.runAny (s : State) (j : Job) (op : Job → State → State × Option Status) : State :=
  let q := s.withQuota j
  let y := op q.1 q.2
  y.2.elim y.1 (y.1.endRun j.e)

/-- Carry out a row of an engine with an operation that may wait. -/
def State.anyRow (s : State) (t e ty kernel : Nat) (op : Job → State → State × Option Status) : State :=
  match (s.advance t).job e ty kernel with
  | none => s.advance t
  | some j => (s.advance t).runAny j op

theorem engRow_eq (s : State) (t e ty kernel : Nat) (op : Job → State → State × Status) :
    s.engRow t e ty kernel op = s.anyRow t e ty kernel fun j s => ((op j s).1, some (op j s).2) := rfl

theorem runCode_eq (s : State) (j : Job) (k : CodeKind) : s.runCode j k = s.runAny j (codeOp k) := by
  unfold State.runCode State.runAny
  dsimp only
  split
  next hop => rw [hop]; rfl
  next hop => rw [hop]; rfl

theorem codeRow_eq (s : State) (t e ty kernel : Nat) (k : CodeKind) :
    s.codeRow t e ty kernel k = s.anyRow t e ty kernel (codeOp k) := by
  simp only [State.codeRow, runCode_eq]
  rfl

theorem job_engine {s : State} {e ty kernel : Nat} {j : Job} (h : s.job e ty kernel = some j) : j.e = e := by
  unfold State.job at h
  split_ifs at h
  split at h
  · cases h
  split at h
  · split_ifs at h
    cases h
    rfl
  · cases h

section Rows
variable {s : State} {t e ty kernel : Nat} {op : Job → State → State × Option Status} {j : Job}

theorem anyRow_idle (h : (s.advance t).job e ty kernel = none) : s.anyRow t e ty kernel op = s.advance t := by
  rw [State.anyRow, h]

variable (hj : (s.advance t).job e ty kernel = some j)
include hj

theorem anyRow_staying (hstay : j.task.leave = .no) :
    let y := op j (s.advance t)
    s.anyRow t e ty kernel op = y.2.elim y.1 (y.1.endRun e) := by
  simp only [State.anyRow, hj, State.runAny, State.withQuota, if_pos hstay, job_engine hj]

theorem anyRow_leaving (hleave : j.task.leave ≠ .no) :
    let y := op { j with quota := some (s.advance t).draw.1 } (s.advance t).draw.2
    s.anyRow t e ty kernel op = y.2.elim y.1 (y.1.endRun e) := by
  simp only [State.anyRow, hj, State.runAny, State.withQuota, if_neg hleave, job_engine hj]

end Rows

/-! ### The parameter block and its checks (R214) -/

section Block
variable {j : Job} {size : List Byte → Nat} {rep : Option (Nat × Nat)} {check : State → List Byte → Option Status}
  {body : List Byte → Work → State × Status} {s : State}

theorem withBlock_misaligned (h : j.task.param.addr % 64 ≠ 0) : j.withBlock size rep check body s = (s, .busError) :=
  if_pos (bne_iff_ne.mpr h)

theorem read_success {a n : Nat} {x : Work} (hx : x.stop = none) (hn : 0 < n) (hacc : x.s.access j.who a n false = .success) :
    j.read a n x = { x with s := (x.s.clockFor a).logRead j.who a n } := by
  simp [Job.read, hx, hn.ne', hacc]

theorem read_refused {a n : Nat} {x : Work} (hx : x.stop = none) (hn : 0 < n) (hacc : x.s.access j.who a n false ≠ .success)
    (hret : x.s.retiredIn a n = false) : j.read a n x = { x with stop := some (x.s.access j.who a n false) } := by
  unfold Job.read
  rw [if_neg (by simp [hx, hn.ne'])]
  split
  · exact absurd ‹_› hacc
  · simp [hret, Work.fail, hx]

variable (ha : j.task.param.addr % 64 = 0) {x : Work}
  (hread : j.read j.task.param.addr (size (j.bytes s j.task.param.addr 64)) (j.work s) = x)
include ha hread

/-- A refused read of the block is the operation's end. -/
theorem withBlock_refused {st : Status} (hstop : x.stop = some st) : j.withBlock size rep check body s = (x.s, st) := by
  simp [Job.withBlock, ha, hread, hstop, Work.status]

/-- So is the first check that fails. -/
theorem withBlock_checked (hstop : x.stop = none) (hclean : j.bad x.s j.task.param.addr (size (j.bytes s j.task.param.addr 64)) = false)
    {st : Status} (hfail : check x.s (j.bytes x.s j.task.param.addr (size (j.bytes s j.task.param.addr 64))) = some st) :
    j.withBlock size rep check body s = (x.s, st) := by
  simp [Job.withBlock, ha, hread, hstop, hclean, hfail]

end Block

/-! ### The 17 rows -/

/-- An operation with nothing in progress reads and checks its parameter block first. -/
def BeginsWithBlock (size : List Byte → Nat) (check : Job → State → List Byte → Option Status)
    (op : Job → State → State × Option Status) : Prop :=
  ∀ (j : Job) (s : State), (s.eng j.e).prog = none → ∃ rep body,
    let r := j.withBlock size rep (check j) body s
    (op j s).1 = r.1 ∧ (r.2 ≠ .notReady → (op j s).2 = some r.2)

/-- What every row of `engOps` has: it runs its operation for the engine's task, and the operation begins with the row's block. -/
structure RunsOp (r : (Nat → Nat → Instr) × Nat × Nat × (List Byte → Nat) × (Job → State → List Byte → Option Status)
    × (Job → State → State × Option Status)) : Prop where
  runs : ∀ t e s, exec (r.1 t e) s = .next (s.anyRow t e r.2.1 r.2.2.1 r.2.2.2.2.2)
  size_pos : ∀ p, 0 < r.2.2.2.1 p
  block : BeginsWithBlock r.2.2.2.1 r.2.2.2.2.1 r.2.2.2.2.2

/-- An operation that waits for nothing. -/
theorem beginsWithBlock_done {size : List Byte → Nat} {check : Job → State → List Byte → Option Status}
    {op : Job → State → State × Status} (rep : Option (Nat × Nat)) (body : Job → List Byte → Work → State × Status)
    (h : ∀ j s, op j s = j.withBlock size rep (check j) (body j) s) :
    BeginsWithBlock size check fun j s => ((op j s).1, some (op j s).2) :=
  fun j s _ => ⟨rep, body j, congrArg Prod.fst (h j s), fun _ => congrArg (fun r => some r.2) (h j s)⟩

theorem codeOp_beginsWithBlock (k : CodeKind) : BeginsWithBlock hdrSize (hdrCheck k) (codeOp k) := by
  intro j s hprog
  refine ⟨some (32, 16), fun p x => ((codeBody k j p x).1, (codeBody k j p x).2.getD .notReady), ?_⟩
  rw [codeOp, hprog]
  exact ⟨rfl, fun hready => if_neg hready⟩

theorem hdrSize_pos (p : List Byte) : 0 < hdrSize p := Nat.add_pos_left (by decide) _
theorem bkSize_pos (p : List Byte) : 0 < bkSize p := Nat.add_pos_left (by decide) _

/-- A row of Table 9-3. -/
theorem runsOp_code {i : Nat → Nat → Instr} {ty kernel : Nat} (k : CodeKind)
    (h : ∀ t e s, exec (i t e) s = .next (s.codeRow t e ty kernel k)) : RunsOp (i, ty, kernel, hdrSize, hdrCheck k, codeOp k) :=
  ⟨fun t e s => (h t e s).trans (congrArg _ (codeRow_eq ..)), hdrSize_pos, codeOp_beginsWithBlock k⟩

/-- A row of another table. -/
theorem runsOp_done {i : Nat → Nat → Instr} {ty kernel : Nat} {size : List Byte → Nat} {check : Job → State → List Byte → Option Status}
    (op : Job → State → State × Status) (rep : Option (Nat × Nat)) (body : Job → List Byte → Work → State × Status)
    (hrow : ∀ t e s, exec (i t e) s = .next (s.engRow t e ty kernel op)) (hsize : ∀ p, 0 < size p)
    (hop : ∀ j s, op j s = j.withBlock size rep (check j) (body j) s) :
    RunsOp (i, ty, kernel, size, check, fun j s => ((op j s).1, some (op j s).2)) :=
  ⟨hrow, hsize, beginsWithBlock_done rep body hop⟩

theorem engOps_runsOp : ∀ r ∈ engOps, RunsOp r := by
  have h64 (_ : List Byte) : 0 < 64 := by decide
  have h128 (_ : List Byte) : 0 < 128 := by decide
  simp only [engOps, List.cons_append, List.nil_append, List.forall_mem_cons]
  refine ⟨runsOp_done (meOp layMatmul runMatmul) _ _ (fun _ _ _ => rfl) h128 fun _ _ => rfl,
    runsOp_done (meOp layGram runGram) _ _ (fun _ _ _ => rfl) h128 fun _ _ => rfl,
    runsOp_done (meOp laySolve runSolve) _ _ (fun _ _ _ => rfl) h128 fun _ _ => rfl,
    runsOp_done (meOp layWeights runWeights) _ _ (fun _ _ _ => rfl) h64 fun _ _ => rfl,
    runsOp_done beamOp _ _ (fun _ _ _ => rfl) h64 fun _ _ => rfl,
    runsOp_done (xfOp false) _ _ (fun _ _ _ => rfl) h64 fun _ _ => rfl,
    runsOp_done (xfOp true) _ _ (fun _ _ _ => rfl) h64 fun _ _ => rfl,
    runsOp_done prachOp _ _ (fun _ _ _ => rfl) h64 fun _ _ => rfl,
    runsOp_code .ldpcDec fun _ _ _ => rfl, runsOp_code .ldpcEnc fun _ _ _ => rfl,
    runsOp_code .turboDec fun _ _ _ => rfl, runsOp_code .turboEnc fun _ _ _ => rfl,
    runsOp_code .nrComb fun _ _ _ => rfl, runsOp_code .lteComb fun _ _ _ => rfl,
    runsOp_done (bkOp .polarDec) _ _ (fun _ _ _ => rfl) bkSize_pos fun _ _ => rfl,
    runsOp_done (bkOp .polarEnc) _ _ (fun _ _ _ => rfl) bkSize_pos fun _ _ => rfl,
    runsOp_done (bkOp .tbcc) _ _ (fun _ _ _ => rfl) bkSize_pos fun _ _ => rfl, nofun⟩

/-- An operation that begins with a block answers as the block does, when the block fails. -/
theorem BeginsWithBlock.fails {size : List Byte → Nat} {check : Job → State → List Byte → Option Status}
    {op : Job → State → State × Option Status} (h : BeginsWithBlock size check op) {j : Job} {s u : State} {st : Status}
    (hprog : (s.eng j.e).prog = none) (hst : st ≠ .notReady)
    (hblock : ∀ rep body, j.withBlock size rep (check j) body s = (u, st)) : op j s = (u, some st) := by
  obtain ⟨rep, body, hstate, hstatus⟩ := h j s hprog
  rw [hblock] at hstate hstatus
  exact Prod.ext hstate (hstatus hst)

/-! ### Units of work (R228, R240, R277) -/

section Units
variable {x : Work} (hx : x.stop = none)
include hx

theorem unit_unlimited (hq : x.quota = none) : x.unit = x := by
  simp [Work.unit, hx, hq]

theorem unit_boundary (hq : x.quota = some 0) : x.unit = { x with stop := some .revoked } := by
  simp [Work.unit, hx, hq]

theorem unit_counted {n : Nat} (hq : x.quota = some (n + 1)) : x.unit = { x with quota := some n } := by
  simp [Work.unit, hx, hq]

end Units

/-! ### A run-ahead task (R261) -/

/-- Code blocks are waited for only at one that is not ready. -/
theorem eachBlock_waits {ready : Nat → Bool} {f : Nat → CodeBlock → Work → Work × BlockOut} (r : Nat) (bs : List CodeBlock) (x : Work)
    (os : List BlockOut) (h : (eachBlock ready f r bs x os).2.2 = true) : ∃ r, ready r = false := by
  induction bs generalizing r x os with
  | nil => cases h
  | cons b bs ih =>
    simp only [eachBlock] at h
    split_ifs at h with _ hready
    · exact ⟨r, by simpa using hready⟩
    · exact ih _ _ _ h

/-- A transport block under way waits only at a code block whose soft values are not all there. -/
theorem nrStep_waits {k : CodeKind} {j : Job} {p : List Byte} {avail : Option Nat} {y : RxRun} {i : Nat} (hy : y.wait = false)
    (h : (nrStep k j p avail y i).wait = true) : ∃ r, (avail.all fun n =>
      ((List.range i).map fun i => (nrTb (hdrTb p i)).g).sum + llrOffset ((nrTb (hdrTb p i)).derive.getD []) (r + 1) ≤ n) = false := by
  unfold nrStep at h
  dsimp only at h
  split_ifs at h with _ hfirst heach
  · exact absurd h (by simp [hy])
  · rw [Bool.and_eq_true, Bool.not_eq_true'] at hfirst
    exact ⟨0, hfirst.2⟩
  · exact eachBlock_waits _ _ _ _ heach
  · exact absurd h (by simp [hy])

section Poll
variable {s : State} {t e : Nat}

theorem exec_runAheadPoll_idle (h : (s.advance t).waiting? e = none) : exec (.runAheadPoll t e) s = .next (s.advance t) := by
  change execRunAheadPoll t e s = _
  rw [execRunAheadPoll, h]

theorem exec_runAheadPoll_waiting {j : Job} {k : CodeKind} (h : (s.advance t).waiting? e = some (j, k)) : exec (.runAheadPoll t e) s =
    .next ((if j.task.leave = .no then (s.advance t).yieldAt e else s.advance t).runCode j k) := by
  change execRunAheadPoll t e s = _
  rw [execRunAheadPoll, h]

end Poll

/-! ### The statement -/

/-- Settles O34. The model's choices among the clauses: how many units end before the boundary is free (log entry 31), and a check that
fails writes no report either (log entry 74). -/
theorem engineTasks : Obligations.EngineTasks := by
  unfold Obligations.EngineTasks
  refine ⟨?rows, ?blocks, ?units, ?waits, ?ready, fun t e s => ⟨exec_runAheadPoll_idle, fun j k => exec_runAheadPoll_waiting⟩⟩
  case rows =>
    intro r hr t e s s₁ op
    rw [(engOps_runsOp r hr).runs]
    refine ⟨fun hidle => ?_, fun j st hj hstay hop hst => ?_, fun j hj hstay hop => ?_, fun j st hj hleave => ?_⟩
    · rw [anyRow_idle hidle]
    · rw [anyRow_staying hj hstay, hop]
      exact congrArg _ (if_neg hst)
    · rw [anyRow_staying hj hstay, hop]
      rfl
    · intro y hy
      rw [anyRow_leaving hj hleave, hy]
      rfl
  case blocks =>
    intro r hr j s hprog op a n u
    obtain ⟨-, hsize, hblock⟩ := engOps_runsOp r hr
    refine ⟨fun ha => ?_, fun st ha hacc hst hready hret => ?_, fun st ha hacc hclean hready hcheck => ?_⟩
    · exact hblock.fails hprog nofun fun _ _ => withBlock_misaligned ha
    · subst hacc
      exact hblock.fails hprog hready fun _ _ => withBlock_refused ha (read_refused rfl (hsize _) hst hret) rfl
    · exact hblock.fails hprog hready fun _ _ => withBlock_checked ha (read_success rfl (hsize _) hacc) rfl hclean hcheck
  case units =>
    intro x hx
    exact ⟨unit_unlimited hx, unit_boundary hx, fun n => unit_counted hx⟩
  case waits =>
    intro k j p n y i hy h t
    obtain ⟨r, hr⟩ := nrStep_waits hy h
    exact ⟨r, by simpa using hr⟩
  case ready =>
    intro k j p y i hy
    by_contra h
    obtain ⟨r, hr⟩ := nrStep_waits hy (by simpa using h)
    cases hr

end Sys2Proof.Machine

/-! PROOFS. Tolerances of the transforms (chapter 08, R236, R238). -/

namespace Sys2Proof.Machine

/-! ### The free deviation (R238) -/

theorem dev_bounds (r : Nat) : -2 ≤ dev r ∧ dev r ≤ 2 := by
  unfold dev
  omega

theorem sat16_bounds (x : Int) : -32768 ≤ sat16 x ∧ sat16 x ≤ 32767 := by
  rw [sat16_eq]
  omega

/-- Saturation brings no value further from one that fits. -/
theorem natAbs_sat16_add_sub_le (x d : Int) : (sat16 (sat16 x + d) - sat16 x).natAbs ≤ d.natAbs := by
  simp only [sat16_eq]
  omega

theorem b2n_sats16 (x : Int) : b2n (sats16 x) = if sat16 x = x then 0 else 1 := by
  have hchanged : sats16 x = true ↔ sat16 x ≠ x := by
    rw [sats16_iff, sat16_eq]
    omega
  simp only [b2n, hchanged, ite_not]

/-- A part is saturated, or it keeps what `x` is. -/
theorem sat16_cases (x : Int) : sat16 x = -32768 ∨ sat16 x = 32767 ∨ sat16 x = x := by
  rw [sat16_eq]
  omega

/-! ### FFT parts -/

/-- The deviation of an FFT part: 2 below is free only of an exact reference, whose floor is itself. -/
def fftDev (exact : Bool) (r : Nat) : Int := if dev r = -2 && !exact then -1 else dev r

theorem fftDev_bounds (exact : Bool) (r : Nat) : -(if exact then 2 else 1) ≤ fftDev exact r ∧ fftDev exact r ≤ 2 := by
  have h := dev_bounds r
  cases exact with
  | true => simpa [fftDev] using h
  | false => by_cases hlow : dev r = -2 <;> simp [fftDev, hlow]; omega

theorem fftPart_eq (v : Int) (e : Nat) (s : State) :
    fftPart v e s = (sat16 (floorFix v (256 + e) + fftDev (exactFix v (256 + e)) s.draw.1), s.draw.2) := rfl

theorem ifftPart_eq (v : Int) (sh : Nat) (x : XfWork) :
    ifftPart v sh x = (sat16 (sat16 (floorFix v (272 + sh)) + dev x.w.s.draw.1),
      { x with w := { x.w with s := x.w.s.draw.2 }, sat := x.sat + b2n (sats16 (floorFix v (272 + sh))) }) := rfl

/-- Settles O36: both parts are a saturated sum of the reference's floor and a deviation of at most 2; for the IFFT the reference is saturated
first, so the second saturation brings the part no further away. -/
theorem transformTolerances : Obligations.TransformTolerances := by
  unfold Obligations.TransformTolerances
  refine ⟨fun v sh x => ?ifft, fun v e s => ?fft⟩
  case ifft =>
    have hdev := dev_bounds x.w.s.draw.1
    have hnear := natAbs_sat16_add_sub_le (floorFix v (272 + sh)) (dev x.w.s.draw.1)
    obtain ⟨hlo, hhi⟩ := sat16_bounds (sat16 (floorFix v (272 + sh)) + dev x.w.s.draw.1)
    simp only [ifftPart_eq, ← sat16_eq, b2n_sats16, State.draw_snd, and_self, and_true]
    exact ⟨by omega, hlo, hhi⟩
  case fft =>
    obtain ⟨hlo, hhi⟩ := fftDev_bounds (exactFix v (256 + e)) s.draw.1
    rw [fftPart_eq]
    dsimp only
    refine ⟨sat16_bounds _, (sat16_cases _).imp_right (Or.imp_right fun h => ?_), rfl⟩
    rw [h]
    omega

end Sys2Proof.Machine

/-! PROOFS. IQ compression on the line: bits packed into bytes and read back, and the least exponent (chapter 08, R247, R249). -/

namespace Sys2Proof.Machine

/-! ### Numbers as bits, most significant first -/

theorem natOfBits_concat (bs : List Bool) (b : Bool) : natOfBits (bs ++ [b]) = 2 * natOfBits bs + b2n b := by
  simp [natOfBits]

theorem b2n_testBit_zero (v : Nat) : b2n (v.testBit 0) = v % 2 := by
  rw [Nat.testBit_zero, b2n]
  rcases Nat.mod_two_eq_zero_or_one v with h | h <;> simp [h]

theorem bitsOfNat_length (n v : Nat) : (bitsOfNat n v).length = n := by
  simp [bitsOfNat]

theorem bitsOfNat_succ (n v : Nat) : bitsOfNat (n + 1) v = bitsOfNat n (v / 2) ++ [v.testBit 0] := by
  simp only [bitsOfNat, List.range_succ, List.map_append, List.map_singleton, Nat.add_sub_cancel, Nat.sub_self]
  congr 1
  refine List.map_congr_left fun i hi => ?_
  rw [← Nat.testBit_succ, show (n - 1 - i).succ = n - i by have := List.mem_range.mp hi; omega]

theorem natOfBits_bitsOfNat (n v : Nat) : natOfBits (bitsOfNat n v) = v % 2 ^ n := by
  induction n generalizing v with
  | zero => simp [bitsOfNat, natOfBits, Nat.mod_one]
  | succ n ih =>
    rw [bitsOfNat_succ, natOfBits_concat, ih, Nat.pow_succ', Nat.mod_mul, b2n_testBit_zero, Nat.add_comm]

theorem bitsOfNat_natOfBits (bs : List Bool) : bitsOfNat bs.length (natOfBits bs) = bs := by
  induction bs using List.reverseRecOn with
  | nil => rfl
  | append_singleton bs b ih =>
    rw [natOfBits_concat, List.length_append, List.length_singleton, bitsOfNat_succ]
    have hhalf : (2 * natOfBits bs + b2n b) / 2 = natOfBits bs := by cases b <;> simp [b2n]; omega
    have hlow : (2 * natOfBits bs + b2n b).testBit 0 = b := by cases b <;> simp [b2n, Nat.testBit_zero]
    rw [hhalf, hlow, ih]

theorem bitsOfNat_mod (n v : Nat) : bitsOfNat n (v % 2 ^ n) = bitsOfNat n v := by
  refine List.map_congr_left fun i hi => ?_
  rw [Nat.testBit_mod_two_pow, decide_eq_true (by have := List.mem_range.mp hi; omega), Bool.true_and]

/-! ### Bits packed into bytes (R247) -/

theorem packBits_length (bs : List Bool) : (packBits bs).length = (bs.length + 7) / 8 := by
  simp [packBits]

theorem packBits_append {octet : List Bool} (h : octet.length = 8) (bs : List Bool) :
    packBits (octet ++ bs) = BitVec.ofNat 8 (natOfBits octet) :: packBits bs := by
  have hcount : ((octet ++ bs).length + 7) / 8 = (bs.length + 7) / 8 + 1 := by
    rw [List.length_append]
    omega
  rw [packBits, hcount, List.range_succ_eq_map (n := (bs.length + 7) / 8), List.map_cons, List.map_map]
  congr 1
  · congr 2
    refine List.ext_getElem (by simp [h]) fun k hk _ => ?_
    rw [List.length_map, List.length_range, ← h] at hk
    simp [List.getElem?_append_left hk, hk]
  · refine List.map_congr_left fun i _ => ?_
    refine congrArg (fun os => BitVec.ofNat 8 (natOfBits os)) (List.map_congr_left fun k _ => ?_)
    rw [List.getD_append_right _ _ _ _ (by omega), h, show 8 * i.succ + k - 8 = 8 * i + k by omega]

theorem msbBits_cons (b : Byte) (bs : List Byte) : msbBits (b :: bs) = bitsOfNat 8 b.toNat ++ msbBits bs := rfl

theorem msbBits_packBits (n : Nat) (bs : List Bool) (h : bs.length = 8 * n) : msbBits (packBits bs) = bs := by
  induction n generalizing bs with
  | zero =>
    obtain rfl := List.length_eq_zero_iff.mp h
    rfl
  | succ n ih =>
    have hoctet : (bs.take 8).length = 8 := by rw [List.length_take]; omega
    have hbyte : bitsOfNat 8 (BitVec.ofNat 8 (natOfBits (bs.take 8))).toNat = bs.take 8 := by
      have hback := bitsOfNat_natOfBits (bs.take 8)
      rwa [hoctet, ← bitsOfNat_mod, ← BitVec.toNat_ofNat] at hback
    conv_lhs => rw [← List.take_append_drop 8 bs]
    rw [packBits_append hoctet, msbBits_cons, hbyte, ih _ (by rw [List.length_drop]; omega), List.take_append_drop]

/-- Cutting a list that was put together from pieces of one length gives the pieces back. -/
theorem map_take_drop_flatMap {α β : Type} {f : α → List β} {w : Nat} (hf : ∀ a, (f a).length = w) (l : List α) :
    ((List.range l.length).map fun i => ((l.flatMap f).drop (w * i)).take w) = l.map f := by
  induction l with
  | nil => rfl
  | cons a l ih =>
    rw [List.length_cons, List.range_succ_eq_map, List.map_cons, List.map_cons, List.map_map, ← ih, List.flatMap_cons]
    congr 1
    · simp [← hf a]
    · refine List.map_congr_left fun i _ => ?_
      simp [Nat.mul_succ, ← List.drop_drop, Nat.add_comm (w * i), List.drop_left' (hf a)]

/-- A number that `w` bits hold in two's complement is what they read back. -/
theorem sgn_unsgn_of_fits {w : Nat} (hw : 0 < w) {m : Int} (h : -(2 ^ (w - 1)) ≤ m ∧ m < 2 ^ (w - 1)) : sgn w (unsgn w m) = m := by
  obtain ⟨hlo, hhi⟩ := sgn_unsgn_range hw m
  have hpow : (2 : Int) ^ w = 2 * 2 ^ (w - 1) := by rw [← pow_succ', Nat.sub_add_cancel hw]
  have hmod : sgn w (unsgn w m) ≡ m [ZMOD 2 ^ w] := by
    rw [Int.ModEq, sgn_emod, unsgn, Int.toNat_of_nonneg (Int.emod_nonneg _ (by positivity)), Int.emod_emod]
  have hzero := Int.eq_zero_of_abs_lt_dvd hmod.dvd (abs_lt.mpr ⟨by omega, by omega⟩)
  omega

/-! ### A PRB on the line (R247) -/

/-- The bits of the parts, `w` each. -/
def partBits (w : Nat) (ms : List Int) : List Bool := ms.flatMap fun m => bitsOfNat w (unsgn w m)

theorem partBits_length (w : Nat) (ms : List Int) : (partBits w ms).length = w * ms.length := by
  simp [partBits, List.length_flatMap, bitsOfNat_length, Nat.mul_comm]

/-- The parts that a field of bits spells, `w` bits each. -/
theorem parts_of_partBits {w : Nat} (hw : 0 < w) {ms : List Int} (h : ∀ m ∈ ms, -(2 ^ (w - 1)) ≤ m ∧ m < 2 ^ (w - 1)) :
    ((List.range ms.length).map fun i => sgn w (natOfBits (((partBits w ms).drop (w * i)).take w))) = ms := by
  have hpart : ∀ m ∈ ms, sgn w (natOfBits (bitsOfNat w (unsgn w m))) = m := fun m hm => by
    rw [natOfBits_bitsOfNat, sgn_mod, sgn_unsgn_of_fits hw (h m hm)]
  have hcut := congrArg (List.map fun bs => sgn w (natOfBits bs))
    (map_take_drop_flatMap (fun m => bitsOfNat_length w (unsgn w m)) ms)
  rw [List.map_map, List.map_map] at hcut
  exact hcut.trans ((List.map_congr_left hpart).trans (List.map_id' ms))

theorem packBits_partBits_length {w : Nat} {ms : List Int} (hms : ms.length = 24) : (packBits (partBits w ms)).length = 3 * w := by
  rw [packBits_length, partBits_length, hms]
  omega

theorem prbLine_length (w e : Nat) {ms : List Int} (hms : ms.length = 24) : (prbLine w e ms).length = prbBytes w := by
  change ((if w = 16 then [] else leBytes 1 e) ++ packBits (partBits w ms)).length = _
  rw [List.length_append, packBits_partBits_length hms, prbBytes]
  split_ifs with h16
  · subst h16; rfl
  · rw [leBytes_length]; omega

theorem prbParts_prbLine {w e : Nat} (hw : 0 < w) (he : e < 16) (h16 : w = 16 → e = 0) {ms : List Int} (hms : ms.length = 24)
    (hfit : ∀ m ∈ ms, -(2 ^ (w - 1)) ≤ m ∧ m < 2 ^ (w - 1)) : prbParts w (prbLine w e ms) = (e, ms) := by
  have hlen := packBits_partBits_length (w := w) hms
  have hbits : msbBits (packBits (partBits w ms)) = partBits w ms :=
    msbBits_packBits (3 * w) _ (by rw [partBits_length, hms]; omega)
  have hparts := parts_of_partBits hw hfit
  rw [hms] at hparts
  unfold prbParts prbLine
  rw [← partBits]
  split_ifs with h
  · have hfield : (packBits (partBits w ms)).take 48 = packBits (partBits w ms) := List.take_of_length_le (by omega)
    simp only [List.nil_append, hfield, hbits, hparts, h16 h]
  · have hfield : ((leBytes 1 e ++ packBits (partBits w ms)).drop 1).take (3 * w) = packBits (partBits w ms) :=
      List.take_of_length_le hlen.le
    have hexp : fld (leBytes 1 e ++ packBits (partBits w ms)) 0 1 % 16 = e := by
      simp [fld, leBytes, leNat]
      omega
    simp only [hfield, hbits, hparts, hexp]

/-! ### The least exponent (R249) -/

theorem ediv_two_pow_fits {w : Nat} (hw : 0 < w) (hw16 : w ≤ 16) {t : Int} (h : -32768 ≤ t ∧ t ≤ 32767) :
    -(2 ^ (w - 1)) ≤ t / 2 ^ (16 - w) ∧ t / 2 ^ (16 - w) < 2 ^ (w - 1) := by
  have hpow : (2 : Int) ^ (w - 1) * 2 ^ (16 - w) = 32768 := by
    rw [← pow_add, show w - 1 + (16 - w) = 15 by omega]
    rfl
  have hpos : (0 : Int) < 2 ^ (16 - w) := by positivity
  rw [Int.le_ediv_iff_mul_le hpos, Int.ediv_lt_iff_lt_mul hpos, neg_mul, hpow]
  omega

/-- Whether every part fits `w` bits at exponent `e`. -/
def lineFits (w : Nat) (ts : List Int) (e : Nat) : Bool := ts.all fun t => -(2 ^ (w - 1)) ≤ asr t e && asr t e < 2 ^ (w - 1)

theorem lineFits_iff {w e : Nat} {ts : List Int} :
    lineFits w ts e = true ↔ ∀ t ∈ ts, -(2 ^ (w - 1)) ≤ t / 2 ^ e ∧ t / 2 ^ e < 2 ^ (w - 1) := by
  simp only [lineFits, List.all_eq_true, Bool.and_eq_true, decide_eq_true_eq]
  rfl

theorem lineExp_least {w n : Nat} {ts : List Int} (hn : n < 16) (h : lineFits w ts n = true) :
    lineExp w ts ≤ n ∧ lineFits w ts (lineExp w ts) = true ∧ ∀ k < lineExp w ts, lineFits w ts k = false := by
  obtain ⟨e, he⟩ := Option.isSome_iff_exists.mp (List.find?_isSome.mpr ⟨n, List.mem_range.mpr hn, h⟩)
  have hexp : lineExp w ts = e := congrArg (Option.getD · 15) he
  obtain ⟨hfit, -, hleast⟩ := List.find?_range_eq_some.mp he
  rw [hexp]
  refine ⟨?_, hfit, fun k hk => by simpa using hleast k hk⟩
  by_contra hlt
  simpa [h] using hleast n (by omega)

/-- Settles O37: packing loses no bit as 24 parts fill whole bytes, and parts of 16 bits fit `w` bits at exponent `16 - w`, so that the search
for the least exponent ends there at the latest. -/
theorem compressionRoundTrip : Obligations.CompressionRoundTrip := by
  unfold Obligations.CompressionRoundTrip
  intro w hmem
  have hw : 0 < w ∧ w ≤ 16 := by
    simp only [List.mem_cons, List.not_mem_nil, or_false] at hmem
    omega
  obtain ⟨hpos, hle⟩ := hw
  refine ⟨fun e ms he h16 hms hfit => ⟨prbLine_length w e hms, prbParts_prbLine hpos he h16 hms hfit⟩, fun ts hts => ?_⟩
  have htop : lineFits w ts (16 - w) = true := lineFits_iff.mpr fun t ht => ediv_two_pow_fits hpos hle (hts t ht)
  obtain ⟨hmax, hfit, hleast⟩ := lineExp_least (by omega) htop
  refine ⟨hmax, lineFits_iff.mp hfit, fun k hk => ?_⟩
  have hnot := mt lineFits_iff.mpr (Bool.eq_false_iff.mp (hleast k hk))
  push Not at hnot
  obtain ⟨t, ht, hout⟩ := hnot
  exact ⟨t, ht, by omega⟩

end Sys2Proof.Machine

/-! PROOFS. Channel coding: clipped and combined soft values, the stored record and its reading, CRC (chapter 09, R253 to R265). -/

namespace Sys2Proof.Machine

/-! ### Clipping and combining (R253, R258) -/

theorem clampI_bounds {lo hi : Int} (h : lo ≤ hi) (v : Int) : lo ≤ clampI lo hi v ∧ clampI lo hi v ≤ hi := by
  rw [clampI]
  split_ifs <;> omega

theorem clampI_of_bounds {lo hi v : Int} (hlo : lo ≤ v) (hhi : v ≤ hi) : clampI lo hi v = v := by
  rw [clampI, if_neg (by omega), if_neg (by omega)]

theorem sgn_toNat (b : Byte) : sgn 8 b.toNat = b.toInt := by
  have hb : b.toNat < 256 := b.isLt
  rw [BitVec.toInt_eq_toNat_cond, sgn]
  split_ifs <;> omega

theorem llrOf_eq (b : Byte) : llrOf b = clampI (-31) 31 b.toInt := by rw [llrOf, sgn_toNat]

/-- A buffer of soft values within the clip. -/
def Clipped (buf : List Int) : Prop := ∀ l ∈ buf, -31 ≤ l ∧ l ≤ 31

theorem Clipped.modify {buf : List Int} (h : Clipped buf) (p : Nat) (v : Int) :
    Clipped (buf.modify p fun l => clampI (-31) 31 (l + v)) := by
  intro l hl
  obtain ⟨i, hi, rfl⟩ := List.mem_iff_getElem.mp hl
  rw [List.getElem_modify]
  split_ifs
  · exact clampI_bounds (by decide) _
  · exact h _ (List.getElem_mem _)

/-- Combining adds one received value after the other; each addition keeps the buffer's length and its clip. -/
theorem combine_keeps (b : CodeBlock) {st : List Int} (val : Nat → Int) (h : Clipped st) :
    (combine b st val).length = st.length ∧ Clipped (combine b st val) := by
  refine List.foldlRecOn (motive := fun buf => buf.length = st.length ∧ Clipped buf) _ _ ⟨rfl, h⟩ fun buf ⟨hlen, hclip⟩ x _ => ?_
  exact ⟨by rw [List.length_modify, hlen], hclip.modify _ _⟩

/-! ### Fields of bytes put together (R5) -/

theorem leNat_leBytes (n v : Nat) : leNat (leBytes n v) = v % 256 ^ n := by
  induction n generalizing v with
  | zero => rw [leBytes, leNat, pow_zero, Nat.mod_one]
  | succ n ih =>
    rw [leBytes, leNat, ih, BitVec.toNat_ofNat, pow_succ' 256 n]
    exact Nat.mod_mul.symm

theorem fld_leBytes_append (n v : Nat) (bs : List Byte) : fld (leBytes n v ++ bs) 0 n = v % 256 ^ n := by
  rw [fld, List.drop_zero, List.take_left' (leBytes_length n v), leNat_leBytes]

theorem fld_append_right (p q : List Byte) (off n : Nat) : fld (p ++ q) (p.length + off) n = fld q off n := by
  rw [fld, ← List.drop_drop, List.drop_left, fld]

theorem fld_byte {p : List Byte} {i : Nat} (h : i < p.length) : fld p i 1 = p[i].toNat := by
  rw [fld, List.drop_eq_getElem_cons h, List.take_succ_cons, List.take_zero]
  rfl

theorem fit_length (n : Nat) (bs : List Byte) : (fit n bs).length = n := by
  rw [fit, List.length_append, List.length_take, zeros, List.length_replicate]
  omega

theorem fit_of_length_le {n : Nat} {bs : List Byte} (h : bs.length ≤ n) : fit n bs = bs ++ zeros (n - bs.length) := by
  rw [fit, List.take_of_length_le h]

/-! ### The record of a combined buffer (R264, R265) -/

/-- SH of a buffer's record. -/
def recShift (buf : List Int) : Nat :=
  if buf.all fun l => l.natAbs >>> 0 ≤ 7 then 0 else if buf.all fun l => l.natAbs >>> 1 ≤ 7 then 1 else 2

/-- The value that a record stores for position `i`. -/
def recQ (b : CodeBlock) (buf : List Int) (i : Nat) : Int :=
  if b.filler.contains i then 0
  else (buf.getD i 0).sign * (min 7 ((buf.getD i 0).natAbs >>> recShift buf) : Nat)

/-- The bytes of a record's values, two values each. -/
def recBody (b : CodeBlock) (buf : List Int) : List Byte :=
  (List.range ((b.ncb + 1) / 2)).map fun i =>
    BitVec.ofNat 8 (unsgn 4 (recQ b buf (2 * i)) + 16 * (if 2 * i + 1 < b.ncb then unsgn 4 (recQ b buf (2 * i + 1)) else 0))

theorem recOf_eq_fit (b : CodeBlock) (buf : List Int) :
    recOf b buf = fit (recBytes b.ncb) (leBytes 4 b.ncb ++ leBytes 1 (recShift buf) ++ zeros 3 ++ recBody b buf) := by
  have hq : ∀ i, unsgn 4 (recQ b buf i) = if b.filler.contains i then 0
      else unsgn 4 ((buf.getD i 0).sign * (min 7 ((buf.getD i 0).natAbs >>> recShift buf) : Nat)) := fun i => by
    rw [recQ, apply_ite (unsgn 4)]
    rfl
  simp only [recBody, hq]
  rfl

theorem recBody_length (b : CodeBlock) (buf : List Int) : (recBody b buf).length = (b.ncb + 1) / 2 := by
  rw [recBody, List.length_map, List.length_range]

theorem recOf_eq (b : CodeBlock) (buf : List Int) :
    ∃ pad, recOf b buf = leBytes 4 b.ncb ++ (leBytes 1 (recShift buf) ++ (zeros 3 ++ (recBody b buf ++ pad))) := by
  have hlen : (leBytes 4 b.ncb ++ leBytes 1 (recShift buf) ++ zeros 3 ++ recBody b buf).length ≤ recBytes b.ncb := by
    simp only [List.length_append, leBytes_length, zeros, List.length_replicate, recBody_length, recBytes]
    omega
  exact ⟨_, by rw [recOf_eq_fit, fit_of_length_le hlen]; simp only [List.append_assoc]; rfl⟩

theorem recOf_length (b : CodeBlock) (buf : List Int) : (recOf b buf).length = recBytes b.ncb := by
  rw [recOf_eq_fit, fit_length]

theorem recShift_le (buf : List Int) : recShift buf ≤ 2 := by
  rw [recShift]
  split_ifs <;> omega

/-- The chosen SH leaves 3 bits of every magnitude. -/
theorem natAbs_div_recShift_le {buf : List Int} (h : Clipped buf) {l : Int} (hl : l ∈ buf) : l.natAbs / 2 ^ recShift buf ≤ 7 := by
  have hclip := h l hl
  rw [← Nat.shiftRight_eq_div_pow, recShift]
  split_ifs with h0 h1
  · exact of_decide_eq_true (List.all_eq_true.mp h0 l hl)
  · exact of_decide_eq_true (List.all_eq_true.mp h1 l hl)
  · rw [Nat.shiftRight_eq_div_pow]
    omega

theorem recOf_ncb {b : CodeBlock} {buf : List Int} (h : b.ncb < 2 ^ 32) : fld (recOf b buf) 0 4 = b.ncb := by
  obtain ⟨pad, hrec⟩ := recOf_eq b buf
  rw [hrec, fld_leBytes_append]
  exact Nat.mod_eq_of_lt h

theorem recOf_shift (b : CodeBlock) (buf : List Int) : fld (recOf b buf) 4 1 = recShift buf := by
  obtain ⟨pad, hrec⟩ := recOf_eq b buf
  have hsh := recShift_le buf
  calc fld (recOf b buf) 4 1
    _ = fld (leBytes 1 (recShift buf) ++ (zeros 3 ++ (recBody b buf ++ pad))) 0 1 := by
      rw [hrec]
      exact fld_append_right (leBytes 4 b.ncb) _ 0 1
    _ = recShift buf := by
      rw [fld_leBytes_append]
      omega

/-- The byte of position `i` lies behind the header of 8 bytes. -/
theorem recOf_byte {b : CodeBlock} (buf : List Int) {i : Nat} (h : i < (b.ncb + 1) / 2) :
    fld (recOf b buf) (8 + i) 1
      = unsgn 4 (recQ b buf (2 * i)) + 16 * (if 2 * i + 1 < b.ncb then unsgn 4 (recQ b buf (2 * i + 1)) else 0) := by
  obtain ⟨pad, hrec⟩ := recOf_eq b buf
  have hbody : i < (recBody b buf).length := by rwa [recBody_length]
  have hoff : 8 + i = (leBytes 4 b.ncb).length + ((leBytes 1 (recShift buf)).length + ((zeros 3).length + i)) := by
    simp only [leBytes_length, zeros, List.length_replicate]
    omega
  rw [hrec, hoff, fld_append_right, fld_append_right, fld_append_right, fld_byte (by rw [List.length_append]; omega),
    List.getElem_append_left hbody]
  have hlo := unsgn_lt 4 (recQ b buf (2 * i))
  have hhi := unsgn_lt 4 (recQ b buf (2 * i + 1))
  simp only [recBody, List.getElem_map, List.getElem_range, BitVec.toNat_ofNat]
  split_ifs <;> omega

theorem recOf_nibble {b : CodeBlock} (buf : List Int) {i : Nat} (h : i < b.ncb) :
    fld (recOf b buf) (8 + i / 2) 1 / 16 ^ (i % 2) % 16 = unsgn 4 (recQ b buf i) := by
  rw [recOf_byte buf (by omega)]
  have hq := unsgn_lt 4 (recQ b buf i)
  rcases Nat.mod_two_eq_zero_or_one i with hpar | hpar
  · rw [hpar, show 2 * (i / 2) = i by omega]
    omega
  · have hlo := unsgn_lt 4 (recQ b buf (2 * (i / 2)))
    rw [hpar, show 2 * (i / 2) + 1 = i by omega, if_pos h]
    omega

theorem recQ_eq {b : CodeBlock} {buf : List Int} (hclip : Clipped buf) {i : Nat} (hi : i < buf.length) :
    recQ b buf i = if b.filler.contains i then 0 else (buf.getD i 0).sign * ((buf.getD i 0).natAbs / 2 ^ recShift buf : Nat) := by
  have hmem : buf.getD i 0 ∈ buf := by
    rw [List.getD_eq_getElem _ _ hi]
    exact List.getElem_mem hi
  rw [recQ, Nat.shiftRight_eq_div_pow, Nat.min_eq_right (natAbs_div_recShift_le hclip hmem)]

theorem recQ_bounds (b : CodeBlock) (buf : List Int) (i : Nat) : -7 ≤ recQ b buf i ∧ recQ b buf i ≤ 7 := by
  rw [recQ]
  split_ifs
  · decide
  · have hq := Nat.min_le_left 7 ((buf.getD i 0).natAbs >>> recShift buf)
    generalize min 7 ((buf.getD i 0).natAbs >>> recShift buf) = k at hq
    rcases Int.sign_trichotomy (buf.getD i 0) with h | h | h <;> rw [h] <;> omega

/-- A value from −7 to 7 is never written as the pattern 0b1000, and reads back as itself. -/
theorem readNibble_unsgn {q : Int} (h : -7 ≤ q ∧ q ≤ 7) : (if unsgn 4 q = 8 then 0 else sgn 4 (unsgn 4 q)) = q := by
  have hback : sgn 4 (unsgn 4 q) = q := sgn_unsgn_of_fits (by decide) (by omega)
  rw [if_neg, hback]
  intro h8
  rw [h8, show sgn 4 8 = -8 by decide] at hback
  omega

/-- Reading a record gives every stored value times 2^SH. -/
theorem recValues_recOf (b : CodeBlock) (buf : List Int) :
    recValues (recOf b buf) b.ncb = (List.range b.ncb).map fun i => recQ b buf i * 2 ^ recShift buf := by
  refine List.map_congr_left fun i hi => ?_
  dsimp only
  rw [recOf_nibble buf (List.mem_range.mp hi), readNibble_unsgn (recQ_bounds b buf i), recOf_shift]

/-- What is stored and read again is the value truncated towards zero to a multiple of 2^SH, 0 for filler. -/
theorem recValues_recOf_getD {b : CodeBlock} {buf : List Int} (hlen : buf.length = b.ncb) (hclip : Clipped buf) {i : Nat}
    (hi : i < b.ncb) : (recValues (recOf b buf) b.ncb).getD i 0 = if b.filler.contains i then 0
      else (buf.getD i 0).sign * ((buf.getD i 0).natAbs / 2 ^ recShift buf * 2 ^ recShift buf : Nat) := by
  rw [recValues_recOf, List.getD_eq_getElem _ _ (by simpa using hi), List.getElem_map, List.getElem_range,
    recQ_eq hclip (hlen ▸ hi)]
  split_ifs
  · exact zero_mul _
  · push_cast
    exact mul_assoc _ _ _

/-! ### CRC (R255) -/

/-- The CRC register after one more bit. -/
def crcShift (c : Nat × Nat) (r : Nat) (b : Bool) : Nat :=
  if r.testBit (c.1 - 1) != b then (r * 2 % 2 ^ c.1) ^^^ c.2 else r * 2 % 2 ^ c.1

theorem crcReg_eq_foldl (c : Nat × Nat) (bs : List Bool) : crcReg c bs = bs.foldl (crcShift c) 0 := rfl

theorem crcReg_append (c : Nat × Nat) (bs bs' : List Bool) : crcReg c (bs ++ bs') = bs'.foldl (crcShift c) (crcReg c bs) := by
  simp only [crcReg_eq_foldl, List.foldl_append]

theorem crcShift_lt {c : Nat × Nat} (hgen : c.2 < 2 ^ c.1) (r : Nat) (b : Bool) : crcShift c r b < 2 ^ c.1 := by
  have hmod : r * 2 % 2 ^ c.1 < 2 ^ c.1 := Nat.mod_lt _ (by positivity)
  rw [crcShift]
  split_ifs
  · exact Nat.xor_lt_two_pow hmod hgen
  · exact hmod

theorem crcReg_lt {c : Nat × Nat} (hgen : c.2 < 2 ^ c.1) (bs : List Bool) : crcReg c bs < 2 ^ c.1 := by
  rw [crcReg_eq_foldl]
  exact List.foldlRecOn (motive := (· < 2 ^ c.1)) _ _ (by positivity) fun r _ b _ => crcShift_lt hgen r b

/-- A bit equal to the register's top bit is shifted in without the generator. -/
theorem crcShift_top (c : Nat × Nat) (r : Nat) : crcShift c r (r.testBit (c.1 - 1)) = r * 2 % 2 ^ c.1 := by
  simp [crcShift]

/-- The register's own bits, most significant first, shift it out: after `k` of them its low bits stand `k` places higher. -/
theorem crcShift_ownBits {c : Nat × Nat} {r : Nat} (hr : r < 2 ^ c.1) {k : Nat} (hk : k ≤ c.1) :
    ((List.range k).map fun i => r.testBit (c.1 - 1 - i)).foldl (crcShift c) r = r * 2 ^ k % 2 ^ c.1 := by
  induction k with
  | zero => simp [Nat.mod_eq_of_lt hr]
  | succ k ih =>
    have htop : (r * 2 ^ k % 2 ^ c.1).testBit (c.1 - 1) = r.testBit (c.1 - 1 - k) := by
      rw [Nat.testBit_mod_two_pow, Nat.testBit_mul_two_pow, decide_eq_true (by omega), decide_eq_true (by omega), Bool.true_and,
        Bool.true_and]
    rw [List.range_succ, List.map_append, List.foldl_append, ih (by omega), List.map_singleton, List.foldl_cons, List.foldl_nil,
      ← htop, crcShift_top, Nat.mod_mul_mod, mul_assoc, ← pow_succ]

theorem crcReg_append_crcBits {c : Nat × Nat} (hgen : c.2 < 2 ^ c.1) (bs : List Bool) : crcReg c (bs ++ crcBits c bs) = 0 := by
  rw [crcReg_append, crcBits, bitsOfNat, crcShift_ownBits (crcReg_lt hgen bs) le_rfl, Nat.mul_mod_left]

theorem crcCode_gen_lt {n : Nat} {c : Nat × Nat} (h : crcCode n = some c) : c.2 < 2 ^ c.1 := by
  unfold crcCode at h
  split at h <;> cases h <;> decide

/-- Settles O38: every addition saturates on its own, SH leaves magnitudes that a nibble holds, and the CRC bits are the register's own, so they
shift it out. -/
theorem softValues : Obligations.SoftValues := by
  unfold Obligations.SoftValues
  refine ⟨fun b => ?clip, fun b st val hst => combine_keeps b val hst, fun b buf hlen hncb hclip => ?record, fun n _ c bs hc => ?crc⟩
  case clip =>
    rw [llrOf_eq]
    obtain ⟨hlo, hhi⟩ := clampI_bounds (by decide : (-31 : Int) ≤ 31) b.toInt
    exact ⟨hlo, hhi, fun h => clampI_of_bounds (by omega) (by omega)⟩
  case record =>
    dsimp only
    rw [recOf_length, recOf_ncb hncb, recOf_shift]
    exact ⟨Nat.mul_mod_left _ _, rfl, recShift_le buf, by simp [recValues], fun i hi => recValues_recOf_getD hlen hclip hi⟩
  case crc => rw [crcOk, crcReg_append_crcBits (crcCode_gen_lt hc), beq_self_eq_true]

end Sys2Proof.Machine

/-! PROOFS. The receiver's events of lanes and peer ports (chapter 10, R287 to R299, Tables 10-3 and 10-4; chapter 03, R84). -/

namespace Sys2Proof.Machine

section Receiver
variable {t n k : Nat} {s u : State} (hu : s.advance t = u) (hlive : u.laneLive n = true)

/-! ### LOS and LOL (R296, R297) -/

section Signal
include hu hlive

theorem exec_losSet_sets {mv ns : Nat} (hclear : (u.lane n).los.testBit k = false) (hlow : mv < (u.lane n).cfg.losMv)
    (hlong : 1000 < ns) :
    let w := (u.modLane n fun l => { l with los := l.los ||| 1 <<< k, losCount := sat32 (l.losCount + 1) }).noteLane n
    exec (.losSet t n ⟨k, mv, ns⟩) s = .next (if (u.lane n).past (isPeer n) k 2 then w.restart1 n 1 else w) := by
  change Host.Outcome.next (doLosSet t n ⟨k, mv, ns⟩ s) = _
  simp [doLosSet, hu, hlive, hclear, hlow.not_ge, hlong.not_ge]

theorem exec_losClear_clears {mv ns : Nat} (hset : (u.lane n).los.testBit k = true) (hhigh : (u.lane n).cfg.losMv + 20 < mv)
    (hlong : 1000 ≤ ns) :
    exec (.losClear t n ⟨k, mv, ns⟩) s = .next ((u.modLane n fun l => { l with los := l.los - 1 <<< k }).laneSettle n) := by
  change Host.Outcome.next (doLosClear t n ⟨k, mv, ns⟩ s) = _
  simp [doLosClear, hu, hlive, hset, hhigh.not_ge, hlong.not_gt]

theorem exec_lolSet_sets {v : ClockEv} (hclear : (u.lane n).lol.testBit v.k = false) (hlost : v.lost = true) :
    let w := u.modLane n fun l => { l with lol := l.lol ||| 1 <<< v.k, lolCount := sat32 (l.lolCount + 1) }
    exec (.lolSet t n v) s = .next (if (u.lane n).past (isPeer n) v.k 2 then w.restartFrom n v.k 2 2 else w) := by
  change Host.Outcome.next (doLolSet t n v s) = _
  simp [doLolSet, hu, hlive, hclear, hlost]

theorem exec_lolClear_clears {v : ClockEv} (hset : (u.lane n).lol.testBit v.k = true) (hgood : v.good = true) :
    exec (.lolClear t n v) s = .next (u.modLane n fun l => { l with lol := l.lol - 1 <<< v.k }) := by
  change Host.Outcome.next (doLolClear t n v s) = _
  simp [doLolClear, hu, hlive, hset, hgood]

theorem exec_syncHeaderLoss_counted (hpast : (u.lane n).past (isPeer n) k 4 = true) (c : Nat) :
    let w := u.modLane n fun l => { l with hdrErr := sat32 (l.hdrErr + c) }
    exec (.syncHeaderLoss t n k c) s = .next (if c < 16 then w else w.restartFrom n k 4 3) := by
  change Host.Outcome.next (doSyncHeaderLoss t n k c s) = _
  simp [doSyncHeaderLoss, hu, hlive, hpast]

end Signal

include hu in
theorem exec_losSet_ignored {mv ns : Nat} (h : (u.lane n).cfg.losMv ≤ mv ∨ ns ≤ 1000) : exec (.losSet t n ⟨k, mv, ns⟩) s = .next u := by
  change Host.Outcome.next (doLosSet t n ⟨k, mv, ns⟩ s) = _
  obtain h | h := h <;> simp [doLosSet, hu, h]

theorem ClockEv.lost_iff (v : ClockEv) : v.lost = true ↔ (30000 < v.off.natAbs ∧ 10000 ≤ v.ns) ∨ 1000 ≤ v.satNs := by
  simp [ClockEv.lost]

theorem ClockEv.good_iff (v : ClockEv) : v.good = true ↔ v.off.natAbs ≤ 20000 ∧ 10000 ≤ v.ns ∧ v.satNs = 0 := by
  simp [ClockEv.good, and_assoc]

/-! ### Stages 2 to 5 of a physical lane (R289 to R291, R295) -/

theorem Lane.locked_iff (peer : Bool) (k frc : Nat) (l : Lane) : l.locked peer k frc = true ↔ l.lol.testBit k = false
    ∧ (peer = true → l.lol.testBit 16 = false) ∧ (peer = false → l.lolOff.getD k 0 + usToFrc 10 ≤ frc) := by
  cases peer <;> simp [Lane.locked]

section Stages
include hu

theorem exec_lockComplete_locks {f : Int} (hstage : u.inStage n k 2 = true) (hlocked : (u.lane n).locked (isPeer n) k u.time.frc = true) :
    exec (.lockComplete t n k f) s
      = .next ((u.modLane n fun l => { l.toStage (isPeer n) k 3 with freq := unsgn 16 f }).laneSettle n) := by
  change Host.Outcome.next (doLockComplete t n k f s) = _
  simp [doLockComplete, hu, hstage, hlocked]

section Adaptation
variable {timeout : Bool} {taps : List Int} (hstage : u.inStage n k 3 = true)
include hstage

theorem exec_adaptationComplete_good (hgood : (u.lane n).good ≤ (u.lane n).eqis.getD k 0)
    (hlong : (u.lane n).goodAt.getD k 0 + msToFrc 1 ≤ u.time.frc) :
    exec (.adaptationComplete t n k timeout taps) s = .next ((u.adapted n k taps).laneSettle n) := by
  change Host.Outcome.next (doAdaptationComplete t n k timeout taps s) = _
  simp [-List.getD_eq_getElem?_getD, doAdaptationComplete, hu, hstage, hgood, hlong]

variable (hlow : (u.lane n).eqis.getD k 0 < (u.lane n).good) (htime : timeout = true)
  (hlate : (u.lane n).began (isPeer n) k + msToFrc (if isPeer n then 5 else 20) ≤ u.time.frc)
include hlow htime hlate

/-- Past the time-out an EQI of at least EQI_FLOOR goes on, with a report (Table 10-3). -/
theorem exec_adaptationComplete_fair (hfloor : (u.lane n).floor ≤ (u.lane n).eqis.getD k 0) :
    exec (.adaptationComplete t n k timeout taps) s
      = .next (((u.adapted n k taps).postLane n 0x0403 1 (n + 65536 * (u.lane n).eqis.getD k 0)).laneSettle n) := by
  change Host.Outcome.next (doAdaptationComplete t n k timeout taps s) = _
  simp [-List.getD_eq_getElem?_getD, doAdaptationComplete, hu, hstage, hlow.not_ge, hlow, htime, stageLimit, hlate.not_gt, hfloor]

theorem exec_adaptationComplete_fails (hfloor : (u.lane n).eqis.getD k 0 < (u.lane n).floor) :
    exec (.adaptationComplete t n k timeout taps) s = .next (u.bringupFail n 3) := by
  change Host.Outcome.next (doAdaptationComplete t n k timeout taps s) = _
  simp [-List.getD_eq_getElem?_getD, doAdaptationComplete, hu, hstage, hlow.not_ge, htime, stageLimit, hlate.not_gt, hfloor.not_ge]

end Adaptation

theorem exec_blockLock_locks {inv : Bool} (hstage : u.inStage n k 4 = true) :
    exec (.blockLock t n k inv) s = .next ((u.modLane n fun l =>
      let l := l.toStage (isPeer n) k 5
      if pam4 l.cfg.rate && l.cfg.polMode = 0 then l.setInv k inv else l).laneSettle n) := by
  change Host.Outcome.next (doBlockLock t n k inv s) = _
  simp only [doBlockLock, hu, hstage, if_true]

/-- A block that shows the polarity of a TLF lane or peer port (R291). -/
def showsPolarity (inv : Bool) (b : Bool × List Byte) : Prop :=
  if inv then b.1 = false ∧ trainingOk true (b.2.map fun x => ~~~x) = true else trainingOk b.1 b.2 = true

omit hu in
theorem polarityOf_shown {inv : Bool} {bs : List (Bool × List Byte)} (hlen : bs.length = 64) (h : ∀ b ∈ bs, showsPolarity inv b) :
    polarityOf false bs = some inv := by
  cases inv with
  | true =>
    have hall : (bs.all fun b => !b.1 && trainingOk true (b.2.map fun x => ~~~x)) = true := by
      simpa [showsPolarity] using h
    simp [polarityOf, hlen, hall]
  | false =>
    have hall : (bs.all fun b => trainingOk b.1 b.2) = true := by simpa [showsPolarity] using h
    have hcontrol : (bs.all fun b => !b.1 && trainingOk true (b.2.map fun x => ~~~x)) = false := by
      obtain ⟨b, rest, rfl⟩ := List.exists_cons_of_length_eq_add_one hlen
      obtain ⟨c, x⟩ := b
      have hb : trainingOk c x = true := h (c, x) List.mem_cons_self
      cases c with
      | true => rfl
      | false => cases hb
    simp [polarityOf, hlen, hall, hcontrol]

theorem exec_polarityDetect_decides {inv : Bool} {bs : List (Bool × List Byte)} (hstage : u.inStage n k 5 = true)
    (hmode : (u.lane n).cfg.mode ≠ 2) (hpol : polarityOf false bs = some inv) :
    exec (.polarityDetect t n k bs) s = .next ((u.modLane n fun l => (l.toStage (isPeer n) k 6).setInv k inv).laneSettle n) := by
  have hline : ((u.lane n).cfg.mode == 2) = false := by simpa using hmode
  change Host.Outcome.next (doPolarityDetect t n k bs s) = _
  simp [doPolarityDetect, hu, hline, hpol, hstage]

end Stages

/-! ### Lane order and deskew (R292, R293) -/

section Order
include hu

theorem exec_laneOrder_peer {nums : List Nat} (hpeer : isPeer n = true) (hlive : u.laneLive n = true) (hheld : (u.lane n).holding = false)
    (hstage : (u.lane n).stage = 6) (hsub : (u.lane n).subDone = true) (hperm : isPerm16 nums = true) :
    exec (.laneOrder t n nums) s = .next ((u.modLane n fun l =>
      { l with stage := 7, map := (List.range 16).map fun i => nums.findIdx (· == i) }).laneSettle n) := by
  change Host.Outcome.next (doLaneOrder t n nums s) = _
  simp [doLaneOrder, hu, hpeer, hlive, hheld, hstage, hsub, hperm]

theorem exec_laneOrder_peer_ignored {nums : List Nat} (hpeer : isPeer n = true) (hperm : isPerm16 nums = false) :
    exec (.laneOrder t n nums) s = .next u := by
  change Host.Outcome.next (doLaneOrder t n nums s) = _
  simp [doLaneOrder, hu, hpeer, hperm]

theorem exec_laneOrder_lane {nums : List Nat} (hpeer : isPeer n = false) (hstage : u.inStage n 0 6 = true) (hmulti : u.multiLane n = true) :
    exec (.laneOrder t n nums) s = .next ((u.modLane n fun l => { l with stage := 7 }).laneSettle n) := by
  change Host.Outcome.next (doLaneOrder t n nums s) = _
  simp [doLaneOrder, hu, hpeer, hstage, hmulti]

theorem exec_deskew_peer {arr : List Nat} (hpeer : isPeer n = true) (hstage : u.inStage n 0 7 = true) (hlen : arr.length = 16) :
    let hi := arr.foldl max 0
    exec (.deskew t n arr) s = .next (if hi - arr.foldl min hi ≤ 128
      then (u.modLane n fun l => { l with stage := 8, skew := arr.map fun a => hi - a }).laneSettle n else u) := by
  change Host.Outcome.next (doDeskew t n arr s) = _
  simp [doDeskew, hu, hpeer, hstage, hlen]

end Order

/-! ### The handshake and training blocks (R84, R287, R288) -/

section Handshake
include hu hlive

theorem exec_handshake_ready (hheld : (u.lane n).holding = false) (htx : (u.lane n).cfg.txEn = true) (hfar : (u.lane n).farReady = true)
    (hmode : (u.lane n).cfg.mode = 1 ∨ (u.lane n).cfg.mode = 4) (hstage : (u.lane n).stage = 8 ∨ (u.lane n).stage = 9) :
    let w := u.modLane n fun l => { l with traffic := true }
    exec (.handshake t n) s = .next ((if isPeer n && (u.lane n).stage == 8 then w.laneUp n else w).settleTx n) := by
  have hmode' : ((u.lane n).cfg.mode == 1 || (u.lane n).cfg.mode == 4) = true := by simpa using hmode
  have hstage' : ((u.lane n).stage == 8 || (u.lane n).stage == 9) = true := by simpa using hstage
  change Host.Outcome.next (doHandshake t n s) = _
  simp only [doHandshake, hu, hlive, hheld, htx, hfar, hmode', hstage', Bool.not_true, Bool.or_self, Bool.false_eq_true, if_false]

theorem exec_trainingBlockRx_ready {b : List Byte} (hok : trainingOk true b = true) (hhs : (u.lane n).cfg.noHs = false)
    (hmode : (u.lane n).cfg.mode = 1 ∨ (u.lane n).cfg.mode = 4) (hstage : 5 ≤ (u.lane n).report (isPeer n)) (htest : (u.lane n).stage ≠ 14)
    (hready : bit (fld b 2 1) 0 = true) :
    exec (.trainingBlockRx t n true b) s = .next (u.modLane n fun l => { l with
      farReady := true, farDevice := fld b 4 2 % 1024, farPort := fld b 6 1, marker := if isPeer n then some u.time.frc else l.marker }) := by
  have hmode' : ((u.lane n).cfg.mode == 1 || (u.lane n).cfg.mode == 4) = true := by simpa using hmode
  change Host.Outcome.next (doTrainingBlockRx t n true b s) = _
  simp [-Bool.or_eq_true, -Bool.not_or, doTrainingBlockRx, hu, hlive, hok, hhs, hmode', hstage.not_gt, htest, hready]

end Handshake

theorem trainingOk_iff (b : List Byte) : trainingOk true b = true
    ↔ fld b 0 1 = 0xB4 ∧ b.length = 8 ∧ fld b 7 1 = 255 - ((b.take 7).foldl (fun x c => x ^^^ c.toNat) 0) := by
  simp [trainingOk, and_assoc]

theorem trainingOk_eq_false {b : List Byte} (ctl : Bool)
    (h : fld b 7 1 ≠ 255 - ((b.take 7).foldl (fun x c => x ^^^ c.toNat) 0) ∨ fld b 0 1 ≠ 0xB4) : trainingOk ctl b = false := by
  obtain h | h := h <;> simp [trainingOk, h]

include hu in
theorem exec_trainingBlockRx_invalid {ctl : Bool} {b : List Byte} (hbad : trainingOk ctl b = false) :
    exec (.trainingBlockRx t n ctl b) s = .next u := by
  change Host.Outcome.next (doTrainingBlockRx t n ctl b s) = _
  simp [doTrainingBlockRx, hu, hbad]

/-! ### Time-outs and the hold (R290, Table 10-3) -/

section Timeouts
include hu hlive

theorem exec_bringupTimeout_fails {st : Nat} (hst : (u.lane n).report (isPeer n) = st) (hheld : (u.lane n).holding = false)
    (htest : (u.lane n).stage ≠ 14) (hhas : hasTimeout (isPeer n) st = true) (hlate : (u.lane n).overdue (isPeer n) st u.time.frc = true)
    (hfloor : st = 3 → (u.lane n).aboveFloor (isPeer n) = false) :
    exec (.bringupTimeout t n) s = .next (u.bringupFail n st) := by
  have hlow : (st == 3 && (u.lane n).aboveFloor (isPeer n)) = false := by simpa using hfloor
  change Host.Outcome.next (doBringupTimeout t n s) = _
  simp [doBringupTimeout, hu, hlive, hheld, htest, hst, hhas, hlate, hlow]

theorem exec_bringupRestart_held (hheld : (u.lane n).holding = true) :
    exec (.bringupRestart t n) s = .next (if (u.lane n).holdAt + msToFrc 1 ≤ u.time.frc then u.restart1 n 5 else u) := by
  change Host.Outcome.next (doBringupRestart t n s) = _
  simp [doBringupRestart, hu, hlive, hheld]

/-! ### EQI (R295) -/

theorem exec_eqiUpdate_due {v : EyeEv} (hmode : (u.lane n).cfg.mode ≠ 0)
    (hdue : (u.lane n).eqiAt.getD k 0 = 0 ∨ (u.lane n).eqiAt.getD k 0 + msToFrc 1 ≤ u.time.frc) :
    exec (.eqiUpdate t n k v) s = .next (u.modLane n fun l => { l with
      eqis := l.eqis.set k (eqiOf v), eqiAt := l.eqiAt.set k u.time.frc
      goodAt := if l.good ≤ eqiOf v && l.eqis.getD k 0 < l.good then l.goodAt.set k u.time.frc else l.goodAt }) := by
  have hnow : ((u.lane n).eqiAt.getD k 0 != 0 && decide (u.time.frc < (u.lane n).eqiAt.getD k 0 + msToFrc 1)) = false := by
    simpa [or_iff_not_imp_left] using hdue
  change Host.Outcome.next (doEqiUpdate t n k v s) = _
  simp only [doEqiUpdate, hu, hlive, hmode, hnow, Bool.not_true, decide_false, Bool.or_false, Bool.false_eq_true, if_false]

end Timeouts

/-- The fold's result is the largest number on the list, or 0. -/
theorem foldl_max_isMax (l : List Nat) : l.foldl max 0 ∈ 0 :: l ∧ ∀ x ∈ 0 :: l, x ≤ l.foldl max 0 :=
  List.max?_eq_some_iff.mp List.max?_cons'

/-- EQI `q` is reached: 10^(q/80) ≤ `num` / `den`, in whole numbers. -/
def reachesEqi (num den q : Nat) : Bool := 10 ^ q * den ^ 80 ≤ num ^ 80

theorem eqiOf_eq {d : Int} {e : List Int} (h : 0 < (e.map fun x => Int.natAbs x ^ 2).sum) : eqiOf ⟨d, e⟩
    = ((List.range 256).filter (reachesEqi (Int.natAbs d ^ 2 * e.length) (e.map fun x => Int.natAbs x ^ 2).sum)).foldl max 0 := by
  rw [eqiOf, if_neg h.ne']
  rfl

theorem eqiOf_largest {d : Int} {e : List Int} (h : 0 < (e.map fun x => Int.natAbs x ^ 2).sum) :
    let q := eqiOf ⟨d, e⟩
    let reaches := reachesEqi (Int.natAbs d ^ 2 * e.length) (e.map fun x => Int.natAbs x ^ 2).sum
    q ≤ 255 ∧ (q = 0 ∨ reaches q = true) ∧ (q = 255 ∨ reaches (q + 1) = false) := by
  intro q reaches
  obtain ⟨hmem, hmax⟩ := foldl_max_isMax ((List.range 256).filter reaches)
  rw [← eqiOf_eq h] at hmem hmax
  have hcases : q = 0 ∨ (q < 256 ∧ reaches q = true) := by simpa using hmem
  refine ⟨by omega, hcases.imp_right And.right, or_iff_not_imp_left.mpr fun hne => Bool.eq_false_iff.mpr fun hnext => ?_⟩
  have hle := hmax (q + 1) (List.mem_cons_of_mem _ (List.mem_filter.mpr ⟨List.mem_range.mpr (by omega), hnext⟩))
  exact absurd hle (Nat.not_succ_le_self q)

/-! ### Ethernet's PCS, and PRBS checkers (R289, R299) -/

section Others
include hu

theorem exec_pcsUp_noPort (hport : u.lanePort n = none) (hstage : (u.lane n).stage = 8) (hmode : (u.lane n).cfg.mode = 2) :
    exec (.pcsUp t n) s = .next (u.laneUp n) := by
  change Host.Outcome.next ((s.advance t).portUp n) = _
  simp [State.portUp, hu, hport, hstage, hmode]

section Prbs
variable {bits : List Bool} (hchk : (u.lane n).chk ≠ 0) (hstage : (u.lane n).stage = 14) (hinst : k < if isPeer n then 16 else 1)
include hchk hstage hinst

omit hu in
theorem checks_of_test : u.checks ⟨n, k, bits⟩ = true := by
  simp [State.checks, hchk, hstage, hinst]

theorem exec_prbsCheckerLock_locks (hclean : prbsClean (u.lane n).chk (u.lane n).invert bits = true) :
    exec (.prbsCheckerLock t ⟨n, k, bits⟩) s
      = .next ((u.readPrbs n).modLane n fun l => { l with prbsLock := l.prbsLock ||| 1 <<< k }) := by
  change Host.Outcome.next (doPrbsCheckerLock t ⟨n, k, bits⟩ s) = _
  simp [doPrbsCheckerLock, hu, checks_of_test hchk hstage hinst, hclean]

theorem exec_prbsCheckerRelock_hunts (hlock : (u.lane n).prbsLock.testBit k = true) (hlen : bits.length ≤ 1024)
    (herrs : 64 ≤ bits.count true) :
    exec (.prbsCheckerRelock t ⟨n, k, bits⟩) s
      = .next ((u.readPrbs n).modLane n fun l => { l with prbsLock := l.prbsLock - 1 <<< k }) := by
  have hcount : (bits.filter id).length = bits.count true := by
    rw [← List.countP_eq_length_filter]
    exact List.countP_congr fun b _ => by simp
  change Host.Outcome.next (doPrbsCheckerRelock t ⟨n, k, bits⟩ s) = _
  simp [doPrbsCheckerRelock, hu, checks_of_test hchk hstage hinst, hlock, hlen.not_gt, hcount, herrs.not_gt]

end Prbs
end Others
end Receiver

/-- Settles O39. The model's choices: what the rows of the measured events carry (log entry 81), the FRC of a peer port's training block as
that of its lane marker (log entry 84), free values for what a PRBS checker has counted (log entry 14). After 16 invalid sync headers the
receiver restarts from stage 4 (Table 10-4). -/
theorem laneEvents : Obligations.LaneEvents := by
  unfold Obligations.LaneEvents
  intro t n k s s₁ l pr hlive
  refine ⟨fun mv ns hclear hlow hlong => exec_losSet_sets rfl hlive hclear hlow hlong,
    fun mv ns h => exec_losSet_ignored rfl h,
    fun mv ns hset hhigh hlong => exec_losClear_clears rfl hlive hset hhigh hlong,
    fun off ns sat hclear hlost => exec_lolSet_sets (v := ⟨k, off, ns, sat⟩) rfl hlive hclear ((ClockEv.lost_iff _).mpr hlost),
    fun off ns hset hnear hlong =>
      exec_lolClear_clears (v := ⟨k, off, ns, 0⟩) rfl hlive hset ((ClockEv.good_iff _).mpr ⟨hnear, hlong, rfl⟩),
    fun c hpast => exec_syncHeaderLoss_counted rfl hlive hpast c,
    fun f hstage hlol hpeer hlane => exec_lockComplete_locks rfl hstage ((Lane.locked_iff ..).mpr ⟨hlol, hpeer, hlane⟩),
    fun to_ taps hstage => ⟨fun hgood hlong => exec_adaptationComplete_good rfl hstage hgood hlong,
      fun hlow hfloor htime hlate => exec_adaptationComplete_fair rfl hstage hlow htime hlate hfloor,
      fun hlow hfloor htime hlate => exec_adaptationComplete_fails rfl hstage hlow htime hlate hfloor⟩,
    fun inv hstage => exec_blockLock_locks rfl hstage,
    fun inv bs hstage hmode hlen h => exec_polarityDetect_decides rfl hstage hmode (polarityOf_shown hlen h),
    fun nums hpeer hheld hstage hsub hperm => exec_laneOrder_peer rfl hpeer hlive hheld hstage hsub hperm,
    fun nums hpeer hperm => exec_laneOrder_peer_ignored rfl hpeer hperm,
    fun nums hpeer hstage hmulti => exec_laneOrder_lane rfl hpeer hstage hmulti,
    fun arr hpeer hstage hlen => exec_deskew_peer rfl hpeer hstage hlen,
    fun hheld htx hfar hmode hstage => exec_handshake_ready rfl hlive hheld htx hfar hmode hstage,
    fun b hhs hmode hstage htest hlen htype hcheck hready => ?training,
    fun b hbad ctl => exec_trainingBlockRx_invalid rfl (trainingOk_eq_false ctl hbad),
    fun hheld htest hhas hlate hfloor => exec_bringupTimeout_fails rfl hlive rfl hheld htest hhas hlate hfloor,
    fun hheld => exec_bringupRestart_held rfl hlive hheld,
    fun d e hmode hdue => exec_eqiUpdate_due rfl hlive hmode hdue,
    fun d e hden => ?eqi,
    fun hport hstage hmode => exec_pcsUp_noPort rfl hport hstage hmode,
    fun bits hchk hstage hinst hclean => exec_prbsCheckerLock_locks rfl hchk hstage hinst hclean,
    fun bits hchk hstage hinst hlock hlen herrs => exec_prbsCheckerRelock_hunts rfl hchk hstage hinst hlock hlen herrs⟩
  case training =>
    have hbit : bit (fld b 2 1) 0 = true := by rw [bit, Nat.testBit_zero, hready]; rfl
    exact exec_trainingBlockRx_ready rfl hlive ((trainingOk_iff b).mpr ⟨htype, hlen, hcheck⟩) hhs hmode hstage htest hbit
  case eqi =>
    simpa only [reachesEqi, decide_eq_true_eq, decide_eq_false_iff_not, Nat.not_le] using eqiOf_largest hden

end Sys2Proof.Machine

/-! PROOFS. LANE_CONFIG, LANE_STATUS and LOOPBACK_SET (chapter 10, R280, R282, R298 to R305). -/

namespace Sys2Proof.Machine

/-- A configuration takes a lane out of service or changes its line (R303). -/
def LaneCfg.cuts (o c : LaneCfg) : Bool := o.mode != c.mode || o.rate != c.rate || (o.txEn && !c.txEn) || (o.rxEn && !c.rxEn)

/-- A configuration restarts the receiver (R302). -/
def LaneCfg.changes (o c : LaneCfg) : Bool := o.mode != c.mode || o.rate != c.rate || o.rxEn != c.rxEn

/-- A peer port is enabled, or a lane serves a live cell. -/
def State.laneInUse (s : State) (n : Nat) : Bool := if isPeer n then s.portEnabled (n - 256) else s.laneServes n

section Bodies
variable {i : CmdIn} {s : State} {n : Nat} (hn : fld i.p 0 2 = n)
include hn

/-! ### LANE_CONFIG -/

section LaneConfig
variable {c : LaneCfg} (hc : laneCfgOf i.p = c)

theorem bodyLaneConfig_notOwned (hmay : s.mayLane i.fn n = false) : bodyLaneConfig i s = (s, .done (.bare .notPermitted)) := by
  simp [bodyLaneConfig, hn, hmay, refuse]

include hc

theorem bodyLaneConfig_cuts (hcut : (s.lane n).cfg.cuts c = true) (huse : s.laneInUse n = true) :
    bodyLaneConfig i s = (s, .done (.bare .notPermitted)) := by
  rw [LaneCfg.cuts] at hcut
  rw [State.laneInUse] at huse
  simp only [bodyLaneConfig, hn, hc, hcut, huse, Bool.and_self, Bool.or_true, if_true, refuse]

/-- What a configuration that is not refused does: the fields, the TLF side of a lane whose MODE or RATE is new, then the receiver's
restart or the transmitter alone. -/
def State.configureLane (s : State) (n : Nat) (c : LaneCfg) : State :=
  let fresh := (s.lane n).cfg.mode != c.mode || (s.lane n).cfg.rate != c.rate
  let u := s.modLane n fun l => { l with
    cfg := c
    traffic := if fresh then c.noHs && c.txEn else if c.noHs then c.txEn else l.traffic && c.txEn
    everUp := l.everUp && !fresh }
  let u := if fresh && !isPeer n then u.modTlf n fun t => { t with tx := none, rxSlots := [], farAps := none } else u
  if (s.lane n).cfg.changes c && (u.lane n).stage != 14 then u.restart1 n 5 else u.settleTx n

section Allowed
variable (hmay : s.mayLane i.fn n = true) (hkeeps : ((s.lane n).cfg.cuts c && s.laneInUse n) = false)
include hmay hkeeps

theorem bodyLaneConfig_clash (hpeer : isPeer n = false) (hclash : s.pllClash n c.rate = true) :
    bodyLaneConfig i s = (s, .done (.bare .noResource)) := by
  rw [LaneCfg.cuts, State.laneInUse] at hkeeps
  simp only [bodyLaneConfig, hn, hc, hmay, hkeeps, Bool.not_true, Bool.or_self, Bool.false_eq_true, if_false, refuse]
  simp [hpeer, hclash]

theorem bodyLaneConfig_configured {u : State} (hclash : (!isPeer n && s.pllClash n c.rate) = false) (hu : s.configureLane n c = u) :
    bodyLaneConfig i s = (u, .done (.ok [])) := by
  rw [← hu]
  rw [LaneCfg.cuts, State.laneInUse] at hkeeps
  simp only [bodyLaneConfig, hn, hc, hmay, hkeeps, hclash, Bool.not_true, Bool.or_self, Bool.false_eq_true, if_false, ok]
  rfl

end Allowed
end LaneConfig

/-! ### LANE_STATUS -/

theorem bodyLaneStatus_notOwned (hmay : s.mayLane i.fn n = false) : bodyLaneStatus i s = (s, .done (.bare .notPermitted)) := by
  simp [bodyLaneStatus, hn, hmay, refuse]

theorem bodyLaneStatus_answers (hmay : s.mayLane i.fn n = true) :
    let u := s.readPrbs n
    bodyLaneStatus i s = (if bit (fld i.p 2 1) 0 then u.modLane n Lane.cleared else u,
      .done (if fld i.p 8 8 = 0 then .ok ((u.lane n).inline_ (isPeer n))
        else .okBuf (fld i.p 8 8) ((u.lane n).buffer (isPeer n) u.time.frc))) := by
  simp only [bodyLaneStatus, hn, hmay, Bool.not_true, Bool.false_eq_true, if_false, ok]
  split_ifs <;> rfl

/-! ### LOOPBACK_SET -/

section Begins
variable (hany : fld i.p 2 1 ≠ 0 ∨ fld i.p 3 1 ≠ 0 ∨ fld i.p 4 1 ≠ 0)
include hany

omit hn in
theorem asksTest : (fld i.p 2 1 != 0 || fld i.p 3 1 != 0 || fld i.p 4 1 != 0) = true := by
  simpa [or_assoc] using hany

theorem bodyLoopbackSet_barred (hbar : s.testBarred n = true) : bodyLoopbackSet i s = (s, .done (.bare .notPermitted)) := by
  simp only [bodyLoopbackSet, hn, asksTest hany, hbar, Bool.and_self, Bool.or_true, if_true, refuse]

/-- A lane enters its test (R298, R300): down, out of frame, its group treats a standby member as failed. -/
def State.beginTest (s : State) (n : Nat) (p : List Byte) : State :=
  (((((s.readPrbs n).laneDown n 5).modLane n fun l => { l with
    loop := fld p 2 1, gen := fld p 3 1, chk := fld p 4 1, invert := bit (fld p 5 1) 0, txKeep := bit (fld p 5 1) 1
    stage := 14, holding := false, prbsLock := 0 }).losesFrame n).testMember n true).settleTx n

theorem bodyLoopbackSet_begins (hmay : s.mayLane i.fn n = true) (hbar : s.testBarred n = false)
    (hnew : (s.lane n).loop ≠ fld i.p 2 1) (hkeep : bit (fld i.p 5 1) 2 = false) :
    let u := s.beginTest n i.p
    let v := if bit (fld i.p 5 1) 3 && fld i.p 3 1 != 0 then u.emit (.inject n) else u
    bodyLoopbackSet i s = (v, .done (.ok ((v.lane n).inline_ (isPeer n)))) := by
  have hsame : ((s.lane n).loop == fld i.p 2 1) = false := by simpa using hnew
  simp only [bodyLoopbackSet, hn, asksTest hany, hmay, hbar, hsame, hkeep, Bool.not_true, Bool.and_false, Bool.false_and, Bool.or_self,
    Bool.false_eq_true, if_false, if_true, ok]
  rfl

end Begins

/-- A lane leaves its test (R300): its group looks at its SF again, its receiver restarts. -/
def State.endTest (s : State) (n : Nat) (p : List Byte) : State :=
  ((((s.readPrbs n).modLane n fun l => { l with
    loop := 0, gen := 0, chk := 0, invert := bit (fld p 5 1) 0, txKeep := bit (fld p 5 1) 1
    stage := 0, holding := false, prbsLock := 0 }).testMember n false).restart1 n 5).settleTx n

theorem bodyLoopbackSet_ends (hmay : s.mayLane i.fn n = true) (hloop : fld i.p 2 1 = 0) (hgen : fld i.p 3 1 = 0) (hchk : fld i.p 4 1 = 0)
    (htest : (s.lane n).stage = 14) (hnew : (s.lane n).loop ≠ 0) (hkeep : bit (fld i.p 5 1) 2 = false) :
    bodyLoopbackSet i s = (s.endTest n i.p, .done (.ok (((s.endTest n i.p).lane n).inline_ (isPeer n)))) := by
  have hsame : ((s.lane n).loop == 0) = false := by simpa using hnew
  simp only [bodyLoopbackSet, hn, hloop, hgen, hchk, hmay, htest, hsame, hkeep, bne_self_eq_false, beq_self_eq_true, Bool.not_true,
    Bool.and_false, Bool.false_and, Bool.or_self, Bool.false_eq_true, if_false, if_true, ok]
  rfl

end Bodies

section Configure
variable {s : State} {n : Nat} {c : LaneCfg}

/-- Transmit fields and thresholds apply at once, without a restart (R302). -/
theorem configureLane_unchanged (h : (s.lane n).cfg.changes c = false) : s.configureLane n c = (s.modLane n fun l => { l with
      cfg := c, traffic := if c.noHs then c.txEn else l.traffic && c.txEn }).settleTx n := by
  obtain ⟨hfresh, -⟩ := Bool.or_eq_false_iff.mp h
  simp only [State.configureLane, h, hfresh, Bool.false_and, Bool.not_false, Bool.and_true, Bool.false_eq_true, if_false]

/-- A new MODE starts the lane anew, a lane in TEST at the end of the test (R301, R302). -/
theorem configureLane_newMode (h : (s.lane n).cfg.mode ≠ c.mode) : s.configureLane n c =
    let u := s.modLane n fun l => { l with cfg := c, traffic := c.noHs && c.txEn, everUp := false }
    let u := if isPeer n then u else u.modTlf n fun t => { t with tx := none, rxSlots := [], farAps := none }
    if (u.lane n).stage = 14 then u.settleTx n else u.restart1 n 5 := by
  have hmode : ((s.lane n).cfg.mode != c.mode) = true := by simpa using h
  have hchanges : (s.lane n).cfg.changes c = true := by simp only [LaneCfg.changes, hmode, Bool.true_or]
  simp only [State.configureLane, hmode, hchanges, Bool.true_or, Bool.true_and, Bool.not_true, Bool.and_false, if_true]
  cases isPeer n <;> simp

end Configure

/-- Settles O40. -/
theorem laneCommands : Obligations.LaneCommands := by
  unfold Obligations.LaneCommands
  intro c s fl s₁ p n l cfg changes cut
  refine ⟨fun h hmay => ?_, fun h hcut huse => ?_, fun h hmay huse hpeer hclash => ?_, fun h hmay hchanges hcut hclash => ?_,
    fun h hmay huse hclash hmode => ?_, fun h hmay => ?_, fun h hmay => ?_, fun h hmay hany hbar => ?_, fun h hmay hany hbar hnew hkeep => ?_,
    fun h hmay hloop hgen hchk htest hnew hkeep => ?_⟩
  · exact exec_done rfl h (bodyLaneConfig_notOwned rfl hmay)
  · exact exec_done rfl h (bodyLaneConfig_cuts rfl rfl hcut huse)
  · exact exec_done rfl h (bodyLaneConfig_clash rfl rfl hmay (Bool.and_eq_false_iff.mpr (.inr huse)) hpeer hclash)
  · have hkeeps : (l.cfg.cuts cfg && s₁.laneInUse n) = false := Bool.and_eq_false_iff.mpr (.inl hcut)
    have hbody := bodyLaneConfig_configured (i := fl.input c) (c := cfg) rfl rfl hmay hkeeps hclash (configureLane_unchanged hchanges)
    exact exec_done rfl h hbody
  · have hkeeps : (l.cfg.cuts cfg && s₁.laneInUse n) = false := Bool.and_eq_false_iff.mpr (.inr huse)
    have hbody := bodyLaneConfig_configured (i := fl.input c) (c := cfg) rfl rfl hmay hkeeps hclash (configureLane_newMode hmode)
    exact exec_done rfl h hbody
  · exact exec_done rfl h (bodyLaneStatus_notOwned rfl hmay)
  · exact exec_done rfl h (bodyLaneStatus_answers rfl hmay)
  · exact exec_done rfl h (bodyLoopbackSet_barred rfl hany hbar)
  · exact exec_done rfl h (bodyLoopbackSet_begins rfl hany hmay hbar hnew hkeep)
  · exact exec_done rfl h (bodyLoopbackSet_ends rfl hmay hloop hgen hchk htest hnew hkeep)

end Sys2Proof.Machine

/-! PROOFS. Blocks of a TLF frame: scrambler, CHECK, BIP16, payload in slots, the length of the overhead (chapter 11, R286, R308, R309,
R311 to R314, R326). -/

namespace Sys2Proof.Machine

/-! ### The scrambler (R286) -/

/-- One more bit of a number that is written from its lowest bit up. -/
theorem addBit_lt {i out : Nat} (h : out < 2 ^ i) (y : Bool) : (if y then out + 2 ^ i else out) < 2 ^ (i + 1) := by
  rw [pow_succ]
  split_ifs <;> omega

theorem testBit_addBit {i out : Nat} (h : out < 2 ^ i) (y : Bool) {k : Nat} (hk : k ≤ i) :
    (if y then out + 2 ^ i else out).testBit k = if k = i then y else out.testBit k := by
  obtain rfl | hlt := hk.eq_or_lt
  · cases y <;> simp [Nat.testBit_lt_two_pow h, Nat.add_comm out, Nat.testBit_two_pow_add_eq]
  · cases y <;> simp [hlt.ne, Nat.add_comm out, Nat.testBit_two_pow_add_gt hlt]

theorem addBit_mod (d i : Nat) : (if d.testBit i then d % 2 ^ i + 2 ^ i else d % 2 ^ i) = d % 2 ^ (i + 1) := by
  rw [Nat.mod_pow_succ, Nat.testBit_eq_decide_div_mod_eq]
  obtain h | h := Nat.mod_two_eq_zero_or_one (d / 2 ^ i) <;> simp [h]

theorem scrBits_lt (down : Bool) (n : Nat) {i out : Nat} (d st : Nat) (h : out < 2 ^ i) : (scrBits down n i d st out).1 < 2 ^ (i + n) := by
  induction n generalizing i st out with
  | zero => exact h
  | succ n ih =>
    have := ih ((st * 2 + b2n (if down then d.testBit i else (d.testBit i != st.testBit 38) != st.testBit 57)) % 2 ^ 58)
      (addBit_lt h ((d.testBit i != st.testBit 38) != st.testBit 57))
    rwa [show i + 1 + n = i + (n + 1) by omega] at this

/-- Bits already written stay. -/
theorem testBit_scrBits (down : Bool) (n : Nat) {i out : Nat} (d st : Nat) (h : out < 2 ^ i) {k : Nat} (hk : k < i) :
    (scrBits down n i d st out).1.testBit k = out.testBit k := by
  induction n generalizing i st out with
  | zero => rfl
  | succ n ih => rw [scrBits, ih _ (addBit_lt h _) (by omega), testBit_addBit h _ hk.le, if_neg hk.ne]

/-- Descrambling what scrambling writes from bit `i` on gives the data back: both registers take in the same line bits. -/
theorem scrBits_undone (n : Nat) {i out : Nat} (d st e : Nat) (h : out < 2 ^ i)
    (he : ∀ k, i ≤ k → k < i + n → e.testBit k = (scrBits false n i d st out).1.testBit k) :
    scrBits true n i e st (d % 2 ^ i) = (d % 2 ^ (i + n), (scrBits false n i d st out).2) := by
  induction n generalizing i st out with
  | zero => rfl
  | succ n ih =>
    set y := (d.testBit i != st.testBit 38) != st.testBit 57 with hy
    have hline : e.testBit i = y := by
      rw [he i le_rfl (by omega), scrBits, ← hy, testBit_scrBits _ _ _ _ (addBit_lt h y) (Nat.lt_succ_self i),
        testBit_addBit h y le_rfl, if_pos rfl]
    have hdata : ((y != st.testBit 38) != st.testBit 57) = d.testBit i := by
      rw [hy]
      cases d.testBit i <;> cases st.testBit 38 <;> cases st.testBit 57 <;> rfl
    have hrest := ih ((st * 2 + b2n y) % 2 ^ 58) (addBit_lt h y) fun k hk hkn => he k (by omega) (by omega)
    rw [scrBits, scrBits, hline, hdata, addBit_mod, ← hy, if_pos rfl, if_neg Bool.false_ne_true, hrest]
    rw [show i + 1 + n = i + (n + 1) by omega]

/-- The control bit above a block's 64 data bits. -/
theorem blkCtl_add {o : Nat} (h : o < 2 ^ 64) (c : Bool) : blkCtl (o + 2 ^ 64 * b2n c) = c := by
  have hbit := testBit_addBit h c le_rfl
  rw [if_pos rfl] at hbit
  cases c <;> simpa [blkCtl, b2n] using hbit

theorem mod_add_blkCtl {b : Nat} (h : b < 2 ^ 65) : b % 2 ^ 64 + 2 ^ 64 * b2n (blkCtl b) = b := by
  have hbits := addBit_mod b 64
  rw [Nat.mod_eq_of_lt h] at hbits
  conv_rhs => rw [← hbits]
  rw [blkCtl]
  cases b.testBit 64 <;> simp [b2n]

theorem scrBlocks_undone (bs : List Nat) (st : Nat) (h : ∀ b ∈ bs, b < 2 ^ 65) :
    scrBlocks true (scrBlocks false bs st).1 st = (bs, (scrBlocks false bs st).2) := by
  induction bs generalizing st with
  | nil => rfl
  | cons b bs ih =>
    obtain ⟨hb, hbs⟩ := List.forall_mem_cons.mp h
    have hlt : (scrBits false 64 0 b st 0).1 < 2 ^ 64 := scrBits_lt false 64 b st (by decide : 0 < 2 ^ 0)
    set line := (scrBits false 64 0 b st 0).1 + 2 ^ 64 * b2n (blkCtl b) with hline
    have hback : scrBits true 64 0 line st 0 = (b % 2 ^ 64, (scrBits false 64 0 b st 0).2) := by
      have := scrBits_undone 64 (i := 0) b st line (by decide : 0 < 2 ^ 0) fun k _ hk => by
        rw [hline, Nat.add_comm, Nat.testBit_two_pow_mul_add _ hlt, if_pos (by omega)]
      simpa [Nat.mod_one] using this
    simp only [scrBlocks]
    rw [← hline, hback, ih _ hbs, hline, blkCtl_add hlt, mod_add_blkCtl hb]

/-! ### Bytes of a block, CHECK, and the copies of TLF-48G (R308, R311, R313) -/

theorem leNat_lt (bs : List Byte) : leNat bs < 256 ^ bs.length := by
  induction bs with
  | nil => exact Nat.one_pos
  | cons b bs ih =>
    have hb := b.isLt
    rw [leNat, List.length_cons, pow_succ]
    omega

theorem leBytes_leNat_add (bs : List Byte) (c : Nat) : leBytes bs.length (leNat bs + 256 ^ bs.length * c) = bs := by
  induction bs with
  | nil => rfl
  | cons b bs ih =>
    have hb := b.isLt
    rw [leNat, List.length_cons, leBytes, pow_succ, show b.toNat + 256 * leNat bs + 256 ^ bs.length * 256 * c
      = b.toNat + 256 * (leNat bs + 256 ^ bs.length * c) by ring]
    congr 1
    · exact BitVec.eq_of_toNat_eq (by rw [BitVec.toNat_ofNat]; omega)
    · rw [show (b.toNat + 256 * (leNat bs + 256 ^ bs.length * c)) / 256 = leNat bs + 256 ^ bs.length * c by omega, ih]

theorem blkBytes_blkOf (ctl : Bool) (bs : List Byte) : blkBytes (blkOf ctl bs) = fit 8 bs := by
  have h := leBytes_leNat_add (fit 8 bs) (b2n ctl)
  rwa [fit_length] at h

theorem blkCtl_blkOf (ctl : Bool) (bs : List Byte) : blkCtl (blkOf ctl bs) = ctl := by
  have h := leNat_lt (fit 8 bs)
  rw [fit_length] at h
  exact blkCtl_add h ctl

theorem fit_self {n : Nat} {bs : List Byte} (h : bs.length = n) : fit n bs = bs := by
  rw [fit_of_length_le h.le, h, Nat.sub_self]
  exact List.append_nil bs

theorem blkBytes_chkBlk (bs : List Byte) : blkBytes (chkBlk bs) = fit 7 bs ++ leBytes 1 (checkOf (fit 7 bs)) := by
  rw [chkBlk, blkBytes_blkOf, fit_self]
  rw [List.length_append, fit_length, leBytes_length]

theorem take_blkBytes_chkBlk (bs : List Byte) : (blkBytes (chkBlk bs)).take 7 = fit 7 bs := by
  rw [blkBytes_chkBlk, List.take_left' (fit_length 7 bs)]

theorem blkOk_chkBlk (bs : List Byte) : blkOk (chkBlk bs) = true := by
  have hcheck : fld (blkBytes (chkBlk bs)) 7 1 = checkOf (fit 7 bs) := by
    have hbyte := fld_append_right (fit 7 bs) (leBytes 1 (checkOf (fit 7 bs))) 0 1
    have hfield := fld_leBytes_append 1 (checkOf (fit 7 bs)) []
    have hsmall : checkOf (fit 7 bs) < 256 := by rw [checkOf]; omega
    rw [fit_length] at hbyte
    rw [List.append_nil] at hfield
    rw [blkBytes_chkBlk, hbyte, hfield, pow_one, Nat.mod_eq_of_lt hsmall]
  rw [blkOk, take_blkBytes_chkBlk, hcheck, beq_self_eq_true, chkBlk, blkCtl_blkOf]
  rfl

theorem overBlk_first {ovh : List Nat} {i : Nat} (h : blkOk (ovh.getD i 0) = true) : overBlk ovh i = some (blkBytes (ovh.getD i 0)) := by
  rw [overBlk, if_pos h]

theorem overBlk_copy {ovh : List Nat} {i : Nat} (hbad : blkOk (ovh.getD i 0) = false) (hlen : 64 + i < ovh.length)
    (h : blkOk (ovh.getD (64 + i) 0) = true) : overBlk ovh i = some (blkBytes (ovh.getD (64 + i) 0)) := by
  simp only [overBlk, hbad, hlen, h, decide_true, Bool.and_self, Bool.false_eq_true, if_false, if_true]

/-! ### BIP16 (R312) -/

/-- The four fields of 16 bits of a number, XORed. -/
def fold16 (v : Nat) : Nat := (v % 65536) ^^^ (v / 2 ^ 16 % 65536) ^^^ (v / 2 ^ 32 % 65536) ^^^ (v / 2 ^ 48 % 65536)

/-- The XOR of a frame's blocks without their headers. -/
def xorData (line : List Nat) : Nat := line.foldl (fun x b => x ^^^ (b % 2 ^ 64)) 0

theorem bip16_eq (line : List Nat) : bip16 line = fold16 (xorData line) := rfl

theorem fold16_xor (v w : Nat) : fold16 (v ^^^ w) = fold16 v ^^^ fold16 w := by
  have hfield (k : Nat) : (v ^^^ w) / 2 ^ k % 2 ^ 16 = (v / 2 ^ k % 2 ^ 16) ^^^ (w / 2 ^ k % 2 ^ 16) := by
    rw [Nat.xor_div_two_pow, Nat.xor_mod_two_pow]
  have h0 := hfield 0
  rw [pow_zero, Nat.div_one, Nat.div_one, Nat.div_one] at h0
  simp only [fold16, show 65536 = 2 ^ 16 from rfl, h0, hfield]
  ac_rfl

theorem fold16_two_pow : ∀ i < 64, fold16 (2 ^ i) = 2 ^ (i % 16) := by decide

theorem foldl_xor_init (f : Nat → Nat) (l : List Nat) (x : Nat) :
    l.foldl (fun x b => x ^^^ f b) x = x ^^^ l.foldl (fun x b => x ^^^ f b) 0 := by
  induction l generalizing x with
  | nil => simp
  | cons b l ih => rw [List.foldl_cons, List.foldl_cons, ih, ih (0 ^^^ f b), Nat.zero_xor, Nat.xor_assoc]

theorem xorData_flip (l r : List Nat) (b : Nat) {i : Nat} (h : i < 64) :
    xorData (l ++ (b ^^^ 2 ^ i) :: r) = xorData (l ++ b :: r) ^^^ 2 ^ i := by
  have hflip : (b ^^^ 2 ^ i) % 2 ^ 64 = b % 2 ^ 64 ^^^ 2 ^ i := by
    rw [Nat.xor_mod_two_pow, Nat.mod_eq_of_lt (Nat.pow_lt_pow_right one_lt_two h)]
  simp only [xorData, List.foldl_append, List.foldl_cons, hflip]
  rw [foldl_xor_init (· % 2 ^ 64) r, foldl_xor_init (· % 2 ^ 64) r (_ ^^^ b % 2 ^ 64)]
  ac_rfl

theorem bip16_flip (l r : List Nat) (b : Nat) {i : Nat} (h : i < 64) :
    bip16 (l ++ (b ^^^ 2 ^ i) :: r) = bip16 (l ++ b :: r) ^^^ 2 ^ (i % 16) := by
  rw [bip16_eq, bip16_eq, xorData_flip l r b h, fold16_xor, fold16_two_pow i h]

/-! ### A trail's payload in its slots (R309, R314) -/

/-- Pieces of one length, put together again. -/
theorem flatMap_drop_take {α : Type} (w m : Nat) (p : List α) :
    ((List.range m).flatMap fun i => (p.drop (w * i)).take w) = p.take (w * m) := by
  induction m with
  | zero => simp
  | succ m ih => rw [List.range_succ, List.flatMap_append, ih, List.flatMap_singleton, Nat.mul_succ, List.take_add]

theorem blkBytes_payloadBlk {p : List Byte} {n i r : Nat} (h : 8 * (r * n + i) + 8 ≤ p.length) :
    blkBytes (payloadBlk p n i r) = (p.drop (8 * (r * n + i))).take 8 := by
  rw [payloadBlk, blkBytes_blkOf, fit_self]
  rw [List.length_take, List.length_drop]
  omega

/-- The blocks of slot `i` of a payload of `n` slots. -/
def payloadSlot (p : List Byte) (n i : Nat) : List Nat := (List.range 64).map fun r => payloadBlk p n i r

theorem payloadSlot_getD (p : List Byte) (n i : Nat) {r : Nat} (h : r < 64) : (payloadSlot p n i).getD r 0 = payloadBlk p n i r := by
  simp [payloadSlot, h]

/-- A row of the slots is a run of the payload. -/
theorem row_payloadSlot {p : List Byte} {n r : Nat} (hp : p.length = 512 * n) (hr : r < 64) :
    (((List.range n).map (payloadSlot p n)).flatMap fun sl => blkBytes (sl.getD r 0)) = (p.drop (8 * n * r)).take (8 * n) := by
  have hblock : ∀ i ∈ List.range n, blkBytes ((payloadSlot p n i).getD r 0) = ((p.drop (8 * n * r)).drop (8 * i)).take 8 := fun i hi => by
    have hi := List.mem_range.mp hi
    have hrow := Nat.mul_le_mul_right n (Nat.le_of_lt_succ hr)
    rw [payloadSlot_getD p n i hr, blkBytes_payloadBlk (by omega), List.drop_drop]
    congr 2
    ring
  rw [List.flatMap_map, List.flatMap_congr hblock, flatMap_drop_take]

theorem slotPayload_payloadSlot {p : List Byte} {n : Nat} (hp : p.length = 512 * n) :
    slotPayload ((List.range n).map (payloadSlot p n)) = p := by
  rw [slotPayload, List.flatMap_congr fun r hr => row_payloadSlot hp (List.mem_range.mp hr), flatMap_drop_take,
    List.take_of_length_le (by omega)]

/-! ### The length of a frame (R308, R309, Table 11-1) -/

theorem txOverhead_length (s : State) (n : Nat) (page : Tab Nat) (tx : TlfTx) {j : Int} (mcs : List (List Byte)) (hj : -8 ≤ j) :
    ((s.txOverhead n page tx j mcs).length : Int) = tlfOver (s.lane n).cfg.rate + j := by
  unfold State.txOverhead tlfOver
  dsimp only
  split_ifs <;> simp [State.ownBlocks] <;> omega

theorem tlfOver_add_slots {rate : Nat} (h : rate ∈ [1, 2, 3]) : tlfOver rate + 64 * tlfSlots rate = tlfBlocks rate := by
  revert rate
  decide

/-! ### The blocks that a member forms for itself (R326) -/

/-- A list with its entries from `k` on replaced by those of another. -/
def putRun {α : Type} (k : Nat) (own l : List α) : List α := l.take k ++ own ++ l.drop (k + own.length)

section PutRun
variable {α : Type} {own l : List α} {k : Nat} (h : k + own.length ≤ l.length)
include h

theorem putRun_length : (putRun k own l).length = l.length := by
  simp only [putRun, List.length_append, List.length_take, List.length_drop]
  omega

theorem putRun_getD (d : α) (i : Nat) :
    (putRun k own l).getD i d = if k ≤ i ∧ i < k + own.length then own.getD (i - k) d else l.getD i d := by
  have hfront : (l.take k).length = k := by rw [List.length_take]; omega
  have hmid : (l.take k ++ own).length = k + own.length := by rw [List.length_append, hfront]
  simp only [List.getD_eq_getElem?_getD]
  split_ifs with hi
  · rw [putRun, List.getElem?_append_left (by omega), List.getElem?_append_right (by omega), hfront]
  · obtain hlo | hhi := lt_or_ge i k
    · rw [putRun, List.getElem?_append_left (by omega), List.getElem?_append_left (by omega), List.getElem?_take_of_lt hlo]
    · rw [putRun, List.getElem?_append_right (by omega), List.getElem?_drop, hmid, Nat.add_sub_cancel' (by omega)]

end PutRun

section WithOwn
variable {own blocks : List Nat} (hown : own.length = 3)
include hown

theorem withOwn_eq (rate : Nat) (blocks : List Nat) :
    withOwn rate own blocks = if rate = 3 then putRun 66 own (putRun 2 own blocks) else putRun 2 own blocks := by
  rw [withOwn, putRun, putRun, hown]

theorem withOwn_length (rate : Nat) (h : 128 ≤ blocks.length) : (withOwn rate own blocks).length = blocks.length := by
  have hfirst : (putRun 2 own blocks).length = blocks.length := putRun_length (by omega)
  rw [withOwn_eq hown]
  split_ifs
  · rw [putRun_length (by omega), hfirst]
  · exact hfirst

theorem withOwn_getD (rate : Nat) (h : 128 ≤ blocks.length) (i : Nat) : (withOwn rate own blocks).getD i 0 =
    if 2 ≤ i ∧ i < 5 then own.getD (i - 2) 0 else if rate = 3 ∧ 66 ≤ i ∧ i < 69 then own.getD (i - 66) 0 else blocks.getD i 0 := by
  have hfirst : (putRun 2 own blocks).getD i 0 = if 2 ≤ i ∧ i < 5 then own.getD (i - 2) 0 else blocks.getD i 0 := by
    rw [putRun_getD (by omega), hown]
  rw [withOwn_eq hown]
  by_cases hrate : rate = 3
  · have hlen : (putRun 2 own blocks).length = blocks.length := putRun_length (by omega)
    rw [if_pos hrate, putRun_getD (by omega), hfirst, hown]
    by_cases hi : 2 ≤ i ∧ i < 5
    · rw [if_neg (by omega), if_pos hi, if_pos hi]
    · simp only [hi, hrate, if_false, true_and]
  · rw [if_neg hrate, hfirst, if_neg (show ¬(rate = 3 ∧ 66 ≤ i ∧ i < 69) from fun h => hrate h.1)]

end WithOwn

/-- Settles O41. The last clause, about blocks 2 to 4 of a member's frames, is R326's. -/
theorem tlfFrameBlocks : Obligations.TlfBlocks := by
  unfold Obligations.TlfBlocks
  refine ⟨fun bs st h => scrBlocks_undone bs st h, fun b => ⟨blkOk_chkBlk b, take_blkBytes_chkBlk b⟩,
    fun b c i front back hfront hback hi => ?copies, fun l r b i hi => bip16_flip l r b hi, fun n p hp => slotPayload_payloadSlot hp, fun s n page tx j mcs hrate hlo _ => ?length,
    fun rate own blocks hown h => ⟨withOwn_length hown rate h, withOwn_getD hown rate h⟩⟩
  case copies =>
    have hat (x : Nat) (rest : List Nat) : (front ++ x :: rest).getD i 0 = x := by
      rw [List.getD_append_right _ _ _ _ hfront.le, hfront, Nat.sub_self, List.getD_cons_zero]
    refine ⟨?_, fun bad hbad => ?_⟩
    · rw [overBlk_first (by rw [hat, blkOk_chkBlk]), hat]
    · have hcopy : (front ++ bad :: (back ++ [chkBlk c])).getD (64 + i) 0 = chkBlk c := by
        rw [List.getD_append_right _ _ _ _ (by omega), hfront, Nat.add_sub_cancel, List.getD_cons_succ,
          List.getD_append_right _ _ _ _ hback.le, hback, Nat.sub_self, List.getD_cons_zero]
      rw [overBlk_copy (by rw [hat, hbad]) (by simp [hfront, hback]; omega) (by rw [hcopy, blkOk_chkBlk]), hcopy]
  case length =>
    have hsize := tlfOver_add_slots hrate
    have hover := txOverhead_length s n page tx mcs hlo
    dsimp only
    omega

end Sys2Proof.Machine

/-! PROOFS. The framer, frames, defects, protection, page switches and the monitoring second as events (chapter 11, R309 to R338,
Tables 11-5 to 11-10). -/

namespace Sys2Proof.Machine

/-! ### The framer (R320, R321, Table 11-5) -/

section Framing
variable {f : Framer} {len pos fn : Nat} {j : Int} {exact chk : Bool}

theorem hunt_opens (hnew : f.cands.find? (fun c => c.pos == pos) = none) (hroom : f.cands.length < 4) :
    f.hunt len pos true fn j true = { f with cands := f.cands ++ [⟨((pos : Int) + len + j).toNat, fn, 1⟩] } := by
  simp [Framer.hunt, hnew, hroom]

theorem hunt_third {c : Cand} (hc : f.cands.find? (fun c => c.pos == pos) = some c) (hfn : fn = (c.fn + 1) % 80) (hseen : c.sightings = 2) :
    f.hunt len pos true fn j true = ⟨true, [], ((pos : Int) + len + j).toNat, fn, j, 0⟩ := by
  simp [Framer.hunt, hc, hfn, hseen]

theorem hunt_drops {c : Cand} (hc : f.cands.find? (fun c => c.pos == pos) = some c) :
    f.hunt len pos false fn j chk = { f with cands := f.cands.filter fun d => d.pos != pos } := by
  simp [Framer.hunt, hc]

theorem expect_exact : f.expect len pos true fn j true = { f with pos := ((pos : Int) + len + j).toNat, fn := fn, just := j, errs := 0 } := by
  simp [Framer.expect]

theorem expect_errored (h : f.errs < 3) : f.expect len pos false fn j false
    = { f with pos := ((pos : Int) + len + f.just).toNat, fn := (f.fn + 1) % 80, errs := f.errs + 1 } := by
  simp [Framer.expect, show f.errs ≠ 3 by omega]

theorem expect_fourth (h : f.errs = 3) : f.expect len pos false fn j false = { Framer.reset with just := f.just } := by
  simp [Framer.expect, h]

/-- A lane with its framer in another state: BIP16 is compared only from one frame to the next in SYNC. -/
def State.reframe (s : State) (n : Nat) (g : Framer) : State :=
  (s.modTlf n fun y => { y with framer := g, bip := if g.sync && (s.tlf n).framer.sync then y.bip else none }).noteLane n

variable {t n : Nat} {s u : State} (hu : s.advance t = u) (hlive : u.laneLive n = true) (htlf : u.isTlf n = true)
include hu hlive htlf

theorem exec_fawRx_hunt {g : Framer} (hstage : (u.lane n).stage = 8) (hsync : (u.tlf n).framer.sync = false)
    (hg : (u.tlf n).framer.hunt (tlfBlocks (u.lane n).cfg.rate) pos exact fn j chk = g) :
    exec (.fawRx t n pos exact fn j chk) s = .next (if g.sync then (u.reframe n g).laneUp n else u.reframe n g) := by
  change Host.Outcome.next (doFawRx t n pos exact fn j chk s) = _
  simp [doFawRx, hu, hlive, htlf, hstage, hsync, hg, State.reframe]

theorem exec_fawRx_elsewhere (hstage : (u.lane n).stage = 9) (hsync : (u.tlf n).framer.sync = true) (hpos : pos ≠ (u.tlf n).framer.pos) :
    exec (.fawRx t n pos exact fn j chk) s = .next u := by
  change Host.Outcome.next (doFawRx t n pos exact fn j chk s) = _
  simp [doFawRx, hu, hlive, htlf, hstage, hsync, hpos.symm]

theorem exec_fawRx_sync {g : Framer} (hstage : (u.lane n).stage = 9) (hsync : (u.tlf n).framer.sync = true)
    (hg : (u.tlf n).framer.expect (tlfBlocks (u.lane n).cfg.rate) (u.tlf n).framer.pos exact fn j chk = g) :
    exec (.fawRx t n (u.tlf n).framer.pos exact fn j chk) s = .next (if g.sync then u.reframe n g
      else ((u.reframe n g).laneDown n 0).modLane n fun l => { l with stage := 8 }) := by
  change Host.Outcome.next (doFawRx t n (u.tlf n).framer.pos exact fn j chk s) = _
  cases h : g.sync <;> simp [doFawRx, hu, hlive, htlf, hstage, hsync, hg, State.reframe, h]

end Framing

/-! ### A frame received (R311 to R313, R318, R322) -/

/-- An entry that a change leaves other than the default is listed, and read back. -/
theorem Tab.get_mod_listed {α : Type} [DecidableEq α] {d : α} {m : Tab α} {k : Nat} {f : α → α} (h : f (m.get d k) ≠ d) :
    (m.mod d k f).get d k = f (m.get d k) := by
  rw [Tab.mod, Tab.put, if_neg h]
  simp only [Tab.get, Tab.find?_set, if_true, Option.getD_some]

theorem tlf_modTlf_listed {s : State} {n : Nat} {f : TlfLane → TlfLane} (h : f (s.tlf n) ≠ TlfLane.reset) :
    (s.modTlf n f).tlf n = f (s.tlf n) := Tab.get_mod_listed h

section Received
variable (s : State) (t n : Nat) (line bs : List Nat) (scr : Nat)

/-- The TLF side of a lane once a frame's overhead is taken: what BIP16, REI and the count of frames then read. -/
theorem rxOverhead_tlf :
    ((s.rxOverhead t n line bs scr).tlf n).bip = some (bip16 line)
      ∧ ((s.rxOverhead t n line bs scr).tlf n).rxCount = (s.tlf n).rxCount + 1
      ∧ ((s.rxOverhead t n line bs scr).tlf n).rei = ((s.tlf n).bip.map fun b =>
          ones16 (b ^^^ fld (blkBytes ((bs.take (tlfOver (s.lane n).cfg.rate)).getD 2 0)) 0 2)).getD 0 := by
  unfold State.rxOverhead
  rw [tlf_modTlf_listed]
  · exact ⟨rfl, rfl, rfl⟩
  · exact fun h => nomatch congrArg TlfLane.bip h

end Received

theorem exec_tlfFrameRx_sync {t n : Nat} {line : List Nat} {s u : State} (hu : s.advance t = u) (hlive : u.laneLive n = true)
    (htlf : u.isTlf n = true) (hstage : (u.lane n).stage = 9) (hsync : (u.tlf n).framer.sync = true) :
    let d := scrBlocks true line (u.tlf n).rxScr
    let w := u.rxOverhead t n line d.1 d.2
    let v := if (u.tlf n).mc then w.ringPut (u.tlf n).mcRx (mcOf (u.lane n).cfg.rate d.1) else w
    exec (.tlfFrameRx t n line) s
      = .next (((v.trailsOf n).foldl (fun s id => s.rxTrail id (s.tlf n).rxFn n (s.tlf n).rxSlots) v).rxGroup n) := by
  change Host.Outcome.next (doTlfFrameRx t n line s) = _
  simp [doTlfFrameRx, hu, hlive, htlf, hstage, hsync]

/-! ### A frame sent (R300, R326, R331, R332) -/

section Sent
variable {t n : Nat} {s u : State} (hu : s.advance t = u) (hruns : u.txRuns n = true) (hmode : u.pow.mode ≠ .fault)

theorem bridged_of_stage (h : (u.lane n).stage ≠ 14) : u.bridged n = u.txRuns n := by
  simp [State.bridged, h]

theorem bridged_test (h : (u.lane n).stage = 14) : u.bridged n = false := by
  simp [State.bridged, h]

include hu hruns hmode

theorem exec_tlfFrameTx_alone (hmc : (u.tlf n).mc = false) (hgroup : u.laneGroup n = none) :
    let w := (u.takeInputs n (u.tlf n).active).txTrails ((u.txStart n).next3 / 3) (pageTrails (u.tlf n).active)
    exec (.tlfFrameTx t n) s = .next (w.2.sendFrame n (u.tlf n).active w.1 [[], []]) := by
  change Host.Outcome.next (doTlfFrameTx t n s) = _
  simp [doTlfFrameTx, hu, hruns, hmode, hgroup, hmc]

section Working
variable {k : Nat} {g : ApsGroup} (hgroup : u.laneGroup n = some (k, g)) (hwork : g.work = n)
include hgroup hwork

theorem exec_tlfFrameTx_working (hmc : (u.tlf n).mc = false) (hprot : g.prot ≠ n) (hstage : (u.lane n).stage ≠ 14) :
    let w := (u.takeInputs n (u.tlf n).active).txTrails ((u.txStart n).next3 / 3) (pageTrails (u.tlf n).active)
    let v := w.2.sendFrame n (u.tlf n).active w.1 [[], []]
    exec (.tlfFrameTx t n) s = .next (if v.bridged g.prot then
      v.sendCopy w.2 n g.prot (w.2.frameBlocks n (u.tlf n).active w.1 [[], []]) else v) := by
  change Host.Outcome.next (doTlfFrameTx t n s) = _
  simp [doTlfFrameTx, hu, hruns, hmode, hgroup, hwork, hmc, hprot, bridged_of_stage hstage]

theorem exec_tlfFrameTx_test (hstage : (u.lane n).stage = 14) : exec (.tlfFrameTx t n) s = .next (u.sendFrame n [] [] []) := by
  change Host.Outcome.next (doTlfFrameTx t n s) = _
  simp [doTlfFrameTx, hu, hruns, hmode, hgroup, hwork, bridged_test hstage]

end Working
end Sent

/-! ### Defects (R322 to R325) -/

theorem exec_tlfDefect (t : Nat) (trail : Bool) (id d : Nat) (on : Bool) (s : State) :
    exec (if on then .tlfDefectSet t trail id d else .tlfDefectClear t trail id d) s = .next ((s.advance t).changeDefect trail id d on) := by
  cases on <;> rfl

section Defects
variable {s : State} {n d : Nat} {on : Bool}

/-- Nothing happens before the defect's time. -/
theorem changeDefect_early (h : ((s.tlf n).defects.getD d Defect.none_).due on ((s.tlf n).times.getD (2 * d + b2n (!on)) 0) s.time.frc = false) :
    s.changeDefect false n d on = s := by
  simp [-List.getD_eq_getElem?_getD, State.changeDefect, h]

section Lane
variable (htlf : s.isTlf n = true) (hlive : s.laneLive n = true) (hsees : (s.tlf n).blind = false)
include htlf hlive hsees

/-- RDI changes itself alone. -/
theorem changeDefect_rdi
    (hdue : ((s.tlf n).defects.getD 3 Defect.none_).due on ((s.tlf n).times.getD (6 + b2n (!on)) 0) s.time.frc = true) :
    s.changeDefect false n 3 on
      = (s.modTlf n fun x => { x with defects := x.defects.modify 3 fun q => { q with set := on } }).postDefect false n 3 on := by
  simp [-List.getD_eq_getElem?_getD, State.changeDefect, htlf, hlive, hsees, hdue]

/-- LOS, LOF and AIS make the second severe on the lane and on its trails, and put the lane in SF. -/
theorem changeDefect_sf (hd : d < 3)
    (hdue : ((s.tlf n).defects.getD d Defect.none_).due true ((s.tlf n).times.getD (2 * d) 0) s.time.frc = true) :
    let u := s.modTlf n fun x => { x with
      defects := x.defects.modify d fun q => { q with set := true }, pm := { x.pm with bad := true, severe := true } }
    let u := (u.trailsOf n).foldl (fun s i => s.modTrail i fun t => { t with pm := { t.pm with bad := true, severe := true } }) u
    s.changeDefect false n d true = (u.sfChanged n).postDefect false n d true := by
  have hsf : (d != 3) = true := by simpa using hd.ne
  simp [-List.getD_eq_getElem?_getD, State.changeDefect, htlf, hlive, hsees, b2n, hdue, hsf, hd.ne, show ¬4 ≤ d by omega]

end Lane

theorem changeDefect_trail {tr : Trail} (htr : s.line.trails.find? n = some tr) (hrx : tr.tx = false)
    (hsees : (s.tlf (s.member? tr.lane)).blind = false) (hlive : s.laneLive (s.member? tr.lane) = true) (hd : d < 2)
    (hdue : (tr.defects.getD d Defect.none_).due on
      (if d = 0 then 5 else (s.tlf (s.member? tr.lane)).times.getD (if on then 8 else 9) 48) s.time.frc = true) :
    let u := s.modTrail n fun t => { t with
      defects := t.defects.modify d fun q => { q with set := on }, pm := { t.pm with bad := t.pm.bad || on, severe := t.pm.severe } }
    s.changeDefect true n d on = (u.putStatus n).postDefect true n d on := by
  simp [-List.getD_eq_getElem?_getD, State.changeDefect, htr, hrx, hsees, hlive, hd.not_ge, hdue]

end Defects

/-! ### Protection (R327 to R330) -/

section Protection
variable {t n : Nat} {s u : State} (hu : s.advance t = u)
include hu

theorem exec_sfHoldoffExpiry_due {k since : Nat} {g : ApsGroup} (hgroup : u.laneGroup n = some (k, g)) (hsince : (u.tlf n).sfSince = some since)
    (hsf : (u.tlf n).sf = true) (hdue : since + msToFrc (100 * g.holdOff) ≤ u.time.frc) :
    exec (.sfHoldoffExpiry t n) s = .next (u.sfRequest n true) := by
  change Host.Outcome.next (doSfHoldoffExpiry t n s) = _
  simp [doSfHoldoffExpiry, hu, hgroup, hsince, hsf, hdue]

section Group
variable {g : ApsGroup} (hg : u.line.groups.find? n = some g)
include hg

theorem exec_apsSwitched_selects {sel code : Nat} (htarget : g.target = some (sel, code)) :
    let w := (u.dropParts g.work).modLine fun l => { l with groups := l.groups.set n { g with
      sel := sel, target := none, switches := g.switches + 1, wtr := if sel = 0 then none else g.wtr, dnr := sel != 0 && g.dnr } }
    let w := [g.work, g.prot].foldl (fun w m => w.modTlf m fun x => { x with pm := x.pm.bump fun b => { b with events := b.events + 1 } }) w
    exec (.apsSwitched t n) s
      = .next ((w.postLane g.work 0x0412 1 (g.work + 65536 * sel + 1048576 * code + 16777216 * n)).apsUpdate n) := by
  change Host.Outcome.next (doApsSwitched t n s) = _
  simp only [doApsSwitched, hu, hg, htarget, List.foldl_cons, List.foldl_nil]

theorem exec_wtrExpiry_due {since : Nat} (hwtr : g.wtr = some since) (hdue : since + msToFrc (1000 * g.wtrS) ≤ u.time.frc) :
    exec (.wtrExpiry t n) s = .next ((u.modLine fun l => { l with groups := l.groups.set n { g with wtr := none } }).apsUpdate n) := by
  change Host.Outcome.next (doWtrExpiry t n s) = _
  simp only [doWtrExpiry, hu, hg, hwtr, hdue, if_true]

theorem exec_apsMismatch_due (huni : g.uni = false)
    (hdue : ((u.farReq g).any (fun a => !bit a.2.2 2) || g.mismatch.any fun f => f + msToFrc 50 ≤ u.time.frc) = true) :
    exec (.apsMismatch t n) s = .next (((u.modLine fun l => { l with groups := l.groups.set n { g with uni := true } }).postLane
      g.work 0x0413 2 (g.work + 16777216 * n)).apsUpdate n) := by
  change Host.Outcome.next (doApsMismatch t n s) = _
  simp only [doApsMismatch, hu, hg, huni, hdue, Bool.not_true, Bool.or_self, Bool.false_eq_true, if_false]

end Group

/-! ### Page switches (R335) -/

theorem exec_tsiSwitched_due {p : TsiPend} (hpend : (u.tlf n).pend = some p) (hdue : fawNominal (u.tlf n).txOffset p.k 0 ≤ u.thetaNow) :
    exec (.tsiSwitched t n) s
      = .next ((u.modTlf n fun x => { x with active := x.standby, pend := none, copying := some p.cmd, taken := [] }).postLane n 0x0414 0
          (n + 65536 * p.mfn)) := by
  change Host.Outcome.next (doTsiSwitched t n s) = _
  simp only [doTsiSwitched, hu, hpend, hdue.not_gt, if_false]

theorem exec_tsiCopyWindowEnd_copies {cmd : Nat} (hcopy : (u.tlf n).copying = some cmd) :
    exec (.tsiCopyWindowEnd t n) s
      = .next ((u.modTlf n fun x => { x with standby := x.active, sealed := false, copying := none }).settleSwitch cmd none) := by
  change Host.Outcome.next (doTsiCopyWindowEnd t n s) = _
  simp only [doTsiCopyWindowEnd, hu, hcopy]

end Protection

/-- Settles O43. That a lane whose framer leaves SYNC goes down with cause 0 is the model's choice (log entry 80): Table 10-10 lists no
such cause. -/
theorem lineEvents : Obligations.LineEvents := by
  unfold Obligations.LineEvents
  intro t n s s₁ l x f len framed
  refine ⟨fun hlive htlf hstage hsync => ⟨fun pos fn j hnew hroom => ?opens, fun pos fn j c hc hfn hseen => ?third,
      fun pos fn j chk c hc => ?drops⟩,
    fun hlive htlf hstage hsync => ⟨fun pos exact fn j chk hpos => exec_fawRx_elsewhere rfl hlive htlf hstage hsync hpos,
      fun fn j => ?found, fun fn j herrs => ?errored, fun fn j herrs => ?fourth⟩,
    fun line hlive htlf hstage hsync => ?received,
    fun hruns hmode => ⟨fun hmc => ⟨fun hgroup => exec_tlfFrameTx_alone rfl hruns hmode hmc hgroup,
        fun k g hgroup hwork hprot hstage => exec_tlfFrameTx_working rfl hruns hmode hgroup hwork hmc hprot hstage⟩,
      fun k g hgroup hwork hstage => exec_tlfFrameTx_test rfl hruns hmode hgroup hwork hstage⟩,
    fun on htlf hlive hsees hdue => ?rdi, fun d hd htlf hlive hsees hdue => ?sf, fun d on hdue => ?early,
    fun tr htr hrx hsees hlive d hd on hdue => ?trail,
    fun k g since hgroup hsince hsf hdue => exec_sfHoldoffExpiry_due rfl hgroup hsince hsf hdue,
    fun g hg => ⟨fun sel code htarget => exec_apsSwitched_selects rfl hg htarget,
      fun since hwtr hdue => exec_wtrExpiry_due rfl hg hwtr hdue,
      fun huni hdue => exec_apsMismatch_due rfl hg huni hdue⟩,
    fun p hpend hdue => exec_tsiSwitched_due rfl hpend hdue,
    fun cmd hcopy => exec_tsiCopyWindowEnd_copies rfl hcopy,
    rfl⟩
  case opens =>
    rw [exec_fawRx_hunt rfl hlive htlf hstage hsync (hunt_opens hnew hroom)]
    exact congrArg _ (if_neg (ne_true_of_eq_false hsync))
  case third => exact exec_fawRx_hunt rfl hlive htlf hstage hsync (hunt_third hc hfn hseen)
  case drops =>
    rw [exec_fawRx_hunt rfl hlive htlf hstage hsync (hunt_drops hc)]
    exact congrArg _ (if_neg (ne_true_of_eq_false hsync))
  case found =>
    rw [exec_fawRx_sync rfl hlive htlf hstage hsync expect_exact]
    exact congrArg _ (if_pos hsync)
  case errored =>
    rw [exec_fawRx_sync rfl hlive htlf hstage hsync (expect_errored herrs)]
    exact congrArg _ (if_pos hsync)
  case fourth => exact exec_fawRx_sync rfl hlive htlf hstage hsync (expect_fourth herrs)
  case received =>
    intro d u v
    obtain ⟨hbip, hcount, hrei⟩ := rxOverhead_tlf s₁ t n line d.1 d.2
    exact ⟨hbip, hcount, fun b hb => by rw [hrei, hb]; rfl, exec_tlfFrameRx_sync rfl hlive htlf hstage hsync⟩
  case rdi => exact (exec_tlfDefect ..).trans (congrArg _ (changeDefect_rdi htlf hlive hsees hdue))
  case sf => exact (exec_tlfDefect t false n d true s).trans (congrArg _ (changeDefect_sf htlf hlive hsees hd hdue))
  case early => exact (exec_tlfDefect ..).trans (congrArg _ (changeDefect_early hdue))
  case trail => exact (exec_tlfDefect ..).trans (congrArg _ (changeDefect_trail htr hrx hsees hlive hd hdue))

end Sys2Proof.Machine

/-! PROOFS. What POR leaves, and the step that starts the FRC again from OFF (chapters 02, 03 and 17). -/

namespace Sys2Proof.Machine

/-! ### What reset leaves (Table 17-7) -/

/-- Every byte of the device's own memory reads 0 after POR: nothing is listed, nothing is lost, no gate is open. -/
theorem byteAt_reset {a : Nat} (h : a < peerBase) : State.reset.byteAt a = 0 := by
  have hlost : State.reset.lostAt a = none := rfl
  have hgate : State.reset.gateByte? a = none := by
    unfold State.gateByte?
    split <;> rfl
  simp only [State.byteAt, if_pos h, hlost, hgate]
  rfl

theorem inv_reset : State.reset.Inv where
  memory := memory_wf_reset
  hold := by decide
  ranges := Nat.zero_le _
  pages := Nat.zero_le _
  banks := Nat.zero_le _
  logs := fun _ => Nat.zero_le _

/-- Settles O59. -/
theorem resetState : Obligations.ResetState := by
  unfold Obligations.ResetState
  intro s
  refine ⟨rfl, rfl, rfl, fun _ => ⟨rfl, rfl⟩, rfl, rfl, rfl, rfl, rfl, rfl, rfl, rfl, fun a ha => byteAt_reset ha, rfl, rfl, rfl,
    fun _ => rfl, fun _ => ⟨rfl, rfl, rfl⟩, fun _ => ⟨rfl, rfl, rfl⟩, rfl, rfl, rfl, rfl, rfl, rfl, rfl, rfl, rfl, rfl, rfl, rfl, inv_reset⟩

/-! ### The FRC starts again (R75, R618) -/

/-- The codes of a poll that finds VDD_AON, VIN_CORE, VDDA_SD and VDD_HBM at their nominal values. -/
def nominalRails : List Nat := [2048, 2048, 1024, 1252] ++ List.replicate 8 0

/-- Held in OFF after POR_N was released, the rail monitors in tolerance since FRC 0, and 2 ms gone by: a RAIL_MONITOR_POLL waits. -/
def railsSettled : State := { State.reset with
  time := { TimeSt.reset with frc := msToFrc 2 }
  pow := { PowerSt.reset with mode := .off }
  pins := { PinSt.reset with tocsin := true, okSince := some 0 }
  pending := [.railMonitorPoll 0 nominalRails false] }

/-- The poll lets the device enter BOOT, where the FRC starts from 0. -/
theorem step_railsSettled : ∃ s', step railsSettled = .next s' ∧ s'.time.frc = 0 ∧ 0 < railsSettled.time.frc := by
  refine ⟨_, rfl, ?_, ?_⟩ <;> decide +kernel

/-- Refutes O60: RAIL_MONITOR_POLL in OFF enters BOOT 2 ms after the rails came into tolerance, and BOOT starts the FRC from 0 (R75, R618),
though that row is none of the losses of power that the statement excepts. -/
theorem not_stepKeepsInvariant : ¬ Obligations.StepKeepsInvariant := by
  unfold Obligations.StepKeepsInvariant
  intro h
  obtain ⟨s', hstep, hfrc, hpos⟩ := step_railsSettled
  obtain ⟨-, -, htime⟩ := h railsSettled s' hstep
  have hle := htime (by intro t raw; nofun) (by intro t; nofun) (by intro t; nofun)
  omega

end Sys2Proof.Machine

/-! PROOFS. Seconds of performance monitoring: ES, SES and UAS within a quarter hour (chapter 11, R336, R337). -/

namespace Sys2Proof.Machine

/-! ### A second's counts in the quarter hour in progress -/

/-- What a second of the ten that turn availability does to the bin it lies in (R337): with `u` it leaves UAS and counts, else it
leaves ES and SES. -/
def PmBin.turn (u : Bool) (y : PmSec) (b : PmBin) : PmBin := if u then (b.addUas (-1)).addEs y 1 else (b.addEs y (-1)).addUas 1

section At
variable {p : Pm} {sec : Nat} {f : PmBin → PmBin}

theorem at_quarter (h : sec / 900 = p.quarter.start / 900) : (p.at_ sec f).quarter = f p.quarter := by
  unfold Pm.at_
  simp only [h, if_true]
  split <;> rfl

theorem at_unavail : (p.at_ sec f).unavail = p.unavail := by
  unfold Pm.at_
  dsimp only
  split <;> split <;> rfl

theorem turn_start (u : Bool) (y : PmSec) (b : PmBin) : (b.turn u y).start = b.start := by
  cases u <;> rfl

end At

/-! ### Sums over the ten seconds -/

/-- Severe seconds leave ES and SES for UAS. -/
theorem foldl_turn_severe (l : List PmSec) {b : PmBin} (hl : ∀ y ∈ l, y.ses = true) (hes : l.length ≤ b.es) (hses : l.length ≤ b.ses) :
    let c := l.foldl (fun b y => b.turn false y) b
    c.es = b.es - l.length ∧ c.ses = b.ses - l.length ∧ c.uas = b.uas + l.length ∧ c.start = b.start := by
  induction l generalizing b with
  | nil => exact ⟨rfl, rfl, rfl, rfl⟩
  | cons y l ih =>
    rw [List.length_cons] at hes hses
    have hy : y.ses = true := hl y List.mem_cons_self
    have hb : (b.turn false y).es = b.es - 1 ∧ (b.turn false y).ses = b.ses - 1 ∧ (b.turn false y).uas = b.uas + 1 := by
      simp only [PmBin.turn, PmBin.addEs, PmBin.addUas, hy, Bool.or_true, Bool.false_eq_true, if_false, if_true]
      omega
    obtain ⟨h1, h2, h3⟩ := hb
    obtain ⟨i1, i2, i3, i4⟩ := ih (b := b.turn false y) (fun z hz => hl z (List.mem_cons_of_mem _ hz)) (by omega) (by omega)
    rw [List.foldl_cons, List.length_cons]
    exact ⟨by omega, by omega, by omega, by rw [i4, turn_start]⟩

/-- Seconds that are not severe leave UAS; those errored count as ES. -/
theorem foldl_turn_available (l : List PmSec) {b : PmBin} (hl : ∀ y ∈ l, y.ses = false) (huas : l.length ≤ b.uas) :
    let c := l.foldl (fun b y => b.turn true y) b
    c.es = b.es + (l.map fun y => b2n y.es).sum ∧ c.ses = b.ses ∧ c.uas = b.uas - l.length ∧ c.start = b.start := by
  induction l generalizing b with
  | nil => exact ⟨rfl, rfl, rfl, rfl⟩
  | cons y l ih =>
    rw [List.length_cons] at huas
    have hy : y.ses = false := hl y List.mem_cons_self
    have hb : (b.turn true y).es = b.es + b2n y.es ∧ (b.turn true y).ses = b.ses ∧ (b.turn true y).uas = b.uas - 1 := by
      cases hes : y.es <;> simp [PmBin.turn, PmBin.addEs, PmBin.addUas, hy, hes, b2n] <;> omega
    obtain ⟨h1, h2, h3⟩ := hb
    obtain ⟨i1, i2, i3, i4⟩ := ih (b := b.turn true y) (fun z hz => hl z (List.mem_cons_of_mem _ hz)) (by omega)
    rw [List.foldl_cons, List.length_cons, List.map_cons, List.sum_cons]
    exact ⟨by omega, by omega, by omega, by rw [i4, turn_start]⟩

theorem addEs_one (b : PmBin) (x : PmSec) :
    (b.addEs x 1).es = b.es + b2n (x.es || x.ses) ∧ (b.addEs x 1).ses = b.ses + b2n x.ses ∧ (b.addEs x 1).uas = b.uas := by
  cases hes : x.es <;> cases hses : x.ses <;> simp [PmBin.addEs, hes, hses, b2n]

theorem addUas_one (b : PmBin) : (b.addUas 1).es = b.es ∧ (b.addUas 1).ses = b.ses ∧ (b.addUas 1).uas = b.uas + 1 :=
  ⟨rfl, rfl, rfl⟩

/-! ### A classified second (R337) -/

section Classify
variable {p : Pm} {x : PmSec}

/-- Availability turns at the tenth second in a row that is SES, or is not. -/
def Pm.turns (p : Pm) (x : PmSec) : Bool :=
  ((x :: p.hist).take 10).length == 10 && ((x :: p.hist).take 10).all fun y => y.ses != p.unavail

/-- One of the ten seconds turns in the bins it lies in. -/
def Pm.turnOf (p : Pm) (y : PmSec) : Pm := p.at_ y.sec (PmBin.turn p.unavail y)

theorem turns_iff : p.turns x = true ↔ 9 ≤ p.hist.length ∧ x.ses = !p.unavail ∧ ∀ y ∈ p.hist.take 9, y.ses = !p.unavail := by
  simp only [Pm.turns, List.take_succ_cons, List.length_cons, List.length_take, List.all_cons, Bool.and_eq_true, beq_iff_eq, bne_iff_ne,
    List.all_eq_true, ← Bool.eq_not]
  constructor <;> rintro ⟨h, hx, hy⟩ <;> exact ⟨by omega, hx, hy⟩

/-- Seconds of the quarter hour in progress turn one after the other in its bin. -/
theorem foldl_turn_quarter (u : Bool) (l : List PmSec) {p : Pm} (hu : p.unavail = u) (hl : ∀ y ∈ l, y.sec / 900 = p.quarter.start / 900) :
    (l.foldl Pm.turnOf p).quarter = l.foldl (fun b y => b.turn u y) p.quarter ∧ (l.foldl Pm.turnOf p).unavail = u := by
  induction l generalizing p with
  | nil => exact ⟨rfl, hu⟩
  | cons y l ih =>
    have hy := hl y List.mem_cons_self
    have hq : (p.turnOf y).quarter = p.quarter.turn u y := by rw [Pm.turnOf, at_quarter hy, hu]
    have hrest := ih (p := p.turnOf y) (by rw [Pm.turnOf, at_unavail, hu])
      (fun z hz => by rw [hq, turn_start]; exact hl z (List.mem_cons_of_mem _ hz))
    rw [hq] at hrest
    exact hrest

variable (hx : x.sec / 900 = p.quarter.start / 900)
include hx

theorem classify_stays (h : p.turns x = false) :
    (p.classify x).quarter = (if p.unavail then p.quarter.addUas 1 else p.quarter.addEs x 1) ∧ (p.classify x).unavail = p.unavail := by
  rw [Pm.turns] at h
  simp only [Pm.classify, h, Bool.false_eq_true, if_false]
  exact ⟨at_quarter hx, at_unavail⟩

theorem classify_turns (h : p.turns x = true) (hold : ∀ y ∈ p.hist, y.sec / 900 = x.sec / 900) :
    let b := (p.hist.take 9).foldl (fun b y => b.turn p.unavail y) p.quarter
    (p.classify x).quarter = (if p.unavail then b.addEs x 1 else b.addUas 1) ∧ (p.classify x).unavail = !p.unavail := by
  intro b
  have hclassify : p.classify x = let q := (p.hist.take 9).foldl Pm.turnOf { p with hist := x :: p.hist.take 9 }
      let r := q.at_ x.sec fun b => if q.unavail then b.addEs x 1 else b.addUas 1
      { r with unavail := !r.unavail } := by
    rw [Pm.turns] at h
    simp only [Pm.classify, h, if_true]
    simp only [List.take_succ_cons, List.tail_cons]
    rfl
  obtain ⟨hq, hu⟩ := foldl_turn_quarter p.unavail (p.hist.take 9) (p := { p with hist := x :: p.hist.take 9 }) rfl
    (fun y hy => (hold y (List.mem_of_mem_take hy)).trans hx)
  have hstart : b.start = p.quarter.start :=
    List.foldlRecOn (motive := fun c : PmBin => c.start = p.quarter.start) _ _ rfl fun c hc y _ => (turn_start ..).trans hc
  rw [hclassify]
  exact ⟨(at_quarter (by rw [hq]; exact hx.trans (by rw [hstart]))).trans (by rw [hq, hu]), congrArg (!·) (at_unavail.trans hu)⟩

end Classify

/-! ### The end of a second (R336) -/

section Second
variable {p : Pm} {sec : Nat} {es ses : Bool}

/-- The second that ends, as it is classified: SES from 30 % of errored frames on. -/
def Pm.ended (p : Pm) (sec : Nat) : PmSec :=
  let severe := p.severe || (0 < p.frames && 3 * p.frames ≤ 10 * p.cur.eframes)
  ⟨sec, p.bad || severe, severe⟩

/-- A severe second is errored. -/
theorem ended_errored : ((p.ended sec).es || (p.ended sec).ses) = (p.ended sec).es := by
  simp only [Pm.ended, Bool.or_assoc, Bool.or_self]

variable (hcur : p.cur.start = sec) (hnext : (sec + 1) % 900 ≠ 0)
include hcur hnext

/-- Inside a quarter hour the bin in progress and availability are the classified second's; the counts of the second start anew. -/
theorem second_inside : let u := (p.second sec es ses).1
    u.quarter = (p.classify (p.ended sec)).quarter ∧ u.unavail = (p.classify (p.ended sec)).unavail
      ∧ u.frames = 0 ∧ u.bad = es ∧ u.severe = ses ∧ u.cur.start = sec + 1 := by
  have hday : (sec + 1) % 86400 ≠ 0 := by omega
  have hcatch : p.catchUp sec = p := if_pos hcur
  simp only [Pm.second, hcatch, hnext, hday, if_false]
  exact ⟨rfl, rfl, trivial, trivial, trivial, rfl⟩

end Second

/-- Settles O42. -/
theorem monitoring : Obligations.Monitoring := by
  unfold Obligations.Monitoring
  intro p sec es ses hcur hq hday hnext hold severe errored u
  obtain ⟨hquarter, hunavail, hrest⟩ := second_inside (es := es) (ses := ses) hcur hnext
  have hx : (p.ended sec).sec / 900 = p.quarter.start / 900 := hq.symm
  have hsame : ∀ y ∈ p.hist, y.sec / 900 = (p.ended sec).sec / 900 := fun y hy => (hold y hy).2.1
  refine ⟨fun hav hno => ?available, fun hav hsev hlen hall hes hses => ?leaves, fun hun hno => ?unavailable,
    fun hun hsev hlen hall huas => ?returns, hrest⟩
  case available =>
    have hstay : p.turns (p.ended sec) = false := by
      rw [← Bool.not_eq_true, turns_iff, hav]
      rintro ⟨hlen, hsev, hall⟩
      obtain hlt | hsev' | ⟨y, hy, hses⟩ := hno
      · omega
      · exact absurd (hsev'.symm.trans hsev) (by decide)
      · exact absurd (hses.symm.trans (hall y hy)) (by decide)
    obtain ⟨h1, h2⟩ := classify_stays hx hstay
    rw [hquarter, hunavail, h1, h2, hav]
    simp only [Bool.false_eq_true, if_false]
    obtain ⟨j1, j2, j3⟩ := addEs_one p.quarter (p.ended sec)
    exact ⟨by rw [j1, ended_errored]; rfl, j2, j3, trivial⟩
  case leaves =>
    have hturn : p.turns (p.ended sec) = true := turns_iff.mpr ⟨hlen, by rw [hav]; exact hsev, by rw [hav]; exact hall⟩
    obtain ⟨h1, h2⟩ := classify_turns hx hturn hsame
    have hnine : (p.hist.take 9).length = 9 := by rw [List.length_take]; omega
    obtain ⟨i1, i2, i3, -⟩ := foldl_turn_severe (p.hist.take 9) (b := p.quarter) hall (by omega) (by omega)
    rw [hquarter, hunavail, h1, h2, hav]
    obtain ⟨j1, j2, j3⟩ := addUas_one ((p.hist.take 9).foldl (fun b y => b.turn false y) p.quarter)
    simp only [Bool.false_eq_true, if_false, j1, j2, j3]
    exact ⟨by omega, by omega, by omega, rfl⟩
  case unavailable =>
    have hstay : p.turns (p.ended sec) = false := by
      rw [← Bool.not_eq_true, turns_iff, hun]
      rintro ⟨hlen, hsev, hall⟩
      obtain hlt | hsev' | ⟨y, hy, hses⟩ := hno
      · omega
      · exact absurd (hsev'.symm.trans hsev) (by decide)
      · exact absurd (hses.symm.trans (hall y hy)) (by decide)
    obtain ⟨h1, h2⟩ := classify_stays hx hstay
    rw [hquarter, hunavail, h1, h2, hun]
    exact ⟨rfl, rfl, rfl, rfl⟩
  case returns =>
    have hturn : p.turns (p.ended sec) = true := turns_iff.mpr ⟨hlen, by rw [hun]; exact hsev, by rw [hun]; exact hall⟩
    obtain ⟨h1, h2⟩ := classify_turns hx hturn hsame
    have hnine : (p.hist.take 9).length = 9 := by rw [List.length_take]; omega
    obtain ⟨i1, i2, i3, -⟩ := foldl_turn_available (p.hist.take 9) (b := p.quarter) hall (by omega)
    rw [hquarter, hunavail, h1, h2, hun]
    obtain ⟨j1, j2, j3⟩ := addEs_one ((p.hist.take 9).foldl (fun b y => b.turn true y) p.quarter) (p.ended sec)
    have hend : b2n (p.ended sec).ses = 0 := by rw [show (p.ended sec).ses = false from hsev]; rfl
    have herr : b2n (p.ended sec).es = b2n errored := rfl
    rw [ended_errored] at j1
    simp only [if_true, j1, j2, j3]
    exact ⟨by omega, by omega, by omega, rfl⟩

end Sys2Proof.Machine

/-! PROOFS. TRAIL_CONFIG, the TSI page commands, APS_CONFIG and PM_READ (chapter 11, R333 to R344, Table 11-10). -/

namespace Sys2Proof.Machine

section Bodies
variable {i : CmdIn} {s : State}

/-! ### TRAIL_CONFIG (R339, R340) -/

section DeleteTrail
variable (hobj : fld i.p 0 1 = 0) (hact : fld i.p 1 1 = 0) (howns : s.ownsTrail i.fn (fld i.p 2 2) = true)
include hobj hact howns

theorem bodyTrailConfig_inUse {tr : Trail} (htr : s.line.trails.find? (fld i.p 2 2) = some tr) (huse : s.trailInUse (fld i.p 2 2) tr = true) :
    bodyTrailConfig i s = (s, .done (.bare .notPermitted)) := by
  simp [bodyTrailConfig, hobj, State.trailSet, hact, howns, htr, huse, refuse]

theorem bodyTrailConfig_deleted (hfree : (s.line.trails.find? (fld i.p 2 2)).any (fun tr => s.trailInUse (fld i.p 2 2) tr) = false) :
    bodyTrailConfig i s = (s.modLine fun l => { l with trails := l.trails.del (fld i.p 2 2) }, .done (.ok [])) := by
  simp [bodyTrailConfig, hobj, State.trailSet, hact, howns, hfree, ok]

end DeleteTrail

/-- A new receive trail of a label that no cell has. -/
theorem bodyTrailConfig_created (hobj : fld i.p 0 1 = 0) (hact : fld i.p 1 1 = 1) (hrx : fld i.p 6 1 = 0) (hlabel : 0x80 ≤ fld i.p 7 1)
    (hnew : s.line.trails.find? (fld i.p 2 2) = none) (howns : s.ownsTrail i.fn (fld i.p 2 2) = true) (hlane : fld i.p 4 2 ≤ 127)
    (hmine : s.ownsLane i.fn (fld i.p 4 2) = true) (htlf : s.isTlf (fld i.p 4 2) = true) (hprot : s.isProt (fld i.p 4 2) = false)
    (hslots : fld i.p 8 2 + fld i.p 10 2 ≤ s.slotsOf (fld i.p 4 2))
    (hlap : (s.line.trails.some? fun i' o => i' != fld i.p 2 2 && !o.tx && o.lane == fld i.p 4 2
      && overlaps (fld i.p 8 2) (fld i.p 10 2) o.first o.count) = false) :
    bodyTrailConfig i s = (s.modLine fun l => { l with
      trails := l.trails.set (fld i.p 2 2) { trailOf i.p with pm := Pm.reset.startAt (s.secAt s.time.frc) } }, .done (.ok [])) := by
  have htx : (trailOf i.p).tx = false := by simp [trailOf, hrx]
  have hcell : ¬ (trailOf i.p).label ≤ 5 := by simp only [trailOf]; omega
  simp only [bodyTrailConfig, hobj, State.trailSet, hact, hnew, howns, htx, hcell]
  simp [trailOf, hlane.not_gt, hmine, htlf, hprot, hslots.not_gt, hlap, ok]

theorem bodyTrailConfig_lane (hobj : fld i.p 0 1 = 1) (hact : fld i.p 1 1 = 1) (htlf : s.isTlf (fld i.p 2 2) = true)
    (howns : s.ownsLane i.fn (fld i.p 2 2) = true) (hprot : s.isProt (fld i.p 2 2) = false) :
    bodyTrailConfig i s = (s.modTlf (fld i.p 2 2) fun x => { x with
      txOffset := sfld i.p 4 4, times := (List.range 10).map fun k => fld i.p (8 + 2 * k) 2, mc := bit (fld i.p 28 1) 0
      mcRx := fld i.p 32 8, mcTx := fld i.p 40 8 }, .done (.ok [])) := by
  simp [bodyTrailConfig, hobj, State.tlfSet, hact, htlf, howns, hprot, ok]

theorem bodyTrailConfig_thresholds (hobj : fld i.p 0 1 = 2) (hact : fld i.p 1 1 = 1) (hkind : fld i.p 4 1 = 1)
    (howns : s.ownsLane i.fn (fld i.p 2 2) = true) (hprot : s.isProt (fld i.p 2 2) = false) :
    bodyTrailConfig i s = (s.modTlf (fld i.p 2 2) fun x => { x with
      pm := { x.pm with th := [fld i.p 6 2, fld i.p 8 2, fld i.p 10 2] } }, .done (.ok [])) := by
  simp [bodyTrailConfig, hobj, State.thresholdSet, hact, hkind, howns, hprot, ok]

/-! ### The TSI pages (R333 to R335, R341) -/

theorem pageEntries_length (p : List Byte) : (pageEntries p).length = fld p 4 2 := by
  simp [pageEntries]

theorem pageEntries_getD {p : List Byte} {k : Nat} (h : k < fld p 4 2) : (pageEntries p).getD k 0 = fld p (8 + 4 * k) 4 := by
  simp [pageEntries, h]

section PageWrite
variable {n : Nat} (hn : fld i.p 0 2 = n) (htlf : s.isTlf n = true) (hslots : fld i.p 2 2 + fld i.p 4 2 ≤ s.slotsOf n)
  (howns : s.ownsLane i.fn n = true)
include hn htlf hslots howns

theorem bodyTsiPageWrite_sealed (h : (s.tlf n).sealed = true ∨ (s.tlf n).pend ≠ none ∨ (s.tlf n).copying ≠ none) :
    bodyTsiPageWrite i s = (s, .done (.bare .pageSealed)) := by
  have hsealed : ((s.tlf n).sealed || (s.tlf n).pend.isSome || (s.tlf n).copying.isSome) = true := by
    simpa [Option.isSome_iff_ne_none, or_assoc] using h
  simp only [bodyTsiPageWrite, hn, htlf, pageEntries_length, hslots.not_gt, howns, hsealed]
  simp [refuse]

theorem bodyTsiPageWrite_written (hsealed : (s.tlf n).sealed = false) (hpend : (s.tlf n).pend = none) (hcopy : (s.tlf n).copying = none) :
    bodyTsiPageWrite i s = (s.modTlf n fun x => { x with
      standby := (List.range (fld i.p 4 2)).foldl (fun m k => m.put 0 (fld i.p 2 2 + k) (fld i.p (8 + 4 * k) 4)) x.standby }, .done (.ok [])) := by
  have hput (m : Tab Nat) : (List.range (fld i.p 4 2)).foldl (fun m k => m.put 0 (fld i.p 2 2 + k) ((pageEntries i.p).getD k 0)) m
      = (List.range (fld i.p 4 2)).foldl (fun m k => m.put 0 (fld i.p 2 2 + k) (fld i.p (8 + 4 * k) 4)) m :=
    List.foldl_ext _ _ _ fun m k hk => by rw [pageEntries_getD (List.mem_range.mp hk)]
  simp only [bodyTsiPageWrite, hn, htlf, pageEntries_length, hslots.not_gt, howns, hsealed, hpend, hcopy, hput]
  simp [ok]

end PageWrite

section Mask
variable {mask : List Nat} (hmask : maskLanes i.p = mask)
include hmask

theorem bodyTsiPageSeal_notOwned (howns : mask.all (fun n => s.ownsLane i.fn n && s.isTlf n) = false) :
    bodyTsiPageSeal i s = (s, .done (.bare .notPermitted)) := by
  simp only [bodyTsiPageSeal, hmask, howns, Bool.not_false, if_true, refuse]

variable (howns : mask.all (fun n => s.ownsLane i.fn n && s.isTlf n) = true)
include howns

section Seal
variable (hact : fld i.p 0 1 = 1) (hopen : ∀ n ∈ mask, (s.tlf n).sealed = false ∧ (s.tlf n).pend = none ∧ (s.tlf n).copying = none)
include hact hopen

omit hmask howns hact in
theorem allOpen : (mask.any fun n => (s.tlf n).sealed || (s.tlf n).pend.isSome || (s.tlf n).copying.isSome) = false := by
  simp +contextual [hopen]

theorem bodyTsiPageSeal_fails {n sl : Nat} {st : Status} (hfail : s.sealFail i.fn mask = some (n, sl, st)) :
    bodyTsiPageSeal i s = (s, .done ⟨st, leBytes 2 n ++ leBytes 2 sl, none⟩) := by
  simp [bodyTsiPageSeal, hmask, howns, hact, allOpen hopen, hfail]

theorem bodyTsiPageSeal_seals (hfail : s.sealFail i.fn mask = none) :
    bodyTsiPageSeal i s = (mask.foldl (fun s n => s.modTlf n fun x => { x with sealed := true }) s,
      .done (.ok (leBytes 2 0xFFFF ++ leBytes 2 0))) := by
  simp [bodyTsiPageSeal, hmask, howns, hact, allOpen hopen, hfail, ok]

end Seal

theorem bodyTsiPageSeal_scheduled (hact : fld i.p 0 1 = 0) (hpend : ∃ n ∈ mask, (s.tlf n).pend ≠ none) :
    bodyTsiPageSeal i s = (s, .done (.bare .noResource)) := by
  have hany : (mask.any fun n => (s.tlf n).pend.isSome) = true := by simpa [Option.isSome_iff_ne_none] using hpend
  simp [bodyTsiPageSeal, hmask, howns, hact, hany, refuse]

section Switch
variable (hact : fld i.p 0 1 = 1)
include hact

theorem bodyTsiPageSwitch_notSealed (h : ∃ n ∈ mask, (s.tlf n).sealed = false ∨ (s.tlf n).copying ≠ none) :
    bodyTsiPageSwitch i s = (s, .done (.bare .pageNotSealed)) := by
  have hany : (mask.any fun n => !(s.tlf n).sealed || (s.tlf n).copying.isSome) = true := by
    simpa [Option.isSome_iff_ne_none] using h
  simp [bodyTsiPageSwitch, hmask, howns, hact, hany, refuse]

variable (hsealed : ∀ n ∈ mask, (s.tlf n).sealed = true ∧ (s.tlf n).copying = none)
include hsealed

omit hmask howns hact in
theorem allSealed : (mask.any fun n => !(s.tlf n).sealed || (s.tlf n).copying.isSome) = false := by
  simp +contextual [hsealed]

theorem bodyTsiPageSwitch_scheduled (hpend : ∃ n ∈ mask, (s.tlf n).pend ≠ none) :
    bodyTsiPageSwitch i s = (s, .done (.bare .noResource)) := by
  have hany : (mask.any fun n => (s.tlf n).pend.isSome) = true := by simpa [Option.isSome_iff_ne_none] using hpend
  simp [bodyTsiPageSwitch, hmask, howns, hact, allSealed hsealed, hany, refuse]

theorem bodyTsiPageSwitch_waits (hpend : ∀ n ∈ mask, (s.tlf n).pend = none) :
    let k := sfnFrom (s.thetaNow + 2000000 * nsUnit) (fld i.p 2 2)
    let frc := s.frcOfTheta (fawNominal (s.tlf (mask.headD 0)).txOffset k 0)
    bodyTsiPageSwitch i s = (mask.foldl (fun s n => s.modTlf n fun x => { x with pend := some ⟨k, fld i.p 2 2, i.id⟩ }) s,
      .later (.tsiSwitch (maskOf mask) (zeros 8 ++ leBytes 8 frc))) := by
  have hany : (mask.any fun n => (s.tlf n).pend.isSome) = false := by simp +contextual [hpend]
  simp only [bodyTsiPageSwitch, hmask, howns, hact, allSealed hsealed, hany]
  simp

end Switch

/-- A cancellation less than 1 ms ahead of a switch is refused whichever of the checks it fails first (R335). -/
theorem bodyTsiPageSwitch_tooLate (hact : fld i.p 0 1 = 0) (hlate : ∃ n ∈ mask, ∃ q, (s.tlf n).pend = some q
      ∧ fawNominal (s.tlf n).txOffset q.k 0 < s.thetaNow + 1000000 * nsUnit) :
    bodyTsiPageSwitch i s = (s, .done (.bare .notPermitted)) := by
  have hany : (mask.any fun n => (s.tlf n).pend.any fun p => fawNominal (s.tlf n).txOffset p.k 0 < s.thetaNow + 1000000 * nsUnit)
      = true := by
    obtain ⟨n, hn, q, hq, hlt⟩ := hlate
    exact List.any_eq_true.mpr ⟨n, hn, by simp [hq, hlt]⟩
  simp only [bodyTsiPageSwitch, hmask, howns, hact, hany, refuse]
  simp

end Mask

/-! ### APS_CONFIG (R343) -/

section Aps
variable {n : Nat} (hn : fld i.p 0 1 = n) {g : ApsGroup} (hg : s.line.groups.find? n = some g) (howns : s.ownsLane i.fn g.work = true)
include hn hg howns

theorem bodyApsConfig_overruled (hact : fld i.p 1 1 = 2) (hcmd : fld i.p 7 1 ≠ 0) (hlow : cmdCode (fld i.p 7 1) < g.localReq) :
    bodyApsConfig i s = (s, .done (.bare .notPermitted)) := by
  simp [bodyApsConfig, hn, hact, hg, howns, ApsGroup.command, hcmd, hlow, refuse]

theorem bodyApsConfig_commanded (hact : fld i.p 1 1 = 2) (hcmd : fld i.p 7 1 = 0 ∨ g.localReq ≤ cmdCode (fld i.p 7 1)) :
    let u := (s.modLine fun l => { l with groups := l.groups.set n { g with cmd := fld i.p 7 1 } }).apsUpdate n
    bodyApsConfig i s = (u, .done (.ok (u.apsResult n))) := by
  have hok : (fld i.p 7 1 != 0 && decide (cmdCode (fld i.p 7 1) < g.localReq)) = false := by
    rcases hcmd with h | h <;> simp [h]
  simp [bodyApsConfig, hn, hact, hg, howns, ApsGroup.command, hok, ok]

theorem bodyApsConfig_deleted (hact : fld i.p 1 1 = 0) :
    bodyApsConfig i s = ((if g.sel = 0 then s else s.dropParts g.work).modLine fun l => { l with groups := l.groups.del n },
      .done (.ok (s.apsResult n))) := by
  simp [bodyApsConfig, hn, hact, hg, howns, ok]

end Aps

/-! ### PM_READ (R344) -/

section PmRead
variable {n : Nat} (hobj : fld i.p 0 1 = 1) (hn : fld i.p 2 2 = n)
include hobj hn

theorem bodyPmRead_notOwned (howns : s.ownsLane i.fn n = false) : bodyPmRead i s = (s, .done (.bare .notPermitted)) := by
  simp [bodyPmRead, hobj, hn, howns, refuse]

theorem bodyPmRead_answers (howns : s.ownsLane i.fn n = true) :
    let b := ((s.tlf n).pm.bin (fld i.p 1 1) (fld i.p 4 2)).bytes (s.tlf n).pm.unavail (s.tlf n).rtd true
    bodyPmRead i s = (s, .done (if fld i.p 8 8 = 0 then .ok (b.take 16) else .okBuf (fld i.p 8 8) b)) := by
  by_cases hbuf : fld i.p 8 8 = 0 <;> simp [bodyPmRead, hobj, hn, howns, hbuf, ok]

end PmRead
end Bodies

/-- Settles O44. The model's choices among the clauses: deleting an absent trail is SUCCESS, a switch inside the copy window is
PAGE_NOT_SEALED, the seal's statuses (log entry 85), and a deleted group returns to its working lane at once (log entry 87). -/
theorem lineCommands : Obligations.LineCommands := by
  unfold Obligations.LineCommands
  intro c s fl s₁ p mask own x
  refine ⟨fun h hobj hact howns => ⟨fun tr htr huse => exec_done rfl h (bodyTrailConfig_inUse hobj hact howns htr huse),
      fun hfree => exec_done rfl h (bodyTrailConfig_deleted hobj hact howns hfree)⟩,
    fun h hobj hact hrx hlabel hnew howns hlane hmine htlf hprot hslots hlap => exec_done rfl h
      (bodyTrailConfig_created hobj hact hrx hlabel hnew howns hlane hmine htlf hprot hslots hlap),
    fun h hobj hact htlf howns hprot => exec_done rfl h (bodyTrailConfig_lane hobj hact htlf howns hprot),
    fun h hobj hact hkind howns hprot => exec_done rfl h (bodyTrailConfig_thresholds hobj hact hkind howns hprot),
    fun h htlf hslots howns => ⟨fun hsealed => exec_done rfl h (bodyTsiPageWrite_sealed rfl htlf hslots howns hsealed),
      fun hsealed hpend hcopy => exec_done rfl h (bodyTsiPageWrite_written rfl htlf hslots howns hsealed hpend hcopy)⟩,
    fun h => ⟨fun hown => exec_done rfl h (bodyTsiPageSeal_notOwned rfl hown),
      fun hown hact hopen => ⟨fun n sl st hfail => exec_done rfl h
          (bodyTsiPageSeal_fails (i := fl.input c) (mask := mask) rfl hown hact hopen hfail),
        fun hfail => exec_done rfl h (bodyTsiPageSeal_seals (i := fl.input c) (mask := mask) rfl hown hact hopen hfail)⟩,
      fun hown hact hpend => exec_done rfl h (bodyTsiPageSeal_scheduled (i := fl.input c) (mask := mask) rfl hown hact hpend)⟩,
    fun h hown hact => ⟨fun hunsealed => exec_done rfl h (bodyTsiPageSwitch_notSealed (i := fl.input c) (mask := mask) rfl hown hact hunsealed),
      fun hsealed hpend => exec_done rfl h (bodyTsiPageSwitch_scheduled (i := fl.input c) (mask := mask) rfl hown hact hsealed hpend),
      fun hready => exec_later rfl h
          (bodyTsiPageSwitch_waits (i := fl.input c) (mask := mask) rfl hown hact (fun n hn => ⟨(hready n hn).1, (hready n hn).2.1⟩)
        fun n hn => (hready n hn).2.2)⟩,
    fun h hown hact hlate => exec_done rfl h (bodyTsiPageSwitch_tooLate (i := fl.input c) (mask := mask) rfl hown hact hlate),
    fun h hact g hg howns => ⟨fun hcmd hlow => exec_done rfl h (bodyApsConfig_overruled rfl hg howns hact hcmd hlow),
      fun hcmd => exec_done rfl h (bodyApsConfig_commanded rfl hg howns hact hcmd)⟩,
    fun h hact g hg howns => exec_done rfl h (bodyApsConfig_deleted rfl hg howns hact),
    fun h hobj => ⟨fun howns => exec_done rfl h (bodyPmRead_notOwned hobj rfl howns),
      fun howns => exec_done rfl h (bodyPmRead_answers hobj rfl howns)⟩⟩

end Sys2Proof.Machine

/-! PROOFS. The U-plane frames of one symbol (chapter 12, R360, R363). -/

namespace Sys2Proof.Machine

/-! ### Big-endian fields of bytes put together -/

theorem beBytes_length (n v : Nat) : (beBytes n v).length = n := by
  rw [beBytes, List.length_reverse, leBytes_length]

theorem befld_beBytes_append (n v : Nat) (bs : List Byte) : befld (beBytes n v ++ bs) 0 n = v % 256 ^ n := by
  rw [befld, List.drop_zero, List.take_left' (beBytes_length n v), beBytes, List.reverse_reverse, leNat_leBytes]

theorem befld_append_right (p q : List Byte) (off n : Nat) : befld (p ++ q) (p.length + off) n = befld q off n := by
  rw [befld, ← List.drop_drop, List.drop_left, befld]

/-- A field behind bytes of a known length. -/
theorem befld_behind {p q : List Byte} {k off n : Nat} (h : p.length = k) : befld (p ++ q) (k + off) n = befld q off n :=
  h ▸ befld_append_right p q off n

theorem befld_past {p q : List Byte} {k off n : Nat} (h : p.length = k) (hk : k ≤ off) : befld (p ++ q) off n = befld q (off - k) n := by
  rw [← befld_behind (q := q) h, Nat.add_sub_cancel' hk]

theorem befld_beBytes_past {m v off n : Nat} {q : List Byte} (hm : m ≤ off) : befld (beBytes m v ++ q) off n = befld q (off - m) n :=
  befld_past (beBytes_length m v) hm

/-! ### One frame -/

/-- The bytes of a U-plane frame before its PRBs, from the eCPRI header on. -/
def uplaneHead (x : FhStream) : Nat := 16 + 2 * b2n x.compHdr

/-- The most PRBs in a frame of a stream (R360; 255 at most, log entry 89). -/
def uplaneMost (x : FhStream) (e : EthPort) : Nat := min 255 ((e.maxFrame - 22 - uplaneHead x) / prbBytes x.width)

/-- The Ethernet header of a stream's frames. -/
def FhStream.ethHeader (x : FhStream) (e : EthPort) : List Byte := Machine.ethHeader x.dst e.mac x.untagged x.tci 0xAEFE

/-- The frame that carries given PRBs, its sequence number and the first PRB's number. -/
def uplaneFrame (x : FhStream) (e : EthPort) (num point seq first : Nat) (now : List (List Byte)) : List Byte :=
  x.ethHeader e ++ (beBytes 1 0x10 ++ (beBytes 1 0 ++ (beBytes 2 (uplaneHead x - 4 + now.flatten.length) ++ (beBytes 2 x.eaxc
    ++ (beBytes 1 (seq % 256) ++ (beBytes 1 0x80 ++ (symHeader true x.filter num point ++ (beBytes 3 (x.section_ * 4096 + first)
    ++ (beBytes 1 now.length ++ ((if x.compHdr then beBytes 1 (compHdr x.width) ++ zeros 1 else []) ++ now.flatten))))))))))

section Frame
variable (x : FhStream) (e : EthPort) (num point seq first : Nat) (now : List (List Byte))

theorem FhStream.ethHeader_length : (x.ethHeader e).length = if x.untagged then 14 else 18 := by
  unfold FhStream.ethHeader Machine.ethHeader
  cases x.untagged <;> simp [fit_length, beBytes_length]

theorem symHeader_length (dl : Bool) (filter : Nat) : (symHeader dl filter num point).length = 4 := by
  simp [symHeader, beBytes_length]

/-- What is before the PRBs. -/
theorem uplaneFrame_split : ∃ front, uplaneFrame x e num point seq first now = front ++ now.flatten
    ∧ front.length = (if x.untagged then 14 else 18) + uplaneHead x := by
  refine ⟨x.ethHeader e ++ (beBytes 1 0x10 ++ (beBytes 1 0 ++ (beBytes 2 (uplaneHead x - 4 + now.flatten.length) ++ (beBytes 2 x.eaxc
    ++ (beBytes 1 (seq % 256) ++ (beBytes 1 0x80 ++ (symHeader true x.filter num point ++ (beBytes 3 (x.section_ * 4096 + first)
    ++ (beBytes 1 now.length ++ (if x.compHdr then beBytes 1 (compHdr x.width) ++ zeros 1 else [])))))))))), ?_, ?_⟩
  · simp only [uplaneFrame, List.append_assoc]
  · cases hc : x.compHdr <;> simp [beBytes_length, symHeader_length, FhStream.ethHeader_length, uplaneHead, hc, b2n, zeros]

theorem uplaneFrame_drop : (uplaneFrame x e num point seq first now).drop ((if x.untagged then 14 else 18) + uplaneHead x) = now.flatten := by
  obtain ⟨front, hf, hlen⟩ := uplaneFrame_split x e num point seq first now
  rw [hf, ← hlen, List.drop_left]

theorem uplaneFrame_length : (uplaneFrame x e num point seq first now).length
    = (if x.untagged then 14 else 18) + uplaneHead x + now.flatten.length := by
  obtain ⟨front, hf, hlen⟩ := uplaneFrame_split x e num point seq first now
  rw [hf, List.length_append, hlen]

/-- The fields of a frame from its eCPRI header on. -/
theorem uplaneFrame_fields {o : Nat} (ho : (x.ethHeader e).length = o) :
    let f := uplaneFrame x e num point seq first now
    befld f o 1 = 0x10 ∧ befld f (o + 1) 1 = 0 ∧ befld f (o + 2) 2 = (uplaneHead x - 4 + now.flatten.length) % 65536
      ∧ befld f (o + 4) 2 = x.eaxc % 65536 ∧ befld f (o + 6) 1 = seq % 256 ∧ befld f (o + 7) 1 = 0x80
      ∧ befld f (o + 12) 3 = (x.section_ * 4096 + first) % 2 ^ 24 ∧ befld f (o + 15) 1 = now.length % 256 := by
  have hsym {off n : Nat} {q : List Byte} (h : 4 ≤ off) :
      befld (symHeader true x.filter num point ++ q) off n = befld q (off - 4) n := befld_past (symHeader_length ..) h
  refine ⟨(befld_behind (off := 0) ho).trans (befld_beBytes_append ..), (befld_behind ho).trans ?_, (befld_behind ho).trans ?_,
    (befld_behind ho).trans ?_, (befld_behind ho).trans ?_, (befld_behind ho).trans ?_, (befld_behind ho).trans ?_,
    (befld_behind ho).trans ?_⟩ <;>
    simp [befld_beBytes_past, hsym, befld_beBytes_append]

end Frame

/-! ### The frames of a symbol -/

section Frames
variable (x : FhStream) (e : EthPort) (num point : Nat) (hper : 0 < uplaneMost x e)
include hper

theorem uplaneFrames_cons (fuel seq first : Nat) {prbs : List (List Byte)} (hne : prbs ≠ []) :
    uplaneFrames x e num point (fuel + 1) seq first prbs = uplaneFrame x e num point seq first (prbs.take (uplaneMost x e))
      :: uplaneFrames x e num point fuel (seq + 1) (first + (prbs.take (uplaneMost x e)).length) (prbs.drop (uplaneMost x e)) := by
  have hempty : (prbs.isEmpty || decide (uplaneMost x e = 0)) = false := by simp [hne, hper.ne']
  rw [uplaneMost, uplaneHead] at hempty
  have hsize (n : Nat) : 4 + 4 + (3 + 1 + (if x.compHdr then beBytes 1 (compHdr x.width) ++ zeros 1 else []).length + n)
      = uplaneHead x - 4 + n := by
    cases hc : x.compHdr <;> simp [uplaneHead, hc, b2n, beBytes_length, zeros] <;> omega
  rw [uplaneFrames]
  simp only [hempty, Bool.false_eq_true, if_false, List.length_append, beBytes_length, hsize]
  simp only [List.append_assoc]
  rfl

/-- The i-th frame carries the i-th run of as many PRBs as fit. -/
theorem uplaneFrames_eq (fuel seq first : Nat) {prbs : List (List Byte)} (hfuel : prbs.length < fuel) :
    uplaneFrames x e num point fuel seq first prbs = (List.range ((prbs.length + uplaneMost x e - 1) / uplaneMost x e)).map fun i =>
      uplaneFrame x e num point (seq + i) (first + i * uplaneMost x e) ((prbs.drop (i * uplaneMost x e)).take (uplaneMost x e)) := by
  induction fuel generalizing seq first prbs with
  | zero => omega
  | succ fuel ih =>
    by_cases hne : prbs = []
    · have hnone : (prbs.length + uplaneMost x e - 1) / uplaneMost x e = 0 := by
        rw [hne, List.length_nil, Nat.zero_add]
        exact Nat.div_eq_of_lt (by omega)
      rw [hnone, hne, uplaneFrames]
      simp
    · have hpos : 0 < prbs.length := List.length_pos_iff.mpr hne
      have hcount : (prbs.length + uplaneMost x e - 1) / uplaneMost x e
          = (((prbs.drop (uplaneMost x e)).length + uplaneMost x e - 1) / uplaneMost x e) + 1 := by
        rw [List.length_drop, show prbs.length + uplaneMost x e - 1 = prbs.length - 1 + uplaneMost x e by omega, Nat.add_div_right _ hper]
        by_cases hlt : prbs.length < uplaneMost x e
        · rw [Nat.div_eq_of_lt (by omega), Nat.div_eq_of_lt (by omega)]
        · rw [show prbs.length - uplaneMost x e + uplaneMost x e - 1 = prbs.length - 1 by omega]
      rw [uplaneFrames_cons x e num point hper fuel seq first hne, ih, hcount, List.range_succ_eq_map, List.map_cons, List.map_map]
      · refine congrArg₂ List.cons (by simp) (List.map_congr_left fun i hi => ?_)
        have hfull : uplaneMost x e ≤ prbs.length := by
          by_contra hlt
          rw [List.length_drop, Nat.div_eq_of_lt (by omega)] at hi
          exact absurd hi (by simp)
        rw [List.length_take, Nat.min_eq_left hfull, List.drop_drop]
        simp only [Function.comp_apply, Nat.succ_eq_add_one, Nat.add_mul, Nat.one_mul, Nat.add_assoc, Nat.add_comm 1 i,
          Nat.add_comm (uplaneMost x e)]
      · rw [List.length_drop]; omega

/-- The PRBs of the frames, put together, are those of the symbol. -/
theorem uplaneFrames_flatMap_drop (fuel seq first : Nat) {prbs : List (List Byte)} (hfuel : prbs.length < fuel) :
    ((uplaneFrames x e num point fuel seq first prbs).flatMap fun f => f.drop ((if x.untagged then 14 else 18) + uplaneHead x))
      = prbs.flatten := by
  induction fuel generalizing seq first prbs with
  | zero => omega
  | succ fuel ih =>
    by_cases hne : prbs = []
    · rw [hne, uplaneFrames]
      simp
    · have hpos : 0 < prbs.length := List.length_pos_iff.mpr hne
      rw [uplaneFrames_cons x e num point hper fuel seq first hne, List.flatMap_cons, uplaneFrame_drop, ih, ← List.flatten_append,
        List.take_append_drop]
      rw [List.length_drop]; omega

end Frames

theorem flatten_length {prbs : List (List Byte)} {n : Nat} (h : ∀ p ∈ prbs, p.length = n) : prbs.flatten.length = prbs.length * n := by
  rw [List.length_flatten, List.map_congr_left h, List.map_const', List.sum_replicate, smul_eq_mul]

/-- Settles O45. That a frame holds at most 255 PRBs, as numPrbu has 8 bits, is the model's reading of R360 (log entry 89). -/
theorem symbolFrames : Obligations.SymbolFrames := by
  unfold Obligations.SymbolFrames
  intro x e num point fuel seq first prbs head per skip fs hprbs hper hfuel
  have hfs : fs = (List.range ((prbs.length + per - 1) / per)).map fun i =>
      uplaneFrame x e num point (seq + i) (first + i * per) ((prbs.drop (i * per)).take per) :=
    uplaneFrames_eq x e num point hper fuel seq first hfuel
  have hlen : fs.length = (prbs.length + per - 1) / per := by rw [hfs, List.length_map, List.length_range]
  refine ⟨hlen, fun hcount => ?count, fun f hf => ?longest, uplaneFrames_flatMap_drop x e num point hper fuel seq first hfuel,
    fun i hi => ?fields⟩
  case count =>
    rw [hlen, hcount]
    exact (if_neg hper.ne').symm
  case longest =>
    rw [hfs] at hf
    obtain ⟨i, -, rfl⟩ := List.mem_map.mp hf
    have hall : ∀ p ∈ (prbs.drop (i * per)).take per, p.length = prbBytes x.width := fun p hp =>
      hprbs p (List.mem_of_mem_drop (List.mem_of_mem_take hp))
    have hfit : ((prbs.drop (i * per)).take per).length * prbBytes x.width ≤ e.maxFrame - 22 - head :=
      (Nat.mul_le_mul_right _ ((List.length_take_le ..).trans (Nat.min_le_right ..))).trans (Nat.div_mul_le_self ..)
    have hsome : 0 < (e.maxFrame - 22 - head) / prbBytes x.width := hper.trans_le (Nat.min_le_right ..)
    have hroom : 0 < e.maxFrame - 22 - head := Nat.pos_of_ne_zero fun h0 => by rw [h0, Nat.zero_div] at hsome; omega
    have hhead : (if x.untagged then 14 else 18) ≤ 18 := by split <;> omega
    rw [uplaneFrame_length, flatten_length hall, show uplaneHead x = head from rfl]
    omega
  case fields =>
    have hf : fs.getD i [] = uplaneFrame x e num point (seq + i) (first + i * per) ((prbs.drop (i * per)).take per) := by
      rw [hlen] at hi
      rw [hfs]
      simp [hi]
    have ho : (x.ethHeader e).length = skip - head := by
      rw [FhStream.ethHeader_length]
      exact (Nat.add_sub_cancel ..).symm
    obtain ⟨h0, h1, h2, h4, h6, h7, h12, h15⟩ :=
      uplaneFrame_fields x e num point (seq + i) (first + i * per) ((prbs.drop (i * per)).take per) ho
    have hsize : (uplaneFrame x e num point (seq + i) (first + i * per) ((prbs.drop (i * per)).take per)).length - (skip - head) - 4
        = uplaneHead x - 4 + ((prbs.drop (i * per)).take per).flatten.length := by
      rw [uplaneFrame_length, ← ho, FhStream.ethHeader_length]
      simp only [uplaneHead]
      omega
    have hnow : ((prbs.drop (i * per)).take per).length = min per (prbs.length - i * per) := by
      rw [List.length_take, List.length_drop]
    have hbyte : min per (prbs.length - i * per) < 256 := by
      have : per ≤ 255 := Nat.min_le_left ..
      omega
    intro f o
    rw [show f = _ from hf]
    exact ⟨h0, h1, by rw [h2, hsize], h4, h6, h7, by rw [h12, Nat.add_assoc], by rw [h15, hnow, Nat.mod_eq_of_lt hbyte]⟩

end Sys2Proof.Machine

/-! PROOFS. ETH_PORT_CONFIG, FH_STREAM_CONFIG and MACSEC_SA_INSTALL (chapter 12, R357, R366 to R371). -/

namespace Sys2Proof.Machine

section Bodies
variable {i : CmdIn} {s : State}

/-! ### ETH_PORT_CONFIG (R348, R364, R369) -/

section EthPort
variable {n : Nat} (hn : fld i.p 0 1 = n)

/-- A stream names the port. -/
def State.portStreams (s : State) (n : Nat) : Bool := s.line.streams.some? fun _ x => x.port == n

include hn

theorem bodyEthPort_unfit (hact : fld i.p 1 1 = 1) (hfits : s.portFits n (portOf i.fn i.p) = false) :
    bodyEthPort i s = (s, .done (.bare .badParam)) := by
  simp [bodyEthPort, hn, hact, hfits, refuse]

theorem bodyEthPort_notOwned (hfits : fld i.p 1 1 = 1 → s.portFits n (portOf i.fn i.p) = true) (howns : s.ownsMac i.fn n = false) :
    bodyEthPort i s = (s, .done (.bare .notPermitted)) := by
  have hok : (fld i.p 1 1 == 1 && !s.portFits n (portOf i.fn i.p)) = false := by
    by_cases h : fld i.p 1 1 = 1
    · simp [hfits h]
    · simp [h]
  simp [bodyEthPort, hn, hok, howns, refuse]

theorem bodyEthPort_inUse (hact : fld i.p 1 1 = 0) (hport : s.line.ports.has n = true) (huse : s.portStreams n = true) :
    bodyEthPort i s = (s, .done (.bare .notPermitted)) := by
  rw [Tab.has] at hport
  rw [State.portStreams] at huse
  simp [bodyEthPort, hn, hact, hport, huse, refuse]

variable (howns : s.ownsMac i.fn n = true)
include howns

theorem bodyEthPort_cleared (hact : fld i.p 1 1 = 2) {x : EthPort} (hx : s.line.ports.find? n = some x) :
    bodyEthPort i s = (s.modPort n fun x => { x with cnt := [] }, .done (.okBuf (fld i.p 24 8) x.counters)) := by
  simp [bodyEthPort, hn, hact, howns, hx]

variable (hfree : s.portStreams n = false)
include hfree

theorem bodyEthPort_deleted (hact : fld i.p 1 1 = 0) :
    bodyEthPort i s = (s.modLine fun l => { l with ports := l.ports.del n }, .done (.ok [])) := by
  rw [State.portStreams] at hfree
  simp [bodyEthPort, hn, hact, howns, hfree, ok]

section Set
variable {e : EthPort} (he : portOf i.fn i.p = e) (hact : fld i.p 1 1 = 1) (hfits : s.portFits n e = true)
  (hlanes : e.lanes.all (s.ownsLane i.fn) = true) (hpeer : e.peer = true → i.fn = 0)
include he hact hfits hlanes hpeer

theorem bodyEthPort_allowed : bodyEthPort i s = if !s.portRoom n e then refuse s .noResource
    else ok (s.modLine fun l => { l with ports := l.ports.set n (e.kept (s.line.ports.find? n)) }) [] := by
  rw [State.portStreams] at hfree
  have hpeer' : (e.peer && i.fn != 0) = false := by
    cases hp : e.peer
    · rfl
    · simp [hpeer hp]
  simp [bodyEthPort, hn, he, hact, howns, hfree, hfits, hlanes, hpeer']

theorem bodyEthPort_noRoom (hroom : ¬ s.portRoom n e = true) : bodyEthPort i s = (s, .done (.bare .noResource)) := by
  rw [bodyEthPort_allowed hn howns hfree he hact hfits hlanes hpeer, if_pos (by simpa using hroom), refuse]

theorem bodyEthPort_set (hroom : s.portRoom n e = true) :
    bodyEthPort i s = (s.modLine fun l => { l with ports := l.ports.set n (e.kept (s.line.ports.find? n)) }, .done (.ok [])) := by
  rw [bodyEthPort_allowed hn howns hfree he hact hfits hlanes hpeer, if_neg (by simp [hroom]), ok]

end Set
end EthPort

/-! ### FH_STREAM_CONFIG (R357, R370) -/

section FhStream
variable {k : Nat} (hk : fld i.p 3 1 * 4096 + fld i.p 0 2 = k)
include hk

section Set
variable {x : FhStream} (hx : streamOf i.p = x) (hact : fld i.p 2 1 = 1)
include hx hact

omit hk in
theorem bodyFhStream_unfit (hfits : s.streamFits (fld i.p 3 1) x = false) : bodyFhStream i s = (s, .done (.bare .badParam)) := by
  simp [bodyFhStream, hx, hact, hfits, refuse]

variable (hfits : s.streamFits (fld i.p 3 1) x = true) (hnew : s.line.streams.find? k = none)
include hfits hnew

theorem bodyFhStream_live (hlive : s.cellLive x.cell = true) : bodyFhStream i s = (s, .done (.bare .notPermitted)) := by
  simp [bodyFhStream, hk, hx, hact, hfits, hnew, hlive, refuse]

/-- Another uplink stream of the port has the same receive key. -/
def State.keyTaken (s : State) (dir k : Nat) (x : FhStream) : Bool :=
  dir = 0 && s.line.streams.some? fun j y => j < 4096 && j != k && y.port == x.port && y.key == x.key

section Allowed
variable (hlive : s.cellLive x.cell = false) (hcell : s.ownsCell i.fn x.cell = true) (hmac : s.ownsMac i.fn x.port = true)
  (htest : ((s.line.ports.find? x.port).any fun e => e.lanes.any fun m => (s.lane m).stage == 14) = false)
include hlive hcell hmac htest

theorem bodyFhStream_allowed : bodyFhStream i s = if s.keyTaken (fld i.p 3 1) k x then refuse s .noResource
    else ok (s.modLine fun l => { l with streams := l.streams.set k x }) (zeros 16) := by
  simp [bodyFhStream, hk, hx, hact, hfits, hnew, hlive, hcell, hmac, htest, State.keyTaken]

theorem bodyFhStream_taken (htaken : s.keyTaken (fld i.p 3 1) k x = true) : bodyFhStream i s = (s, .done (.bare .noResource)) := by
  rw [bodyFhStream_allowed hk hx hact hfits hnew hlive hcell hmac htest, if_pos htaken, refuse]

theorem bodyFhStream_set (hfree : ¬ s.keyTaken (fld i.p 3 1) k x = true) :
    bodyFhStream i s = (s.modLine fun l => { l with streams := l.streams.set k x }, .done (.ok (zeros 16))) := by
  rw [bodyFhStream_allowed hk hx hact hfits hnew hlive hcell hmac htest, if_neg hfree, ok]

end Allowed
end Set

section Existing
variable {o : FhStream} (ho : s.line.streams.find? k = some o) (howns : s.ownsCell i.fn o.cell = true)
include ho howns

theorem bodyFhStream_deleted (hact : fld i.p 2 1 = 0) (hlive : s.cellLive o.cell = false) :
    bodyFhStream i s = (s.modLine fun l => { l with streams := l.streams.del k }, .done (.ok (zeros 16))) := by
  simp [bodyFhStream, hk, hact, ho, howns, hlive, ok]

theorem bodyFhStream_kept (hact : fld i.p 2 1 = 0) (hlive : s.cellLive o.cell = true) :
    bodyFhStream i s = (s, .done (.bare .notPermitted)) := by
  simp [bodyFhStream, hk, hact, ho, howns, hlive, refuse]

theorem bodyFhStream_cleared (hact : fld i.p 2 1 = 2) :
    bodyFhStream i s = (s.modStream k fun y => { y with cnt := [0, 0, 0, 0] }, .done (.ok (o.cnt.flatMap fun v => leBytes 4 v))) := by
  simp [bodyFhStream, hk, hact, ho, howns, ok]

end Existing
end FhStream

/-! ### MACSEC_SA_INSTALL (R366 to R368, R371) -/

section Macsec
variable {n : Nat} (hn : fld i.p 0 1 = n) (howns : s.ownsMac i.fn n = true)

/-- The result of MACSEC_SA_INSTALL: free associations, the next packet number. -/
def State.saResult (s : State) (pn : Nat) : List Byte := leBytes 2 (512 - s.line.sas.length) ++ zeros 6 ++ leBytes 8 pn

include hn howns

theorem bodyMacsec_selected {a : MacSa} (hact : fld i.p 1 1 = 2) (htx : fld i.p 2 1 = 1) (ha : s.line.sas.find? (saNamed i.p) = some a) :
    bodyMacsec i s = (s.modPort n fun e => { e with txAn := some a.an }, .done (.ok (s.saResult a.nextPn))) := by
  simp [bodyMacsec, hn, howns, hact, htx, ha, ok, State.saResult]

theorem bodyMacsec_inUse (hact : fld i.p 1 1 ≤ 1) (htx : fld i.p 2 1 = 1) (hold : (s.line.sas.find? (saNamed i.p)).isSome = true)
    (huse : (s.line.ports.find? n).any (fun e => e.txAn == some (fld i.p 3 1)) = true) :
    bodyMacsec i s = (s, .done (.bare .notPermitted)) := by
  simp only [bodyMacsec, hn, howns, htx, hold, huse]
  simp [hact, refuse]

theorem bodyMacsec_deleted (hact : fld i.p 1 1 = 0) (hrx : fld i.p 2 1 = 0) :
    let u := s.modLine fun l => { l with sas := l.sas.filter fun a => !saNamed i.p a }
    bodyMacsec i s = (u, .done (.ok (u.saResult 0))) := by
  simp [bodyMacsec, hn, howns, hact, hrx, ok, State.saResult]

variable (hact : fld i.p 1 1 = 1) (hnew : s.line.sas.find? (saNamed i.p) = none)
include hact hnew

theorem bodyMacsec_full (hfull : 512 ≤ s.line.sas.length) : bodyMacsec i s = (s, .done (.bare .noResource)) := by
  simp [bodyMacsec, hn, howns, hact, hnew, hfull, refuse]

/-- The transmit association that a command describes, under an unwrapped key. -/
def saOf (p : List Byte) (n : Nat) (key : List Nat) : MacSa :=
  ⟨n, true, fld p 3 1, fld p 4 1, bit (fld p 5 1) 0, bit (fld p 5 1) 1, (p.drop 8).take 8, fld p 16 8, fld p 24 4,
    (p.drop 28).take 12, fit 32 (bytesOf key), false, false⟩

variable (htx : fld i.p 2 1 = 1) (hroom : s.line.sas.length < 512) {kek : List Byte} (hkek : s.dome.keks.find? (s.macOwner n) = some kek)
include htx hroom hkek

theorem bodyMacsec_authFail (hkey : Config.keyUnwrap (nats kek) (nats ((i.p.drop 40).take 40)) = none) :
    bodyMacsec i s = (s, .done (.bare .authFail)) := by
  simp [bodyMacsec, hn, howns, hact, hnew, htx, hroom.not_ge, hkek, hkey, refuse]

theorem bodyMacsec_installed {key : List Nat} (hkey : Config.keyUnwrap (nats kek) (nats ((i.p.drop 40).take 40)) = some key) :
    let u := s.modLine fun l => { l with sas := l.sas ++ [saOf i.p n key] }
    bodyMacsec i s = (u, .done (.ok (u.saResult (fld i.p 16 8)))) := by
  simp [bodyMacsec, hn, howns, hact, hnew, htx, hroom.not_ge, hkek, hkey, ok, State.saResult, saOf]

end Macsec
end Bodies

/-- Settles O47. That deleting an absent association is SUCCESS is the model's choice (log entry 88). -/
theorem ethernetCommands : Obligations.EthernetCommands := by
  unfold Obligations.EthernetCommands
  intro c s fl s₁ p n e free
  refine ⟨fun h => ⟨fun hact hfits => exec_done rfl h (bodyEthPort_unfit rfl hact hfits),
      fun hfits howns => exec_done rfl h (bodyEthPort_notOwned rfl hfits howns),
      fun hact hport huse => exec_done rfl h (bodyEthPort_inUse rfl hact hport huse),
      fun hact howns hfree => exec_done rfl h (bodyEthPort_deleted rfl howns hfree hact),
      fun hact hfits howns hlanes hpeer hfree => ?port,
      fun x hact howns hx => exec_done rfl h (bodyEthPort_cleared rfl howns hact hx)⟩,
    fun h => ?streams,
    fun h howns => ⟨fun a hact htx ha => exec_done rfl h (bodyMacsec_selected rfl howns hact htx ha),
      fun hact htx hold huse => exec_done rfl h (bodyMacsec_inUse rfl howns hact htx hold huse),
      fun hact hrx => exec_done rfl h (bodyMacsec_deleted rfl howns hact hrx),
      fun hact hnew hfull => exec_done rfl h (bodyMacsec_full rfl howns hact hnew hfull),
      fun kek hact htx hnew hroom hkek => ?install⟩⟩
  case port =>
    split
    case isTrue hroom => exact exec_done rfl h (bodyEthPort_set (i := fl.input c) rfl howns hfree (e := e) rfl hact hfits hlanes hpeer hroom)
    case isFalse hroom => exact exec_done rfl h (bodyEthPort_noRoom (i := fl.input c) rfl howns hfree (e := e) rfl hact hfits hlanes hpeer hroom)
  case streams =>
    intro k x
    refine ⟨fun hact hfits => exec_done rfl h (bodyFhStream_unfit rfl hact hfits),
      fun hact hfits hnew hlive => exec_done rfl h (bodyFhStream_live rfl rfl hact hfits hnew hlive),
      fun hact hfits hnew hlive hcell hmac htest => ?_,
      fun o ho howns => ⟨fun hact hlive => exec_done rfl h (bodyFhStream_deleted rfl ho howns hact hlive),
        fun hact hlive => exec_done rfl h (bodyFhStream_kept rfl ho howns hact hlive),
        fun hact => exec_done rfl h (bodyFhStream_cleared rfl ho howns hact)⟩⟩
    split
    case isTrue htaken =>
      exact exec_done rfl h (bodyFhStream_taken (i := fl.input c) (k := k) (x := x) rfl rfl hact hfits hnew hlive hcell hmac htest htaken)
    case isFalse hfree =>
      exact exec_done rfl h (bodyFhStream_set (i := fl.input c) (k := k) (x := x) rfl rfl hact hfits hnew hlive hcell hmac htest hfree)
  case install =>
    cases hkey : Config.keyUnwrap (nats kek) (nats ((p.drop 40).take 40)) with
    | none => exact exec_done rfl h (bodyMacsec_authFail (i := fl.input c) rfl howns hact hnew htx hroom hkek hkey)
    | some key => exact exec_done rfl h (bodyMacsec_installed (i := fl.input c) rfl howns hact hnew htx hroom hkek hkey)

end Sys2Proof.Machine

/-! PROOFS. Frames received and sent, the host rings, fronthaul and peer transport (chapter 12, R350 to R365). -/

namespace Sys2Proof.Machine

/-! ### Rules 1 to 9 of Table 12-2 (R350, R351) -/

section Classify
variable {s : State} {n : Nat} {e : EthPort} {f : List Byte} {sec : Bool} {env : EthEnv}

theorem openFrame_plain (h : e.macsec = false ∨ befld f 12 2 ≠ 0x88E5) : s.openFrame n e f = (some (f, false), s) := by
  have hplain : (!e.macsec || befld f 12 2 != 0x88E5) = true := by simpa using h
  rw [State.openFrame, if_pos hplain]

theorem classify_eapol (h : befld f 12 2 = 0x888E) : s.classify n e f sec env = s.toHost n e f sec env.desc := by
  simp [State.classify, h]

section Open
variable (heapol : befld f 12 2 ≠ 0x888E)
include heapol

theorem classify_unsecured (hstrict : e.validate = 2) : s.classify n e f false env = s.portCount n cUnsecured 1 := by
  simp [State.classify, heapol, hstrict]

variable (hopen : e.validate ≠ 2)
include hopen

theorem classify_otherAddress (hptp : e.ptpMcast = false) (hmac : f.take 6 ≠ e.mac) (hall : f.take 6 ≠ List.replicate 6 255) :
    s.classify n e f sec env = s.portCount n cAddr 1 := by
  have hother : (f.take 6 != e.mac && f.take 6 != List.replicate 6 255) = true := by
    rw [Bool.and_eq_true, bne_iff_ne, bne_iff_ne]
    exact ⟨hmac, hall⟩
  simp only [State.classify, heapol, hopen, hptp, hother]
  simp

variable (hmac : f.take 6 = e.mac)
include hmac

theorem classify_ecpri (htype : (etherType f).1 = 0xAEFE)
    (hmsg : befld f ((etherType f).2 + 1) 1 = 0 ∨ befld f ((etherType f).2 + 1) 1 = 2) :
    s.classify n e f sec env = s.ecpriRx n f (etherType f).2 := by
  simp only [State.classify, heapol, hopen, hmac, htype]
  simp [hmsg]

theorem classify_peer (hpeer : e.peer = true) (hdefault : e.etype = 0) (htype : (etherType f).1 = 0x88B5) :
    s.classify n e f sec env = s.peerRx f (etherType f).2 env := by
  simp only [State.classify, heapol, hopen, hmac, htype, hpeer, hdefault]
  simp

section NoPeer
variable (hpeer : e.peer = false) (htype : (etherType f).1 ≠ 0xAEFE)
include hpeer htype

theorem classify_host (hhost : (isPtp f (etherType f).1 (etherType f).2 || e.hostRx) = true) :
    s.classify n e f sec env = s.toHost n e f sec env.desc := by
  simp only [State.classify, heapol, hopen, hmac, htype, hpeer, hhost]
  simp

theorem classify_unmatched (hhost : (isPtp f (etherType f).1 (etherType f).2 || e.hostRx) = false) :
    s.classify n e f sec env = s.portCount n cUnmatched 1 := by
  simp only [State.classify, heapol, hopen, hmac, htype, hpeer, hhost]
  simp

end NoPeer
end Open
end Classify

/-! ### A received frame (R350) -/

/-- What becomes of a frame once rule 1 has looked at it. -/
def State.classified (n : Nat) (e : EthPort) (env : EthEnv) : Option (List Byte × Bool) × State → State
  | (none, s) => s
  | (some (g, sec), s) => s.classify n e g sec env

section Rx
variable {t n : Nat} {s u : State} (hu : s.advance t = u) (hlive : u.stopped = false) {e : EthPort} {f : List Byte} {env : EthEnv}
  (he : u.line.ports.find? n = some e) (hruns : u.portRuns n = true)
include hu hlive he hruns

theorem exec_ethFrameRx_fcs (hfcs : env.fcsOk = false) :
    exec (.ethFrameRx t n f env) s = .next (((u.portCount n 13 env.fecOk).portCount n 14 env.fecBad).portCount n cFcs 1) := by
  change Host.Outcome.next (doEthFrameRx t n f env s) = _
  simp [doEthFrameRx, hu, hlive, he, hruns, hfcs]

variable (hfcs : env.fcsOk = true)
include hfcs

theorem exec_ethFrameRx_size (hsize : f.length < 60 ∨ e.maxFrame < f.length + 4) :
    exec (.ethFrameRx t n f env) s = .next (((u.portCount n 13 env.fecOk).portCount n 14 env.fecBad).portCount n cSize 1) := by
  change Host.Outcome.next (doEthFrameRx t n f env s) = _
  have hbad : (decide (f.length + 4 < 64) || decide (e.maxFrame < f.length + 4)) = true := by
    simp only [Bool.or_eq_true, decide_eq_true_eq]; omega
  simp only [doEthFrameRx, hu, hlive, he, hruns, hfcs, hbad]
  simp

variable (hlow : 60 ≤ f.length) (hhigh : f.length + 4 ≤ e.maxFrame) {v : State}
  (hv : (((u.portCount n 13 env.fecOk).portCount n 14 env.fecBad).portCount n cRxFrames 1).portCount n cRxBytes (f.length + 4) = v)
include hlow hhigh hv

theorem exec_ethFrameRx_macControl (htype : befld f 12 2 = 0x8808) :
    exec (.ethFrameRx t n f env) s = .next (v.portCount n cUnmatched 1) := by
  change Host.Outcome.next (doEthFrameRx t n f env s) = _
  simp only [doEthFrameRx, hu, hlive, he, hruns, hfcs, hv, htype]
  simp [show ¬f.length + 4 < 64 by omega, hhigh.not_gt]

theorem exec_ethFrameRx_opened (htype : befld f 12 2 ≠ 0x8808) :
    exec (.ethFrameRx t n f env) s = .next (State.classified n e env (v.openFrame n e f)) := by
  change Host.Outcome.next (doEthFrameRx t n f env s) = _
  simp only [doEthFrameRx, hu, hlive, he, hruns, hfcs, hv, htype]
  simp [show ¬f.length + 4 < 64 by omega, hhigh.not_gt]
  rfl

/-- A frame without a SecTAG, or on a port without MACsec, is classified as it came. -/
theorem exec_ethFrameRx_plain (htype : befld f 12 2 ≠ 0x8808) (hplain : e.macsec = false ∨ befld f 12 2 ≠ 0x88E5) :
    exec (.ethFrameRx t n f env) s = .next (v.classify n e f false env) := by
  rw [exec_ethFrameRx_opened hu hlive he hruns hfcs hlow hhigh hv htype, openFrame_plain hplain]
  rfl

end Rx

/-! ### The host rings (R352 to R355) -/

theorem toHost_noDescriptor {s : State} {n : Nat} {e : EthPort} {f : List Byte} {sec : Bool} {d : List Byte}
    (h : e.rings = false ∨ bit (fld (fit 32 d) 10 2) 0 = false) : s.toHost n e f sec d = s.portCount n cHostDrops 1 := by
  rcases h with h | h <;> simp [State.toHost, h]

section Tx
variable {t n : Nat} {s u : State} (hu : s.advance t = u) (hlive : u.stopped = false) {e : EthPort} {d : List Byte}
include hu hlive

theorem exec_hostTxPoll_read {w : State} (hw : u.rxReady n = w) (he : w.line.ports.find? n = some e) (hrings : e.rings = true)
    (hentries : e.txEntries ≠ 0) (hnone : e.txDesc = none) (hruns : w.portRuns n = true)
    (hring : w.ringOk n (e.txRing + 32 * e.txIdx) 32 false = true) (hpoll : ∀ f, e.pollAt = some f → f + usToFrc 10 ≤ w.time.frc) :
    exec (.hostTxPoll t n d) s = .next (w.modPort n fun e => if bit (fld d 10 2) 0
      then { e with txDesc := some (fit 32 d), pollAt := none } else { e with pollAt := some w.time.frc }) := by
  change Host.Outcome.next (doHostTxPoll t n d s) = _
  have hdue : (e.pollAt.any fun f => w.time.frc < f + usToFrc 10) = false := by
    rw [Option.any_eq_false]
    intro f hf
    simpa using hpoll f hf
  simp only [doHostTxPoll, hu, hlive, hw, he, hrings, hnone, hruns, hring, hdue]
  by_cases hown : bit (fld d 10 2) 0 = true <;> simp [hentries, hown]

/-- The descriptor in use goes back to the host with flags and a timestamp, and the next one is in turn (Table 12-3). -/
def State.txBack (s : State) (n at_ : Nat) (d : List Byte) (flags : Nat) (ts : List Byte) : State :=
  (s.emit (.hostWrite (s.ringFn n at_ 32 false) at_ (descBytes d (fld d 8 2) flags ts) false)).modPort n fun e =>
    { e with txDesc := none, txIdx := (e.txIdx + 1) % e.txEntries }

section Frame
variable {frame : List Byte} (he : u.line.ports.find? n = some e) (hd : e.txDesc = some d) (hrings : e.rings = true)
  (hruns : u.portRuns n = true) (hshort : 14 ≤ fld d 8 2) (hlong : fld d 8 2 ≤ e.maxFrame - 4)
  (hring : u.ringOk n (fld d 0 8) (fld d 8 2) false = true)
include hu hlive he hd hrings hruns hshort hlong hring

theorem exec_hostTxFrame_refused (href : txRefused e (fit (fld d 8 2) frame) = true) :
    exec (.hostTxFrame t n frame false) s = .next ((u.portCount n cTxRefused 1).txBack n (e.txRing + 32 * e.txIdx) d
      (fld d 10 2 % 8 - fld d 10 2 % 2 + 16) (zeros 8)) := by
  change Host.Outcome.next (doHostTxFrame t n frame false s) = _
  simp only [doHostTxFrame, hu, hlive, he, hd, hrings, hruns, hring, href]
  simp [hshort.not_gt, hlong.not_gt, b2n, State.txBack]

theorem exec_hostTxFrame_sent (href : txRefused e (fit (fld d 8 2) frame) = false) (hone : bit (fld d 10 2) 2 = false) :
    let w := u.ethSend n (fit (fld d 8 2) frame)
    exec (.hostTxFrame t n frame false) s = .next (if bit (fld d 10 2) 1
      then w.txBack n (e.txRing + 32 * e.txIdx) d (fld d 10 2 % 8 - fld d 10 2 % 2 + 8) (w.ts32 w.time.frc)
      else w.txBack n (e.txRing + 32 * e.txIdx) d (fld d 10 2 % 8 - fld d 10 2 % 2) (zeros 8)) := by
  change Host.Outcome.next (doHostTxFrame t n frame false s) = _
  simp only [doHostTxFrame, hu, hlive, he, hd, hrings, hruns, hring, href, hone]
  by_cases hts : bit (fld d 10 2) 1 = true <;> simp [hshort.not_gt, hlong.not_gt, hts, b2n, State.txBack]

end Frame
end Tx

/-! ### Fronthaul transmission and the end of a window (R360 to R362) -/

theorem frcOfTheta_congr {s u : State} (h : u.time = s.time) (x : Int) : u.frcOfTheta x = s.frcOfTheta x := by
  have hconv : u.conv = s.conv := congrArg (fun q : TimeSt => q.convs.headD ⟨0, 0, 0, 0⟩) h
  have htime (a : Nat) (x : Int) : u.frcOfTime a x = s.frcOfTime a x := by rw [State.frcOfTime, hconv, ← State.frcOfTime]
  simp only [State.frcOfTheta, hconv, htime, h]

theorem poisonEgress_time (s : State) (owner kind id n : Nat) : (s.poisonEgress owner kind id n).time = s.time := by
  unfold State.poisonEgress
  dsimp only
  split_ifs
  · rfl
  · exact (postTo_only ..).time
  · rfl

section Fronthaul
variable {t n point : Nat} {s u : State} (hu : s.advance t = u) (hlive : u.stopped = false) (hn : n < 4096) {x : FhStream} {tl : Timeline}
  (htl : u.anchor? x.cell = some tl) (hl0 : u.l0Runs = true)
include hu hlive hn htl hl0

theorem exec_uplaneTx_due (hx : u.line.streams.find? (4096 + n) = some x) {e : EthPort} (he : u.line.ports.find? x.port = some e)
    (hacts : u.cellActs x.cell = true) (htp : tpValid tl.num point = true) {nom : Int} {as : List Nat}
    (hnom : nominal tl.toff (tpFrame tl u.thetaNow point) (symOff tl.num (tpSlot point) (tpSym point)) = nom)
    (has : (List.range x.prbCount).map (fun i => recordAddr x.area x.ring x.prbStride (tpSlot point) (tpSym point) (x.prbFirst + i)) = as)
    (hdue : nom - x.advance * nsUnit ≤ u.thetaNow) (hready : as.any u.lineReady = true) :
    let r := u.compressed x.width as
    let w := ((u.streamCount (4096 + n) 3 r.2.1).poisonEgress (u.cellOwner x.cell) 1 n r.2.2).takeLines as
    exec (.uplaneTx t n point) s = .next ((w.modStream (4096 + n) fun y => { y with txSeq := (y.txSeq + uplaneCount x e) % 256 }).hold
      ⟨4096 + n, point, u.frcOfTheta nom, x.txSeq, r.1, []⟩) := by
  intro r w
  change Host.Outcome.next (doUplaneTx t n point s) = _
  have htime : w.time = u.time := poisonEgress_time ..
  have hfrc := frcOfTheta_congr (u := w.modStream (4096 + n) fun y => { y with txSeq := (y.txSeq + uplaneCount x e) % 256 }) htime nom
  rw [← hfrc]
  simp only [doUplaneTx, hu, hlive, hx, htl, he, hl0, hacts, htp, hnom, has, hready]
  simp [hn.not_ge, hdue.not_gt]
  rfl

section Cplane
variable (hx : u.line.streams.find? (8192 + n) = some x) (hacts : u.cellActs x.cell = true) (hentries : x.entries ≠ 0)
include hx hacts hentries

omit hn hl0 hacts hentries in
theorem exec_cplaneTx_empty (hempty : leNat (u.bytesAt x.area 4) = leNat (u.bytesAt (x.area + 4) 4)) : exec (.cplaneTx t n) s = .next u := by
  change Host.Outcome.next (doCplaneTx t n s) = _
  simp [doCplaneTx, hu, hlive, hx, htl, hempty]

variable {rd a : Nat} {slot : List Byte} (hrd : leNat (u.bytesAt (x.area + 4) 4) = rd) (ha : x.area + 64 + 1024 * (rd % x.entries) = a)
  (hslot : u.bytesAt a 1024 = slot) (hsome : leNat (u.bytesAt x.area 4) ≠ rd) (hclean : u.poisonIn a 1024 = false)
include hrd ha hslot hsome hclean

/-- A stream's next message is taken from its ring. -/
def State.nextMessage (s : State) (x : FhStream) (rd : Nat) : State := s.write whoL0 (x.area + 4) (leBytes 4 (rd + 1)) false

theorem exec_cplaneTx_skipped (hbad : 1000 < fld slot 0 2 ∨ fld ((slot.drop 8).take (fld slot 0 2)) 5 1 ∉ [0, 1, 3]) :
    exec (.cplaneTx t n) s = .next ((u.nextMessage x rd).streamCount (8192 + n) 2 1) := by
  change Host.Outcome.next (doCplaneTx t n s) = _
  have hskip : (decide (1000 < fld slot 0 2) || !([0, 1, 3].contains (fld ((slot.drop 8).take (fld slot 0 2)) 5 1))
      || !tpValid tl.num (fld slot 4 4)) = true := by
    rcases hbad with h | h <;> simp [h]
  simp only [doCplaneTx, hu, hlive, hx, htl, hl0, hacts, hrd, ha, hslot, hclean, hskip]
  simp [hn.not_ge, hentries, hsome, State.nextMessage]

theorem exec_cplaneTx_due (hlen : fld slot 0 2 ≤ 1000) (hmsg : fld ((slot.drop 8).take (fld slot 0 2)) 5 1 ∈ [0, 1, 3])
    (htp : tpValid tl.num (fld slot 4 4) = true) {nom : Int}
    (hnom : nominal tl.toff (tpFrame tl u.thetaNow (fld slot 4 4)) (symOff tl.num (tpSlot (fld slot 4 4)) (tpSym (fld slot 4 4))) = nom)
    (hdue : nom - x.advance * nsUnit ≤ u.thetaNow) :
    let v := if nom < u.thetaNow then u.streamCount (8192 + n) 1 1 else u
    let w := (v.modStream (8192 + n) fun y => { y with txSeq := (y.txSeq + 1) % 256 }).nextMessage x rd
    exec (.cplaneTx t n) s
      = .next (w.hold ⟨8192 + n, fld slot 4 4, w.frcOfTheta nom, x.txSeq, [], (slot.drop 8).take (fld slot 0 2)⟩) := by
  change Host.Outcome.next (doCplaneTx t n s) = _
  have hgood : (decide (1000 < fld slot 0 2) || !([0, 1, 3].contains (fld ((slot.drop 8).take (fld slot 0 2)) 5 1))
      || !tpValid tl.num (fld slot 4 4)) = false := by
    simp only [hlen.not_gt, List.contains_iff_mem.mpr hmsg, htp, decide_false, Bool.not_true, Bool.or_false]
  simp only [doCplaneTx, hu, hlive, hx, htl, hl0, hacts, hrd, ha, hslot, hclean, hgood, hnom]
  simp [hn.not_ge, hentries, hsome, hdue.not_gt, State.nextMessage]

end Cplane

theorem exec_uplinkWindowClose_due (hx : u.line.streams.find? n = some x) {key last : Nat}
    (hkey : tpMake (tpSfn point) (tpSlot point) 0 = key) (hlast : symsPer tl.num - 1 = last) (htp : tpValid tl.num key = true)
    (hdue : nominal tl.toff (tpFrame tl u.thetaNow key) (symOff tl.num (tpSlot point) last) + x.winEnd * nsUnit ≤ u.thetaNow) :
    let sl := x.slots.get ⟨[], false, false⟩ key
    let all := (List.range (last + 1)).all fun i => (sl.got.get [] i).length == x.prbCount
    let w := u.modStream n fun y => { y with slots := y.slots.del key }
    exec (.uplinkWindowClose t n point) s = .next (if x.status = 0 then w
      else w.write whoL0 x.status (leBytes 4 key ++ leBytes 1 (b2n all + 2 * b2n sl.late + 4 * b2n sl.gap) ++ zeros 3) false) := by
  change Host.Outcome.next (doUplinkWindowClose t n point s) = _
  simp only [doUplinkWindowClose, hu, hlive, hx, htl, hl0, hkey, hlast, htp]
  simp [hn.not_ge, hdue.not_gt]

end Fronthaul

/-! ### Peer transport (R364, R365) -/

section Peer
variable {t d cls : Nat} {s u : State} (hu : s.advance t = u) (hlive : u.stopped = false) {m : Member}
  (hm : u.clu.members.find? d = some m)
include hu hlive hm

section Retransmit
variable {x : PeerTx} (hx : u.peerTx (d * 4 + cls) = x) (hun : x.unacked ≠ []) (hkept : x.lost = false)
  (hdue : x.progress + usToFrc 50 ≤ u.time.frc)
include hx hun hkept hdue

theorem exec_peerRetransmit_again (htries : x.tries < 16) :
    exec (.peerRetransmit t d cls) s = .next (((u.modPeerTx (d * 4 + cls) fun x => { x with
      tries := x.tries + 1, progress := u.time.frc }).portCount m.port cPeerRetx (min 256 x.unacked.length)).peerPush d m cls 0) := by
  change Host.Outcome.next (doPeerRetransmit t d cls s) = _
  simp [doPeerRetransmit, hu, hlive, hm, hx, hun, hkept, hdue.not_gt, htries.not_ge]

theorem exec_peerRetransmit_lost (htries : 16 ≤ x.tries) :
    let w := (u.modPeerTx (d * 4 + cls) fun x => { x with lost := true }).postAll 0x0425 2 (d + 4096 * cls)
    exec (.peerRetransmit t d cls) s
      = .next (if m.up && (List.range 4).all fun c => (w.peerTx (d * 4 + c)).lost then w.loseMember d else w) := by
  change Host.Outcome.next (doPeerRetransmit t d cls s) = _
  simp only [doPeerRetransmit, hu, hlive, hm, hx, hkept, htries]
  simp [hun, hdue.not_gt]

end Retransmit

/-- A keepalive has left for a member. -/
def State.keptAlive (s : State) (d : Nat) : State := s.modClu fun c => { c with
  members := c.members.upd d fun m => { m with sent := s.time.frc, kept := s.time.frc } }

theorem exec_peerKeepalive_ethernet (hpath : m.path = 2) (hdue : u.keepDue d m = true) :
    exec (.peerKeepalive t d cls) s = .next ((u.peerFrame d m 2 cls 0 0 []).keptAlive d) := by
  change Host.Outcome.next (doPeerKeepalive t d cls s) = _
  simp [doPeerKeepalive, hu, hlive, hm, hpath, hdue, State.keptAlive]

theorem exec_peerKeepalive_peerPort (hpath : m.path = 1) (hdue : u.keepDue d m = true) :
    exec (.peerKeepalive t d cls) s = .next ((u.emit (.peerMsg d .keepalive)).keptAlive d) := by
  change Host.Outcome.next (doPeerKeepalive t d cls s) = _
  simp [doPeerKeepalive, hu, hlive, hm, hpath, hdue, State.keptAlive]

theorem exec_peerKeepalive_notDue (hsent : u.time.frc < m.sent + usToFrc 100) (hmigs : u.clu.migs = []) :
    exec (.peerKeepalive t d cls) s = .next u := by
  change Host.Outcome.next (doPeerKeepalive t d cls s) = _
  have hdue : u.keepDue d m = false := by simp [State.keepDue, hsent.not_ge, hmigs, Tab.some?]
  simp [doPeerKeepalive, hu, hlive, hm, hdue]

end Peer

/-- Settles O46. That MAC control frames count as RX_UNMATCHED and skipped C-plane messages as GUARD_DROPS is the model's choice (log
entry 89). -/
theorem ethernetEvents : Obligations.EthernetEvents := by
  unfold Obligations.EthernetEvents
  intro t n s s₁ hlive
  refine ⟨fun e f env he hruns => ?received,
    fun e f sec d hnone => toHost_noDescriptor hnone,
    fun e d he hrings hentries hnone hruns hring hpoll => exec_hostTxPoll_read rfl hlive rfl he hrings hentries hnone hruns hring hpoll,
    fun e d frame he hd hrings hruns hshort hlong hring =>
      ⟨fun href => exec_hostTxFrame_refused rfl hlive he hd hrings hruns hshort hlong hring href,
      fun href hone => exec_hostTxFrame_sent rfl hlive he hd hrings hruns hshort hlong hring href hone⟩,
    fun point x tl hn hx htl hport hl0 hacts htp hdue hready => ?uplane,
    fun x tl hn hx htl hl0 hacts hentries =>
      ⟨fun hempty => exec_cplaneTx_empty rfl hlive htl hx hempty,
      fun hsome hclean hbad => exec_cplaneTx_skipped rfl hlive hn htl hl0 hx hacts hentries rfl rfl rfl hsome hclean hbad,
      fun hsome hclean hlen hmsg htp hdue =>
        exec_cplaneTx_due rfl hlive hn htl hl0 hx hacts hentries rfl rfl rfl hsome hclean hlen hmsg htp rfl hdue⟩,
    fun point x tl hn hx htl hl0 htp hdue => exec_uplinkWindowClose_due rfl hlive hn htl hl0 hx rfl rfl htp hdue,
    fun cls m hm => ⟨fun hun hkept hdue htries => exec_peerRetransmit_again rfl hlive hm rfl hun hkept hdue htries,
      fun hun hkept hdue htries => exec_peerRetransmit_lost rfl hlive hm rfl hun hkept hdue htries,
      fun hpath hdue => exec_peerKeepalive_ethernet rfl hlive hm hpath hdue,
      fun hpath hdue => exec_peerKeepalive_peerPort rfl hlive hm hpath hdue,
      fun hsent hmigs => exec_peerKeepalive_notDue rfl hlive hm hsent hmigs⟩⟩
  case uplane =>
    obtain ⟨e, he⟩ := Option.isSome_iff_exists.mp hport
    exact ⟨e, he, exec_uplaneTx_due rfl hlive hn htl hl0 hx he hacts htp rfl rfl hdue hready⟩
  case received =>
    intro u v
    refine ⟨fun hfcs => exec_ethFrameRx_fcs rfl hlive he hruns hfcs, fun hfcs hsize => exec_ethFrameRx_size rfl hlive he hruns hfcs hsize,
      fun hfcs hlow hhigh => ⟨fun htype => exec_ethFrameRx_macControl rfl hlive he hruns hfcs hlow hhigh rfl htype,
        fun htype hmacsec => ?opened, fun htype => ?eapol, fun htype hplain => ?plain⟩⟩
    case opened =>
      refine (exec_ethFrameRx_opened rfl hlive he hruns hfcs hlow hhigh rfl (by rw [htype]; decide)).trans (congrArg _ ?_)
      rcases v.openFrame n e f with ⟨_ | ⟨g, sec⟩, w⟩ <;> rfl
    case eapol =>
      rw [exec_ethFrameRx_plain rfl hlive he hruns hfcs hlow hhigh rfl (by rw [htype]; decide) (.inr (by rw [htype]; decide)),
        classify_eapol htype]
    case plain =>
      have hcontrol : befld f 12 2 ≠ 0x8808 := fun h => htype (by simp [h])
      have heapol : befld f 12 2 ≠ 0x888E := fun h => htype (by simp [h])
      rw [exec_ethFrameRx_plain rfl hlive he hruns hfcs hlow hhigh rfl hcontrol hplain]
      refine ⟨fun hstrict => ?_, fun hopen hptp hmac hall => ?_, fun hopen hmac => ⟨fun het hmsg => ?_, fun hpeer hdefault het => ?_,
        fun hpeer het hhost => ?_, fun hpeer het hhost => ?_⟩⟩
      · exact congrArg _ (classify_unsecured heapol hstrict)
      · exact congrArg _ (classify_otherAddress heapol hopen hptp hmac hall)
      · exact congrArg _ (classify_ecpri heapol hopen hmac het hmsg)
      · exact congrArg _ (classify_peer heapol hopen hmac hpeer hdefault het)
      · exact congrArg _ (classify_host heapol hopen hmac hpeer het hhost)
      · exact congrArg _ (classify_unmatched heapol hopen hmac hpeer het hhost)

end Sys2Proof.Machine

/-! PROOFS. Joining and leaving a cluster, peer ports, members' silence and requests, and remote dispatch (chapter 13, R375 to R386). -/

namespace Sys2Proof.Machine

/-! ### The commands (R379 to R382) -/

section Bodies
variable {i : CmdIn} {s : State}

section Join

theorem bodyClusterJoin_member (hact : fld i.p 10 1 = 0) (hin : s.member = true) :
    bodyClusterJoin i s = (s, .done (.bare .notPermitted)) := by
  simp [bodyClusterJoin, hact, hin, refuse]

theorem bodyClusterJoin_noMember (hact : fld i.p 10 1 = 1) (hout : s.member = false) :
    bodyClusterJoin i s = (s, .done (.bare .notPermitted)) := by
  simp [bodyClusterJoin, hact, hout, refuse]

variable (hact : fld i.p 10 1 = 0) (hout : s.member = false) (hnone : s.clu.joining = none)
include hact hout hnone

theorem bodyClusterJoin_anchored (hother : fld i.p 4 2 ≠ fld i.p 6 2) (hanchored : s.time.anchors ≠ []) :
    bodyClusterJoin i s = (s, .done (.bare .notPermitted)) := by
  simp [bodyClusterJoin, hact, hout, hnone, hother, hanchored, refuse]

variable (hfree : s.time.anchors = [])
include hfree

theorem bodyClusterJoin_bad (hbad : (joinBad i.p || s.tableBad i.p) = true) :
    bodyClusterJoin i s = (s, .done (.bare .badParam)) := by
  rcases Bool.or_eq_true .. |>.mp hbad with h | h <;> simp [bodyClusterJoin, hact, hout, hnone, hfree, h, refuse]

variable (hgood : (joinBad i.p || s.tableBad i.p) = false)
include hgood

omit hfree in
theorem bodyClusterJoin_root (hroot : fld i.p 4 2 = fld i.p 6 2) :
    bodyClusterJoin i s = (s.setCluster i.p, .done (.ok ((s.setCluster i.p).joinResult 0))) := by
  obtain ⟨hfields, htable⟩ := Bool.or_eq_false_iff.mp hgood
  simp [bodyClusterJoin, hact, hout, hnone, hfields, htable, hroot, ok]

theorem bodyClusterJoin_waits (hother : fld i.p 4 2 ≠ fld i.p 6 2) :
    bodyClusterJoin i s = (s.modClu fun c => { c with joining := some (i.p, s.time.frc) }, .later .join) := by
  obtain ⟨hfields, htable⟩ := Bool.or_eq_false_iff.mp hgood
  simp [bodyClusterJoin, hact, hout, hnone, hfree, hfields, htable, hother]

end Join

section Leave

theorem bodyClusterLeave_refused (h : s.member = false ∨ s.migrating = true) :
    bodyClusterLeave i s = (s, .done (.bare .notPermitted)) := by
  rcases h with h | h <;> simp [bodyClusterLeave, h, refuse]

variable (hin : s.member = true) (hstill : s.migrating = false)
include hin hstill

theorem bodyClusterLeave_atOnce (h : bit (fld i.p 0 1) 0 = true ∨ (s.car.tasks.some? fun _ t => t.remote) = false) :
    bodyClusterLeave i s = ((s.endRemote fun _ => true).leaveCluster, .done (.ok [])) := by
  rcases h with h | h <;> simp [bodyClusterLeave, hin, hstill, h, ok]

theorem bodyClusterLeave_waits (hforce : bit (fld i.p 0 1) 0 = false) (hremote : (s.car.tasks.some? fun _ t => t.remote) = true) :
    bodyClusterLeave i s = (s.modClu fun c => { c with leaving := some (c.leaving.getD s.time.frc) }, .later .leave) := by
  simp [bodyClusterLeave, hin, hstill, hforce, hremote]

end Leave

section PeerPort
variable {n : Nat} (hn : fld i.p 0 1 = n)

/-- What PEER_PORT_CONFIG tells of the lane of a port: the far device, its port, and whether the lane is Up. -/
def State.portResult (s : State) (n : Nat) : List Byte :=
  let l := s.lane (256 + n)
  leBytes 2 l.farDevice ++ leBytes 1 l.farPort ++ leBytes 1 (b2n (l.stage == 9))

/-- The path to a member begins at a peer port. -/
def State.portUsed (s : State) (n : Nat) : Bool := s.clu.members.some? fun _ m => m.path == 1 && m.port == n

include hn

theorem bodyPeerPort_notPeer (hact : fld i.p 1 1 = 1) (hmode : (s.lane (256 + n)).cfg.mode ≠ 4) :
    bodyPeerPort i s = (s, .done (.bare .badParam)) := by
  simp [bodyPeerPort, hn, hact, hmode, refuse]

theorem bodyPeerPort_set (hact : fld i.p 1 1 = 1) (hmode : (s.lane (256 + n)).cfg.mode = 4) : bodyPeerPort i s
    = (s.modClu fun c => { c with ports := c.ports.set n (bit (fld i.p 2 1) 0) }, .done (.ok (s.portResult n))) := by
  simp [bodyPeerPort, hn, hact, hmode, ok, State.portResult]

theorem bodyPeerPort_used (hact : fld i.p 1 1 = 0) (hused : s.portUsed n = true) :
    bodyPeerPort i s = (s, .done (.bare .notPermitted)) := by
  rw [State.portUsed] at hused
  simp [bodyPeerPort, hn, hact, hused, refuse]

theorem bodyPeerPort_cleared (hact : fld i.p 1 1 = 0) (hfree : s.portUsed n = false) :
    bodyPeerPort i s = (s.modClu fun c => { c with ports := c.ports.del n }, .done (.ok (s.portResult n))) := by
  rw [State.portUsed] at hfree
  simp [bodyPeerPort, hn, hact, hfree, ok, State.portResult]

end PeerPort
end Bodies

/-! ### Waits that run out, and what leaving leaves (R379, R381) -/

theorem OnlyFuncs.clu {p : Nat → Prop} {s u : State} (h : OnlyFuncs p s u) : u.clu = s.clu := by
  obtain ⟨o, g, rfl, -⟩ := h; rfl

theorem complete_clu (s : State) (fl : Flight) (op : Nat) (r : Reply) : (s.complete fl op r).clu = s.clu := (complete_only ..).clu

theorem completeWaits_clu (s : State) (p : Wait → Option Reply) : (s.completeWaits p).clu = s.clu := by
  unfold State.completeWaits
  generalize s.host.flights = fls
  induction fls generalizing s with
  | nil => rfl
  | cons fl fls ih =>
    rw [List.foldl_cons, ih]
    split
    · rfl
    · split
      · rfl
      · exact complete_clu ..

/-- Leaving puts back the cluster's reset values; only the enabled ports stay. -/
theorem leaveCluster_clu (s : State) : s.leaveCluster.clu = { Cluster.reset with ports := s.clu.ports } := completeWaits_clu ..

section Rows
variable {t : Nat} {s u : State} (hu : s.advance t = u) (hlive : u.stopped = false)
include hu hlive

theorem exec_joinKeepaliveTimeout_due {q : List Byte} {f : Nat} (hjoin : u.clu.joining = some (q, f))
    (hdue : f + msToFrc 100 ≤ u.time.frc) : exec (.joinKeepaliveTimeout t) s = .next (u.joinEnd .notReady []) := by
  change Host.Outcome.next (doJoinKeepaliveTimeout t s) = _
  simp [doJoinKeepaliveTimeout, hu, hlive, hjoin, hdue.not_gt]

theorem exec_leaveWaitRunsOut_due {f : Nat} (hleave : u.clu.leaving = some f) (hdue : f + msToFrc 100 ≤ u.time.frc) :
    let w := u.endRemote fun _ => true
    exec (.leaveWaitRunsOut t) s = .next (if w.clu.leaving.isSome then w.leaveCluster else w) := by
  change Host.Outcome.next (doLeaveWaitRunsOut t s) = _
  simp [doLeaveWaitRunsOut, hu, hlive, hleave, hdue.not_gt]

/-! ### What members hear of one another (R383) -/

theorem exec_idleSummary_member {dev : Nat} {sm : Summary} {step : Int} {m : Member} {h : State} (hh : u.heardFrom dev step = h)
    (hm : h.clu.members.find? dev = some m) (hother : dev ≠ h.deviceId) :
    let due : Bool := m.told + usToFrc (if m.path = 2 then 20 else 2) ≤ h.time.frc
    let w := h.modClu fun c => { c with members := c.members.set dev { m with summary := sm, told := if due then h.time.frc else m.told } }
    exec (.idleSummary t dev sm step false) s = .next (if due then w.emit (.peerMsg dev (.summary w.mySummary)) else w) := by
  change Host.Outcome.next (doIdleSummary t dev sm step false s) = _
  simp [doIdleSummary, hu, hlive, hh, hm, hother]

section Path
variable {dev : Nat} {m : Member} (hm : u.clu.members.find? dev = some m)
include hm

theorem exec_pathDown_silent (hup : m.up = true) (hsilent : m.heard + usToFrc 200 ≤ u.time.frc) :
    exec (.pathDown t dev) s = .next (u.loseMember dev) := by
  change Host.Outcome.next (doPathDown t dev s) = _
  simp [doPathDown, hu, hlive, hm, hup, hsilent]

theorem exec_pathDown_heard (hheard : u.time.frc < m.heard + usToFrc 200) (hpath : m.path = 2) :
    exec (.pathDown t dev) s = .next u := by
  change Host.Outcome.next (doPathDown t dev s) = _
  simp [doPathDown, hu, hlive, hm, hpath, hheard.not_ge]

end Path

/-! ### Requests between members (R375 to R377) -/

theorem exec_peerRequest_member {dev lat : Nat} {m : Member} {r₀ r : MeshReq} {mig : Option Nat}
    (hm : u.clu.members.find? dev = some m) (hother : dev ≠ u.deviceId) {w : State}
    (hw : (u.modClu fun c => { c with members := c.members.set dev { m with heard := u.time.frc } }) = w)
    (hr : { r₀ with addr := w.real r₀.addr } = r) {f : MeshFl}
    (hf : { req := r, peer := some dev, arrived := true, ans := none, lat := lat } = f) :
    let v := w.photo (photoKey true (0x3B0 + r.cls) r.cls) fun p => p.sent r.write
    exec (.peerRequest t dev r₀ mig lat) s = .next (if inPeerWindow r.addr r.len = false then v.meshReply f .busError []
      else if v.admitPeer dev r mig then v.meshArrive f else v.meshReply f .notPermitted []) := by
  change Host.Outcome.next (doPeerRequest t dev r₀ mig lat s) = _
  have hkey : f.photo = photoKey true (0x3B0 + r.cls) r.cls := by subst hf; rfl
  subst hr
  simp [doPeerRequest, hu, hlive, hm, hother, hw, hf, hkey]

section Relay
variable {src dst hops cls tag : Nat} {packet : List Byte} {m : Member} (hother : dst ≠ u.deviceId)
  (hm : u.clu.members.find? dst = some m)
include hother hm

theorem exec_peerRelay_on (hpath : m.path = 1) (hnear : hops + m.hops ≤ 3) :
    exec (.peerRelay t src dst hops cls tag packet) s = .next (u.emit (.relay dst m.port cls packet)) := by
  change Host.Outcome.next (doPeerRelay t src dst hops cls tag packet s) = _
  simp [doPeerRelay, hu, hlive, hother, hm, hpath, hnear]

theorem exec_peerRelay_tooFar (hfar : 3 < hops + m.hops) :
    exec (.peerRelay t src dst hops cls tag packet) s = .next (u.emit (.peerMsg src (.answer tag Status.busError.code []))) := by
  change Host.Outcome.next (doPeerRelay t src dst hops cls tag packet s) = _
  simp [doPeerRelay, hu, hlive, hother, hm, hfar.not_ge]

end Relay

/-! ### Remote dispatch (R385, R386) -/

theorem exec_remoteDispatch_sent {id d region : Nat} {tk : Task} (htk : u.task? id = some tk) (hok : u.remoteOk tk = true)
    (hspec : u.speculative tk = false) (hheld : u.shadowHeld id tk = false) (htarget : u.remoteTarget tk = some (d, region)) :
    let w := u.modTask id fun x => { x with st := .running, engine := none, region := none, peer := some d, shadow := x.harq, commitBlk := none }
    exec (.remoteDispatch t id) s
      = .next ((w.olog 6 id tk none (u.taskRegion tk) 0 d).emit (.peerMsg d (.task id (u.remoteDesc tk) region))) := by
  change Host.Outcome.next (doRemoteDispatch t id s) = _
  simp [doRemoteDispatch, hu, hlive, htk, hok, hspec, hheld, htarget]

section Finish
variable {id d : Nat} {tk : Task} (htk : u.task? id = some tk) (hpeer : tk.peer = some d) (hrun : tk.st = .running)
  (heng : tk.engine = none)
include htk hpeer hrun heng

theorem exec_remoteFinish_done (hleave : tk.leave = .no) : exec (.remoteFinish t id .success) s
    = .next ((u.modTask id fun x => { x with st := .doneHeld }).signalGates (sig tk.doneGate none)) := by
  change Host.Outcome.next (doRemoteFinish t id .success s) = _
  simp [doRemoteFinish, hu, hlive, htk, hpeer, hrun, heng, hleave]

theorem exec_remoteFinish_failed (hleave : tk.leave = .no) {st : Status} (hst : st ≠ .success) :
    exec (.remoteFinish t id st) s = .next (u.failTask id tk st) := by
  change Host.Outcome.next (doRemoteFinish t id st s) = _
  simp [doRemoteFinish, hu, hlive, htk, hpeer, hrun, heng, hleave, hst]

theorem exec_remoteFinish_revoked (hleave : tk.leave = .revoked) (st : Status) :
    exec (.remoteFinish t id st) s = .next (u.dropRevoked id tk) := by
  change Host.Outcome.next (doRemoteFinish t id st s) = _
  simp [doRemoteFinish, hu, hlive, htk, hpeer, hrun, heng, hleave]

end Finish

section Arrival
variable {dev rid region : Nat} {desc : List Byte} (hmember : u.clu.members.has dev = true) (hother : dev ≠ u.deviceId)
include hmember hother

theorem exec_remoteTaskArrival_closed (haccept : u.clu.accept = false) : exec (.remoteTaskArrival t dev rid desc region) s
    = .next (u.emit (.peerMsg dev (.finish rid Status.notPermitted.code))) := by
  change Host.Outcome.next (doRemoteTaskArrival t dev rid desc region s) = _
  simp [doRemoteTaskArrival, hu, hlive, hmember, hother, haccept]

theorem exec_remoteTaskArrival_first {tk : Task} (htk : remoteTask (fit 64 desc) dev rid region u.car.headReady u.time.frc = tk)
    (haccept : u.clu.accept = true) (hstays : u.clu.leaving = none) (htype : u.clu.types.testBit tk.type = true)
    (heng : enginesOf region tk.type ≠ []) (hempty : u.car.tasks = []) :
    exec (.remoteTaskArrival t dev rid desc region) s = .next (((u.modCar fun c => { c with
      tasks := [(0, tk)], headReady := c.headReady - 1 }).write ⟨initId 15 3 0, none, false, some 0⟩ (taskAddr 0) tk.bytes false).clockUp
        region) := by
  change Host.Outcome.next (doRemoteTaskArrival t dev rid desc region s) = _
  have hids : freeIds (u.car.tasks.length + 1) u.car.tasks.keys 0 1 = [0] := by rw [hempty]; rfl
  have hset : u.car.tasks.set 0 tk = [(0, tk)] := by rw [hempty]; rfl
  simp [doRemoteTaskArrival, hu, hlive, hmember, hother, htk, haccept, hstays, htype, heng, hids, hset, State.modCar]

end Arrival

theorem exec_remoteRevokeArrival_found {dev rid id : Nat} {st : Status} {tk : Task}
    (hfirst : (u.car.tasks.first fun _ tk => tk.origin == some (dev, rid)) = some (id, tk)) :
    exec (.remoteRevokeArrival t dev rid st) s = .next (u.pullTask id tk (leaveOf st)) := by
  change Host.Outcome.next (doRemoteRevokeArrival t dev rid st s) = _
  simp [doRemoteRevokeArrival, hu, hlive, hfirst]

end Rows

section Admit
variable {s : State} {dev : Nat} {r : MeshReq}

theorem admitPeer_exported {mig : Option Nat} (h : (s.clu.exports.any fun e => within r.addr r.len e.1 e.2) = true) :
    s.admitPeer dev r mig = true := by
  simp only [State.admitPeer, h, Bool.true_or]

theorem admitPeer_outside (h : (s.clu.exports.any fun e => within r.addr r.len e.1 e.2) = false) (htask : r.task = none) :
    s.admitPeer dev r none = false := by
  simp only [State.admitPeer, h, htask]
  rfl

end Admit

/-- Settles O48. That the root joins at once, that leaving clears the tables and that a remote task which is not accepted comes
back as NOT_PERMITTED are the model's choices (log entry 91). A relayed packet is discarded when its hops so far and those still
to go are more than three. -/
theorem clusterMembers : Obligations.ClusterMembers := by
  unfold Obligations.ClusterMembers
  intro c s fl
  refine ⟨fun h => ⟨fun hact hin => exec_done rfl h (bodyClusterJoin_member hact hin),
      fun hact hout => exec_done rfl h (bodyClusterJoin_noMember hact hout),
      fun hact hout hnone hother hanch => exec_done rfl h (bodyClusterJoin_anchored hact hout hnone hother hanch),
      fun hact hout hnone hfree => ⟨fun hbad => exec_done rfl h (bodyClusterJoin_bad hact hout hnone hfree hbad),
        fun hgood hroot => exec_done rfl h (bodyClusterJoin_root hact hout hnone hgood hroot),
        fun hgood hother => exec_later rfl h (bodyClusterJoin_waits hact hout hnone hfree hgood hother)⟩⟩,
    fun q f hlive hjoin hdue => exec_joinKeepaliveTimeout_due rfl hlive hjoin hdue,
    fun h => ⟨fun hno => exec_done rfl h (bodyClusterLeave_refused hno),
      fun hin hstill hnow => exec_done rfl h (bodyClusterLeave_atOnce hin hstill hnow),
      fun hin hstill hforce hremote => exec_later rfl h (bodyClusterLeave_waits hin hstill hforce hremote)⟩,
    fun f hlive hleave hdue => exec_leaveWaitRunsOut_due rfl hlive hleave hdue,
    ?left,
    fun h => ⟨fun hact hmode => exec_done rfl h (bodyPeerPort_notPeer rfl hact hmode),
      fun hact hmode => exec_done rfl h (bodyPeerPort_set rfl hact hmode),
      fun hact hused => exec_done rfl h (bodyPeerPort_used rfl hact hused),
      fun hact hfree => exec_done rfl h (bodyPeerPort_cleared rfl hact hfree)⟩,
    fun dev sm step m hlive hm hother => exec_idleSummary_member rfl hlive rfl hm hother,
    fun dev m hlive hm hup => ⟨exec_pathDown_silent rfl hlive hm hup, exec_pathDown_heard rfl hlive hm⟩,
    fun dev m r₀ mig lat hlive hm hother => exec_peerRequest_member (u := s.advance c.t) rfl hlive hm hother rfl rfl rfl,
    fun u dev r mig h => admitPeer_exported h,
    fun u dev r h htask => admitPeer_outside h htask,
    fun src dst hops cls tag packet m hlive hother hm => ⟨exec_peerRelay_on rfl hlive hother hm,
      exec_peerRelay_tooFar rfl hlive hother hm⟩,
    fun id tk d region hlive htk hok hspec hheld htarget => exec_remoteDispatch_sent rfl hlive htk hok hspec hheld htarget,
    fun id tk d hlive htk hpeer hrun heng => ⟨exec_remoteFinish_done rfl hlive htk hpeer hrun heng,
      fun hleave st hst => exec_remoteFinish_failed rfl hlive htk hpeer hrun heng hleave hst,
      fun hleave st => exec_remoteFinish_revoked rfl hlive htk hpeer hrun heng hleave st⟩,
    fun dev rid desc region hlive hmember hother => ⟨exec_remoteTaskArrival_closed rfl hlive hmember hother,
      fun haccept hstays htype heng hempty =>
        exec_remoteTaskArrival_first rfl hlive hmember hother rfl haccept hstays htype heng hempty⟩,
    fun dev rid st id tk hlive hfirst => exec_remoteRevokeArrival_found rfl hlive hfirst⟩
  case left =>
    rw [leaveCluster_clu]
    exact ⟨rfl, rfl, rfl, rfl⟩

end Sys2Proof.Machine

/-! PROOFS. CELL_MIGRATE and the steps of a migration (chapter 13, R387 to R394). -/

namespace Sys2Proof.Machine

/-! ### CELL_MIGRATE (R387, R388, R393) -/

section Migrate
variable {i : CmdIn} {s : State}

section Start
variable (hrole : fld i.p 4 1 ≠ 2)
include hrole

theorem bodyMigrate_mayNot (hmay : s.migMay i.fn i.p = false) : bodyMigrate i s = (s, .done (.bare .notPermitted)) := by
  simp [bodyMigrate, hrole, hmay, refuse]

variable (hmay : s.migMay i.fn i.p = true)
include hmay

theorem bodyMigrate_bad (hbad : migBad i.p = true) : bodyMigrate i s = (s, .done (.bare .badParam)) := by
  simp [bodyMigrate, hrole, hmay, hbad, refuse]

variable (hgood : migBad i.p = false) {tl : Timeline} {k : Int} (htl : s.anchor? (fld i.p 6 2) = some tl)
  (hk : s.migFrame (fld i.p 6 2) (fld i.p 12 2) = some k) (halign : fld i.p 16 16 = 0 ∨ tl.toff = 0)
include hgood htl hk halign

/-- With a frame to switch at, the pages and then the resources decide (R388 items 4 and 5). -/
theorem bodyMigrate_inTime : bodyMigrate i s =
    if (migLanes i.p).any fun n => !(s.tlf n).sealed || (s.tlf n).copying.isSome then refuse s .pageNotSealed
    else if ((migLanes i.p).any fun n => (s.tlf n).pend.isSome) || (s.clu.migs.some? fun _ m => m.cell == fld i.p 6 2)
      || s.clu.migs.has (fld i.p 0 4) || 8 ≤ s.clu.migs.length then refuse s .noResource
    else (s.migStart i tl k, .later (.migrate (fld i.p 0 4))) := by
  have haligned : (fld i.p 16 16 != 0 && tl.toff != 0) = false := by
    rcases halign with h | h <;> simp [h]
  simp only [bodyMigrate, hrole, hmay, hgood, htl, hk, haligned]
  simp

theorem bodyMigrate_unsealed (h : ∃ n ∈ migLanes i.p, (s.tlf n).sealed = false ∨ (s.tlf n).copying ≠ none) :
    bodyMigrate i s = (s, .done (.bare .pageNotSealed)) := by
  have hany : ((migLanes i.p).any fun n => !(s.tlf n).sealed || (s.tlf n).copying.isSome) = true := by
    simpa [Option.isSome_iff_ne_none] using h
  rw [bodyMigrate_inTime hrole hmay hgood htl hk halign, if_pos hany, refuse]

variable (hsealed : ∀ n ∈ migLanes i.p, (s.tlf n).sealed = true ∧ (s.tlf n).copying = none)
include hsealed

omit hrole hmay hgood htl hk halign in
theorem any_unsealed_eq_false : ((migLanes i.p).any fun n => !(s.tlf n).sealed || (s.tlf n).copying.isSome) = false := by
  simpa using hsealed

theorem bodyMigrate_pending (hpend : ∃ n ∈ migLanes i.p, (s.tlf n).pend ≠ none) :
    bodyMigrate i s = (s, .done (.bare .noResource)) := by
  have hany : ((migLanes i.p).any fun n => (s.tlf n).pend.isSome) = true := by
    simpa [Option.isSome_iff_ne_none] using hpend
  rw [bodyMigrate_inTime hrole hmay hgood htl hk halign, any_unsealed_eq_false hsealed]
  simp [hany, refuse]

/-- The migration that a CELL_MIGRATE starts. -/
def startedMig (i : CmdIn) (k : Int) : Mig :=
  ⟨fld i.p 4 1 == 0, fld i.p 6 2, fld i.p 8 2, fld i.p 10 2, fld i.p 12 2, k, fld i.p 16 16, migRanges i.p, .pairing, 0, false, i.id⟩

/-- The switches of its lanes are pending, and the migration is listed. -/
def State.migListed (s : State) (i : CmdIn) (k : Int) : State :=
  ((migLanes i.p).foldl (fun s n => s.modTlf n fun x => { x with pend := some ⟨k, sfnOf 0 k, i.id⟩ }) s).modClu fun c =>
    { c with migs := c.migs.set (fld i.p 0 4) (startedMig i k) }

omit hrole hmay hgood htl hk halign hsealed in
/-- Only the source tells the other device. -/
theorem migStart_eq : s.migStart i tl k = if fld i.p 4 1 = 0
    then (s.migListed i k).emit (.peerMsg (fld i.p 10 2) (.pair (fld i.p 0 4) (fld i.p 6 2) (fld i.p 8 2) tl.num tl.toff tl.sfnBase
      (fld i.p 12 2)))
    else s.migListed i k := by
  simp only [State.migStart, beq_iff_eq]
  rfl

theorem bodyMigrate_starts (hpend : ∀ n ∈ migLanes i.p, (s.tlf n).pend = none)
    (hcell : (s.clu.migs.some? fun _ m => m.cell == fld i.p 6 2) = false) (hid : s.clu.migs.has (fld i.p 0 4) = false)
    (hroom : s.clu.migs.length < 8) : bodyMigrate i s = (if fld i.p 4 1 = 0
      then (s.migListed i k).emit (.peerMsg (fld i.p 10 2) (.pair (fld i.p 0 4) (fld i.p 6 2) (fld i.p 8 2) tl.num tl.toff tl.sfnBase
        (fld i.p 12 2)))
      else s.migListed i k, .later (.migrate (fld i.p 0 4))) := by
  have hnone : ((migLanes i.p).any fun n => (s.tlf n).pend.isSome) = false := by simpa using hpend
  rw [bodyMigrate_inTime hrole hmay hgood htl hk halign, any_unsealed_eq_false hsealed, ← migStart_eq]
  simp [hnone, hcell, hid, hroom]

end Start

section Cancel
variable {m : Mig} (hrole : fld i.p 4 1 = 2) (hm : s.mig? (fld i.p 0 4) = some m)
include hrole hm

theorem bodyMigrate_cancels (hpast : m.past = false) (howns : s.ownsCell i.fn m.cell = true) :
    bodyMigrate i s = (s.migAbort (fld i.p 0 4) m 4, .done (.ok (zeros 16))) := by
  simp [bodyMigrate, hrole, hm, hpast, howns, ok]

theorem bodyMigrate_tooLate (hpast : m.past = true) : bodyMigrate i s = (s, .done (.bare .notPermitted)) := by
  simp [bodyMigrate, hrole, hm, hpast, refuse]

end Cancel
end Migrate

/-! ### The steps (R389 to R394) -/

section Steps
variable {t id : Nat} {s u : State} (hu : s.advance t = u) (hlive : u.stopped = false) {m : Mig} (hm : u.mig? id = some m)
include hu hlive hm

theorem exec_migPair_answered {cell peerCell num : Nat} {toff : Int} {base sfn : Nat} (hside : m.source = false)
    (hstage : m.stage = .pairing) : exec (.migPair t id m.dev cell peerCell num toff base sfn) s = .next (
      if u.migAt m 5000 then u.migAbort id m 1 else if m.cell == peerCell && m.peerCell == cell && m.sfn == sfn
          && (u.anchor? m.cell).any (fun tl => tl.num == num && tl.toff == toff && tl.sfnBase == base)
      then (u.modMig id fun m => { m with stage := .copying }).emit (.peerMsg m.dev (.readyToCopy id)) else u.migAbort id m 6) := by
  change Host.Outcome.next (doMigPair t id m.dev cell peerCell num toff base sfn s) = _
  simp only [doMigPair, hu, hlive, hm, hside, hstage]
  simp

theorem exec_migReadyToCopy_source (hside : m.source = true) (hstage : m.stage = .pairing) (htime : u.migAt m 5000 = false) :
    exec (.migReadyToCopy t id) s = .next (match u.precopy id m m.ranges with
      | some w => w.modMig id fun m' => { m' with stage := .copying, copiedKib := (m.ranges.map fun r => r.2.2.1).sum / 1024 }
      | none => u.migAbort id m 5) := by
  change Host.Outcome.next (doMigReadyToCopy t id s) = _
  simp only [doMigReadyToCopy, hu, hlive, hm, hside, hstage, htime]
  rcases u.precopy id m m.ranges with _ | w <;> rfl

theorem exec_migPrecopyDone_source (hside : m.source = true) (hstage : m.stage = .copying) :
    exec (.migPrecopyDone t id) s = .next (u.modMig id fun m => { m with stage := .ready }) := by
  change Host.Outcome.next (doMigPrecopyDone t id s) = _
  simp [doMigPrecopyDone, hu, hlive, hm, hside, hstage]

theorem exec_migPrecopyDone_target (hside : m.source = false) (hstage : m.stage = .copying) (htime : u.migAt m 2000 = false)
    (hsealed : (maskBits m.lanes 128).all (fun n => (u.tlf n).sealed) = true) :
    exec (.migPrecopyDone t id) s = .next ((u.modMig id fun m => { m with stage := .ready }).emit (.peerMsg m.dev (.ready id))) := by
  change Host.Outcome.next (doMigPrecopyDone t id s) = _
  simp only [doMigPrecopyDone, hu, hlive, hm, hside, hstage, htime, hsealed]
  simp

section Commit
variable (hside : m.source = true) (htime : u.migAt m 1500 = true)
include hside htime

theorem exec_migCommit_ready (hstage : m.stage = .ready) :
    exec (.migCommit t id) s = .next ((u.modMig id fun m => { m with stage := .commitSent }).emit (.peerMsg m.dev (.commit id))) := by
  change Host.Outcome.next (doMigCommit t id s) = _
  simp [doMigCommit, hu, hlive, hm, hside, htime, hstage]

theorem exec_migCommit_copying (hstage : m.stage = .copying) : exec (.migCommit t id) s = .next (u.migAbort id m 2) := by
  change Host.Outcome.next (doMigCommit t id s) = _
  simp [doMigCommit, hu, hlive, hm, hside, htime, hstage]

end Commit

theorem exec_commitArrival_acknowledged (hside : m.source = false) (hstage : m.stage = .ready) (htime : u.migAt m 1000 = false) :
    exec (.commitArrival t id) s = .next ((u.modMig id fun m => { m with stage := .acked }).emit (.peerMsg m.dev (.commitAck id))) := by
  change Host.Outcome.next (doCommitArrival t id s) = _
  simp [doCommitArrival, hu, hlive, hm, hside, hstage, htime]

theorem exec_migCommitAck_inTime (hside : m.source = true) (hstage : m.stage = .commitSent) (htime : u.migAt m 1000 = false) :
    exec (.migCommitAck t id) s = .next (u.modMig id fun m => { m with stage := .acked }) := by
  change Host.Outcome.next (doMigCommitAck t id s) = _
  simp [doMigCommitAck, hu, hlive, hm, hside, hstage, htime]

section CommitPoint
variable (htime : u.migAt m 1000 = true)
include htime

theorem exec_migCommitPoint_acked (hstage : m.stage = .acked) : exec (.migCommitPoint t id) s
    = .next ((u.modMig id fun m => { m with stage := .committed }).post (u.cellOwner m.cell) 0x0503 1 (m.cell + 4096 * b2n (!m.source))) := by
  change Host.Outcome.next (doMigCommitPoint t id s) = _
  simp [doMigCommitPoint, hu, hlive, hm, htime, hstage, Mig.past]

theorem exec_migCommitPoint_unacked (hack : m.stage ≠ .acked) (hpast : m.past = false) (hpair : m.stage ≠ .pairing)
    (hcopy : m.stage ≠ .copying) : exec (.migCommitPoint t id) s = .next (u.migAbort id m 3) := by
  change Host.Outcome.next (doMigCommitPoint t id s) = _
  simp only [doMigCommitPoint, hu, hlive, hm, htime, hpast]
  split <;> simp_all

end CommitPoint

section Switch
variable (hstage : m.stage = .committed) (htime : u.migAt m 0 = true)
include hstage htime

theorem exec_migSwitch_source (hside : m.source = true) :
    exec (.migSwitch t id) s = .next (u.modMig id fun m => { m with stage := .switched }) := by
  change Host.Outcome.next (doMigSwitch t id s) = _
  simp [doMigSwitch, hu, hlive, hm, hstage, htime, hside]

theorem exec_migSwitch_target (hside : m.source = false) (hlost : m.lost = false) :
    let w := u.modMig id fun m => { m with stage := .switched }
    exec (.migSwitch t id) s = .next { w with cells := w.cells.upd m.cell fun c => { c with st := .service, failed := false } } := by
  change Host.Outcome.next (doMigSwitch t id s) = _
  simp [doMigSwitch, hu, hlive, hm, hstage, htime, hside, hlost]

end Switch

section Final
variable (hstage : m.stage = .switched)
include hstage

theorem exec_migFinal_target (hside : m.source = false) : exec (.migFinal t id) s = .next (u.migEnd id m .success 0) := by
  change Host.Outcome.next (doMigFinal t id s) = _
  simp [doMigFinal, hu, hlive, hm, hstage, hside]

variable (hside : m.source = true)
include hside

theorem exec_migFinal_waits (htasks : (u.car.tasks.some? fun _ tk => tk.cell == m.cell && tk.origin.isNone) = true) :
    exec (.migFinal t id) s = .next u := by
  change Host.Outcome.next (doMigFinal t id s) = _
  simp [doMigFinal, hu, hlive, hm, hstage, hside, htasks]

theorem exec_migFinal_source (hlost : m.lost = false)
    (htasks : (u.car.tasks.some? fun _ tk => tk.cell == m.cell && tk.origin.isNone) = false) :
    let w : State := { u with cells := u.cells.upd m.cell fun c => { c with st := .hibernated } }
    exec (.migFinal t id) s = .next ((w.emit (.peerMsg m.dev (.final id))).migEnd id m .success 0) := by
  change Host.Outcome.next (doMigFinal t id s) = _
  simp [doMigFinal, hu, hlive, hm, hstage, hside, htasks, hlost]

end Final

section Abort

theorem exec_migAbort_told (hpast : m.past = false) {cause : Nat} (hlow : 1 ≤ cause) (hhigh : cause ≤ 6) :
    exec (.migAbort t id (some cause)) s = .next (u.migAbort id m cause) := by
  change Host.Outcome.next (doMigAbort t id (some cause) s) = _
  simp [doMigAbort, hu, hlive, hm, hpast, hlow, hhigh]

theorem exec_migAbort_past (hpast : m.past = true) (told : Option Nat) : exec (.migAbort t id told) s = .next u := by
  change Host.Outcome.next (doMigAbort t id told s) = _
  simp [doMigAbort, hu, hlive, hm, hpast]

theorem exec_migAbort_unpaired (hstage : m.stage = .pairing) (htime : u.migAt m 5000 = true) :
    exec (.migAbort t id none) s = .next (u.migAbort id m 1) := by
  change Host.Outcome.next (doMigAbort t id none s) = _
  simp [doMigAbort, hu, hlive, hm, hstage, htime, Mig.past]

end Abort
end Steps

/-- Settles O49. That a commit point without COMMIT or COMMIT_ACK aborts with cause 3, and that READY_TO_COPY copies the ranges
as a whole, are the model's choices (log entry 92). -/
theorem migration : Obligations.Migration := by
  unfold Obligations.Migration
  intro c s fl id
  refine ⟨fun h hrole => ⟨fun hmay => exec_done rfl h (bodyMigrate_mayNot hrole hmay),
      fun hmay hbad => exec_done rfl h (bodyMigrate_bad hrole hmay hbad),
      fun tl k hmay hgood htl hk halign => ⟨
        fun hopen => exec_done rfl h (bodyMigrate_unsealed hrole hmay hgood htl hk halign hopen),
        fun hsealed hpend => exec_done rfl h (bodyMigrate_pending hrole hmay hgood htl hk halign hsealed hpend),
        fun hlanes hcell hid hroom => ?starts⟩⟩,
    fun h hrole => ⟨fun m hm hpast howns => exec_done rfl h (bodyMigrate_cancels hrole hm hpast howns),
      fun m hm hpast => exec_done rfl h (bodyMigrate_tooLate hrole hm hpast)⟩,
    fun hlive m hm => ⟨
      fun cell peerCell num toff base sfn hside hstage => exec_migPair_answered rfl hlive hm hside hstage,
      fun hside hstage htime => ?ready,
      exec_migPrecopyDone_source rfl hlive hm, exec_migPrecopyDone_target rfl hlive hm,
      fun hside htime => ⟨exec_migCommit_ready rfl hlive hm hside htime, exec_migCommit_copying rfl hlive hm hside htime⟩,
      exec_commitArrival_acknowledged rfl hlive hm, exec_migCommitAck_inTime rfl hlive hm,
      fun htime => ⟨exec_migCommitPoint_acked rfl hlive hm htime, exec_migCommitPoint_unacked rfl hlive hm htime⟩,
      exec_migSwitch_source rfl hlive hm, exec_migSwitch_target rfl hlive hm,
      exec_migFinal_target rfl hlive hm,
      fun hstage hside hlost => ⟨exec_migFinal_waits rfl hlive hm hstage hside, exec_migFinal_source rfl hlive hm hstage hside hlost⟩,
      fun hpast cause => exec_migAbort_told rfl hlive hm hpast, exec_migAbort_past rfl hlive hm,
      exec_migAbort_unpaired rfl hlive hm⟩,
    rfl, rfl, rfl, rfl, rfl, rfl⟩
  case starts =>
    exact exec_later rfl h (bodyMigrate_starts (i := fl.input c) (s := s.advance c.t) hrole hmay hgood htl hk halign
      (fun n hn => ⟨(hlanes n hn).1, (hlanes n hn).2.1⟩) (fun n hn => (hlanes n hn).2.2) hcell hid hroom)
  case ready =>
    refine (exec_migReadyToCopy_source rfl hlive hm hside hstage htime).trans ?_
    rcases (s.advance c.t).precopy id m m.ranges with _ | u <;> rfl

end Sys2Proof.Machine

/-! PROOFS. A one-run transfer of a BDMA channel between ranges of HBM (chapter 15, R428, R433, R441; chapter 16, R458). -/

namespace Sys2Proof.Machine

/-! ### The pieces of a run (R432) -/

/-- The list of bytes written is written part by part. -/
theorem putBytes_append (m : Tab Byte) (a : Nat) (xs ys : List Byte) :
    m.putBytes a (xs ++ ys) = (m.putBytes a xs).putBytes (a + xs.length) ys := by
  induction xs generalizing m a with
  | nil => rfl
  | cons x xs ih =>
    rw [List.cons_append, Tab.putBytes, ih, Tab.putBytes, List.length_cons, Nat.add_assoc, Nat.add_comm 1]

/-- The length of the first piece of a run of `n` bytes at `a`. -/
def firstPiece (a n : Nat) : Nat := min n (64 - a % 64)

theorem firstPiece_pos {a n : Nat} (h : 0 < n) : 0 < firstPiece a n := by unfold firstPiece; omega
theorem firstPiece_le (a n : Nat) : firstPiece a n ≤ n := Nat.min_le_left ..

theorem alignedPieces_zero (f a : Nat) : alignedPieces f a 0 = [] := by cases f <;> rfl

theorem alignedPieces_pos {f a n : Nat} (h : 0 < n) :
    alignedPieces (f + 1) a n = (a, firstPiece a n) :: alignedPieces f (a + firstPiece a n) (n - firstPiece a n) := by
  rw [alignedPieces, if_neg h.ne']
  rfl

/-! ### Clean memory of HBM -/

/-- A byte range of HBM that function 0 may use, not retired and without a mark. -/
structure State.CleanHbm (s : State) (a n : Nat) : Prop where
  owns : s.ownsHbm 0 a n = true
  alive : s.retiredIn a n = false
  clean : s.marksIn a n = []

theorem spanAt_hbm {a : Nat} (h : a < hbmEnd) : spanAt a = ⟨.hbm, 0, hbmEnd⟩ := by rw [spanAt, if_pos h]

theorem real_own {s : State} {a : Nat} (h : a < peerBase) : s.real a = a := by
  rw [State.real, if_pos (by simp only [h, decide_true, Bool.true_or])]

theorem overlaps_of_within {a n b m x y : Nat} (hin : within b m a n = true) (h : overlaps b m x y = true) : overlaps a n x y = true := by
  simp only [overlaps, within, Bool.and_eq_true, decide_eq_true_eq] at hin h ⊢
  omega

theorem overlaps_below {a n x y : Nat} (h : a + n ≤ x) : overlaps a n x y = false := by
  simp only [overlaps, Bool.and_eq_false_iff, decide_eq_false_iff_not]
  omega

namespace State.CleanHbm
variable {s : State} {a n : Nat} (h : s.CleanHbm a n)
include h

theorem below : a + n ≤ hbmCarillon := by
  have := h.owns
  simp only [State.ownsHbm, if_true, Bool.and_eq_true, decide_eq_true_eq] at this
  exact this.1

theorem below_peer : a + n ≤ peerBase := h.below.trans (by decide)

theorem start_lt (hn : 0 < n) : a < hbmCarillon := Nat.lt_of_lt_of_le (by omega) h.below

theorem sub {b m : Nat} (hm : 0 < m) (hin : within b m a n = true) : s.CleanHbm b m := by
  have hwithin := hin
  simp only [within, Bool.and_eq_true, decide_eq_true_eq] at hwithin
  obtain ⟨hlow, hhigh⟩ := hwithin
  have hbelow := h.below
  have hmono (x y : Nat) (hno : overlaps a n x y = false) : overlaps b m x y = false := by
    rw [Bool.eq_false_iff] at hno ⊢
    exact fun hyes => hno (overlaps_of_within hin hyes)
  obtain ⟨howns, halive, hclean⟩ := h
  refine ⟨?_, ?_, ?_⟩
  · simp only [State.ownsHbm, if_true, Bool.and_eq_true, decide_eq_true_eq, Bool.not_eq_true', State.heldByOther, Tab.some?,
      List.any_eq_false, Bool.not_eq_true] at howns ⊢
    exact ⟨hhigh.trans hbelow, fun e he => hmono _ _ (howns.2 e he)⟩
  · simp only [State.retiredIn, Tab.some?, Bool.or_eq_false_iff, List.any_eq_false, Bool.not_eq_true] at halive ⊢
    exact ⟨fun e he => hmono _ _ (halive.1 e he), fun e he => hmono _ _ (halive.2 e he)⟩
  · have hpeer : hbmCarillon ≤ peerBase := by decide
    simp only [State.marksIn, Tab.keep, List.filter_eq_nil_iff, Bool.not_eq_true, real_own (s := s) (show a < peerBase by omega),
      real_own (s := s) (show b < peerBase by omega)] at hclean ⊢
    exact fun e he => hmono _ _ (hclean e he)

theorem access (hn : 0 < n) {w : Who} (hfn : w.fn = some 0) (wr : Bool) : s.access w a n wr = .success := by
  have hstart := h.start_lt hn
  have hbelow := h.below
  obtain ⟨howns, halive, -⟩ := h
  have hcarillon : hbmCarillon = 0xBE0000000 := rfl
  have hreal : s.real a = a := real_own (by rw [peerBase]; omega)
  have hspan : spanAt a = ⟨.hbm, 0, hbmEnd⟩ := spanAt_hbm (by rw [hbmEnd]; omega)
  have hasleep : s.asleepAt a = false := by simp [State.asleepAt, show ¬ 0x100000000000 ≤ a by omega]
  have hdump : overlaps a n hbmDump (hbmEnd - hbmDump) = false := overlaps_below (by rw [hbmDump]; omega)
  have hcar : overlaps a n hbmCarillon (hbmDump - hbmCarillon) = false := overlaps_below hbelow
  have hroom : (decide (n = 0) || decide (hbmEnd < a + n)) = false :=
    Bool.or_eq_false_iff.mpr ⟨decide_eq_false hn.ne', decide_eq_false (by rw [hbmEnd]; omega)⟩
  have hfence : s.placeFenced .hbm = false := rfl
  simp only [State.access, hreal, hspan, hasleep, hroom, halive, hfence, hdump, hcar, hfn, howns]
  simp

theorem write {w : Who} {bs : List Byte} (hbs : bs.length = n) (hn : 0 < n) (hmigs : s.clu.migs = []) (hlost : s.fault.lost = []) :
    s.write w a bs false = { s with mem := { s.mem with mem := s.mem.mem.putBytes a bs } } := by
  have hown : a < peerBase := (h.start_lt hn).trans (by decide)
  have hline : a < regBase 13 := (h.start_lt hn).trans (by decide)
  have hclean : s.marksIn a bs.length = [] := hbs ▸ h.clean
  have hnote : s.noteLines w a bs.length = s := by simp [State.noteLines, hline]
  rw [write_eq_writeOwn w bs false (real_own hown) hown hmigs]
  simp [State.writeOwn, hnote, hclean, hlost]

end State.CleanHbm

/-! ### Reading and writing a run (R428, R458) -/

section Run
variable {w : Who} (hfn : w.fn = some 0) (htask : w.task = none) {env : DmaEnv}

/-- The bytes of a run, in order and without poison. -/
def State.runBytes (s : State) (a n : Nat) : List (Byte × Bool) := (List.range n).map fun i => (s.byteAt (a + i), false)

theorem runBytes_add (s : State) (a k m : Nat) : s.runBytes a (k + m) = s.runBytes a k ++ s.runBytes (a + k) m := by
  simp [State.runBytes, List.range_add, Nat.add_assoc, Function.comp_def]

/-- What a run's pieces give when they are read one after another. -/
theorem flatMap_pieces {s : State} {f a n : Nat} (h : s.CleanHbm a n) (hf : n < f) :
    ((alignedPieces f a n).flatMap fun p => (s.bytesAt p.1 p.2).map fun b => (b, s.poisonIn p.1 p.2)) = s.runBytes a n := by
  induction f generalizing a n with
  | zero => omega
  | succ f ih =>
    rcases Nat.eq_zero_or_pos n with rfl | hn
    · rfl
    have hpos := firstPiece_pos (a := a) hn
    have hle := firstPiece_le a n
    generalize hk : firstPiece a n = k at hpos hle
    have hfirst : s.CleanHbm a k := h.sub hpos (by simp [within, hle])
    have hreal : s.real a = a := real_own ((h.start_lt hn).trans (by decide))
    have hpiece : ((s.bytesAt a k).map fun b => (b, s.poisonIn a k)) = s.runBytes a k := by
      simp [State.bytesAt, State.poisonIn, hfirst.clean, hreal, State.runBytes]
    rw [alignedPieces_pos hn, List.flatMap_cons, hk, hpiece]
    conv_rhs => rw [← Nat.add_sub_of_le hle, runBytes_add]
    congr 1
    rcases Nat.eq_zero_or_pos (n - k) with hz | hrest
    · rw [hz, alignedPieces_zero]; rfl
    · exact ih (h.sub hrest (by simp [within]; omega)) (by omega)

/-- Where one run stands: the state it has reached, with the bytes that it has written. -/
def Xfer.wrote (x : Xfer) (pow : PowerSt) (b : Nat) (bs : List Byte) : Xfer :=
  { x with s := { x.s with pow := pow, mem := { x.s.mem with mem := x.s.mem.mem.putBytes b bs } }, bytes := x.bytes + bs.length }

include hfn htask

theorem xferRead_clean {x : Xfer} {a n : Nat} (h : x.s.CleanHbm a n) (hn : 0 < n) :
    ∃ pow, xferRead w env x a n = ({ x with s := { x.s with pow := pow } }, x.s.runBytes a n) := by
  obtain ⟨pow, hpow⟩ := clockFor_onlyPow x.s a
  refine ⟨pow, ?_⟩
  have hown : a < hbmCarillon := h.start_lt hn
  have hread : (x.s.clockFor a).logRead w a n = { x.s with pow := pow } := by
    have hclean : (x.s.clockFor a).marksIn a n = [] := by rw [hpow]; exact h.clean
    rw [State.logRead, hclean, List.foldl_nil, hpow]
  simp only [xferRead, real_own (s := x.s) (hown.trans (by decide)), spanAt_hbm (hown.trans (by decide)), h.access hn hfn, htask,
    Option.bind_none, flatMap_pieces h (Nat.lt_succ_self n), hread]

theorem xferPiece_clean {x : Xfer} {b : Nat} {bs : List (Byte × Bool)} (hok : x.fail = none) (h : x.s.CleanHbm b bs.length)
    (hn : 0 < bs.length) (hpoison : ∀ e ∈ bs, e.2 = false) (hmigs : x.s.clu.migs = []) (hlost : x.s.fault.lost = []) :
    ∃ pow, xferPiece w env x b bs = x.wrote pow b (bs.map Prod.fst) := by
  obtain ⟨pow, hpow⟩ := clockFor_onlyPow x.s b
  refine ⟨pow, ?_⟩
  have hown : b < hbmCarillon := h.start_lt hn
  have hany : bs.any Prod.snd = false := by simpa using hpoison
  have hclock : ({ x.s with pow := pow } : State).CleanHbm b bs.length := ⟨h.owns, h.alive, h.clean⟩
  have hwrite := hclock.write (w := w) (bs := bs.map Prod.fst) (List.length_map _) hn hmigs hlost
  simp only [xferPiece, hok, Option.isSome_none, real_own (s := x.s) (hown.trans (by decide)), spanAt_hbm (hown.trans (by decide)), htask,
    List.length_map, h.access hn hfn, hany, hpow, hwrite, Bool.or_false, Xfer.wrote]
  rfl

theorem xferWrite_clean {f b : Nat} {bs : List (Byte × Bool)} {x : Xfer} (hok : x.fail = none) (h : x.s.CleanHbm b bs.length)
    (hf : bs.length < f) (hpoison : ∀ e ∈ bs, e.2 = false) (hmigs : x.s.clu.migs = []) (hlost : x.s.fault.lost = []) :
    ∃ pow, xferWrite w env (alignedPieces f b bs.length) x bs = x.wrote pow b (bs.map Prod.fst) := by
  induction f generalizing b bs x with
  | zero => omega
  | succ f ih =>
    rcases Nat.eq_zero_or_pos bs.length with hz | hn
    · rw [List.length_eq_zero_iff.mp hz]
      exact ⟨x.s.pow, rfl⟩
    have hpos := firstPiece_pos (a := b) hn
    have hle := firstPiece_le b bs.length
    rw [alignedPieces_pos hn]
    generalize firstPiece b bs.length = k at hpos hle
    have htake : (bs.take k).length = k := List.length_take_of_le hle
    have hdrop : (bs.drop k).length = bs.length - k := List.length_drop
    have hfirst : x.s.CleanHbm b (bs.take k).length := by
      rw [htake]
      exact h.sub hpos (by simp [within, hle])
    obtain ⟨pow, hpiece⟩ := xferPiece_clean hfn htask (env := env) hok hfirst (by omega)
      (fun e he => hpoison e (List.mem_of_mem_take he)) hmigs hlost
    rw [xferWrite, hpiece]
    have hjoin (pow' : PowerSt) : (x.wrote pow b ((bs.take k).map Prod.fst)).wrote pow' (b + k) ((bs.drop k).map Prod.fst)
        = x.wrote pow' b (bs.map Prod.fst) := by
      have hbytes : bs.map Prod.fst = (bs.take k).map Prod.fst ++ (bs.drop k).map Prod.fst := by
        rw [← List.map_append, List.take_append_drop]
      have hput := putBytes_append x.s.mem.mem b ((bs.take k).map Prod.fst) ((bs.drop k).map Prod.fst)
      rw [List.length_map, htake] at hput
      have hlen : x.bytes + k + (bs.length - k) = x.bytes + bs.length := by omega
      simp only [Xfer.wrote, List.length_map, htake, hdrop, ← hput, ← hbytes, hlen]
    rcases Nat.eq_zero_or_pos (bs.length - k) with hz | hrest
    · refine ⟨pow, ?_⟩
      have hempty : bs.drop k = [] := List.length_eq_zero_iff.mp (hdrop.trans hz)
      rw [hz, alignedPieces_zero, xferWrite, ← hjoin pow, hempty]
      rfl
    · have hsub : x.s.CleanHbm (b + k) (bs.drop k).length := by
        rw [hdrop]
        exact h.sub hrest (by simp [within]; omega)
      obtain ⟨pow', hrun⟩ := ih (x := x.wrote pow b ((bs.take k).map Prod.fst)) (b := b + k) (bs := bs.drop k) hok
        ⟨hsub.owns, hsub.alive, hsub.clean⟩ (by omega) (fun e he => hpoison e (List.mem_of_mem_drop he)) hmigs hlost
      rw [hdrop] at hrun
      exact ⟨pow', hrun.trans (hjoin pow')⟩

end Run

/-! ### The end of a transfer of one run (R433, R441) -/

section Transfer
variable {s : State} {blk k : Nat}

theorem bdmaShare_alone (h : ∀ j, j < 32 → j ≠ k → (s.chan (.bdma blk j)).busy = false) : s.bdmaShare blk k = s := by
  have hnone : ((List.range 32).any fun c => c != k && (s.chan (.bdma blk c)).busy) = false := by
    simpa [List.any_eq_false] using h
  rw [State.bdmaShare, if_neg (by simp [hnone])]

/-- A transfer with both counts 1 is one run (R428). -/
theorem dRuns_one {d : List Byte} (h1 : dCount1 d = 1) (h2 : dCount2 d = 1) : dRuns d = [(dSrc d, dDst d, dRun d)] := by
  simp [dRuns, h1, h2]

theorem dropRuns_zero (rs : List (Nat × Nat × Nat)) : dropRuns 0 rs = rs := by
  cases rs <;> rfl

theorem chanWho_function {fn : Nat} (howner : (s.chan (.bdma blk k)).owner = fn) (hfn : fn < 8) :
    s.chanWho (.bdma blk k) = ⟨initId (blk / 4) (blk % 4) (16 + k), some fn, false, none⟩ := by
  rw [State.chan] at howner
  simp [State.chanWho, howner, hfn]

/-- The bytes of a range, as the memory holds them. -/
def State.rangeBytes (s : State) (a n : Nat) : List Byte := (List.range n).map fun i => s.byteAt (a + i)

theorem runBytes_fst (a n : Nat) : (s.runBytes a n).map Prod.fst = s.rangeBytes a n := by
  simp [State.runBytes, State.rangeBytes, Function.comp_def]

section Run
variable {env : DmaEnv} {a b n : Nat} (ha : s.CleanHbm a n) (hb : s.CleanHbm b n) (hn : 0 < n)
  (hmigs : s.clu.migs = []) (hlost : s.fault.lost = [])
include ha hb hn hmigs hlost

/-- One run, read whole and then written whole. -/
theorem xferRuns_one {w : Who} (hfn : w.fn = some 0) (htask : w.task = none) {data : List Byte} {poison : Bool} :
    ∃ pow, xferRuns w env [(a, b, n)] ⟨s, data, 0, poison, none, none, []⟩
      = (⟨s, data, 0, poison, none, none, []⟩ : Xfer).wrote pow b (s.rangeBytes a n) := by
  obtain ⟨pow, hread⟩ := xferRead_clean hfn htask (env := env) (x := ⟨s, data, 0, poison, none, none, []⟩) ha hn
  have hlen : (s.runBytes a n).length = n := by simp [State.runBytes]
  have hb' : ({ s with pow := pow } : State).CleanHbm b (s.runBytes a n).length := by
    rw [hlen]
    exact ⟨hb.owns, hb.alive, hb.clean⟩
  obtain ⟨pow', hwrite⟩ := xferWrite_clean hfn htask (env := env) (f := n + 1) (x := ⟨{ s with pow := pow }, data, 0, poison, none, none, []⟩)
    (bs := s.runBytes a n) rfl hb' (by omega) (by simp [State.runBytes]) hmigs hlost
  rw [hlen, runBytes_fst] at hwrite
  refine ⟨pow', ?_⟩
  simp only [xferRuns, xferFetch, hread, List.isEmpty_nil]
  exact hwrite

theorem runXfer_one {ch : DmaChan} (hch : s.chan (.bdma blk k) = ch) (howner : ch.owner = 0) (hmoved : ch.moved = 0) (hbuf : ch.buf = [])
    (h1 : dCount1 ch.active = 1) (h2 : dCount2 ch.active = 1) (hshares : dShares ch.active = false)
    (hsrc : dSrc ch.active = a) (hdst : dDst ch.active = b) (hrun : dRun ch.active = n) :
    ∃ pow, s.runXfer (.bdma blk k) env
      = (⟨s, env.data, 0, ch.poisonSeen, none, none, []⟩ : Xfer).wrote pow b (s.rangeBytes a n) := by
  have hwho := chanWho_function (s := s) (by rw [hch, howner]) (show 0 < 8 by decide)
  obtain ⟨pow, hruns⟩ := xferRuns_one (env := { env with lateAck := env.lateAck && !dWaitAck ch.active }) ha hb hn hmigs hlost
    (w := s.chanWho (.bdma blk k)) (by rw [hwho]) (by rw [hwho]) (data := env.data) (poison := ch.poisonSeen)
  refine ⟨pow, ?_⟩
  simp only [State.runXfer, hch, hshares, hmoved, hbuf, dropRuns_zero, dRuns_one h1 h2, hsrc, hdst, hrun]
  exact hruns

end Run

/-- An entry that a change leaves other than the reset values is read back. -/
theorem chan_modChan_bdma {f : DmaChan → DmaChan} (h : f (s.chan (.bdma blk k)) ≠ DmaChan.reset) :
    (s.modChan (.bdma blk k) f).chan (.bdma blk k) = f (s.chan (.bdma blk k)) := Tab.get_mod_listed h

/-- What the completion leaves in a channel's registers. -/
def DmaChan.ended (ch : DmaChan) (st : Status) : DmaChan :=
  { ch with busy := false, done := true, status := st.code, arm := false, cmd := none, owner := 255, moved := 0, buf := [] }

theorem ended_ne_reset (ch : DmaChan) (st : Status) : ch.ended st ≠ DmaChan.reset := fun h => nomatch congrArg DmaChan.done h

/-- A channel for which no command waits ends its transfer: only the registers and the buffer of its BDMA change. -/
theorem chanDone_unwatched {st : Status} (harm : (s.chan (.bdma blk k)).arm = false) (hcmd : (s.chan (.bdma blk k)).cmd = none)
    (hnext : (s.chan (.bdma blk k)).cmdNext = none) :
    ∃ m g, s.chanDone (.bdma blk k) st = { s with bdma := m, bdmaEng := g }
      ∧ (s.chanDone (.bdma blk k) st).chan (.bdma blk k)
        = { (s.chan (.bdma blk k)).ended st with cmdNext := none, ownerNext := 255 } := by
  have hdone : s.chanDone (.bdma blk k) st = ((s.modChan (.bdma blk k) fun ch => ch.ended st).leaveBuffer blk k).modChan (.bdma blk k)
      fun ch => { ch with cmdNext := none, ownerNext := 255 } := by
    simp only [State.chanDone, harm, hcmd, hnext, Bool.and_false]
    rfl
  rw [hdone]
  refine ⟨_, _, rfl, ?_⟩
  have hfirst : ((s.modChan (.bdma blk k) fun ch => ch.ended st).leaveBuffer blk k).chan (.bdma blk k)
      = (s.chan (.bdma blk k)).ended st := chan_modChan_bdma (f := fun ch => ch.ended st) (ended_ne_reset _ _)
  rw [chan_modChan_bdma, hfirst]
  rw [hfirst]
  exact fun h => nomatch congrArg DmaChan.done h

end Transfer

section End
variable {t blk k : Nat} {env : DmaEnv} {s u : State} (hu : s.advance t = u) (hlive : u.stopped = false)
  (hbusy : (u.chan (.bdma blk k)).busy = true) {x : Xfer} (hx : (u.othersShare (.bdma blk k)).runXfer (.bdma blk k) env = x)

/-- What a channel's registers show of a transfer that has come to its end, at an address where it failed or 0. -/
def DmaChan.counted (ch : DmaChan) (x : Xfer) (addr : Nat) : DmaChan :=
  { ch with bytesDone := x.bytes, poisonSeen := x.poison, faultAddr := addr }

include hu hlive hbusy hx

theorem exec_dmaTransferDone_success (hfail : x.fail = none) (hlate : x.late = none) : exec (.dmaTransferDone t (.bdma blk k) env) s
    = .next ((x.s.modChan (.bdma blk k) fun ch => ch.counted x 0).chanDone (.bdma blk k) .success) := by
  change Host.Outcome.next (doDmaTransferDone t (.bdma blk k) env s) = _
  delta doDmaTransferDone
  dsimp only
  simp only [hu, hlive, hbusy, hx, hfail, hlate]
  simp [DmaChan.counted]

theorem exec_dmaTransferDone_readFailed {st : Status} {a : Nat} (hfail : x.fail = some (st, a, true)) :
    exec (.dmaTransferDone t (.bdma blk k) env) s
      = .next (((x.s.modChan (.bdma blk k) fun ch => ch.counted x a).chanDone (.bdma blk k) st).stopSiblings blk k st a) := by
  change Host.Outcome.next (doDmaTransferDone t (.bdma blk k) env s) = _
  delta doDmaTransferDone
  dsimp only
  simp only [hu, hlive, hbusy, hx, hfail]
  simp [DmaChan.counted]

end End

/-! ### What the bytes of memory depend on -/

section Bytes
variable {s u : State}

theorem byteAt_hbm {a : Nat} (ha : a < hbmCarillon) (hlost : s.fault.lost = []) : s.byteAt a = s.mem.mem.get 0 a := by
  have hown : a < peerBase := ha.trans (by decide)
  have hgate : s.gateByte? a = none := by
    rw [State.gateByte?, if_pos]
    simp only [Bool.or_eq_true, decide_eq_true_eq]
    exact .inl (ha.trans (by decide))
  have hnot : s.lostAt a = none := by rw [State.lostAt, hlost]; rfl
  rw [State.byteAt, if_pos hown, hnot, hgate]
  rfl

theorem byteAt_congr {x : Nat} (hlost : s.fault.lost = []) (hlost' : u.fault.lost = []) (hcar : u.car = s.car) (htime : u.time = s.time)
    (hmem : u.mem.mem.get 0 x = s.mem.mem.get 0 x) : u.byteAt x = s.byteAt x := by
  have hnot (v : State) (h : v.fault.lost = []) : v.lostAt x = none := by rw [State.lostAt, h]; rfl
  have hgate : u.gateByte? x = s.gateByte? x := by rw [State.gateByte?, hcar, ← State.gateByte?]
  simp only [State.byteAt, hnot s hlost, hnot u hlost', hgate, htime, hmem]

end Bytes

/-- Settles O52. The run is read whole before its first piece is written, each piece is a plain write to unmarked memory, and the end
touches the channel alone. -/
theorem dmaCopies : Obligations.DmaCopies := by
  unfold Obligations.DmaCopies
  intro t blk k env s s₁ r ch a b n hlive hbusy harm hcmd hnext howner hmoved hbuf halone h1 h2 hn hshares hownsA hownsB haliveA haliveB
    hcleanA hcleanB hmigs hlost hwf
  have ha : s₁.CleanHbm a n := ⟨hownsA, haliveA, hcleanA⟩
  have hb : s₁.CleanHbm b n := ⟨hownsB, haliveB, hcleanB⟩
  obtain ⟨pow, hx⟩ := runXfer_one (env := env) ha hb hn hmigs hlost (rfl : s₁.chan r = ch) howner hmoved hbuf h1 h2 hshares rfl rfl rfl
  have hlen : (s₁.rangeBytes a n).length = n := by simp [State.rangeBytes]
  generalize hw : (⟨s₁, env.data, 0, ch.poisonSeen, none, none, []⟩ : Xfer).wrote pow b (s₁.rangeBytes a n) = x at hx
  have hbytes : x.bytes = n := by rw [← hw, Xfer.wrote, hlen, Nat.zero_add]
  have hchan : (x.s.modChan r fun c => c.counted x 0).chan r = ch.counted x 0 := by
    have hsame : x.s.chan r = ch := by rw [← hw]; rfl
    have hne : (fun c : DmaChan => c.counted x 0) (x.s.chan r) ≠ DmaChan.reset := by
      rw [hsame]
      intro h
      have hidle : ch.busy = false := congrArg DmaChan.busy h
      rw [hbusy] at hidle
      cases hidle
    rw [chan_modChan_bdma hne, hsame]
  obtain ⟨m, g, hend, hreg⟩ := chanDone_unwatched (st := .success) (congrArg DmaChan.arm hchan |>.trans harm)
    (congrArg DmaChan.cmd hchan |>.trans hcmd) (congrArg DmaChan.cmdNext hchan |>.trans hnext)
  have hshare : s₁.othersShare r = s₁ := bdmaShare_alone halone
  refine ⟨_, exec_dmaTransferDone_success rfl hlive hbusy (hshare ▸ hx) (by rw [← hw]; rfl) (by rw [← hw]; rfl), ?_⟩
  generalize hu : (x.s.modChan r fun c => c.counted x 0).chanDone r .success = u at hend hreg
  rw [hchan] at hreg
  have hu' : u = { s₁ with pow := pow, mem := { s₁.mem with mem := s₁.mem.mem.putBytes b (s₁.rangeBytes a n) }, bdma := m, bdmaEng := g } := by
    rw [hend, ← hw]
    rfl
  have hlost' : u.fault.lost = [] := by rw [hu', hlost]
  have hmem : u.mem.mem = s₁.mem.mem.putBytes b (s₁.rangeBytes a n) := by rw [hu']
  refine ⟨fun i hi => ?copied, fun x hx => ?kept, by rw [hreg]; rfl, by rw [hreg]; rfl, by rw [hreg]; rfl, by rw [hreg]; exact hbytes,
    by rw [hu'], by rw [hu'], by rw [hu'], by rw [hu']⟩
  case copied =>
    have hbelow := hb.below
    rw [byteAt_hbm (by omega) hlost', hmem, Tab.get_putBytes_in hwf (by omega)]
    simp [State.rangeBytes]
  case kept =>
    refine byteAt_congr hlost hlost' (by rw [hu']) (by rw [hu']) ?_
    rw [hmem, Tab.get_putBytes_out (by omega)]

end Sys2Proof.Machine

/-! PROOFS. The on-chip network and the Photometer (chapter 14, R399 to R424). -/

namespace Sys2Proof.Machine

/-! ### The Photometer's sets (R421) -/

theorem photo_onlySets (s : State) (k : Nat) (f : PhotoSet → PhotoSet) : ∃ m, s.photo k f = s.modNoc fun n => { n with sets := m } := by
  unfold State.photo
  split
  · exact ⟨_, rfl⟩
  · exact ⟨s.noc.sets, rfl⟩

theorem walkTo_photo (s : State) (k : Nat) (f : PhotoSet → PhotoSet) (blk dest : Nat) : (s.photo k f).walkTo blk dest = s.walkTo blk dest := by
  obtain ⟨m, hm⟩ := photo_onlySets s k f
  rw [hm]; rfl

theorem alts_photo (s : State) (k : Nat) (f : PhotoSet → PhotoSet) : (s.photo k f).noc.alts = s.noc.alts := by
  obtain ⟨m, hm⟩ := photo_onlySets s k f
  rw [hm]; rfl

theorem rsvs_photo (s : State) (k : Nat) (f : PhotoSet → PhotoSet) : (s.photo k f).noc.rsvs = s.noc.rsvs := by
  obtain ⟨m, hm⟩ := photo_onlySets s k f
  rw [hm]; rfl

/-! ### Routes and slots that Melvi picks (R402, R407) -/

theorem pickOf_mem {α : Type} {l : List α} {n : Nat} {x : α} (h : pickOf l n = some x) : x ∈ l := List.mem_of_getElem? h

section Routes
variable (avoid : Nat → Bool) (n blk dest : Nat)

/-- A route that was picked, and is not the empty one, is of the list that it was picked from. -/
theorem picked_mem {l : List (List Nat)} {k : Nat} (h : (pickOf l k).getD [] ≠ []) : (pickOf l k).getD [] ∈ l := by
  cases hp : pickOf l k with
  | none => rw [hp] at h; exact absurd rfl h
  | some x => exact pickOf_mem hp

theorem mem_of_mem_ite {l l' : List (List Nat)} {b : Bool} {ps : List Nat} (hsub : l' ⊆ l) (h : ps ∈ if b then l else l') : ps ∈ l := by
  cases b
  · exact hsub h
  · exact h

/-- The routes that R402 allows, from a block to a destination; those of them by the express link. -/
def legalRoutes : List (List Nat) := (routesTo (destNode dest) 7 (blk / 4)).filter (legalRoute avoid (blk / 4) dest)
def expressRoutes : List (List Nat) := (legalRoutes avoid blk dest).filter fun ps => dest == 13 && ps.any (expressPort (blk / 4))

theorem pickRoutes_primary (h : (pickRoutes avoid n blk dest).primary ≠ []) :
    legalRoute avoid (blk / 4) dest (pickRoutes avoid n blk dest).primary = true := by
  have hmem : (pickRoutes avoid n blk dest).primary ∈
      if (expressRoutes avoid blk dest).isEmpty then legalRoutes avoid blk dest else expressRoutes avoid blk dest := picked_mem h
  have hlegal : (pickRoutes avoid n blk dest).primary ∈ legalRoutes avoid blk dest :=
    mem_of_mem_ite (fun _ hps => (List.mem_filter.mp hps).1) hmem
  exact (List.mem_filter.mp hlegal).2

theorem pickRoutes_alternate (h : (pickRoutes avoid n blk dest).alternate ≠ []) :
    legalRoute avoid (blk / 4) dest (pickRoutes avoid n blk dest).alternate = true
      ∧ (pickRoutes avoid n blk dest).alternate.length ≤ (pickRoutes avoid n blk dest).primary.length + 2 := by
  obtain ⟨hlegal, hshort⟩ := List.mem_filter.mp (picked_mem h)
  simp only [Bool.and_eq_true, decide_eq_true_eq] at hshort
  exact ⟨(List.mem_filter.mp hlegal).2, hshort.2⟩

end Routes

/-- The free shares, where they fit in the target's 512 slots, and 8 for each block otherwise. -/
theorem slotShare_cases (target : Nat) :
    (slotShare target = (fun b => max 2 (Config.standingSlots target b)) ∧ (allBlocks.map (slotShare target)).sum ≤ 512)
      ∨ slotShare target = fun _ => 8 := by
  by_cases h : (allBlocks.map fun b => max 2 (Config.standingSlots target b)).sum ≤ 512
  · have hfree : slotShare target = fun b => max 2 (Config.standingSlots target b) := by simp only [slotShare, h, if_true]
    exact .inl ⟨hfree, by rw [hfree]; exact h⟩
  · exact .inr (by simp only [slotShare, h, if_false])

theorem slotShare_two_le (target blk : Nat) : 2 ≤ slotShare target blk := by
  obtain ⟨h, -⟩ | h := slotShare_cases target
  · rw [h]; exact Nat.le_max_left ..
  · simp [h]

theorem length_allBlocks_le : allBlocks.length ≤ 64 := (List.length_filter_le _ _).trans (List.length_range).le

theorem slotShare_sum_le (target : Nat) : (allBlocks.map (slotShare target)).sum ≤ 512 := by
  obtain ⟨-, h⟩ | h := slotShare_cases target
  · exact h
  · have hcount := length_allBlocks_le
    simp only [h, List.map_const', List.sum_replicate, smul_eq_mul]
    omega

/-! ### Forwarding (R404, R406) -/

/-- With one class ready, the arbiter picks it. -/
theorem pickClass_only (w : Nat × Nat × Nat) {c : Nat} (hc : c ≤ 3) : ∃ wt, pickClass w (fun d => c == d) = some (c, wt) := by
  interval_cases c
  · exact ⟨w, rfl⟩
  · by_cases h : 0 < w.1 <;> simp [pickClass, h]
  · by_cases h : 0 < w.2.1 <;> simp [pickClass, h]
  · by_cases h : 0 < w.2.2 <;> simp [pickClass, h]

theorem pickClass_none (w : Nat × Nat × Nat) : pickClass w (fun _ => false) = none := rfl

theorem nextAfter_singleton (last i : Nat) : nextAfter last [i] = some i := by
  by_cases h : last < i <;> simp [nextAfter, h]

section Alone
variable {s : State} {w : MeshWait} (halone : s.noc.waiting = [w])
include halone

theorem meshRuns_waits (hstay : s.mayLeave w.req = false) : s.meshRuns w.req.blk = s := by
  have hready : s.readyAt w.req.blk s.noc.waiting [] = [] := by simp [halone, State.readyAt, hstay]
  have hpick : s.portPick w.req.blk = none := by simp [State.portPick, hready, pickClass_none]
  simp [State.meshRuns, halone, State.servePort, hpick]

theorem meshRuns_leaves (hcls : w.req.cls ≤ 3) (hgo : s.mayLeave w.req = true) : ∃ wt li, s.meshRuns w.req.blk
    = (s.modNoc fun n => { n with waiting := [], weights := wt, lastInit := li }).meshLeave w := by
  have hready : s.readyAt w.req.blk [w] [] = [w] := by simp [State.readyAt, hgo]
  obtain ⟨wt, hwt⟩ := pickClass_only (s.noc.weights.get (4, 2, 1) w.req.blk) hcls
  refine ⟨s.noc.weights.put (4, 2, 1) w.req.blk wt, s.noc.lastInit.put 0 (w.req.blk * 4 + w.req.cls) w.req.init, ?_⟩
  have hpick : s.portPick w.req.blk = some (w, s.modNoc fun n => { n with
      waiting := [], weights := n.weights.put (4, 2, 1) w.req.blk wt
      lastInit := n.lastInit.put 0 (w.req.blk * 4 + w.req.cls) w.req.init }) := by
    simp [State.portPick, hready, hwt, nextAfter_singleton, State.modNoc, halone]
  simp only [State.meshRuns, halone, List.length_singleton, State.servePort, hpick]
  rfl

end Alone

/-- A request on the route in use, as far as its routers let it pass. -/
def State.onRoute (s : State) (f : MeshFl) : MeshFl :=
  let dest := s.meshDest (s.real f.req.addr)
  let k := s.walkTo f.req.blk dest
  { f with path := k.path, back := k.back, refused := false, onAlt := s.noc.alts.contains (f.req.blk, dest) }

section Cross
variable {s : State} {f : MeshFl}

theorem meshCross_refused (h : (s.walkTo f.req.blk (s.meshDest (s.real f.req.addr))).done = none) :
    s.meshCross f none [] = s.meshSet { s.onRoute f with refused := true } := by
  simp [State.meshCross, h, State.onRoute]

theorem meshCross_arrives (h : (s.walkTo f.req.blk (s.meshDest (s.real f.req.addr))).done ≠ none) :
    let g : MeshFl := { s.onRoute f with arrived := true, req := { f.req with poison := f.req.poison ++ [] } }
    s.meshCross f none [] = (s.meshSet g).meshArrive g := by
  obtain ⟨r, hr⟩ := Option.ne_none_iff_exists'.mp h
  simp [State.meshCross, hr, State.onRoute]

end Cross

/-! ### Serving (R399, R411) -/

section Serve
variable {s : State} {f : MeshFl} {st : Status} (hst : s.access (s.meshWho f) f.req.addr f.req.len f.req.write = st)
include hst

theorem meshServe_read (hpeer : s.peerOf f = none) (hok : st = .success) (hread : f.req.write = false) (hmem : s.csrReq f = false) :
    let v := s.logRead (s.meshWho f) f.req.addr f.req.len
    s.meshServe f = v.meshReply f .success (v.readFor f) := by
  subst hok
  rw [hread] at hst
  simp [State.meshServe, hst, hpeer, hread, hmem]

theorem meshServe_refused (hbad : st ≠ .success) (halive : s.retiredIn f.req.addr f.req.len = false) :
    s.meshServe f = s.meshReply f st [] := by
  simp only [State.meshServe, hst, halive]
  cases st with
  | success => exact absurd rfl hbad
  | _ => rfl

end Serve

/-! ### The rows -/

section Rows
variable {t : Nat} {s u : State} (hu : s.advance t = u) (hlive : u.stopped = false)
include hu hlive

section Request
variable {r : MeshReq} {lost : Option Nat} {par : List (Nat × Nat)} {q : MeshReq} (hq : u.injected r = q)
  (hunit : unitThere r.blk (q.init % 64) = true) (hcls : q.cls ≤ 3) (hfits : r.fits = true)
  (hnew : u.meshFind r.blk q.init q.cls r.tag = none)
  (hnone : (u.noc.waiting.any fun w => w.req.blk == r.blk && w.req.init == q.init && w.req.cls == q.cls && w.req.tag == r.tag) = false)
include hq hunit hcls hfits hnew hnone

theorem exec_meshRequest_tooLong (hcls0 : q.cls = 0) (hlen : 256 < r.len) :
    exec (.meshRequest t r lost par) s = .next (u.emit (.portAnswer r.blk q.init q.cls r.tag .badParam)) := by
  change Host.Outcome.next (doMeshRequest t r lost par s) = _
  have hfits' : q.fits = true := by subst hq; exact hfits
  have hblk : q.blk = r.blk := by subst hq; rfl
  have htag : q.tag = r.tag := by subst hq; rfl
  have hlen' : q.len = r.len := by subst hq; rfl
  simp only [doMeshRequest, hu, hlive, hq, hblk, htag, hlen', hunit, hcls.not_gt, hfits', hnew, hnone, hlen]
  simp [hcls0]

theorem exec_meshRequest_waits (hsmall : q.cls ≠ 0 ∨ r.len ≤ 256) : exec (.meshRequest t r lost par) s
    = .next ((u.modNoc fun n => { n with waiting := n.waiting ++ [⟨q, lost, par⟩] }).meshRuns r.blk) := by
  change Host.Outcome.next (doMeshRequest t r lost par s) = _
  have hfits' : q.fits = true := by subst hq; exact hfits
  have hblk : q.blk = r.blk := by subst hq; rfl
  have htag : q.tag = r.tag := by subst hq; rfl
  have hlen : q.len = r.len := by subst hq; rfl
  have hsmall' : (decide (q.cls = 0) && decide (256 < r.len)) = false := by
    rcases hsmall with h | h <;> simp [h]
  simp only [doMeshRequest, hu, hlive, hq, hblk, htag, hlen, hunit, hcls.not_gt, hfits', hnew, hnone, hsmall']
  simp

end Request

section Response
variable {blk init cls tag ns : Nat}

theorem exec_meshResponse_counted {f : MeshFl} {st : Status} (hf : u.meshFind blk init cls tag = some f) (hans : f.ans = some st) :
    exec (.meshResponse t blk init cls tag ns) s
      = .next (((u.meshDrop f).photo f.photo fun x => x.answered f.req.write f.req.len st ns).meshRuns blk) := by
  change Host.Outcome.next (doMeshResponse t blk init cls tag ns s) = _
  simp [doMeshResponse, hu, hlive, hf, hans]

theorem exec_meshResponse_late (hf : u.meshFind blk init cls tag = none) :
    exec (.meshResponse t blk init cls tag ns) s = .next u := by
  change Host.Outcome.next (doMeshResponse t blk init cls tag ns s) = _
  simp [doMeshResponse, hu, hlive, hf]

theorem exec_meshTimeout_standing {f : MeshFl} (hf : u.meshFind blk init 0 tag = some f) (hans : f.ans = none) :
    let w := (u.meshDrop f).modNoc fun n => { n with held := n.held.map fun x => (if x.1.same blk init 0 tag then { x.1 with late := true } else x.1, x.2) }
    exec (.meshTimeout t blk init 0 tag) s = .next (if u.time.frc < f.sent + usToFrc 1000 then u else
      ((((w.emit (.portAnswer blk init 0 tag .busError)).logMesh (blk / 4) 4 f.req).photo f.photo fun x =>
        { x with errors := sat32 (x.errors + 1) }).slotFreed blk (meshTarget (u.real f.req.addr)) 0).meshRuns blk) := by
  change Host.Outcome.next (doMeshTimeout t blk init 0 tag s) = _
  simp only [doMeshTimeout, hu, hlive, hf, hans]
  simp

end Response

section Refused
variable {r : MeshReq} {f : MeshFl} (hf : u.meshFind r.blk r.init r.cls r.tag = some f) (href : f.refused = true) {w : State}
  (hw : (u.photo f.photo fun x => { x with refused := sat32 (x.refused + 1) }) = w)
include hf href hw

theorem exec_routeRefusedRetry_told (halt : f.onAlt = true) : exec (.routeRefusedRetry t r) s
    = .next ((((w.meshDrop f).slotKept f.req).emit (.portAnswer r.blk r.init r.cls r.tag .routeRefused)).meshRuns r.blk) := by
  change Host.Outcome.next (doRouteRefusedRetry t r s) = _
  simp [doRouteRefusedRetry, hu, hlive, hf, href, hw, halt]

theorem exec_routeRefusedRetry_alternate {dest : Nat} (hdest : u.meshDest (u.real f.req.addr) = dest) (halt : f.onAlt = false)
    (hclean : (r.poison.filter fun i => !f.req.poison.contains i) = []) (hnew : w.noc.alts.contains (r.blk, dest) = false)
    (hroute : (w.noc.routes.any fun e => e.blk == r.blk && e.dest == dest) = true) : exec (.routeRefusedRetry t r) s
      = .next ((w.modNoc fun n => { n with alts := (r.blk, dest) :: n.alts }).meshCross f none []) := by
  change Host.Outcome.next (doRouteRefusedRetry t r s) = _
  simp only [doRouteRefusedRetry, hu, hlive, hf, href, hw, halt, hdest, hclean, hnew, hroute]
  simp

end Refused

section Rsv
variable {blk init target cls n : Nat} (hlow : 1 ≤ cls) (hhigh : cls ≤ 3) (hsome : 1 ≤ n) (hmany : n ≤ 8)
  (hrsvs : (u.noc.rsvs.any fun x => x.same blk target cls) = false) (hgrants : (u.noc.grants.any fun x => x.same blk target cls) = false)
  {w : State} (hw : (u.photo (photoKey false init cls) fun x => { x with rsvs := sat32 (x.rsvs + 1) }) = w)

/-- A slot request that ends with no slots is told so and counted by its status. -/
def State.rsvEnds (s : State) (blk init target cls : Nat) (st : Status) : State :=
  (s.emit (.grant blk target cls 0 st)).photo (photoKey false init cls) fun x => x.ended st

include hlow hhigh hsome hmany hrsvs hgrants hw

omit hu hlive hrsvs hgrants hw in
theorem rsvFields_ok : (decide (cls = 0) || decide (3 < cls) || decide (n = 0) || decide (8 < n)) = false := by
  simp only [Bool.or_eq_false_iff, decide_eq_false_iff_not]
  omega

theorem exec_rsv_noTarget (hfar : 16 < target) : exec (.rsv t blk init target cls n) s = .next (w.rsvEnds blk init target cls .busError) := by
  change Host.Outcome.next (doRsv t blk init target cls n s) = _
  simp only [doRsv, hu, hlive, rsvFields_ok hlow hhigh hsome hmany, hrsvs, hgrants, hw]
  simp [hfar, hfar.not_ge, State.rsvEnds]

theorem exec_rsv_refused (hnear : target ≤ 16) (hrefused : (w.walkTo blk target).done = none)
    (halt : w.noc.alts.contains (blk, target) = true) : exec (.rsv t blk init target cls n) s
      = .next ((w.photo (photoKey false init cls) fun x => x.ended .routeRefused).emit (.grant blk target cls 0 .routeRefused)) := by
  change Host.Outcome.next (doRsv t blk init target cls n s) = _
  simp only [doRsv, hu, hlive, rsvFields_ok hlow hhigh hsome hmany, hrsvs, hgrants, hw, hrefused]
  rw [List.contains_iff_mem] at halt
  simp [hnear, hnear.not_gt, walkTo_photo, alts_photo, halt, hrefused]

variable (hroute : (w.walkTo blk target).done.isSome = true) (hregion : target < 16)
include hroute hregion

theorem exec_rsv_asleep (hasleep : w.asleep target = true) :
    exec (.rsv t blk init target cls n) s = .next (w.rsvEnds blk init target cls .domainAsleep) := by
  change Host.Outcome.next (doRsv t blk init target cls n s) = _
  obtain ⟨r, hr⟩ := Option.isSome_iff_exists.mp hroute
  simp only [doRsv, hu, hlive, rsvFields_ok hlow hhigh hsome hmany, hrsvs, hgrants, hw, hr]
  simp [hregion, show ¬ 16 < target by omega, hasleep, State.rsvEnds]

theorem exec_rsv_first (hawake : w.asleep target = false) (hempty : u.noc.rsvs = []) :
    let v := w.modNoc fun x => { x with rsvs := [⟨blk, target, cls, n, w.time.frc⟩] }
    let free := Config.meshSlots target cls - w.noc.given.get 0 (target * 4 + cls)
    exec (.rsv t blk init target cls n) s = .next (if free = 0 then v else
      (v.modNoc fun x => { x with rsvs := [], grants := x.grants ++ [⟨blk, target, cls, min free n, w.time.frc⟩]
                                  given := x.given.put 0 (target * 4 + cls) (x.given.get 0 (target * 4 + cls) + min free n) }).emit
        (.grant blk target cls (min free n) .success)) := by
  change Host.Outcome.next (doRsv t blk init target cls n s) = _
  obtain ⟨r, hr⟩ := Option.isSome_iff_exists.mp hroute
  have hnone : w.noc.rsvs = [] := by rw [← hw, rsvs_photo, hempty]
  simp only [doRsv, hu, hlive, rsvFields_ok hlow hhigh hsome hmany, hrsvs, hgrants, hw, hr]
  by_cases hfree : Config.meshSlots target cls - w.noc.given.get 0 (target * 4 + cls) = 0
  · simp [hregion, show ¬ 16 < target by omega, hawake, hnone, State.modNoc, State.serveRsvs, hfree]
  · simp [hregion, show ¬ 16 < target by omega, hawake, hnone, State.modNoc, State.serveRsvs, hfree, State.emit]

end Rsv

theorem exec_gnt_found {blk target cls : Nat} {x : Slots} (hx : (u.noc.grants.find? fun x => x.same blk target cls) = some x) :
    let w := u.modNoc fun c => { c with grants := c.grants.erase x }
    exec (.gnt t blk target cls) s = .next ((w.setSlots blk target cls (w.slotsHeld blk target cls + x.n)).meshRuns blk) := by
  change Host.Outcome.next (doGnt t blk target cls s) = _
  simp [doGnt, hu, hlive, hx]

section SlotReturn
variable {blk target cls : Nat} {x : Slots} (hx : (u.noc.slots.find? fun x => x.same blk target cls) = some x)
include hx

theorem exec_slotReturnTimeout_due (hdue : x.used + usToFrc 10 ≤ u.time.frc) :
    exec (.slotReturnTimeout t blk target cls) s = .next ((u.setSlots blk target cls 0).emit (.slotReturn blk target cls x.n)) := by
  change Host.Outcome.next (doSlotReturnTimeout t blk target cls s) = _
  simp [doSlotReturnTimeout, hu, hlive, hx, hdue.not_gt]

theorem exec_slotReturnTimeout_early (hearly : u.time.frc < x.used + usToFrc 10) :
    exec (.slotReturnTimeout t blk target cls) s = .next u := by
  change Host.Outcome.next (doSlotReturnTimeout t blk target cls s) = _
  simp [doSlotReturnTimeout, hu, hlive, hx, hearly]

end SlotReturn

section Drain
variable {r f : Nat} (hf : u.noc.draining.find? r = some f)
include hf

theorem exec_routerDrained_draining : exec (.routerDrained t r) s = .next (if u.routerEmpty r then u.switchRouter r else u) := by
  change Host.Outcome.next (doRouterDrained t r s) = _
  simp [doRouterDrained, hu, hlive, Tab.has, hf]

theorem exec_routerDrainTimeout_draining :
    exec (.routerDrainTimeout t r) s = .next (if u.time.frc < f + usToFrc 100 then u else u.switchRouter r) := by
  change Host.Outcome.next (doRouterDrainTimeout t r s) = _
  simp [doRouterDrainTimeout, hu, hlive, hf]

end Drain

theorem exec_photometerPeriod_enabled (henable : u.noc.enable = true) : exec (.photometerPeriod t) s
    = .next (if u.time.frc < periodEnd u.noc.periodUs u.noc.since then u
      else u.modNoc fun n => { n with snap := n.sets, sets := [], snapFrc := periodEnd u.noc.periodUs u.noc.since, since := u.time.frc }) := by
  change Host.Outcome.next (doPhotometerPeriod t s) = _
  simp [doPhotometerPeriod, hu, hlive, henable]

end Rows

/-! ### PHOTOMETER_READ (R423, R424) -/

section Photometer
variable {i : CmdIn} {s : State}

theorem bodyPhotometer_configures (hact : fld i.p 0 1 = 0) : bodyPhotometer i s = (s.modNoc fun n => { n with
    enable := bit (fld i.p 1 1) 0, periodUs := fld i.p 8 4, sets := [], since := periodEnd (fld i.p 8 4) s.time.frc },
    .done (.ok (zeros 8 ++ leBytes 8 s.noc.snapFrc))) := by
  simp [bodyPhotometer, hact, ok]

theorem bodyPhotometer_reads (hact : fld i.p 0 1 = 1) :
    let sel := s.noc.snap.filter fun e => photoMatch i.p e.1
    let recs := sel.take (fld i.p 12 4 / 128)
    bodyPhotometer i s = (s.hostRuns i.fn (fld i.p 16 8) [(recs.flatMap fun e => photoRecord e.1 e.2, false)],
      .done (.ok (leBytes 4 recs.length ++ leBytes 4 sel.length ++ leBytes 8 s.noc.snapFrc))) := by
  simp only [bodyPhotometer, hact]
  rfl

end Photometer

/-- Settles O50. That a class-0 request above 256 bytes is turned away with BAD_PARAM, and a slot request to a target above 16 with
BUS_ERROR, are the model's choices (log entry 93). -/
theorem network : Obligations.Network := by
  unfold Obligations.Network
  intro c s fl
  refine ⟨fun hlive => ⟨?request,
      fun blk init cls tag ns f st hf hans => exec_meshResponse_counted rfl hlive hf hans,
      fun blk init cls tag ns hf => exec_meshResponse_late rfl hlive hf,
      fun blk init tag f hf hans => exec_meshTimeout_standing rfl hlive hf hans,
      fun r f hf href => ⟨exec_routeRefusedRetry_told rfl hlive hf href rfl,
        exec_routeRefusedRetry_alternate rfl hlive hf href rfl rfl⟩,
      fun blk init target cls n hlow hhigh hsome hmany hrsvs hgrants => ⟨
        exec_rsv_noTarget rfl hlive hlow hhigh hsome hmany hrsvs hgrants rfl,
        exec_rsv_refused rfl hlive hlow hhigh hsome hmany hrsvs hgrants rfl,
        exec_rsv_asleep rfl hlive hlow hhigh hsome hmany hrsvs hgrants rfl,
        exec_rsv_first rfl hlive hlow hhigh hsome hmany hrsvs hgrants rfl⟩,
      fun blk target cls x hx => exec_gnt_found rfl hlive hx,
      fun blk target cls x hx => ⟨exec_slotReturnTimeout_due rfl hlive hx, exec_slotReturnTimeout_early rfl hlive hx⟩,
      fun r f hf => ⟨exec_routerDrained_draining rfl hlive hf, exec_routerDrainTimeout_draining rfl hlive hf⟩,
      exec_photometerPeriod_enabled rfl hlive⟩,
    fun target cls n => rfl,
    fun u w halone hcls => ⟨meshRuns_waits halone, meshRuns_leaves halone hcls⟩,
    fun u f => ⟨meshCross_refused, meshCross_arrives⟩,
    fun avoid n blk dest => ⟨pickRoutes_primary avoid n blk dest, pickRoutes_alternate avoid n blk dest⟩,
    fun target => ⟨slotShare_two_le target, slotShare_sum_le target⟩,
    fun u f hpeer => ⟨meshServe_read rfl hpeer, meshServe_refused rfl⟩,
    fun h => ⟨fun hact => exec_done rfl h (bodyPhotometer_configures hact), fun hact => exec_done rfl h (bodyPhotometer_reads hact)⟩⟩
  case request =>
    intro r lost par hunit hcls hfits q hnew hnone
    exact ⟨exec_meshRequest_tooLong rfl hlive rfl hunit hcls hfits hnew hnone,
      exec_meshRequest_waits rfl hlive rfl hunit hcls hfits hnew hnone⟩

end Sys2Proof.Machine

/-! PROOFS. DMA channels, DMA_SUBMIT, the memory commands and the error logs (chapter 15, R430 to R450; chapter 16, R463 to R473). -/

namespace Sys2Proof.Machine

/-! ### Load checks (R430) -/

section Check
variable {d : List Byte} {edma : Bool}

theorem dCheck_bad (h : dBad d edma = true) : dCheck d edma = some .badParam := by rw [dCheck, if_pos h]

theorem dCheck_overlap (h : dBad d edma = false) (hshares : dShares d = true) (hno : dOverlapOk d = false ∨ dContiguous d = false) :
    dCheck d edma = some .overlap := by
  rcases hno with hno | hno <;> simp [dCheck, h, hshares, hno]

theorem dCheck_good (h : dBad d edma = false) (hok : dShares d = false ∨ (dOverlapOk d = true ∧ dContiguous d = true)) :
    dCheck d edma = none := by
  obtain hok | ⟨hflag, hcont⟩ := hok
  · simp [dCheck, h, hok]
  · simp [dCheck, h, hflag, hcont]

end Check

/-! ### Channels (R434, R441, R442) -/

section Channel
variable {s : State} {r : DmaRef} {d : List Byte}

theorem chanStart_good (h : chanCheck r d = none) : s.chanStart r d = s.modChan r fun x => { x with
    active := d, busy := true, descending := dDescending d, poisonSeen := false, bytesDone := 0, faultAddr := 0, moved := 0, buf := [] } := by
  rw [State.chanStart, h]

theorem chanStart_bad {st : Status} (h : chanCheck r d = some st) (hcmd : (s.chan r).cmd = none) :
    s.chanStart r d = s.modChan r fun x => { x with
      active := d, busy := false, done := true, status := st.code, descending := false, poisonSeen := false, bytesDone := 0, faultAddr := 0
      cmd := none, owner := 255 } := by
  simp [State.chanStart, h, hcmd]

section Done
variable {blk k : Nat} {st : Status} (hcmd : (s.chan (.bdma blk k)).cmd = none)
include hcmd

theorem chanDone_ends (hnext : (s.chan (.bdma blk k)).cmdNext = none) (hend : st ≠ .success ∨ (s.chan (.bdma blk k)).arm = false) :
    s.chanDone (.bdma blk k) st = ((s.modChan (.bdma blk k) fun ch => ch.ended st).leaveBuffer blk k).modChan (.bdma blk k) fun x =>
      { x with cmdNext := none, ownerNext := 255 } := by
  have hhand : (decide (st = .success) && (s.chan (.bdma blk k)).arm) = false := by
    rcases hend with h | h <;> simp [h]
  simp only [State.chanDone, hcmd, hnext, hhand]
  rfl

theorem chanDone_hands (hst : st = .success) (harm : (s.chan (.bdma blk k)).arm = true) :
    s.chanDone (.bdma blk k) st = (((s.modChan (.bdma blk k) fun ch => ch.ended st).leaveBuffer blk k).modChan (.bdma blk k) fun x => { x with
      cmd := (s.chan (.bdma blk k)).cmdNext, cmdNext := none, owner := (s.chan (.bdma blk k)).ownerNext, ownerNext := 255
      handed := true }).chanStart (.bdma blk k) (s.chan (.bdma blk k)).shadow := by
  simp only [State.chanDone, hcmd, harm, hst]
  rfl

end Done
end Channel

section ChannelRows
variable {t : Nat} {s u : State} (hu : s.advance t = u) (hlive : u.stopped = false)
include hu hlive

theorem exec_edmaGo_own {e k : Nat} {x : Nat × Task × Kernel} (hruns : u.vdeRuns e = some x) (hbank : (bankChans (u.vde e).inAlt).contains k = true) :
    exec (.edmaGo t e k) s = .next (if (u.chan (.edma e k)).busy then u.modChan (.edma e k) fun x => { x with goLost := true }
      else (u.edmaShare e k).chanStart (.edma e k) (u.chan (.edma e k)).active) := by
  change Host.Outcome.next (doEdmaGo t e k s) = _
  simp only [doEdmaGo, hu, hlive, hruns, hbank]
  simp [State.edmaGo]

variable {blk k : Nat} (hthere : u.bdmaThere blk k = true)
include hthere

theorem exec_bdmaGo_there : exec (.bdmaGo t blk k) s = .next (if (u.chan (.bdma blk k)).busy
    then u.modChan (.bdma blk k) fun x => { x with goLost := true }
    else ((u.bdmaShare blk k).modChan (.bdma blk k) fun x => { x with handed := false }).chanStart (.bdma blk k) (u.chan (.bdma blk k)).shadow) := by
  change Host.Outcome.next (doBdmaGo t blk k s) = _
  simp only [doBdmaGo, hu, hlive, hthere]
  rfl

theorem exec_bdmaArm_there : exec (.bdmaArm t blk k) s = .next (if (u.chan (.bdma blk k)).busy
    then u.modChan (.bdma blk k) fun x => { x with arm := true }
    else ((u.bdmaShare blk k).modChan (.bdma blk k) fun x => { x with handed := false }).chanStart (.bdma blk k) (u.chan (.bdma blk k)).shadow) := by
  change Host.Outcome.next (doBdmaArm t blk k s) = _
  simp only [doBdmaArm, hu, hlive, hthere]
  by_cases hbusy : (u.chan (.bdma blk k)).busy = true <;> simp [hbusy, State.bdmaStart]

theorem exec_bdmaShadowWrite_there {off : Nat} {bs : List Byte} {late : Bool} (hfit : off + bs.length ≤ 48) :
    exec (.bdmaShadowWrite t blk k off bs late) s = .next (if (u.chan (.bdma blk k)).arm && (u.chan (.bdma blk k)).busy && late
      then (u.modChan (.bdma blk k) fun x => { x with collide := true }).emit (.shadowRefused blk k .shadowCollide)
      else u.modChan (.bdma blk k) fun x => { x with arm := false, shadow := splice x.shadow off bs }) := by
  change Host.Outcome.next (doBdmaShadowWrite t blk k off bs late s) = _
  simp only [doBdmaShadowWrite, hu, hlive, hthere]
  simp [hfit.not_gt]

end ChannelRows

/-! ### DMA_SUBMIT (R448, R449) -/

theorem leNat_eq_zero {bs : List Byte} : leNat bs = 0 ↔ allZero bs = true := by
  induction bs with
  | nil => simp [leNat, allZero]
  | cons b bs ih =>
    have hb : b.toNat = 0 ↔ b = 0 := by
      rw [← BitVec.toNat_inj]; rfl
    rw [leNat, Nat.add_eq_zero_iff, hb, Nat.mul_eq_zero, ih]
    simp [allZero]

/-- Reserved bytes that are 0. -/
theorem chkOk_rsv {p : List Byte} {off len : Nat} : chkOk p (.rsv off len) = true ↔ fld p off len = 0 := leNat_eq_zero.symm

/-- What the generic checks ask of DMA_SUBMIT's parameters. -/
theorem layDmaSubmit_checks (q : List Byte) : chkAll q (layDmaSubmit.checks q) = true ↔
    (fld q 4 4 = 0 ∧ fld q 3 1 ≤ 1 ∧ fld q 14 2 &&& 0xFFF0 = 0 ∧ fld q 22 2 = 0 ∧ fld q 30 2 = 0 ∧ fld q 48 8 = 0)
      ∧ (fld q 0 1 < 16 ∧ fld q 1 1 < regBlocks (fld q 0 1)) ∧ (fld q 2 1 < 16 ∨ fld q 2 1 = 255) := by
  simp only [chkAll, layDmaSubmit, List.all_cons, List.all_nil, Bool.and_eq_true, chkOk_rsv, and_true]
  simp [chkOk, and_assoc]

section Submit
variable {i : CmdIn} {s : State} {d : List Byte} (hd : (i.p.drop 8).take 48 = d)
include hd

theorem bodyDmaSubmit_class0 (hfn : i.fn ≠ 0) (hcls : dClass d = 0) : bodyDmaSubmit i s = (s, .done (.bare .notPermitted)) := by
  simp [bodyDmaSubmit, hd, hfn, hcls, refuse]

theorem bodyDmaSubmit_extent (h : (s.mayExtent i.fn (dSrcExt d) false && s.mayExtent i.fn (dDstExt d) true) = false) :
    bodyDmaSubmit i s = (s, .done (.bare .notPermitted)) := by
  simp only [bodyDmaSubmit, hd, h]
  simp [refuse]

variable {blk k : Nat} (hblk : fld i.p 0 1 * 4 + fld i.p 1 1 = blk) (hk : fld i.p 2 1 = k) {ch : DmaChan}
  (hch : s.chan (.bdma blk k) = ch) (hcls : i.fn = 0 ∨ dClass d ≠ 0) (hsrc : s.mayExtent i.fn (dSrcExt d) false = true)
  (hdst : s.mayExtent i.fn (dDstExt d) true = true)
  (hown : fld i.p 3 1 = 1 → k < 16 → ch.busy = true → ch.owner = i.fn ∨ 8 ≤ ch.owner)
include hblk hk hch hcls hsrc hdst hown

omit hd hblk hk hch hcls hsrc hdst in
theorem ownChannel_allowed : (decide (fld i.p 3 1 = 1) && decide (k < 16) && ch.busy && decide (ch.owner < 8) && (ch.owner != i.fn)) = false := by
  rw [Bool.eq_false_iff]
  intro h
  simp only [Bool.and_eq_true, decide_eq_true_eq, bne_iff_ne] at h
  obtain ⟨⟨⟨⟨hmode, hlow⟩, hbusy⟩, howner⟩, hother⟩ := h
  rcases hown hmode hlow hbusy with h | h
  · exact hother h
  · omega

omit hd hblk hk hch hsrc hdst hown in
theorem classOfFunction_allowed : (i.fn != 0 && decide (dClass d = 0)) = false := by
  rcases hcls with h | h <;> simp [h]

theorem bodyDmaSubmit_badParam (hbad : (k = 255 ∧ fld i.p 3 1 = 1) ∨ dBad d false = true) :
    bodyDmaSubmit i s = (s, .done (.bare .badParam)) := by
  simp only [bodyDmaSubmit, hd, hblk, hk, hch, hsrc, hdst, ownChannel_allowed hown, classOfFunction_allowed hcls]
  rcases hbad with ⟨h255, hmode⟩ | hbad
  · simp [h255, hmode, refuse]
  · simp [hbad, refuse]

variable (hreg : fld i.p 0 1 < 16) (hpop : fld i.p 1 1 < regBlocks (fld i.p 0 1)) (hlow : k < 16) (hmode : fld i.p 3 1 ≤ 1)
  (hgood : dBad d false = false)
include hreg hpop hlow hmode hgood

/-- With permitted fields, the load check decides first, then the region's power, then the channel (R448 steps 3 to 5). -/
theorem bodyDmaSubmit_checked : bodyDmaSubmit i s = match dCheck d false with
    | some st => refuse s st
    | none => if s.asleep (fld i.p 0 1) then refuse s .domainAsleep
      else if (decide (fld i.p 3 1 = 0) && ch.busy) || (decide (fld i.p 3 1 = 1) && ch.arm) then refuse s .noResource
      else if ch.busy then ((s.clockUp (fld i.p 0 1)).modChan (.bdma blk k) fun x => { x with
        shadow := d, arm := true, cmdNext := some i.id, ownerNext := i.fn }, .later (.dma blk k))
      else ((((s.clockUp (fld i.p 0 1)).bdmaShare blk k).modChan (.bdma blk k) fun x => { x with
        shadow := d, cmd := some i.id, owner := i.fn, handed := false }).chanStart (.bdma blk k) d, .later (.dma blk k)) := by
  have hfields : (decide (16 ≤ fld i.p 0 1) || decide (regBlocks (fld i.p 0 1) ≤ fld i.p 1 1) || (decide (15 < k) && (k != 255))
      || (decide (k = 255) && decide (fld i.p 3 1 = 1)) || decide (1 < fld i.p 3 1) || dBad d false) = false := by
    simp [hgood, hreg.not_ge, hpop.not_ge, hmode.not_gt, show ¬ 15 < k by omega, show k ≠ 255 by omega]
  have hpick : s.pickChan blk k = some k := by simp [State.pickChan, show k ≠ 255 by omega]
  simp only [bodyDmaSubmit, hd, hblk, hk, hch, hsrc, hdst, ownChannel_allowed hown, classOfFunction_allowed hcls, hfields, hpick]
  rcases dCheck d false with _ | st <;> rfl

theorem bodyDmaSubmit_loadFails {st : Status} (hcheck : dCheck d false = some st) : bodyDmaSubmit i s = (s, .done (.bare st)) := by
  rw [bodyDmaSubmit_checked hd hblk hk hch hcls hsrc hdst hown hreg hpop hlow hmode hgood, hcheck]
  rfl

variable (hcheck : dCheck d false = none)
include hcheck

theorem bodyDmaSubmit_asleep (hasleep : s.asleep (fld i.p 0 1) = true) : bodyDmaSubmit i s = (s, .done (.bare .domainAsleep)) := by
  rw [bodyDmaSubmit_checked hd hblk hk hch hcls hsrc hdst hown hreg hpop hlow hmode hgood, hcheck]
  simp [hasleep, refuse]

variable (hawake : s.asleep (fld i.p 0 1) = false)
include hawake

theorem bodyDmaSubmit_inUse (hbusy : ch.busy = true) (hfull : fld i.p 3 1 = 0 ∨ ch.arm = true) :
    bodyDmaSubmit i s = (s, .done (.bare .noResource)) := by
  have htaken : ((decide (fld i.p 3 1 = 0) && ch.busy) || (decide (fld i.p 3 1 = 1) && ch.arm)) = true := by
    obtain h | h : fld i.p 3 1 = 0 ∨ fld i.p 3 1 = 1 := by omega
    · simp [h, hbusy]
    · simpa [h] using hfull
  rw [bodyDmaSubmit_checked hd hblk hk hch hcls hsrc hdst hown hreg hpop hlow hmode hgood, hcheck]
  simp [hawake, htaken, refuse]

variable (hfree : ch.arm = false)
include hfree

theorem bodyDmaSubmit_arms (hbusy : ch.busy = true) (hone : fld i.p 3 1 = 1) :
    bodyDmaSubmit i s = ((s.clockUp (fld i.p 0 1)).modChan (.bdma blk k) fun x => { x with
      shadow := d, arm := true, cmdNext := some i.id, ownerNext := i.fn }, .later (.dma blk k)) := by
  rw [bodyDmaSubmit_checked hd hblk hk hch hcls hsrc hdst hown hreg hpop hlow hmode hgood, hcheck]
  simp [hawake, hbusy, hfree, hone]

theorem bodyDmaSubmit_starts (hidle : ch.busy = false) :
    bodyDmaSubmit i s = ((((s.clockUp (fld i.p 0 1)).bdmaShare blk k).modChan (.bdma blk k) fun x => { x with
      shadow := d, cmd := some i.id, owner := i.fn, handed := false }).chanStart (.bdma blk k) d, .later (.dma blk k)) := by
  rw [bodyDmaSubmit_checked hd hblk hk hch hcls hsrc hdst hown hreg hpop hlow hmode hgood, hcheck]
  simp [hawake, hidle, hfree]

end Submit

/-! ### REGION_TABLE_SET (R468, R469) -/

section RegionTable
variable {i : CmdIn} {s : State} {base len : Nat} (hbase : fld i.p 8 8 = base) (hlen : fld i.p 16 8 = len)

/-- A function's persistent ranges, and the ranges put in place of the listed ones. -/
def State.rangesOf (s : State) (fn : Nat) : List PersRange := s.mem.ranges.filter fun r => r.fn == fn
def State.withRanges (s : State) (rs : List PersRange) : State := { s with mem := { s.mem with ranges := rs } }
/-- The result of REGION_TABLE_SET: the tenant's ranges, and the entries left. -/
def State.rangeResult (s : State) (fn : Nat) : List Byte := leBytes 2 (s.rangesOf fn).length ++ leBytes 2 (1024 - s.mem.ranges.length)
/-- A range meets one of a list. -/
def anyOverlap (rs : List PersRange) (base len : Nat) : Bool := rs.any fun r => overlaps base len r.base r.len

include hbase hlen

theorem bodyRegionTableSet_place (hplace : s.rangePlace i.fn base len = false) :
    bodyRegionTableSet i s = (s, .done (.bare .notPermitted)) := by
  simp [bodyRegionTableSet, hbase, hlen, hplace, refuse]

variable (hplace : s.rangePlace i.fn base len = true)
include hplace

theorem bodyRegionTableSet_overlaps (hact : fld i.p 0 1 = 1) (hover : anyOverlap (s.rangesOf i.fn) base len = true) :
    bodyRegionTableSet i s = (s, .done (.bare .badParam)) := by
  rw [anyOverlap, State.rangesOf] at hover
  simp only [bodyRegionTableSet, hbase, hlen, hplace, hact, hover]
  simp [refuse]

variable (halignBase : base % 65536 = 0) (halignLen : len % 65536 = 0) (hlow : 65536 ≤ len) (hhigh : len ≤ 17179869184)
include halignBase halignLen hlow hhigh

/-- The fields of a well-placed range are in order. -/
theorem bodyRegionTableSet_add (hact : fld i.p 0 1 = 1) (hown : anyOverlap (s.rangesOf i.fn) base len = false) :
    bodyRegionTableSet i s = if anyOverlap s.mem.ranges base len || decide (1024 ≤ s.mem.ranges.length) then refuse s .noResource
      else ok (s.withRanges (⟨i.fn, base, len⟩ :: s.mem.ranges))
        ((s.withRanges (⟨i.fn, base, len⟩ :: s.mem.ranges)).rangeResult i.fn) := by
  rw [anyOverlap, State.rangesOf] at hown
  simp only [bodyRegionTableSet, hbase, hlen, hplace, hact, hown]
  simp only [halignBase, halignLen, hlow.not_gt, hhigh.not_gt]
  rfl

theorem bodyRegionTableSet_full (hact : fld i.p 0 1 = 1) (hfull : s.mem.ranges.length = 1024)
    (hown : anyOverlap (s.rangesOf i.fn) base len = false) : bodyRegionTableSet i s = (s, .done (.bare .noResource)) := by
  rw [bodyRegionTableSet_add hbase hlen hplace halignBase halignLen hlow hhigh hact hown]
  simp [hfull, refuse]

theorem bodyRegionTableSet_added (hact : fld i.p 0 1 = 1) (hnone : anyOverlap s.mem.ranges base len = false)
    (hown : anyOverlap (s.rangesOf i.fn) base len = false) (hroom : s.mem.ranges.length < 1024) :
    let u := s.withRanges (⟨i.fn, base, len⟩ :: s.mem.ranges)
    bodyRegionTableSet i s = (u, .done (.ok (u.rangeResult i.fn))) := by
  rw [bodyRegionTableSet_add hbase hlen hplace halignBase halignLen hlow hhigh hact hown]
  simp [hnone, hroom, ok]

theorem bodyRegionTableSet_remove (hact : fld i.p 0 1 = 0)
    (hmine : ((s.rangesOf i.fn).any fun r => r.base == base && r.len == len) = true) :
    let u := s.withRanges (s.mem.ranges.filter fun r => !(r.fn == i.fn && r.base == base && r.len == len))
    bodyRegionTableSet i s = if s.rangeInUse i.fn base len then refuse s .noResource else ok u (u.rangeResult i.fn) := by
  rw [State.rangesOf] at hmine
  simp only [bodyRegionTableSet, hbase, hlen, hplace, hact, hmine]
  simp only [halignBase, halignLen, hlow.not_gt, hhigh.not_gt]
  rfl

end RegionTable

/-! ### PAGE_RETIRE (R470, R471) -/

section PageRetire
variable {i : CmdIn} {s : State} (hkind : fld i.p 1 1 = 0) {a : Nat} (ha : fld i.p 8 8 = a)

/-- The result of PAGE_RETIRE: the retired pages and banks, and the addresses listed. -/
def State.retireResult (s : State) (n : Nat) : List Byte := leBytes 2 s.mem.retPages.length ++ leBytes 2 s.mem.retBanks.length ++ leBytes 4 n

include hkind

theorem bodyPageRetire_lists (hact : fld i.p 0 1 = 2) :
    let l := s.mem.retPages.keys.take (fld i.p 4 4 / 8)
    bodyPageRetire i s = (s.emit (.hostWrite i.fn (fld i.p 16 8) (l.flatMap (leBytes 8)) false), .done (.ok (s.retireResult l.length))) := by
  simp only [bodyPageRetire, hact, hkind]
  rfl

include ha

theorem bodyPageRetire_noBase (hact : fld i.p 0 1 ≠ 2) (hbase : retireBase 0 a = false) :
    bodyPageRetire i s = (s, .done (.bare .badParam)) := by
  simp [bodyPageRetire, hact, hkind, ha, hbase, refuse]

variable (hbase : retireBase 0 a = true)
include hbase

theorem bodyPageRetire_barred (hact : fld i.p 0 1 ≠ 2) (hbarred : retireBarred 0 a = true) :
    bodyPageRetire i s = (s, .done (.bare .notPermitted)) := by
  simp [bodyPageRetire, hact, hkind, ha, hbase, hbarred, refuse]

variable (hopen : retireBarred 0 a = false)
include hopen

theorem bodyPageRetire_retires (hact : fld i.p 0 1 = 1) :
    let u : State := { s with mem := { s.mem with retPages := s.mem.retPages.set a () } }
    bodyPageRetire i s = if s.mem.retPages.has a then ok s (s.retireResult 0)
      else if 4096 ≤ s.mem.retPages.length then refuse s .noResource else ok u (u.retireResult 0) := by
  simp only [bodyPageRetire, hact, hkind, ha, hbase, hopen]
  rfl

theorem bodyPageRetire_returns (hact : fld i.p 0 1 = 0) (hhas : s.mem.retPages.has a = true) :
    let u := ({ s with mem := { s.mem with retPages := s.mem.retPages.del a } } : State).zeroMem a 65536
    bodyPageRetire i s = (u, .done (.ok (u.retireResult 0))) := by
  simp [bodyPageRetire, hact, hkind, ha, hbase, hopen, hhas, ok, State.retireResult]

end PageRetire

/-! ### MEM_READ and MEM_WRITE (R472, R473) -/

section Memory
variable {i : CmdIn} {s : State}

section Read
variable {a n : Nat} (ha : fld i.p 0 8 = a) (hn : fld i.p 8 4 = n)
include ha hn

theorem bodyMemRead_mayNot (hmay : s.mayName i.fn a n false true = false) : bodyMemRead i s = (s, .done (.bare .notPermitted)) := by
  simp [bodyMemRead, ha, hn, hmay, refuse]

theorem bodyMemRead_own (hmay : s.mayName i.fn a n false true = true) (hown : (spanAt a).place ≠ .host)
    (hacc : s.access (cmdWho i.fn true) a n false = .success) :
    let us := (s.clockFor a).unitsAt 64 (n / 64 + 1) a n
    let k := (us.filter fun u => u.2).length
    bodyMemRead i s = (((s.clockFor a).logRead (cmdWho i.fn true) a n).hostRuns i.fn (fld i.p 16 8) us,
      .done ⟨if k = 0 then .success else .poisoned, leBytes 4 n ++ leBytes 4 k, none⟩) := by
  subst ha hn
  simp [bodyMemRead, hmay, hown, hacc, State.readUnits]
  rfl

end Read

section Write
variable {a n f : Nat} (ha : fld i.p 0 8 = a) (hn : fld i.p 8 4 = n) (hf : fld i.p 12 1 = f)

/-- An injection names one kind and whole words of the device's own memory. -/
def injectsWhole (a n f : Nat) : Bool :=
  (maskBits f 3).length == 1 && a % wordSize a == 0 && n % wordSize a == 0 && (spanAt a).place != .host

/-- An injection that is not one, as MEM_WRITE tests it. -/
def badInject (a n f : Nat) : Bool :=
  f != 0 && ((maskBits f 3).length != 1 || a % wordSize a != 0 || n % wordSize a != 0 || (spanAt a).place == .host)

theorem badInject_eq (a n f : Nat) : badInject a n f = (f != 0 && !injectsWhole a n f) := by
  simp [badInject, injectsWhole, bne, Bool.or_assoc]

include ha hn hf

theorem bodyMemWrite_badInject (hinject : f ≠ 0) (hpart : injectsWhole a n f = false) :
    bodyMemWrite i s = (s, .done (.bare .badParam)) := by
  have hbad : badInject a n f = true := by rw [badInject_eq]; simp [hinject, hpart]
  rw [badInject] at hbad
  simp only [bodyMemWrite, ha, hn, hf, hbad]
  rfl

theorem bodyMemWrite_mayNot (hgood : f = 0 ∨ injectsWhole a n f = true) (hmay : s.mayName i.fn a n true false = false ∨ (f ≠ 0 ∧ i.fn ≠ 0)) :
    bodyMemWrite i s = (s, .done (.bare .notPermitted)) := by
  have hok : badInject a n f = false := by
    rw [badInject_eq]
    rcases hgood with h | h <;> simp [h]
  have hno : (!s.mayName i.fn a n true false || (f != 0 && i.fn != 0)) = true := by
    rcases hmay with h | ⟨hinject, hfn⟩
    · simp [h]
    · simp [hinject, hfn]
  rw [badInject] at hok
  simp only [bodyMemWrite, ha, hn, hf, hok, hno]
  rfl

variable (hmay : s.mayName i.fn a n true false = true) (hown : (spanAt a).place ≠ .host)
  (hacc : s.access (cmdWho i.fn false) a n true = .success)
include hmay hown hacc

theorem bodyMemWrite_data (hplain : f = 0) : bodyMemWrite i s
    = ((s.clockFor a).write (cmdWho i.fn false) a ((i.p.drop 16).take n) false, .done (.ok [])) := by
  subst hplain
  simp [bodyMemWrite, ha, hn, hf, hmay, hown, hacc, bit, ok]

theorem bodyMemWrite_poison (hinject : f = 1) (hfn : i.fn = 0) (ha' : a % wordSize a = 0) (hn' : n % wordSize a = 0) :
    bodyMemWrite i s = ((wordsOf a n).foldl (fun u w => u.poisonWord w) (s.clockFor a), .done (.ok [])) := by
  subst hinject
  have hone : (maskBits 1 3).length = 1 := by decide
  have hbit : bit 1 0 = true := by decide
  rw [hfn] at hmay hacc
  simp [bodyMemWrite, ha, hn, hf, hmay, hown, hacc, ha', hn', hfn, hone, hbit, ok, State.injectWords]

end Write
end Memory

/-! ### The error logs and retraining (R455, R463) -/

section Rows
variable {t : Nat} {s u : State} (hu : s.advance t = u)
include hu

theorem exec_errlogCopy_served {r : Nat} (hserver : u.host.server = .melvi) :
    let l := u.log r
    let w := (l.entries.take (l.entries.length - l.copied)).reverse.foldl (fun u e => u.copyEntry e) u
    exec (.errlogCopy t r) s = .next { w with mem := { w.mem with logs := w.mem.logs.upd r fun l => { l with copied := l.entries.length } } } := by
  change Host.Outcome.next (doErrlogCopy t r s) = _
  simp only [doErrlogCopy, hu, hserver]
  rfl

theorem exec_hbmRetrain_lit {stack temp : Nat} (hstack : stack < 2) (hlit : u.dark = false) : exec (.hbmRetrain t stack temp) s
    = .next (if u.retrainDue stack temp = false then u else ({ u with mem := { u.mem with
        retraining := u.mem.retraining.set stack (), trained := u.mem.trained.set stack (sgn 8 temp) } } : State).postAll 0x0B05 0
          (stack + 256 * (temp % 256))) := by
  change Host.Outcome.next (doHbmRetrain t stack temp s) = _
  simp only [doHbmRetrain, hu, hlit]
  simp [hstack.not_ge]

end Rows

/-- Settles O51. The order of the statuses, that MEM_READ delivers its bytes when some are poisoned (log entry 70) and that HANDED_OVER
is set before the load check of the hand-over (log entry 71) are the model's choices. -/
theorem dmaAndMemory : Obligations.DmaAndMemory := by
  unfold Obligations.DmaAndMemory
  intro c s fl
  refine ⟨fun d e => ⟨dCheck_bad, fun h hshares hno => dCheck_overlap h hshares (.inl hno), fun h hshares hno => dCheck_overlap h hshares (.inr hno),
      dCheck_good⟩,
    fun u r d => ⟨chanStart_good, fun st => chanStart_bad⟩,
    fun hlive e k x hruns hbank => exec_edmaGo_own rfl hlive hruns hbank,
    fun hlive blk k hthere => ⟨exec_bdmaGo_there rfl hlive hthere, exec_bdmaArm_there rfl hlive hthere,
      fun off bs late hfit => exec_bdmaShadowWrite_there rfl hlive hthere hfit⟩,
    fun hlive blk k env hbusy => ⟨exec_dmaTransferDone_success rfl hlive hbusy rfl,
      fun st a hfail => exec_dmaTransferDone_readFailed rfl hlive hbusy rfl hfail⟩,
    fun u blk k st hcmd => ⟨chanDone_ends hcmd, chanDone_hands hcmd⟩,
    layDmaSubmit_checks,
    fun h => ⟨fun hfn hcls => exec_done rfl h (bodyDmaSubmit_class0 rfl hfn hcls),
      fun hext => exec_done rfl h (bodyDmaSubmit_extent rfl hext),
      fun hcls hsrc hdst hown => ⟨fun hbad => exec_done rfl h
          (bodyDmaSubmit_badParam (i := fl.input c) (s := s.advance c.t) rfl rfl rfl rfl hcls hsrc hdst hown hbad),
        fun hreg hpop hlow hmode hgood => ⟨
          fun st hcheck => exec_done rfl h
              (bodyDmaSubmit_loadFails (i := fl.input c) (s := s.advance c.t) rfl rfl rfl rfl hcls hsrc hdst hown hreg hpop hlow hmode hgood hcheck),
          fun hcheck hasleep =>
            exec_done rfl h
                (bodyDmaSubmit_asleep (i := fl.input c) (s := s.advance c.t) rfl rfl rfl rfl hcls hsrc hdst hown hreg hpop hlow
                  hmode hgood hcheck hasleep),
          fun hcheck hawake hbusy hfull =>
            exec_done rfl h
                (bodyDmaSubmit_inUse (i := fl.input c) (s := s.advance c.t) rfl rfl rfl rfl hcls hsrc hdst hown hreg hpop hlow
                  hmode hgood hcheck hawake hbusy hfull),
          fun hcheck hawake hbusy hone hfree =>
            exec_later rfl h
                (bodyDmaSubmit_arms (i := fl.input c) (s := s.advance c.t) rfl rfl rfl rfl hcls hsrc hdst hown hreg hpop hlow
                  hmode hgood hcheck hawake hfree hbusy hone),
          fun hcheck hawake hidle hfree =>
            exec_later rfl h
                (bodyDmaSubmit_starts (i := fl.input c) (s := s.advance c.t) rfl rfl rfl rfl hcls hsrc hdst hown hreg hpop hlow
                  hmode hgood hcheck hawake hfree hidle)⟩⟩⟩,
    fun h => ⟨fun hplace => exec_done rfl h (bodyRegionTableSet_place rfl rfl hplace),
      fun hplace hab hal hlow hhigh => ⟨fun hact hover => exec_done rfl h (bodyRegionTableSet_overlaps rfl rfl hplace hact hover),
        
        fun hact hfull hown => exec_done rfl h (bodyRegionTableSet_full rfl rfl hplace hab hal hlow hhigh hact hfull hown),
        fun hact hnone hown hroom => exec_done rfl h (bodyRegionTableSet_added rfl rfl hplace hab hal hlow hhigh hact hnone hown hroom),
        fun hact hmine => ?removed⟩⟩,
    fun h hkind => ⟨fun hact hbase => exec_done rfl h (bodyPageRetire_noBase hkind rfl hact hbase),
      fun hact hbase hbarred => exec_done rfl h (bodyPageRetire_barred hkind rfl hbase hact hbarred),
      fun hact hbase hopen => ?retired,
      fun hact hbase hopen hhas => exec_done rfl h (bodyPageRetire_returns hkind rfl hbase hopen hact hhas),
      fun hact => exec_done rfl h (bodyPageRetire_lists hkind hact)⟩,
    fun h => ⟨fun hmay => exec_done rfl h (bodyMemRead_mayNot rfl rfl hmay),
      fun hmay hown hacc => exec_done rfl h (bodyMemRead_own rfl rfl hmay hown hacc)⟩,
    fun h => ⟨fun hinject hpart => exec_done rfl h (bodyMemWrite_badInject rfl rfl rfl hinject hpart),
      fun hgood hmay => exec_done rfl h (bodyMemWrite_mayNot rfl rfl rfl hgood (.inl hmay)),
      fun hinject hwhole hfn => exec_done rfl h (bodyMemWrite_mayNot rfl rfl rfl (.inr hwhole) (.inr ⟨hinject, hfn⟩)),
      fun hmay hown hacc => ⟨fun hplain => exec_done rfl h (bodyMemWrite_data rfl rfl rfl hmay hown hacc hplain),
        fun hinject hfn ha hn => exec_done rfl h (bodyMemWrite_poison rfl rfl rfl hmay hown hacc hinject hfn ha hn)⟩⟩,
    fun r hserver => exec_errlogCopy_served rfl hserver,
    fun stack temp hstack hlit => exec_hbmRetrain_lit rfl hstack hlit,
    fun stack => rfl⟩
  case removed =>
    have hbody := bodyRegionTableSet_remove (i := fl.input c) (s := s.advance c.t) rfl rfl hplace hab hal hlow hhigh hact hmine
    intro u
    split
    case isTrue huse => exact exec_done rfl h (hbody.trans (if_pos huse))
    case isFalse hfree => exact exec_done rfl h (hbody.trans (if_neg hfree))
  case retired =>
    have hbody := bodyPageRetire_retires (i := fl.input c) (s := s.advance c.t) hkind rfl hbase hopen hact
    split
    case isTrue hhas => exact exec_done rfl h (hbody.trans (if_pos hhas))
    case isFalse hnew =>
      split
      case isTrue hfull => exact exec_done rfl h (hbody.trans ((if_neg hnew).trans (if_pos hfull)))
      case isFalse hroom => exact exec_done rfl h (hbody.trans ((if_neg hnew).trans (if_neg hroom)))

end Sys2Proof.Machine

/-! PROOFS. Levels, throttling, sleep, wake, retention, pads, the entry to WATCH and resets (chapter 17, R480 to R499). -/

namespace Sys2Proof.Machine

/-! ### Levels and throttling (R481, R482) -/

/-- No command waits: a settling of waits finds nothing to complete. -/
theorem completeWaits_none {s : State} (h : s.host.flights = []) (p : Wait → Option Reply) : s.completeWaits p = s := by
  rw [State.completeWaits, h, List.foldl_nil]

section Levels
variable {i : CmdIn} {s : State}

/-- Every region of a mask takes a new ceiling and throttling threshold. -/
def State.setCeilings (s : State) (m c tc : Nat) : State :=
  (maskRegions m).foldl (fun s r => s.modRegion r fun g => g.toCeiling c tc (g.st == .active || g.st == .idle)) s

theorem bodyPerfLevelSet_eq {u : State} (hu : s.setCeilings (fld i.p 0 2) (fld i.p 2 1) (fld i.p 3 1) = u) :
    bodyPerfLevelSet i s = if u.levelsSet (fld i.p 0 2) then (u, .done (.ok u.levelsWord)) else (u, .later (.perfLevel (fld i.p 0 2))) := by
  subst hu; rfl

theorem toCeiling_spec (g : Region) (x tc : Nat) (aw : Bool) :
    (g.toCeiling x tc aw).ceiling = x ∧ (g.toCeiling x tc aw).throttleC = (if tc = 0 then g.throttleC else tc)
      ∧ (aw = true → g.level ≤ g.ceiling → (g.toCeiling x tc aw).level = x) ∧ (aw = true → x ≤ (g.toCeiling x tc aw).level)
      ∧ (aw = false → (g.toCeiling x tc aw).level = g.level) := by
  refine ⟨rfl, rfl, fun haw hlevel => ?_, fun haw => ?_, fun haw => by simp [Region.toCeiling, haw]⟩
  · simp [Region.toCeiling, haw, hlevel.not_gt]
  · by_cases h : g.ceiling < g.level ∧ x ≤ g.level
    · simp [Region.toCeiling, haw, h]
    · simp [Region.toCeiling, haw, h]

end Levels

section LevelRows
variable {t r : Nat} {s u : State} (hu : s.advance t = u)
include hu

theorem exec_levelChangeDone_alone (hnone : s.host.flights = []) :
    exec (.levelChangeDone t r) s = .next (u.modRegion r fun g => { g with changing := false }) := by
  change Host.Outcome.next (doLevelChangeDone t r s) = _
  rw [doLevelChangeDone, hu, completeWaits_none]
  rw [State.modRegion_host, ← hu, State.advance_host, hnone]

section Throttle
variable (hlevels : r ≤ 12) (hawake : u.asleep r = false) (hlit : u.dark = false) {g : Region} (hg : u.region r = g) {v : Int}
  (hv : thermSixteenths (u.fsc.adc.therm.getD (sensorOf r) 0) = v)
include hlevels hawake hlit hg hv

theorem exec_throttleStep_hot (hhot : 16 * (g.throttleC : Int) < v) :
    exec (.throttleStep t r) s = .next (if g.level < 7 && g.lastStep + usToFrc 100 ≤ u.time.frc
      then (u.modRegion r fun g => { g with level := g.level + 1, lastStep := u.time.frc, changing := true }).postAll 0x0602 1
        (r + 16 * (g.level + 1) + 256 * unsgn 8 (v / 16))
      else u) := by
  change Host.Outcome.next (doThrottleStep t r s) = _
  simp only [doThrottleStep, hu, hasLevels, hlevels, hawake, hlit, hg, hv, hhot]
  simp

theorem exec_throttleStep_between (hcool : v ≤ 16 * (g.throttleC : Int)) (hwarm : 16 * (g.throttleC : Int) < v + 48) :
    exec (.throttleStep t r) s = .next u := by
  change Host.Outcome.next (doThrottleStep t r s) = _
  simp only [doThrottleStep, hu, hasLevels, hlevels, hawake, hlit, hg, hv, hcool.not_gt, hwarm.not_ge]
  simp

theorem exec_throttleStep_cold (hcold : v + 48 ≤ 16 * (g.throttleC : Int)) (hlow : g.ceiling < g.level)
    (hstep : g.lastStep + msToFrc 1 ≤ u.time.frc) {f : Nat} (hcool : g.coolAt = some f) (hlong : f + msToFrc 1 ≤ u.time.frc) :
    exec (.throttleStep t r) s
      = .next ((u.modRegion r fun g => { g with level := g.level - 1, lastStep := u.time.frc, changing := true }).postAll 0x0602 1
        (r + 16 * (g.level - 1) + 256 * unsgn 8 (v / 16) + 65536)) := by
  change Host.Outcome.next (doThrottleStep t r s) = _
  have hnothot : ¬ 16 * (g.throttleC : Int) < v := by omega
  have hdue : (decide (g.ceiling < g.level) && decide (g.lastStep + msToFrc 1 ≤ u.time.frc)
      && g.coolAt.any fun f => f + msToFrc 1 ≤ u.time.frc) = true := by
    rw [hcool, Option.any_some, decide_eq_true hlow, decide_eq_true hstep, decide_eq_true hlong]
    rfl
  simp only [doThrottleStep, hu, hasLevels, hlevels, hawake, hlit, hg, hv, hnothot, hcold, hdue]
  simp

end Throttle
end LevelRows

/-! ### Sleep (R483 to R486, R498) -/

section Sleep
variable {i : CmdIn} {s : State} {m : Nat} (hm : fld i.p 0 2 = m)

/-- L0 may not sleep: a cell that is not HIBERNATED, an enabled peer port, or membership. -/
def State.l0Kept (s : State) (m : Nat) : Bool :=
  m.testBit 13 && ((s.cells.some? fun _ c => c.st != .hibernated) || s.peerEnabled || s.member)

include hm

theorem bodyRegionSleep_l0 (hl0 : s.l0Kept m = true) : bodyRegionSleep i s = (s, .done (.bare .notPermitted)) := by
  rw [State.l0Kept] at hl0
  simp only [bodyRegionSleep, hm, hl0]
  rfl

theorem bodyRegionSleep_asleep (hst : fld i.p 2 1 = 2) (h : ∃ r ∈ maskRegions m, s.asleep r = true) :
    bodyRegionSleep i s = (s, .done (.bare .notPermitted)) := by
  have hany : ((maskRegions m).any fun r => s.asleep r) = true := List.any_eq_true.mpr h
  simp [bodyRegionSleep, hm, hst, hany, refuse]

theorem bodyRegionSleep_off (hst : fld i.p 2 1 = 3) (h : ∃ r ∈ maskRegions m, (s.region r).st = .off) :
    bodyRegionSleep i s = (s, .done (.bare .notPermitted)) := by
  have hany : ((maskRegions m).any fun r => (s.region r).st == .off) = true := by simpa using h
  simp [bodyRegionSleep, hm, hst, hany, refuse]

variable (hl0 : s.l0Kept m = false)
include hl0

theorem bodyRegionSleep_inProgress (hst : fld i.p 2 1 = 1) (h : ∃ r ∈ maskRegions m, s.inSleep r = true) :
    bodyRegionSleep i s = (s, .done (.bare .noResource)) := by
  have hany : (maskRegions m).any s.inSleep = true := List.any_eq_true.mpr h
  rw [State.l0Kept] at hl0
  simp only [bodyRegionSleep, hm, hst, hl0, hany]
  rfl

theorem bodyRegionSleep_policy (hst : fld i.p 2 1 = 1) (h : ∀ r ∈ maskRegions m, s.inSleep r = false) : bodyRegionSleep i s
    = ((maskRegions m).foldl (fun s r => s.modRegion r fun g => { g with idleHold := some (fld i.p 4 2) }) s, .done (.ok (leBytes 2 0xFFFF))) := by
  have hnone : (maskRegions m).any s.inSleep = false := by simpa [List.any_eq_false] using h
  rw [State.l0Kept] at hl0
  simp only [bodyRegionSleep, hm, hst, hl0, hnone]
  rfl

theorem bodyRegionSleep_prepares (hst : 2 ≤ fld i.p 2 1) (h : ∀ r ∈ maskRegions m, s.inSleep r = false ∧ s.asleep r = false)
    (hsome : ∃ r, r ∈ maskRegions m) : bodyRegionSleep i s = (s.prepareSleep
      ⟨m, if fld i.p 2 1 = 2 then .nap else .off, bit (fld i.p 3 1) 0, s.time.frc, i.id, [], [], [], false, s.pow.mode⟩, .later .sleep) := by
  have hnone : (maskRegions m).any s.inSleep = false := by simpa [List.any_eq_false] using fun r hr => (h r hr).1
  have hawake : ((maskRegions m).any fun r => s.asleep r) = false := by simpa [List.any_eq_false] using fun r hr => (h r hr).2
  have hnotoff : ((maskRegions m).any fun r => (s.region r).st == .off) = false := by
    simp only [List.any_eq_false, beq_iff_eq]
    intro r hr hoff
    simpa [State.asleep, hoff] using (h r hr).2
  have hnotall : (maskRegions m).all s.asleep = false := by
    obtain ⟨r, hr⟩ := hsome
    exact List.all_eq_false.mpr ⟨r, hr, by simp [(h r hr).2]⟩
  rw [State.l0Kept] at hl0
  simp only [bodyRegionSleep, hm, hl0, hawake, hnotoff, hnone, hnotall, show fld i.p 2 1 ≠ 1 by omega]
  simp

end Sleep

section SleepRows
variable {t : Nat} {s u : State} (hu : s.advance t = u) (hlive : u.stopped = false)
include hu hlive

section Answer
variable {blk : Nat} {op : SleepOp} (hop : (u.pow.sleeps.find? fun o => o.pendBlocks.contains blk) = some op)
include hop

theorem exec_blockSleepAnswer_refuses (hans : u.sleepAnswer op blk = some false) :
    exec (.blockSleepAnswer t blk) s = .next (u.abortSleep op blk) := by
  change Host.Outcome.next (doBlockSleepAnswer t blk s) = _
  simp only [doBlockSleepAnswer, hu, hlive, hop, hans, refuserOf]
  simp

theorem exec_blockSleepAnswer_agrees (hans : u.sleepAnswer op blk = some true) :
    let op' := { op with pendBlocks := op.pendBlocks.filter (· != blk) }
    exec (.blockSleepAnswer t blk) s = .next (if op'.pendBlocks = [] then u.commitSleep op'
      else { u with pow := { u.pow with sleeps := u.pow.sleeps.map fun o => if o.cmd = op.cmd then op' else o } }) := by
  change Host.Outcome.next (doBlockSleepAnswer t blk s) = _
  simp only [doBlockSleepAnswer, hu, hlive, hop, hans, List.isEmpty_iff]
  simp

end Answer

theorem exec_sleepAnswerTimeout_due {op : SleepOp} (hop : (u.pow.sleeps.find? fun o => o.start + usToFrc 100 ≤ u.time.frc) = some op) :
    exec (.sleepAnswerTimeout t) s = .next (u.abortSleep op (op.pendBlocks.headD 0)) := by
  change Host.Outcome.next (doSleepAnswerTimeout t s) = _
  simp only [doSleepAnswerTimeout, hu, hlive, hop, refuserOf]
  simp

end SleepRows

section Answers
variable {s : State} {op : SleepOp} {blk : Nat} (hfence : s.blkFenced blk = false)
include hfence

theorem sleepAnswer_dma (hdma : s.bdmaBusy blk = true) : s.sleepAnswer op blk = some false := by
  simp [State.sleepAnswer, hfence, hdma]

variable (htouched : op.touched = []) (hdma : s.bdmaBusy blk = false) (hidle : s.blockBusy blk = false)
include htouched hdma hidle

theorem sleepAnswer_lines (hlines : s.commitHeld blk = true) : s.sleepAnswer op blk = some false := by
  simp [State.sleepAnswer, hfence, htouched, hdma, hidle, hlines]

theorem sleepAnswer_agrees (hlines : s.commitHeld blk = false) (hquiet : s.meshQuiet blk = true) : s.sleepAnswer op blk = some true := by
  simp [State.sleepAnswer, hfence, htouched, hdma, hidle, hlines, hquiet]

end Answers

theorem refuseRsvs_pow (s : State) (r : Nat) : (s.refuseRsvs r).pow = s.pow :=
  List.foldlRecOn _ _ (motive := fun u : State => u.pow = s.pow) rfl fun _ h _ _ => h

theorem postRegion_pow (s : State) (r : Nat) : (s.postRegion r).pow = s.pow := (postAll_onlyMem ..).pow

/-- What a region's power state holds in NAP. -/
def Region.napped (g : Region) (auto : Bool) : Region :=
  { g with st := .nap, prepare := false, idleHold := none, autoWake := auto, changing := false, waking := none }

theorem sleepRegion_nap {s : State} {r : Nat} (h : r ≠ 13) (auto : Bool) :
    (s.sleepRegion r .nap auto).region r = (s.region r).napped auto := by
  have hpow : (s.sleepRegion r .nap auto).pow = (s.modRegion r fun g => g.napped auto).pow := by
    simp only [State.sleepRegion, if_neg h]
    rw [postRegion_pow, refuseRsvs_pow]
    rfl
  rw [State.region, hpow]
  exact Tab.get_mod_listed (f := fun g => Region.napped g auto) fun hreset => nomatch congrArg Region.st hreset

/-! ### IDLE and wakes (R480, R487) -/

section IdleRows
variable {t r : Nat} {s u : State} (hu : s.advance t = u) (hlive : u.stopped = false)
include hu hlive

/-- A block that meets R483: no task on an engine, no busy channel, no buffered line, nothing outstanding on the mesh. -/
def State.blockQuiet (s : State) (k : Nat) : Bool := !s.blockBusy k && !s.bdmaBusy k && !s.commitHeld k && s.meshQuiet k

section Idle
variable {h : Nat} (hpolicy : (u.region r).idleHold = some h) (hst : (u.region r).st = .active) (hprep : (u.region r).prepare = false)
  (hready : (u.car.tasks.some? fun _ t => t.st == .ready && t.region == some r) = false)
include hpolicy hst hprep hready

theorem exec_idleEntry_eq : exec (.idleEntry t r) s = .next (if (List.range (regBlocks r)).all fun b => u.blockQuiet (r * 4 + b)
    then u.modRegion r fun g => { g with st := .idle } else u) := by
  change Host.Outcome.next (doIdleEntry t r s) = _
  simp only [doIdleEntry, hu, hlive, hpolicy, hst, hprep, hready]
  simp [State.blockQuiet]

theorem exec_idleEntry_quiet (hquiet : ∀ b < regBlocks r, u.blockBusy (r * 4 + b) = false ∧ u.bdmaBusy (r * 4 + b) = false
    ∧ u.commitHeld (r * 4 + b) = false ∧ u.meshQuiet (r * 4 + b) = true) :
    exec (.idleEntry t r) s = .next (u.modRegion r fun g => { g with st := .idle }) := by
  have hall : ((List.range (regBlocks r)).all fun b => u.blockQuiet (r * 4 + b)) = true := by
    simp only [List.all_eq_true, List.mem_range]
    intro b hb
    obtain ⟨hbusy, hdma, hlines, hmesh⟩ := hquiet b hb
    simp [State.blockQuiet, hbusy, hdma, hlines, hmesh]
  rw [exec_idleEntry_eq hu hlive hpolicy hst hprep hready, if_pos hall]

theorem exec_idleEntry_busy {b : Nat} (hb : b < regBlocks r) (hbusy : u.blockBusy (r * 4 + b) = true) :
    exec (.idleEntry t r) s = .next u := by
  have hall : ((List.range (regBlocks r)).all fun b => u.blockQuiet (r * 4 + b)) = false :=
    List.all_eq_false.mpr ⟨b, List.mem_range.mpr hb, by simp [State.blockQuiet, hbusy]⟩
  rw [exec_idleEntry_eq hu hlive hpolicy hst hprep hready, hall, if_neg Bool.false_ne_true]

end Idle

theorem exec_regionActive_waking {f : Nat} (hwaking : (u.region r).waking = some f) (hasleep : u.asleep r = true) :
    exec (.regionActive t r) s = .next ((((u.regionUp r).postRegion r).takeHeld r).settleRegions) := by
  change Host.Outcome.next (doRegionActive t r s) = _
  simp [doRegionActive, hu, hlive, hwaking, hasleep]

end IdleRows

section WakeBodies
variable {i : CmdIn} {s : State}

/-- Every region of a mask that no sleep in progress names is roused, and its IDLE policy ends. -/
def State.rouseAll (s : State) (m : Nat) : State :=
  (maskRegions m).foldl (fun s r => if s.inSleep r then s else (s.rouse r).modRegion r fun g => { g with idleHold := none }) s

theorem bodyRegionWake_eq {u : State} (hu : s.rouseAll (fld i.p 0 2) = u) : bodyRegionWake i s
    = if u.allUp (fld i.p 0 2) then (u, .done (.ok [])) else (u, .later (.regionWake (fld i.p 0 2))) := by
  subst hu; rfl

/-! ### Retention, pads and WATCH (R490 to R495) -/

theorem bodyRetentionMap_nap (hnap : (s.region (fld i.p 0 1)).st = .nap) : bodyRetentionMap i s = (s, .done (.bare .notPermitted)) := by
  simp [bodyRetentionMap, hnap, refuse]

theorem bodyRetentionMap_set (hnot : (s.region (fld i.p 0 1)).st ≠ .nap) :
    let u := s.modRegion (fld i.p 0 1) fun g => { g with retention := fld i.p 8 16 }
    bodyRetentionMap i s = (u, .done (.ok (leBytes 2 (u.keptBanks (fld i.p 0 1)).length
      ++ leBytes 2 ((maskBits (fld i.p 8 16) (retBanks (fld i.p 0 1))).length - (u.keptBanks (fld i.p 0 1)).length)))) := by
  simp [bodyRetentionMap, hnot, ok]

theorem bodyPadRelease_l0Asleep (hasleep : s.asleep 13 = true) (hpads : fld i.p 0 4 ≠ 0 ∨ fld i.p 4 1 ≠ 0) :
    bodyPadRelease i s = (s, .done (.bare .notPermitted)) := by
  have hany : (fld i.p 0 4 != 0 || fld i.p 4 1 != 0) = true := by simpa using hpads
  simp only [bodyPadRelease, hasleep, hany]
  rfl

/-- The pads that PAD_RELEASE names are no longer held. -/
def State.padsReleased (s : State) (p : List Byte) : State := { s with pow := { s.pow with
  heldQuads := maskMinus s.pow.heldQuads (fld p 0 4), heldPeer := maskMinus s.pow.heldPeer (fld p 4 1)
  heldCtrl := s.pow.heldCtrl && !bit (fld p 5 1) 0, heldGpio := maskMinus s.pow.heldGpio (fld p 6 2) } }

theorem bodyPadRelease_released (hawake : s.asleep 13 = false) : bodyPadRelease i s = ((s.padsReleased i.p).settleAllTx,
    .done (.ok (leBytes 4 (s.padsReleased i.p).pow.heldQuads ++ leBytes 1 (s.padsReleased i.p).pow.heldPeer
      ++ leBytes 1 (b2n (s.padsReleased i.p).pow.heldCtrl) ++ leBytes 2 (s.padsReleased i.p).pow.heldGpio))) := by
  simp only [bodyPadRelease, hawake]
  rfl

section Watch

/-- WATCH may be entered: from READY or SERVICE, every cell HIBERNATED, no migration, no membership, and no cell unless HBM is kept. -/
def State.watchMay (s : State) (retain : Bool) : Prop :=
  (s.pow.mode = .ready ∨ s.pow.mode = .service) ∧ (s.cells.some? fun _ c => c.st != .hibernated) = false ∧ s.migrating = false
    ∧ s.member = false ∧ (retain = true ∨ s.cells = [])

/-- What WATCH_ENTER tests first. -/
def State.watchBarred (s : State) (retain : Bool) : Bool :=
  !(s.pow.mode == .ready || s.pow.mode == .service) || (s.cells.some? fun _ c => c.st != .hibernated) || s.migrating || s.member
    || (!retain && !s.cells.isEmpty)

theorem watchBarred_eq_false {retain : Bool} : s.watchBarred retain = false ↔ s.watchMay retain := by
  simp only [State.watchBarred, State.watchMay, Bool.or_eq_false_iff, Bool.and_eq_false_iff, Bool.not_eq_false', Bool.or_eq_true,
    beq_iff_eq, List.isEmpty_iff, and_assoc]

theorem bodyWatchEnter_eq : bodyWatchEnter i s = if s.watchBarred (bit (fld i.p 0 1) 0) then refuse s .notPermitted
    else if !s.pow.sleeps.isEmpty then refuse s .noResource
    else ((s.enterMode .drain).prepareSleep ⟨65535, .watch, false, s.time.frc, i.id, [], [], [], bit (fld i.p 0 1) 0, s.pow.mode⟩,
      .later .sleep) := rfl

theorem bodyWatchEnter_mayNot (hnot : ¬ s.watchMay (bit (fld i.p 0 1) 0)) : bodyWatchEnter i s = (s, .done (.bare .notPermitted)) := by
  rw [← watchBarred_eq_false, Bool.not_eq_false] at hnot
  rw [bodyWatchEnter_eq, if_pos hnot, refuse]

variable (hmay : s.watchMay (bit (fld i.p 0 1) 0))
include hmay

theorem bodyWatchEnter_sleeping (hsleeps : s.pow.sleeps ≠ []) : bodyWatchEnter i s = (s, .done (.bare .noResource)) := by
  rw [bodyWatchEnter_eq, watchBarred_eq_false.mpr hmay]
  simp [hsleeps, refuse]

theorem bodyWatchEnter_drains (hsleeps : s.pow.sleeps = []) : bodyWatchEnter i s = ((s.enterMode .drain).prepareSleep
    ⟨65535, .watch, false, s.time.frc, i.id, [], [], [], bit (fld i.p 0 1) 0, s.pow.mode⟩, .later .sleep) := by
  rw [bodyWatchEnter_eq, watchBarred_eq_false.mpr hmay]
  simp [hsleeps]

end Watch

/-! ### RESET_SCOPE and the return to service (R72, R499) -/

section Reset

theorem bodyResetScope_chip (hscope : fld i.p 0 1 = 2) : bodyResetScope i s
    = (s.modHost fun h => { h with warmAt := some (h.warmAt.getD (s.time.frc + msToFrc 1)) }, .done (.ok [])) := by
  simp [bodyResetScope, hscope, ok]

variable {kind x r : Nat} (hscope : fld i.p 0 1 ≠ 2) (hkind : 2 * fld i.p 0 1 = kind) (hx : fld i.p 2 2 = x)
include hscope hkind hx

theorem bodyResetScope_noTarget (hpop : targetPop kind x = false) : bodyResetScope i s = (s, .done (.bare .badParam)) := by
  simp [bodyResetScope, hscope, hkind, hx, hpop, refuse]

variable (hr : targetRegion kind x = r) (hpop : targetPop kind x = true)
include hr hpop

theorem bodyResetScope_barred (hhigh : 14 ≤ r) : bodyResetScope i s = (s, .done (.bare .notPermitted)) := by
  simp [bodyResetScope, hscope, hkind, hx, hr, hpop, hhigh, refuse]

variable (hlow : r < 14)
include hlow

theorem bodyResetScope_inUse (huse : ((s.region r).prepare || s.bistOn kind x) = true) :
    bodyResetScope i s = (s, .done (.bare .noResource)) := by
  simp only [bodyResetScope, hscope, hkind, hx, hr, hpop, huse, hlow.not_ge]
  rfl

variable (hprep : (s.region r).prepare = false) (hbist : s.bistOn kind x = false)
include hprep hbist

theorem bodyResetScope_asleep (hasleep : s.asleep r = true) : bodyResetScope i s = (s, .done (.bare .domainAsleep)) := by
  simp [bodyResetScope, hscope, hkind, hx, hr, hpop, hlow.not_ge, hprep, hbist, hasleep, refuse]

theorem bodyResetScope_starts (hawake : ¬ s.asleep r = true) : bodyResetScope i s
    = ((s.logMelvi r (targetUnit kind x).1 (targetUnit kind x).2).startReset kind x, .later (.reset kind x)) := by
  simp [bodyResetScope, hscope, hkind, hx, hr, hpop, hlow.not_ge, hprep, hbist, hawake]

end Reset
end WakeBodies

section Return

/-- With no resident kernel, the engines of a target take work again and nothing is reloaded. -/
theorem foldl_returned (es : List Nat) {s : State} (h : s.kernels = []) :
    es.foldl (fun s e => (if engType e = some 1 then s.reloadEngine e else s).modEng e fun r => { r with down := false }) s
      = es.foldl (fun s e => s.modEng e fun r => { r with down := false }) s := by
  induction es generalizing s with
  | nil => rfl
  | cons e es ih =>
    have hreload : s.reloadEngine e = s := by rw [State.reloadEngine, h, List.foldl_nil]
    rw [List.foldl_cons, List.foldl_cons, hreload, ite_self]
    exact ih (s := s.modEng e fun r => { r with down := false }) h

theorem foldl_up_host (es : List Nat) (s : State) :
    (es.foldl (fun s e => s.modEng e fun r => { r with down := false }) s).host = s.host :=
  List.foldlRecOn _ _ (motive := fun u : State => u.host = s.host) rfl fun _ h _ _ => h

theorem exec_returnToService_alone {t kind target : Nat} {s u : State} (hu : s.advance t = u) (hlive : u.stopped = false)
    (hreset : u.fault.resetAt.has (targetKey kind target) = true) (hnone : u.host.flights = []) (hkernels : u.kernels = []) :
    exec (.returnToService t kind target) s
      = .next (((targetEngines kind target).foldl (fun s e => s.modEng e fun r => { r with down := false }) u).modFault fun f =>
        { f with resetAt := f.resetAt.keep fun k _ => !targetIn (k / 4096) (k % 4096) kind target }) := by
  change Host.Outcome.next (doReturnToService t kind target s) = _
  have hflights := (congrArg HostIf.flights (foldl_up_host (targetEngines kind target) u)).trans hnone
  simp only [doReturnToService, hu, hlive, hreset, foldl_returned _ hkernels]
  generalize (targetEngines kind target).foldl (fun s e => s.modEng e fun r => { r with down := false }) u = w at hflights ⊢
  have hquiet : (w.modFault fun f => { f with
      resetAt := f.resetAt.keep fun k _ => !targetIn (k / 4096) (k % 4096) kind target }).unfencing kind target = false := by
    rw [State.unfencing]
    exact (congrArg (fun l : List Flight => l.any fun f => f.wait == some (.unfence kind target)) hflights).trans rfl
  rw [completeWaits_none (s := w.modFault _) hflights]
  simp [hquiet]

end Return

/-- Settles O53. That a RESET_SCOPE of the chip keeps the earlier time of a WARM reset already due, and that a target in PREPARE or in
self-test is answered NO_RESOURCE, are the model's choices (log entry 102). -/
theorem power : Obligations.Power := by
  unfold Obligations.Power
  intro c s fl
  refine ⟨fun h => ?perf, toCeiling_spec,
    fun r hnone => exec_levelChangeDone_alone rfl hnone,
    fun r hlevels hawake hlit => ⟨exec_throttleStep_hot rfl hlevels hawake hlit rfl rfl,
      exec_throttleStep_between rfl hlevels hawake hlit rfl rfl,
      fun hcold hlow hstep f hcool hlong => exec_throttleStep_cold rfl hlevels hawake hlit rfl rfl hcold hlow hstep hcool hlong⟩,
    fun h => ⟨fun hl0 => exec_done rfl h (bodyRegionSleep_l0 rfl hl0),
      fun hst hany => exec_done rfl h (bodyRegionSleep_asleep rfl hst hany),
      fun hst hany => exec_done rfl h (bodyRegionSleep_off rfl hst hany),
      fun hl0 hst hany => exec_done rfl h (bodyRegionSleep_inProgress rfl hl0 hst hany),
      fun hl0 hst hnone => exec_done rfl h (bodyRegionSleep_policy rfl hl0 hst hnone),
      fun hl0 hst hall hsome => exec_later rfl h (bodyRegionSleep_prepares rfl hl0 hst hall hsome)⟩,
    fun hlive blk op hop => ⟨exec_blockSleepAnswer_refuses rfl hlive hop, exec_blockSleepAnswer_agrees rfl hlive hop⟩,
    fun u op blk hfence => ⟨sleepAnswer_dma hfence, sleepAnswer_lines hfence, sleepAnswer_agrees hfence⟩,
    fun hlive op hop => exec_sleepAnswerTimeout_due rfl hlive hop,
    fun u op r => ?nap,
    fun hlive r x hpolicy hst hprep hready => ⟨exec_idleEntry_quiet rfl hlive hpolicy hst hprep hready,
      fun b hb hbusy => exec_idleEntry_busy rfl hlive hpolicy hst hprep hready hb hbusy⟩,
    fun h => ?wake,
    fun hlive r f hwaking hasleep => exec_regionActive_waking rfl hlive hwaking hasleep,
    fun h => ⟨fun hnap => exec_done rfl h (bodyRetentionMap_nap hnap), fun hnot => exec_done rfl h (bodyRetentionMap_set hnot)⟩,
    fun h => ⟨fun hasleep hpads => exec_done rfl h (bodyPadRelease_l0Asleep hasleep hpads),
      fun hawake => exec_done rfl h (bodyPadRelease_released hawake)⟩,
    fun h => ⟨fun hnot => exec_done rfl h (bodyWatchEnter_mayNot hnot),
      fun hmay hsleeps => exec_done rfl h (bodyWatchEnter_sleeping hmay hsleeps),
      fun hmay hsleeps => exec_later rfl h (bodyWatchEnter_drains hmay hsleeps)⟩,
    fun h => ⟨fun hscope => exec_done rfl h (bodyResetScope_chip hscope),
      fun hscope hpop => exec_done rfl h (bodyResetScope_noTarget hscope rfl rfl hpop),
      fun hscope hpop hhigh => exec_done rfl h (bodyResetScope_barred hscope rfl rfl rfl hpop hhigh),
      fun hscope hpop hlow huse => exec_done rfl h (bodyResetScope_inUse hscope rfl rfl rfl hpop hlow huse),
      fun hscope hpop hlow hprep hbist => ?reset⟩,
    fun hlive kind target hreset hnone hkernels => exec_returnToService_alone rfl hlive hreset hnone hkernels⟩
  case perf =>
    have hbody := bodyPerfLevelSet_eq (i := fl.input c) (s := s.advance c.t) rfl
    intro u
    split
    case isTrue hset => exact exec_done rfl h (hbody.trans (if_pos hset))
    case isFalse hchanging => exact exec_later rfl h (hbody.trans (if_neg hchanging))
  case nap =>
    by_cases hr : r = 13
    · exact .inr hr
    · exact .inl (sleepRegion_nap hr op)
  case wake =>
    have hbody := bodyRegionWake_eq (i := fl.input c) (s := s.advance c.t) rfl
    intro u
    split
    case isTrue hup => exact exec_done rfl h (hbody.trans (if_pos hup))
    case isFalse hdown => exact exec_later rfl h (hbody.trans (if_neg hdown))
  case reset =>
    split
    case isTrue hasleep => exact exec_done rfl h (bodyResetScope_asleep hscope rfl rfl rfl hpop hlow hprep hbist hasleep)
    case isFalse hawake => exact exec_later rfl h (bodyResetScope_starts hscope rfl rfl rfl hpop hlow hprep hbist hawake)

end Sys2Proof.Machine

/-! PROOFS. Supplies, POR and WARM, boot and the wake from WATCH (chapter 17, R476, R477, R496, R499; chapter 20, R561, R562; chapter 22,
R618, R619). -/

namespace Sys2Proof.Machine

/-! ### POR and the rails (R618, R619) -/

theorem exec_por_release {t : Nat} {raw : List Nat} {s : State} (hlow : s.pins.porN = false) (haon : s.pins.vddAon = true) :
    let u : State := { s.off with pins := ⟨true, true, true, none, none, false⟩ }
    exec (.por t raw) s = .next (if railsOk (u.railCodes raw) then u.enterBoot else u) := by
  change Host.Outcome.next (doPor raw s) = _
  simp [doPor, hlow, haon]

section Rows
variable {t : Nat} {s u : State} (hu : s.advance t = u)
include hu

theorem exec_vddAonInTolerance_rises (hoff : u.pins.vddAon = false) :
    exec (.vddAonInTolerance t) s = .next { u with pins := { u.pins with vddAon := true, tocsin := !u.pins.porN } } := by
  change Host.Outcome.next (doVddAonInTolerance t s) = _
  simp [doVddAonInTolerance, hu, hoff]

/-! ### The monitored rails -/

section Rails
variable {raw : List Nat} {serves good : Bool} (haon : u.pins.vddAon = true) (hpor : u.pins.porN = true)
  (hgood : railsOk (u.railCodes raw) = good)
include haon hpor hgood

section Off
variable (hoff : u.pow.mode = .off)
include hoff

theorem exec_railMonitorPoll_settling (hok : good = true) (hfirst : u.pins.okSince = none) :
    exec (.railMonitorPoll t raw serves) s = .next { u with pins := { u.pins with okSince := some u.time.frc } } := by
  change Host.Outcome.next (doRailMonitorPoll t raw serves s) = _
  simp [doRailMonitorPoll, hu, haon, hpor, hgood, hoff, hok, hfirst]

theorem exec_railMonitorPoll_settled (hok : good = true) {f : Nat} (hsince : u.pins.okSince = some f) :
    exec (.railMonitorPoll t raw serves) s = .next (if f + msToFrc 2 ≤ u.time.frc then u.enterBoot else u) := by
  change Host.Outcome.next (doRailMonitorPoll t raw serves s) = _
  simp [doRailMonitorPoll, hu, haon, hpor, hgood, hoff, hok, hsince]

theorem exec_railMonitorPoll_unsettled (hbad : good = false) :
    exec (.railMonitorPoll t raw serves) s = .next { u with pins := { u.pins with okSince := none } } := by
  change Host.Outcome.next (doRailMonitorPoll t raw serves s) = _
  simp [doRailMonitorPoll, hu, haon, hpor, hgood, hoff, hbad]

end Off

section On
variable (hon : u.pow.mode ≠ .off)
include hon

theorem exec_railMonitorPoll_good (hok : good = true) :
    exec (.railMonitorPoll t raw serves) s = .next { u with pins := { u.pins with badSince := none } } := by
  change Host.Outcome.next (doRailMonitorPoll t raw serves s) = _
  simp [doRailMonitorPoll, hu, haon, hpor, hgood, hon, hok]

theorem exec_railMonitorPoll_bad (hbad : good = false) (hfirst : u.pins.badSince = none) :
    exec (.railMonitorPoll t raw serves) s = .next { u with pins := { u.pins with badSince := some u.time.frc } } := by
  change Host.Outcome.next (doRailMonitorPoll t raw serves s) = _
  simp [doRailMonitorPoll, hu, haon, hpor, hgood, hon, hbad, hfirst]

theorem exec_railMonitorPoll_fault (hbad : good = false) {f : Nat} (hsince : u.pins.badSince = some f) (hlong : f + msToFrc 1 ≤ u.time.frc) :
    exec (.railMonitorPoll t raw serves) s
      = .next (({ u with pins := { u.pins with badSince := none } } : State).fatalChip 2 (initId 15 0 0) serves) := by
  change Host.Outcome.next (doRailMonitorPoll t raw serves s) = _
  simp only [doRailMonitorPoll, hu, haon, hpor, hgood, hon, hbad, hsince, if_pos hlong]
  rfl

end On
end Rails

/-! ### WARM resets (R72, R499) -/

section Warm

theorem exec_warmReset_pin (hon : u.pow.mode ≠ .off) : exec (.warmReset t true) s = .next u.warm := by
  change Host.Outcome.next (doWarmReset t true s) = _
  simp [doWarmReset, hu, hon]

theorem exec_warmReset_due (hon : u.pow.mode ≠ .off) (hdue : ∃ f, u.host.warmAt = some f ∧ f ≤ u.time.frc) :
    exec (.warmReset t false) s = .next u.warm := by
  change Host.Outcome.next (doWarmReset t false s) = _
  obtain ⟨f, hf, hle⟩ := hdue
  simp [doWarmReset, hu, hon, hf, hle]

theorem exec_warmReset_notDue (hnone : u.host.warmAt = none) : exec (.warmReset t false) s = .next u := by
  change Host.Outcome.next (doWarmReset t false s) = _
  simp [doWarmReset, hu, hnone]

end Warm

/-! ### Boot (R477, R561, R562) -/

section Boot
variable (hboot : u.pow.mode = .boot)
include hboot

theorem exec_domeBoot_first (hnobody : u.host.server = .nobody) : exec (.domeBoot t) s = .next u.bootMelvi := by
  change Host.Outcome.next (doDomeBoot t s) = _
  simp [doDomeBoot, hu, hboot, hnobody]

variable (hmelvi : u.host.server = .melvi)
include hmelvi

theorem exec_bootFallback_late {x : Nat} (hslot : u.dome.slot = some x) (hlate : u.dome.startAt + msToFrc 2000 ≤ u.time.frc) :
    exec (.bootFallback t) s = .next (if !headerConfirmed (u.slotHeader x) && u.slotOk (1 - x)
      then (u.erase (slotBase x) 4096).bootMelvi else u) := by
  change Host.Outcome.next (doBootFallback t s) = _
  simp [doBootFallback, hu, hboot, hmelvi, hslot, hlate]

theorem exec_bootComplete_boot : exec (.bootComplete t) s
    = .next ((if fld (u.bytesAt (hbmDump + 16) 4) 0 4 = 1 then u else u.write melviWho hbmDump u.logHeader false).divideSlots.enterMode .ready) := by
  change Host.Outcome.next (doBootComplete t s) = _
  simp [doBootComplete, hu, hboot, hmelvi]

end Boot

/-! ### The wake from WATCH (R487, R496, R525) -/

section Watch
variable {w : WatchSt} (hwatch : u.pow.watch = some w) (hmode : u.pow.mode = .watch)
include hwatch hmode

section Begin
variable {perst : Bool} (hasleep : w.waking = none) (hasked : (perst || u.fsc.wakeReq) = true)
include hasleep hasked

theorem exec_watchWake_retained (hretain : w.hbmRetain = true) : exec (.watchWake t perst) s
    = .next { u with pow := { u.pow with watch := some { w with waking := some u.time.frc } } } := by
  change Host.Outcome.next (doWatchWake t perst s) = _
  simp only [doWatchWake, hu, hwatch, hmode, hasleep, hasked, hretain]
  rfl

theorem exec_watchWake_lost (hlost : w.hbmRetain = false) : exec (.watchWake t perst) s = .next u.wakeToBoot := by
  change Host.Outcome.next (doWatchWake t perst s) = _
  simp only [doWatchWake, hu, hwatch, hmode, hasleep, hasked, hlost]
  rfl

end Begin

/-- Every region is powered again, WATCH is over, and Melvi serves. -/
def State.restored (s : State) : State :=
  let u := (List.range 14).foldl (fun s r => s.regionFromWatch r) s
  let u : State := { u with pow := { u.pow with watch := none } }
  u.modHost fun h => { h with server := .melvi }

theorem exec_watchWakeComplete_waking {f : Nat} (hwaking : w.waking = some f) :
    let v := u.restored.enterMode (if u.restored.cells.isEmpty then .ready else .service)
    exec (.watchWakeComplete t) s
      = .next (v.modFsc fun f => { f with wakeReq := false, deferred := 0, pcieWake := f.pcieWake || bit f.deferred 1 }).settleWakes := by
  change Host.Outcome.next (doWatchWakeComplete t s) = _
  simp only [doWatchWakeComplete, hu, hwatch, hmode, hwaking]
  simp [State.restored]

end Watch

theorem exec_pciePerstNRelease_awake (hnone : u.pow.watch = none) :
    exec (.pciePerstNRelease t) s = .next (u.modFsc fun x => { x with pcieWake := false }) := by
  change Host.Outcome.next (doPciePerstNRelease t s) = _
  simp [doPciePerstNRelease, hu, hnone]

end Rows

/-- Settles O54. That rails which fall out of tolerance start the 2 ms again, what WARM clears beyond Table 17-7 (log entry 101), and that
a deferred HOST_WAKE asserts PCIE_WAKE_N at the end of the wake (log entry 100) are the model's choices. -/
theorem suppliesAndBoot : Obligations.SuppliesAndBoot := by
  unfold Obligations.SuppliesAndBoot
  intro t s
  refine ⟨fun raw => exec_por_release,
    ⟨rfl, rfl, rfl, rfl, rfl, rfl, rfl, rfl, rfl, rfl, rfl, rfl, rfl, rfl, rfl⟩, rfl, rfl,
    exec_vddAonInTolerance_rises rfl,
    fun raw sv haon hpor => ⟨exec_railMonitorPoll_settling rfl haon hpor rfl,
      fun hoff hok f hsince => exec_railMonitorPoll_settled rfl haon hpor rfl hoff hok hsince,
      exec_railMonitorPoll_unsettled rfl haon hpor rfl, exec_railMonitorPoll_good rfl haon hpor rfl,
      exec_railMonitorPoll_bad rfl haon hpor rfl,
      fun hon hbad f hsince hlong => exec_railMonitorPoll_fault rfl haon hpor rfl hon hbad hsince hlong⟩,
    exec_warmReset_pin rfl, exec_warmReset_due rfl, exec_warmReset_notDue rfl,
    ⟨rfl, rfl, rfl, rfl, rfl, rfl, rfl, rfl, rfl, rfl, rfl, rfl, rfl, rfl, rfl, rfl, rfl, rfl, rfl, rfl, rfl, rfl, rfl⟩,
    exec_domeBoot_first rfl, fun x hslot hboot hmelvi hlate => exec_bootFallback_late rfl hboot hmelvi hslot hlate,
    exec_bootComplete_boot rfl,
    fun w perst hwatch hmode hasleep hasked => ⟨exec_watchWake_retained rfl hwatch hmode hasleep hasked,
      exec_watchWake_lost rfl hwatch hmode hasleep hasked⟩,
    fun w f hwatch hmode hwaking => exec_watchWakeComplete_waking rfl hwatch hmode hwaking,
    exec_pciePerstNRelease_awake rfl⟩

end Sys2Proof.Machine

/-! PROOFS. Chime reception and the rule engine of the Finderscope (chapter 18, R506, R510, R522, R524). -/

namespace Sys2Proof.Machine

/-! ### Table 18-4, a row each (R506, R510) -/

section Chime
variable {s : State} {n : Nat} {x : FscStream} (hx : s.fsc.streams.find? n = some x)
include hx

theorem chimeEv_ignored (ev : ChimeEv) (h : ev.frc < x.validAt ∨ s.time.frc < ev.frc) : s.chimeEv n ev = s := by
  rcases h with h | h <;> simp [State.chimeEv, hx, h]

variable (hopen : x.opened = true) (hchime : x.chime = true) {f : Nat} (hvalid : x.validAt ≤ f) (hcome : f ≤ s.time.frc)
include hopen hchime hvalid hcome

section Detect
variable {num den sum g : Nat}

omit hopen hchime hvalid hcome in
theorem chimeEv_detect_weak (hweak : num * 256 < fld x.cfg 22 1 * den) : s.chimeEv n (.detect f num den sum g) = s := by
  simp [State.chimeEv, hx, hweak]

variable (hden : 0 < den) (hstrong : fld x.cfg 22 1 * den ≤ num * 256)
include hden hstrong

theorem chimeEv_detect_first (hrx : x.rx = .search) :
    s.chimeEv n (.detect f num den sum g) = (s.fscCount n 0).putFsc n (x.detected f (powerLevel sum 128) g) := by
  simp [State.chimeEv, hx, hopen, hchime, hvalid.not_gt, hcome.not_gt, hden.ne', hstrong.not_gt, hrx, ChimeEv.frc]

theorem chimeEv_detect_stronger (hrx : x.rx ≠ .search) (hmore : x.latched + fld x.cfg 7 1 ≤ powerLevel sum 128) :
    s.chimeEv n (.detect f num den sum g) = (s.fscCount n 3).putFsc n (x.detected f (powerLevel sum 128) g) := by
  simp [State.chimeEv, hx, hopen, hchime, hvalid.not_gt, hcome.not_gt, hden.ne', hstrong.not_gt, hrx, hmore, ChimeEv.frc]

theorem chimeEv_detect_weaker (hrx : x.rx ≠ .search) (hless : powerLevel sum 128 < x.latched + fld x.cfg 7 1) :
    s.chimeEv n (.detect f num den sum g) = s.fscCount n 4 := by
  simp [State.chimeEv, hx, hopen, hchime, hvalid.not_gt, hcome.not_gt, hden.ne', hstrong.not_gt, hrx, hless.not_ge, ChimeEv.frc]

end Detect

section Sync
variable {w sum : Nat} (hrx : x.rx = .syncWait)
include hrx

theorem chimeEv_sync_found (htime : f ≤ x.detAt + usToFrc 400) (hword : (maskBits (w ^^^ 0xC35A1E6D) 32).length ≤ 3) :
    s.chimeEv n (.sync f w sum)
      = s.putFsc n { x with rx := .receive, syncAt := f, rssi := powerLevel sum 256, latched := powerLevel sum 256 } := by
  simp only [State.chimeEv, hx, hopen, hchime, ChimeEv.frc, hvalid.not_gt, hcome.not_gt, hrx, htime.not_gt, hword.not_gt]
  rfl

omit hopen hchime hvalid hcome hrx in
theorem chimeEv_sync_none (h : 3 < (maskBits (w ^^^ 0xC35A1E6D) 32).length ∨ x.detAt + usToFrc 400 < f) :
    s.chimeEv n (.sync f w sum) = s := by
  rcases h with h | h <;> simp [State.chimeEv, hx, h]

end Sync

theorem chimeEv_level_drops {sum : Nat} (hrx : x.rx ≠ .search) (hdrop : powerLevel sum 128 + 20 < x.latched) :
    s.chimeEv n (.level f sum) = (s.fscCount n 2).putFsc n { x with rx := .search, gain := none } := by
  simp [State.chimeEv, hx, hopen, hchime, hvalid.not_gt, hcome.not_gt, hrx, hdrop, ChimeEv.frc, State.endReception, FscStream.searching]

end Chime

/-- The stream after a detection: the AGC stands at the gain it states, and a step of it invalidates 4 samples (R505, R506). -/
theorem detected_eq (x : FscStream) (f : Nat) (lv : Int) (g : Nat) : x.detected f lv g = { x with
    rx := .syncWait, detAt := f, latched := lv, gain := some (min g 60), agc := min g 60
    validAt := if x.agc = min g 60 then x.validAt else max x.validAt (f + 4 * (512 * fld x.cfg 5 1)) } := by
  by_cases h : x.agc = min g 60
  · simp [FscStream.detected, FscStream.gainAt, h]
  · simp [FscStream.detected, FscStream.gainAt, h, FscStream.invalid, FscStream.sampleCounts, FscStream.decim]

/-! ### A rule takes an event (R522, R524) -/

section Rule
variable {r : FscRule} {i : Nat} {ev : FscEv} {f : Nat} {m : ChipMode}

/-- Meeting an event changes no more of a rule than whether an ADC event may occur again. -/
theorem meets_armed (r : FscRule) (i : Nat) (ev : FscEv) : ∃ a, (r.meets i ev).2 = { r with armed := a } := by
  have hsame : ∃ a, r = { r with armed := a } := ⟨r.armed, rfl⟩
  unfold FscRule.meets
  split
  · exact hsame
  · exact hsame
  · split
    · exact hsame
    · dsimp only
      split_ifs <;> exact ⟨_, rfl⟩
  · exact hsame
  · exact hsame

theorem take_disabled (h : bit r.ctrl 0 = false) : r.take i ev f m = (r, .nothing) := by simp [FscRule.take, h]

variable (hon : bit r.ctrl 0 = true)
include hon

theorem take_misses (hmiss : (r.meets i ev).1 = false) : r.take i ev f m = ((r.meets i ev).2, .nothing) := by
  simp [FscRule.take, hon, hmiss]

section Hit
variable (hhit : (r.meets i ev).1 = true) {q : FscRule} (hq : (r.meets i ev).2 = q)
include hhit hq

theorem take_limited (hgap : ∃ g, q.gaps.find? ev.gapBy = some g ∧ f < g + msToFrc (fld q.raw 6 2)) : r.take i ev f m = (q, .limited) := by
  obtain ⟨g, hg, hin⟩ := hgap
  have hany : ((q.gaps.find? ev.gapBy).any fun g => f < g + msToFrc (fld q.raw 6 2)) = true := by
    rw [hg, Option.any_some, decide_eq_true hin]
  simp only [FscRule.take, hon, hhit, hq, hany]
  rfl

variable (hgap : ∀ g, q.gaps.find? ev.gapBy = some g → g + msToFrc (fld q.raw 6 2) ≤ f)
include hgap

/-- The events that a rule has counted and that still lie in its window. -/
def FscRule.recent (r : FscRule) (f : Nat) : List Nat := r.times.filter fun g => fld r.raw 4 2 == 0 || f ≤ g + msToFrc (fld r.raw 4 2)

/-- Outside the gap the count decides (R522). -/
theorem take_counts : r.take i ev f m = if decide (fld q.raw 3 1 ≤ (q.recent f ++ [f]).length) && q.admits m
    then ({ q with times := [], gaps := q.gaps.set ev.gapBy f }, .fires)
    else ({ q with times := (q.recent f ++ [f]).drop ((q.recent f ++ [f]).length - fld q.raw 3 1) }, .nothing) := by
  have hnone : ((q.gaps.find? ev.gapBy).any fun g => f < g + msToFrc (fld q.raw 6 2)) = false := by
    rw [Option.any_eq_false]
    intro g hg
    rw [decide_eq_false (hgap g hg).not_gt]
  simp only [FscRule.take, hon, hhit, hq, hnone]
  rfl

theorem take_fires (hcount : fld q.raw 3 1 ≤ (q.recent f).length + 1) (hmode : q.admits m = true) :
    r.take i ev f m = ({ q with times := [], gaps := q.gaps.set ev.gapBy f }, .fires) := by
  rw [take_counts hon hhit hq hgap]
  simp [hcount, hmode]

theorem take_not (h : (q.recent f).length + 1 < fld q.raw 3 1 ∨ q.admits m = false) :
    (r.take i ev f m).2 = .nothing ∧ (r.take i ev f m).1.raw = r.raw := by
  have hno : (decide (fld q.raw 3 1 ≤ (q.recent f ++ [f]).length) && q.admits m) = false := by
    rw [List.length_append, List.length_singleton]
    rcases h with h | h <;> simp [h]
  rw [take_counts hon hhit hq hgap, hno]
  obtain ⟨a, ha⟩ := meets_armed r i ev
  exact ⟨rfl, by rw [← hq, ha]; rfl⟩

end Hit
end Rule

end Sys2Proof.Machine

/-! PROOFS. What happens in the Finderscope: windows, ends of a reception, energy, PRACH, the ADC, timers and timeline points (chapter
18, R503 to R524). -/

namespace Sys2Proof.Machine

section Stream
variable {t n : Nat} {s u : State} (hu : s.advance t = u) {x : FscStream} (hx : u.fsc.streams.find? n = some x)
include hu hx

/-! ### Windows (R503) -/

theorem exec_listenWindowOpen_due (hclosed : x.opened = false) (hwindow : u.windowNow x = true) : exec (.listenWindowOpen t n) s
    = .next (u.putFsc n { x with
      rx := .search, gain := none, opened := true, energyAt := u.time.frc, chainAt := u.time.frc
      validAt := max x.validAt (u.time.frc + 96 * (512 * fld x.cfg 5 1)) }) := by
  change Host.Outcome.next (doListenWindowOpen t n s) = _
  simp only [doListenWindowOpen, hu, hx, hclosed, hwindow]
  rfl

theorem exec_listenWindowClose_due (hopen : x.opened = true) (hwindow : u.windowNow x = false) : exec (.listenWindowClose t n []) s
    = .next ((u.loseReception n).modFsc fun y => { y with streams := y.streams.upd n fun z =>
        { z with opened := false, energy := z.energy + (u.time.frc - z.energyAt) } }).rcTail := by
  change Host.Outcome.next (doListenWindowClose t n [] s) = _
  simp [doListenWindowClose, hu, State.chimeEvs, hx, hopen, hwindow]

/-! ### The ends of a reception (R510, R511) -/

theorem exec_chimeSyncTimeout_due (hrx : x.rx = .syncWait) (hdue : x.detAt + usToFrc 400 ≤ u.time.frc) : exec (.chimeSyncTimeout t n []) s
    = .next ((u.fscCount n 2).putFsc n { x with rx := .search, gain := none }) := by
  change Host.Outcome.next (doChimeSyncTimeout t n [] s) = _
  simp [doChimeSyncTimeout, hu, State.chimeEvs, hx, hrx, hdue, State.endReception, FscStream.searching]

theorem exec_chimeLost_deaf (hdeaf : u.deaf x = true) : exec (.chimeLost t n []) s = .next (u.loseReception n) := by
  change Host.Outcome.next (doChimeLost t n [] s) = _
  simp [doChimeLost, hu, State.chimeEvs, hx, hdeaf]

theorem exec_chimeDecode_due {llrs : List Int} (hrx : x.rx = .receive) (hdue : x.syncAt + usToFrc 800 ≤ u.time.frc) {bs : List Bool}
    (hbs : (ccSearch ((List.range 64).map fun k => (List.range 3).map fun i => llrs.getD (3 * k + i) 0)).1 = bs) :
    exec (.chimeDecode t n [] llrs) s = .next (if crcOk crc16 bs
      then (u.putFsc n { x with rx := .search, gain := none }).deliverChime n { x with rx := .search, gain := none } bs
      else (u.fscCount n 2).putFsc n { x with rx := .search, gain := none }) := by
  change Host.Outcome.next (doChimeDecode t n [] llrs s) = _
  simp only [doChimeDecode, hu, State.chimeEvs, List.foldl_nil, hx, hrx, hdue.not_gt, hbs]
  by_cases hcrc : crcOk crc16 bs = true <;> simp [hcrc, State.endReception, FscStream.searching]

/-! ### Energy and PRACH (R513, R514) -/

theorem exec_energyEvent_due {sum cnt : Nat} (hon : x.energyOn = true) (hopen : x.opened = true)
    (hdue : msToFrc (fld x.cfg 23 1) ≤ x.energy + (u.time.frc - x.energyAt)) :
    let w := u.putFsc n { x with
      energy := x.energy + (u.time.frc - x.energyAt) - msToFrc (fld x.cfg 23 1), energyAt := u.time.frc }
    exec (.energyEvent t n sum cnt) s = .next (if 0 < cnt ∧ x.validAt < u.time.frc ∧ sfld x.cfg 24 1 ≤ powerLevel sum cnt
      then w.fscEvent ⟨3, n, n, 0, 0, none, none, none, 0⟩ else w) := by
  change Host.Outcome.next (doEnergyEvent t n sum cnt s) = _
  simp only [doEnergyEvent, hu, hx, hon, hopen, hdue.not_gt]
  simp [Nat.pos_iff_ne_zero, and_assoc]
  rfl

theorem exec_prachWatchDetect_closed {data : List Int} {o : (Int × Nat) × Int × Int} (ho : (u.closedOccasions x).getLast? = some o)
    (hhears : u.deaf x = false) :
    let h := watchHits [fld x.cfg 25 1, 0, fld x.cfg 30 2, 1, fld x.cfg 28 2] (x.mixed data) (fld x.cfg 38 2)
      ((List.range (watchPlan x).length).zip (watchPlan x)) (u.putFsc n { x with occ := some o.1 })
    exec (.prachWatchDetect t n data) s = .next (h.1.foldl (fun s i =>
      (s.fscCount n 8).fscEvent ⟨2, n, n, 0, 0, some x.cell, none, none, x.cell + 65536 * i⟩) h.2) := by
  change Host.Outcome.next (doPrachWatchDetect t n data s) = _
  have hhears' : (u.putFsc n { x with occ := some o.1 }).deaf x = false := hhears
  simp only [doPrachWatchDetect, hu, hx, ho, hhears']
  rfl

end Stream

/-! ### The ADC (R515 to R521) -/

section Adc
variable {t : Nat} {s u : State} (hu : s.advance t = u)
include hu

section Pass
variable (hnum : u.fsc.adc.num ≠ 0) (hrun : u.fsc.adc.calibrating = false)
include hnum hrun

theorem exec_adcPassStart_free (hpass : u.fsc.adc.passUs = 0) (hidle : u.fsc.adc.running = none) :
    exec (.adcPassStart t) s = .next (u.modAdc fun a => { a with running := some 0, convAt := u.time.frc }) := by
  change Host.Outcome.next (doAdcPassStart t s) = _
  simp [doAdcPassStart, hu, hnum, hrun, hpass, hidle]

theorem exec_adcPassStart_periodic (hpass : u.fsc.adc.passUs ≠ 0) {us : Nat} (hus : u.time.frc * 100 / 98304 = us)
    (hdue : us % u.fsc.adc.passUs = 0) (hnew : u.fsc.adc.lastPass ≠ some (us / u.fsc.adc.passUs)) :
    exec (.adcPassStart t) s = .next (u.modAdc fun a => { a with
      lastPass := some (us / a.passUs), running := if a.running.isSome then a.running else some 0
      convAt := if a.running.isSome then a.convAt else u.time.frc }) := by
  change Host.Outcome.next (doAdcPassStart t s) = _
  simp [doAdcPassStart, hu, hnum, hrun, hpass, hus, hdue, hnew]

end Pass

theorem exec_adcConversion_done {e raw : Nat} (hrun : u.fsc.adc.running = some e) (hcal : u.fsc.adc.calibrating = false)
    (hdue : u.fsc.adc.convAt + usToFrc 1 ≤ u.time.frc) :
    let x := (u.fsc.adc.entries.get AdcEntry.reset e).result (u.fsc.adc.cal raw)
    let w := u.modAdc fun a => { a with
      entries := a.entries.set e x, running := if u.fsc.adc.num ≤ e + 1 then none else some (e + 1), convAt := u.time.frc }
    exec (.adcConversion t raw) s = .next ((if u.fsc.adc.num ≤ e + 1 then w.rcTail else w).fscEvent
      ⟨4, e, e, 0, 0, none, if x.invalid then none else some x.value, none, x.value⟩) := by
  change Host.Outcome.next (doAdcConversion t raw s) = _
  simp only [doAdcConversion, hu, hrun, hcal, hdue.not_gt]
  rfl

theorem exec_adcResultRead_entry {n : Nat} (hn : n < 32) :
    let x := u.fsc.adc.entries.get AdcEntry.reset n
    exec (.adcResultRead t n) s = .next ((u.emit (.csrRead (fscBase + 0x100 + 4 * n)
        (x.value + 4096 * b2n x.new + 8192 * b2n x.invalid + 65536 * x.seq))).modAdc fun a =>
      { a with entries := a.entries.upd n fun x => { x with new := false } }) := by
  change Host.Outcome.next (doAdcResultRead t n s) = _
  simp only [doAdcResultRead, hu, hn.not_ge]
  rfl

theorem exec_adcCalibrationDone_due {off o : Int} {gain : Nat} (hrun : u.fsc.adc.calibrating = true)
    (hdue : u.fsc.adc.calAt + usToFrc 1200 ≤ u.time.frc) (ho : sgn 12 (unsgn 12 off) = o) :
    let w := u.modAdc fun a => { a with offset := o, gain := gain % 65536, calibrated := true, calibrating := false, convAt := u.time.frc }
    exec (.adcCalibrationDone t off gain) s = .next (w.rcTail.completeWaits fun w =>
      if w = .adcCal then some (.ok (leBytes 2 (unsgn 16 o) ++ leBytes 2 (gain % 65536))) else none) := by
  change Host.Outcome.next (doAdcCalibrationDone t off gain s) = _
  simp only [doAdcCalibrationDone, hu, hrun, hdue.not_gt, ho]
  rfl

/-! ### The urgent burst (R518) -/

section Burst
variable {codes : List Nat} {serves : Bool} (hon : u.pow.mode ≠ .off)

/-- The calibrated codes of the 12 thermal sensors, and the state that has taken them. -/
def State.burstCodes (s : State) (codes : List Nat) : List Nat := (List.range 12).map fun i => s.fsc.adc.cal (codes.getD i 0)
def State.afterBurst (s : State) (codes : List Nat) : State :=
  (s.modAdc fun a => { a with therm := s.burstCodes codes, burstAt := some s.time.frc, convAt := s.time.frc }).rcTail.coolRegions

include hon

theorem exec_urgentBurst_eq : exec (.urgentBurst t codes serves) s
    = .next (match (List.range 12).find? fun i => tripCode ≤ (u.burstCodes codes).getD i 0 with
      | some i => (u.afterBurst codes).fatalChip 1
          (initId (((List.range 16).find? fun r => sensorOf r = i).getD (if i = 10 then 13 else 15)) 0 0) serves
      | none => u.afterBurst codes) := by
  change Host.Outcome.next (doUrgentBurst t codes serves s) = _
  simp only [doUrgentBurst, hu, hon, if_false]
  rfl

theorem exec_urgentBurst_cool (hcool : ∀ i < 12, (u.burstCodes codes).getD i 0 < tripCode) :
    exec (.urgentBurst t codes serves) s = .next (u.afterBurst codes) := by
  have hnone : ((List.range 12).find? fun i => tripCode ≤ (u.burstCodes codes).getD i 0) = none := by
    rw [List.find?_eq_none]
    intro i hi
    simpa using hcool i (List.mem_range.mp hi)
  rw [exec_urgentBurst_eq hu hon, hnone]

theorem exec_urgentBurst_trips {i : Nat} (hi : ((List.range 12).find? fun i => tripCode ≤ (u.burstCodes codes).getD i 0) = some i) :
    ∃ r, r < 16 ∧ exec (.urgentBurst t codes serves) s = .next ((u.afterBurst codes).fatalChip 1 (initId r 0 0) serves) := by
  refine ⟨_, ?_, (exec_urgentBurst_eq hu hon).trans (by rw [hi])⟩
  cases hr : (List.range 16).find? fun r => sensorOf r = i with
  | none => rw [Option.getD_none]; split <;> decide
  | some r => exact List.mem_range.mp (List.mem_of_find?_eq_some hr)

end Burst

/-! ### Timers and timeline points (Table 18-8) -/

theorem exec_fscTimerExpiry_due {n : Nat} {x : FscTimer} (hx : u.fsc.timers[n]? = some x) (hon : x.on = true)
    (hdue : x.start + msToFrc (bits x.cfg 23 0) ≤ u.time.frc) : exec (.fscTimerExpiry t n) s
      = .next ((u.modFsc fun y => { y with timers := (y.timers.set n
        { x with start := x.start + msToFrc (bits x.cfg 23 0), on := bit x.cfg 30 }) }).fscEvent ⟨6, n, n, 0, 0, none, none, none, 0⟩) := by
  change Host.Outcome.next (doFscTimerExpiry t n s) = _
  simp only [doFscTimerExpiry, hu, hx, hon, hdue.not_gt]
  rfl

theorem exec_timelineEvent_due {n : Nat} {r : FscRule} {tl : Timeline} (hr : u.fsc.rules[n]? = some r)
    (htl : u.anchor? (fld r.raw 14 2) = some tl) (hevent : r.event = 7) {p off : Nat} (hp : fld r.raw 24 4 = p)
    (hoff : symOff tl.num (tpSlot p) (tpSym p) = off) {ahead k : Int} (hahead : u.thetaNow + (fld r.raw 30 2 * 1000 : Nat) * nsUnit = ahead)
    (hk : (if nominal tl.toff (frameAt tl.toff ahead) off ≤ ahead then frameAt tl.toff ahead else frameAt tl.toff ahead - 1) = k)
    (hpoint : tpValid tl.num p = true)
    (hframe : sfnOf tl.sfnBase k % (max 1 (fld r.raw 28 2)) = tpSfn p % (max 1 (fld r.raw 28 2))) (hnew : r.lastK ≠ some k)
    (hfuture : u.thetaNow ≤ nominal tl.toff k off) : exec (.timelineEvent t n) s
      = .next ((u.modFsc fun y => { y with rules := y.rules.set n { r with lastK := some k } }).fscEvent
        ⟨7, 0, fld r.raw 14 2, 0, 0, none, none, some n, 0⟩) := by
  change Host.Outcome.next (doTimelineEvent t n s) = _
  simp only [doTimelineEvent, hu, hr, htl, hevent, hp, hoff, hahead, hk, hpoint, hframe, hfuture.not_gt]
  simp [hnew]

end Adc

end Sys2Proof.Machine

/-! PROOFS. The Finderscope's commands (R527 to R531) and its obligation. -/

namespace Sys2Proof.Machine

/-! ### FSC_LISTEN_CONFIG (R527) -/

section Listen
variable {i : CmdIn} {s : State} {n : Nat} (hn : fld i.p 0 1 = n)
include hn

theorem bodyFscListenConfig_delete (hdel : fld i.p 1 1 = 0) : bodyFscListenConfig i s
    = ((s.loseReception n).modFsc fun x => { x with streams := x.streams.del n }, .done (.ok [])) := by
  simp [bodyFscListenConfig, hn, hdel, ok]

omit hn in
theorem bodyFscListenConfig_noTrail (hset : fld i.p 1 1 ≠ 0) (hdeaf : s.listens (fld i.p 2 2) = false) :
    bodyFscListenConfig i s = (s, .done (.bare .badParam)) := by
  simp [bodyFscListenConfig, hset, hdeaf, refuse]

/-- The stream as the command sets it, before its chain runs: searching, its window open or closed by now. -/
def State.newStream (u : State) (p : List Byte) (old : Option FscStream) : FscStream :=
  let x : FscStream := ⟨fit 48 p, false, .search, 0, 0, 0, 0, none, old.bind FscStream.last, 0, u.time.frc, none,
    ncoIncrement (sfld p 8 4), u.time.frc, 0, 0⟩
  { x with opened := u.windowNow x }

/-- The chain of a stream that is set goes on when its window and trail stay, and restarts when its window is open all the same. -/
def FscStream.setOver (x : FscStream) (old : Option FscStream) (f : Nat) : FscStream :=
  match old with
  | some o => if o.opened && x.opened && o.trail == x.trail then x.retuned o f else if x.opened then x.restart f else x
  | none => if x.opened then x.restart f else x

section Set
variable (hset : fld i.p 1 1 ≠ 0) (hears : s.listens (fld i.p 2 2) = true) {u : State} (hu : s.loseReception n = u)
  {old : Option FscStream} (hold : u.fsc.streams.find? n = old) {x : FscStream} (hx : u.newStream i.p old = x)
include hset hears hu hold hx

theorem bodyFscListenConfig_set : bodyFscListenConfig i s = (u.putFsc n (x.setOver old u.time.frc), .done (.ok [])) := by
  subst hx hold hu hn
  have hears' : (!s.listens (fld i.p 2 2)) = false := by rw [hears]; rfl
  exact (if_neg hset).trans ((if_neg (Bool.eq_false_iff.mp hears')).trans rfl)

theorem bodyFscListenConfig_closed (hclosed : x.opened = false) : bodyFscListenConfig i s = (u.putFsc n x, .done (.ok [])) := by
  rw [bodyFscListenConfig_set hn hset hears hu hold hx]
  cases old <;> simp [FscStream.setOver, hclosed]

variable (hopen : x.opened = true)
include hopen

theorem bodyFscListenConfig_restarts (hnew : ∀ o, old = some o → o.opened = false ∨ o.trail ≠ x.trail) : bodyFscListenConfig i s
    = (u.putFsc n { x with validAt := u.time.frc + 96 * (512 * fld x.cfg 5 1) }, .done (.ok [])) := by
  have hrestart : x.restart u.time.frc = { x with validAt := u.time.frc + 96 * (512 * fld x.cfg 5 1) } := by
    subst hx
    simp [FscStream.restart, FscStream.invalid, State.newStream, FscStream.sampleCounts, FscStream.decim]
  rw [bodyFscListenConfig_set hn hset hears hu hold hx]
  cases old with
  | none => simp [FscStream.setOver, hopen, hrestart]
  | some o => rcases hnew o rfl with h | h <;> simp [FscStream.setOver, hopen, hrestart, h]

section Retuned
variable {o : FscStream} (ho : old = some o) (hwas : o.opened = true) (hsame : o.trail = x.trail) (hdecim : fld o.cfg 5 1 = fld x.cfg 5 1)
include ho hwas hsame hdecim

theorem bodyFscListenConfig_keeps (hphi : o.phi = x.phi) : bodyFscListenConfig i s
    = (u.putFsc n { x with chainAt := o.chainAt, validAt := o.validAt, agc := o.agc }, .done (.ok [])) := by
  rw [bodyFscListenConfig_set hn hset hears hu hold hx]
  simp [FscStream.setOver, ho, hopen, hwas, hsame, FscStream.retuned, hphi, FscStream.decim, hdecim]

theorem bodyFscListenConfig_retunes (hphi : o.phi ≠ x.phi) : bodyFscListenConfig i s
    = (u.putFsc n { x with
        chainAt := o.chainAt, validAt := max o.validAt (u.time.frc + 48 * (512 * fld x.cfg 5 1)), agc := o.agc }, .done (.ok [])) := by
  rw [bodyFscListenConfig_set hn hset hears hu hold hx]
  simp [FscStream.setOver, ho, hopen, hwas, hsame, FscStream.retuned, Ne.symm hphi, FscStream.decim, hdecim,
    FscStream.invalid, FscStream.sampleCounts]

end Retuned
end Set
end Listen

/-! ### FSC_RULES_LOAD (R528) -/

section Rules
variable {i : CmdIn} {s : State}

/-- What the parameters of FSC_RULES_LOAD have to keep to (Tables 18-7, 18-8 and 18-11). -/
def State.rulesGood (s : State) (p : List Byte) : Prop :=
  fld p 0 2 ≤ 64 ∧ 64 + 32 * fld p 0 2 ≤ p.length ∧ allZero ((p.drop 2).take 6) = true ∧ allZero ((p.drop 40).take 24) = true
  ∧ (∀ w ∈ (List.range 8).map fun k => fld p (8 + 4 * k) 4, fscTimerOk w = true)
  ∧ (∀ k < fld p 0 2, fscRuleOk (fscRuleAt p k) = true ∧ s.fscPointOk (fscRuleAt p k) = true)

theorem bodyFscRulesLoad_bad (hbad : ¬ s.rulesGood i.p) : bodyFscRulesLoad i s = (s, .done (.bare .badParam)) := by
  refine if_pos ?_
  by_contra h
  apply hbad
  simpa [State.rulesGood, and_assoc] using h

section Good
variable (hgood : s.rulesGood i.p)
include hgood

theorem bodyFscRulesLoad_good : bodyFscRulesLoad i s = if s.pow.mode = .drain then refuse s .notPermitted else
    ok (s.modFsc fun x => { x with
      rules := (List.range (fld i.p 0 2)).map fun k => ⟨fscRuleAt i.p k, [], [], true, none⟩
      timers := ((List.range 8).map fun k => fld i.p (8 + 4 * k) 4).map fun w => ⟨w, s.time.frc, bit w 31⟩ }) [] := by
  refine if_neg ?_
  simpa [State.rulesGood, and_assoc] using hgood

theorem bodyFscRulesLoad_drain (hdrain : s.pow.mode = .drain) : bodyFscRulesLoad i s = (s, .done (.bare .notPermitted)) :=
  (bodyFscRulesLoad_good hgood).trans (if_pos hdrain)

theorem bodyFscRulesLoad_loads (hmode : s.pow.mode ≠ .drain) : bodyFscRulesLoad i s
    = (s.modFsc fun x => { x with
        rules := (List.range (fld i.p 0 2)).map fun k => ⟨fscRuleAt i.p k, [], [], true, none⟩
        timers := ((List.range 8).map fun k => fld i.p (8 + 4 * k) 4).map fun w => ⟨w, s.time.frc, bit w 31⟩ }, .done (.ok [])) :=
  (bodyFscRulesLoad_good hgood).trans (if_neg hmode)

end Good
end Rules

/-! ### FSC_STATUS (R531) -/

theorem keep_all {α : Type} (t : Tab α) : t.keep (fun _ _ => true) = t := List.filter_true t

/-- An entry that the test drops is not listed afterwards. -/
theorem keep_find?_none {α : Type} (t : Tab α) {p : Nat → α → Bool} {n : Nat} (h : ∀ x, p n x = false) : (t.keep p).find? n = none := by
  induction t with
  | nil => rfl
  | cons e rest ih =>
    rw [Tab.keep, List.filter_cons]
    split
    case isTrue hkept =>
      have hne : n ≠ e.1 := fun hn => Bool.false_ne_true ((h e.2).symm.trans (hn ▸ hkept))
      exact (if_neg hne).trans ih
    case isFalse => exact ih

section Status
variable {i : CmdIn} {s : State} {buf : Nat} (hbuf : fld i.p 0 8 = buf)
include hbuf

section Inline
variable (hinline : buf = 0)
include hinline

theorem bodyFscStatus_inline (hkeep : bit (fld i.p 12 1) 0 = false) : bodyFscStatus i s = (s, .done (.ok s.fscInline)) := by
  simp [bodyFscStatus, hbuf, hinline, hkeep]

theorem bodyFscStatus_inlineClear (hclear : bit (fld i.p 12 1) 0 = true) :
    bodyFscStatus i s = (s.modFsc fun x => { x with wakes := 0 }, .done (.ok s.fscInline)) := by
  simp [bodyFscStatus, hbuf, hinline, hclear, keep_all]

end Inline

section Buffer
variable (hgiven : buf ≠ 0)
include hgiven

theorem bodyFscStatus_buffer (hkeep : bit (fld i.p 12 1) 0 = false) (hfn : i.fn ≠ 0) :
    bodyFscStatus i s = (s, .done (.okBuf buf (s.fscBuffer i.fn))) := by
  simp [bodyFscStatus, hbuf, hgiven, hkeep, hfn]

theorem bodyFscStatus_bufferZero (hkeep : bit (fld i.p 12 1) 0 = false) (hfn : i.fn = 0) : bodyFscStatus i s
    = (s.modAdc fun a => { a with entries := a.entries.each fun _ x => { x with newSt := false } },
      .done (.okBuf buf (s.fscBuffer 0))) := by
  simp [bodyFscStatus, hbuf, hgiven, hkeep, hfn]

/-- Reading with CLEAR: the counters the function sees are gone, and for function 0 the global ones too. -/
def State.statusCleared (s : State) (fn : Nat) : State :=
  (if fn = 0 then s.modAdc fun a => { a with entries := a.entries.each fun _ x => { x with newSt := false } } else s).modFsc fun x =>
    { x with
      counts := x.counts.keep fun n _ => !(s.fscSeen fn).contains n
      rateLimited := if fn = 0 then 0 else x.rateLimited
      wakes := if fn = 0 then 0 else x.wakes }

theorem bodyFscStatus_clear (hclear : bit (fld i.p 12 1) 0 = true) :
    bodyFscStatus i s = (s.statusCleared i.fn, .done (.okBuf buf (s.fscBuffer i.fn))) := by
  by_cases hfn : i.fn = 0
  · simp [bodyFscStatus, State.statusCleared, hbuf, hgiven, hclear, hfn]
    rfl
  · simp [bodyFscStatus, State.statusCleared, hbuf, hgiven, hclear, hfn]

end Buffer
end Status

theorem statusCleared_keeps (s : State) (fn : Nat) : (s.statusCleared fn).fsc.streams = s.fsc.streams
    ∧ (s.statusCleared fn).fsc.rules = s.fsc.rules ∧ (s.statusCleared fn).mem = s.mem := by
  unfold State.statusCleared
  split <;> exact ⟨rfl, rfl, rfl⟩

theorem statusCleared_counts (s : State) {fn n : Nat} (hseen : (s.fscSeen fn).contains n = true) :
    (s.statusCleared fn).fsc.counts.find? n = none := by
  unfold State.statusCleared
  refine (keep_find?_none (p := fun n _ => !(s.fscSeen fn).contains n) _ fun _ => ?_ : Tab.find? (Tab.keep _ _) n = none)
  rw [hseen]
  rfl

theorem statusCleared_zero (s : State) : (s.statusCleared 0).fsc.rateLimited = 0 ∧ (s.statusCleared 0).fsc.wakes = 0 := ⟨rfl, rfl⟩

/-- Settles O55. That a new configuration computes its window at once and a new TRAIL restarts the chain, and that CLEAR zeroes WAKES, are
the model's choices (log entries 103, 105); a TIMELINE event is judged at its row (log entry 5). -/
theorem finderscope : Obligations.Finderscope := by
  unfold Obligations.Finderscope
  refine ⟨fun u n x hx hopen hchime => ⟨fun ev => chimeEv_ignored hx ev, fun f num den sum g hvalid hcome hden hstrong => ?detect,
      fun f num den sum g _ _ => chimeEv_detect_weak hx,
      fun f w sum hvalid hcome hrx => ⟨chimeEv_sync_found hx hopen hchime hvalid hcome hrx, chimeEv_sync_none hx⟩,
      fun f sum hvalid hcome => chimeEv_level_drops hx hopen hchime hvalid hcome⟩,
    fun r i ev f m => ⟨take_disabled, take_misses, fun hon hhit => ⟨take_limited hon hhit rfl,
      fun hgap => ⟨take_fires hon hhit rfl hgap, take_not hon hhit rfl hgap⟩⟩⟩,
    fun r => ⟨rfl, rfl, rfl, rfl, rfl⟩,
    fun t n s => ⟨fun x hx => ⟨exec_listenWindowOpen_due rfl hx, exec_listenWindowClose_due rfl hx, exec_chimeSyncTimeout_due rfl hx,
        exec_chimeLost_deaf rfl hx, fun llrs hrx hdue => exec_chimeDecode_due rfl hx hrx hdue rfl,
        fun sum cnt => exec_energyEvent_due rfl hx, fun data o => exec_prachWatchDetect_closed rfl hx⟩,
      exec_adcPassStart_free rfl, fun hnum hrun hpass => exec_adcPassStart_periodic rfl hnum hrun hpass rfl,
      fun e raw => exec_adcConversion_done rfl, exec_adcResultRead_entry rfl,
      fun off gain hrun hdue => exec_adcCalibrationDone_due rfl hrun hdue rfl,
      fun codes sv hon => ⟨exec_urgentBurst_cool rfl hon, fun i => exec_urgentBurst_trips rfl hon⟩,
      fun x hx => exec_fscTimerExpiry_due rfl hx,
      fun r tl hr htl hevent => exec_timelineEvent_due rfl hr htl hevent rfl rfl rfl rfl⟩,
    fun c s fl => ⟨fun h => ⟨fun hdel => exec_done rfl h (bodyFscListenConfig_delete rfl hdel),
        fun hset hdeaf => exec_done rfl h (bodyFscListenConfig_noTrail hset hdeaf),
        fun hset hears => ?listen⟩,
      fun h => ⟨fun hbad => exec_done rfl h (bodyFscRulesLoad_bad hbad),
        fun hgood hdrain => exec_done rfl h (bodyFscRulesLoad_drain hgood hdrain),
        fun hgood hmode => exec_done rfl h (bodyFscRulesLoad_loads hgood hmode)⟩,
      fun h => exec_done rfl h rfl, fun h => exec_later rfl h rfl,
      fun h => ⟨fun hbuf hkeep => exec_done rfl h (bodyFscStatus_inline rfl hbuf hkeep),
        fun hbuf hclear => exec_done rfl h (bodyFscStatus_inlineClear rfl hbuf hclear),
        fun hbuf hkeep hfn => exec_done rfl h (bodyFscStatus_buffer rfl hbuf hkeep hfn),
        fun hbuf hkeep hfn => exec_done rfl h (bodyFscStatus_bufferZero rfl hbuf hkeep hfn),
        fun hbuf hclear => ?clear⟩⟩⟩
  case detect =>
    intro y
    have hy : x.detected f (powerLevel sum 128) g = y := detected_eq x f _ g
    exact ⟨fun hrx => hy ▸ chimeEv_detect_first hx hopen hchime hvalid hcome hden hstrong hrx,
      fun hrx hmore => hy ▸ chimeEv_detect_stronger hx hopen hchime hvalid hcome hden hstrong hrx hmore,
      chimeEv_detect_weaker hx hopen hchime hvalid hcome hden hstrong⟩
  case listen =>
    intro u old _ x put
    have hx : u.newStream (fl.params c.buf) old = x := rfl
    have hput {y : FscStream} (hy : bodyFscListenConfig (fl.input c) (s.advance c.t) = (u.putFsc (fld (fl.params c.buf) 0 1) y, .done (.ok []))) :
      put y := exec_done rfl h hy
    exact ⟨fun hclosed => hput (bodyFscListenConfig_closed rfl hset hears rfl rfl hx hclosed),
      fun hopen hnew => hput (bodyFscListenConfig_restarts rfl hset hears rfl rfl hx hopen hnew),
      fun o hopen ho hwas htrail hphi hdecim => hput (bodyFscListenConfig_keeps rfl hset hears rfl rfl hx hopen ho hwas htrail hdecim hphi),
      fun o hopen ho hwas htrail hphi hdecim => hput (bodyFscListenConfig_retunes rfl hset hears rfl rfl hx hopen ho hwas htrail hdecim hphi)⟩
  case clear =>
    obtain ⟨hstreams, hrules, hmem⟩ := statusCleared_keeps (s.advance c.t) fl.fn
    exact ⟨(s.advance c.t).statusCleared fl.fn, exec_done rfl h (bodyFscStatus_clear rfl hbuf hclear), hstreams, hrules, hmem,
      fun n hn => statusCleared_counts _ hn, fun hfn => by rw [hfn]; exact statusCleared_zero _⟩

end Sys2Proof.Machine

/-! PROOFS. Targets, learning and steps of the Collimator, and its rows (chapter 19, R534 to R549). -/

namespace Sys2Proof.Machine

/-! ### Targets (R535) -/

theorem interpolate_single (arc : Bool) (tc : Int) (a : Int × Int) : interpolate arc tc [a] = some a.2 := by
  unfold interpolate
  rcases lt_trichotomy a.1 tc with h | h | h
  · simp [h.le, h.not_ge]
  · simp [h]
  · simp [h.le, h.not_ge]

section Pair
variable {tc : Int} {a b : Int × Int}

theorem interpolate_below (hab : a.1 < b.1) (h : tc < a.1) : interpolate false tc [a, b] = some a.2 := by
  simp [interpolate, h.le, h.not_ge, (h.trans hab).not_ge]

theorem interpolate_above (hab : a.1 < b.1) (h : b.1 < tc) : interpolate false tc [a, b] = some b.2 := by
  simp [interpolate, h.le, h.not_ge, (hab.trans h).le, (hab.trans h).not_ge]

theorem interpolate_between (ha : a.1 < tc) (hb : tc < b.1) :
    interpolate false tc [a, b] = some (a.2 + (b.2 - a.2) * (tc - a.1) / (b.1 - a.1)) := by
  simp [interpolate, ha.le, ha.not_ge, hb.le, hb.not_ge, (ha.trans hb).ne, diffOf]

end Pair

/-! ### Learning (R536) -/

theorem nearestSet_lt (tc : Int) : nearestSet tc < 4 :=
  List.foldlRecOn (List.range 4) _ (motive := fun b : Nat => b < 4) (by decide) fun b hb i hi => by
    split
    · exact List.mem_range.mp hi
    · exact hb

theorem learn_empty (a : ArrayCal) (sh : Nat) (est : List (Int × Int)) (hlen : a.sets.length = 4)
    (hempty : a.sets.getD (nearestSet (clampTemp a.tObj)) none = none) :
    (a.learn sh est).sets.getD (nearestSet (clampTemp a.tObj)) none = some est := by
  have hn := nearestSet_lt (clampTemp a.tObj)
  simp only [ArrayCal.learn, hempty]
  simp [List.getD_eq_getElem?_getD, hlen, hn]

theorem learn_other (a : ArrayCal) (sh : Nat) (est : List (Int × Int)) {k : Nat} (hk : k ≠ nearestSet (clampTemp a.tObj)) :
    (a.learn sh est).sets.getD k none = a.sets.getD k none := by
  simp [ArrayCal.learn, List.getD_eq_getElem?_getD, List.getElem?_set_ne hk.symm]

/-! ### Steps (R538, R543) -/

theorem stepTo_straight (lim cur tgt : Int) : stepTo false lim cur tgt = cur + clampI (-lim) lim (tgt - cur) := rfl

theorem stepTo_bounded {lim cur tgt : Int} (hlim : 0 ≤ lim) :
    stepTo false lim cur tgt - cur ≤ lim ∧ cur - stepTo false lim cur tgt ≤ lim := by
  obtain ⟨hlo, hhi⟩ := clampI_bounds (by omega : -lim ≤ lim) (tgt - cur)
  rw [stepTo_straight]
  constructor <;> omega

theorem stepTo_reaches {lim cur tgt : Int} (hup : tgt - cur ≤ lim) (hdown : cur - tgt ≤ lim) : stepTo false lim cur tgt = tgt := by
  rw [stepTo_straight, clampI_of_bounds (by omega) hup]
  omega

theorem stepTo_up {lim cur tgt : Int} (hlim : 0 ≤ lim) (h : lim < tgt - cur) : stepTo false lim cur tgt = cur + lim := by
  rw [stepTo_straight, clampI, if_neg (by omega), if_pos h]

theorem stepTo_down {lim cur tgt : Int} (h : lim < cur - tgt) : stepTo false lim cur tgt = cur - lim := by
  rw [stepTo_straight, clampI, if_pos (by omega)]
  rfl

section Tap
variable (c : LaneCal) (tc : Int) (i : Nat)

/-- Moving a tap leaves the lane as it is, or puts the tap one up or down and counts the step. -/
theorem moveTap_cases : c.moveTap tc i = c ∨ ∃ v w : Int, c.taps[i]? = some v ∧ w ≤ v + 1 ∧ v ≤ w + 1
    ∧ c.moveTap tc i = { c with taps := c.taps.set i w, steps := sat32 (c.steps + 1) } := by
  unfold LaneCal.moveTap
  cases hv : c.taps[i]? with
  | none => exact .inl rfl
  | some v =>
    dsimp only
    split
    · exact .inl rfl
    · refine .inr ⟨v, _, rfl, ?_, ?_, rfl⟩ <;> split <;> omega

theorem moveTap_step {v : Int} (hv : c.taps[i]? = some v) : ∃ w, (c.moveTap tc i).taps[i]? = some w ∧ w ≤ v + 1 ∧ v ≤ w + 1 := by
  rcases moveTap_cases c tc i with h | ⟨v', w, hv', hup, hdown, h⟩
  · exact ⟨v, by rw [h, hv], by omega, by omega⟩
  · obtain rfl : v = v' := Option.some.inj (hv.symm.trans hv')
    have hi : i < c.taps.length := (List.getElem?_eq_some_iff.mp hv).1
    exact ⟨w, by rw [h]; simp [hi], hup, hdown⟩

theorem moveTap_others {k : Nat} (hk : k ≠ i) : (c.moveTap tc i).taps[k]? = c.taps[k]? := by
  rcases moveTap_cases c tc i with h | ⟨v, w, -, -, -, h⟩
  · rw [h]
  · rw [h]
    exact List.getElem?_set_ne hk.symm

theorem moveTap_sets : (c.moveTap tc i).sets = c.sets := by
  rcases moveTap_cases c tc i with h | ⟨v, w, -, -, -, h⟩ <;> rw [h]

end Tap

/-! ### Whether an interval has passed since an event -/

/-- Nothing, or an event that lies at least `d` back: the interval has passed. -/
theorem notWithin {o : Option Nat} {now d : Nat} (h : ∀ f, o = some f → f + d ≤ now) : (o.any fun f => decide (now < f + d)) = false := by
  rw [Option.any_eq_false]
  intro f hf
  rw [decide_eq_false (h f hf).not_gt]

section Rows
variable {t n : Nat} {s u : State} (hu : s.advance t = u)
include hu

/-! ### Lanes (R537 to R539) -/

section Lane
variable {k : Nat}

theorem exec_laneTapStep_off (hoff : u.cal.policy.lanes = false ∨ (u.lane n).stageOf (isPeer n) k < 4
    ∨ (u.lane n).stageOf (isPeer n) k = 14) (est : Option (List Int)) (tap : Nat) :
    exec (.laneTapStep t n k est tap) s = .next u := by
  change Host.Outcome.next (doLaneTapStep t n k est tap s) = _
  rcases hoff with h | h | h <;> simp [doLaneTapStep, hu, h]

section Steps
variable (hpolicy : u.cal.policy.lanes = true) (hstage : 4 ≤ (u.lane n).stageOf (isPeer n) k) (hup : (u.lane n).stageOf (isPeer n) k ≠ 14)
  (hdata : (dataLanes n).contains k = true) {c : LaneCal} (hc : (u.laneCal n k).since (u.lane n).upAt = c)
  (hdue : ∀ f, c.stepAt = some f → f + msToFrc 1 ≤ u.time.frc) (hone : u.cal.policy.parallel = false)
include hpolicy hstage hup hdata hc hdue hone

theorem exec_laneTapStep_due (est : Option (List Int)) (tap : Nat) : exec (.laneTapStep t n k est tap) s
    = .next (u.setLaneCal n k { (match est with
        | some e => c.learn (u.laneTemp n) u.cal.policy.laneShift e
        | none => c).moveTap (clampTemp (u.laneTemp n)) tap with stepAt := some u.time.frc }) := by
  change Host.Outcome.next (doLaneTapStep t n k est tap s) = _
  simp only [doLaneTapStep, hu, hc, notWithin hdue, hpolicy, hdata, hone, hstage.not_gt, beq_eq_false_iff_ne.mpr hup]
  rfl

end Steps

theorem exec_eyeSweep_lane {w h : Nat} (hlane : isPeer n = false) (hstage : (u.lane n).stage = 9)
    (hdue : ∀ f, (u.laneCal n 0).sweepAt = some f → f + msToFrc 100 ≤ u.time.frc) : exec (.eyeSweep t n 0 w h) s
      = .next ((u.setLaneCal n 0 { u.laneCal n 0 with
        sweepAt := some u.time.frc, eyeW := w % 65536, eyeH := h % 65536 }).modLane n fun l =>
          { l with eyeW := min 65535 (w % 65536), eyeH := min 65535 (h % 65536) }) := by
  change Host.Outcome.next (doEyeSweep t n 0 w h s) = _
  have hget (c : LaneCal) : (u.setLaneCal n 0 c).laneCal n 0 = c := by
    simp [State.laneCal, State.setLaneCal, State.modCal, Tab.get, Tab.find?_set]
  have hdata : dataLanes n = [0] := by simp [dataLanes, hlane]
  simp only [doEyeSweep, hu, notWithin hdue, hdata, hstage]
  simp [hget]

end Lane

/-! ### Arrays (R542, R543) -/

section Array
variable (hlive : u.stopped = false) {a : ArrayCal} (ha : u.cal.arrays.find? n = some a) (hpolicy : u.cal.policy.arrays = true)
include hlive ha hpolicy

omit hpolicy in
theorem exec_arrayEstimate_paused {est : List (Int × Int)} {resid : Int} {delays : List Int} (hpaused : u.calPaused n a = true) :
    exec (.arrayEstimate t n est resid delays) s = .next u := by
  change Host.Outcome.next (doArrayEstimate t n est resid delays s) = _
  simp [doArrayEstimate, hu, hlive, ha, hpaused]

theorem exec_arrayEstimate_due {est : List (Int × Int)} {resid : Int} {delays : List Int} (hlearns : u.calPaused n a = false)
    (hdue : a.since + u.slotsFrc n a.avg ≤ u.time.frc) {ds : List Int} (hds : ((List.range a.size).map fun e => delays.getD e 0) = ds)
    {v : State} (hv : (u.modCal fun x => { x with arrays := x.arrays.set n { (a.learn u.cal.policy.arrayShift (pinned a est)) with
      resid := clampI (-32768) 32767 resid, delays := ds.map (clampI (-32768) 32767), since := u.time.frc } }) = v) :
    exec (.arrayEstimate t n est resid delays) s = .next (if u.cal.policy.delayPs < (worstDelay ds).2
      then v.post (v.cellOwner n) 0x0801 1 (n + 65536 * ((worstDelay ds).1 % 256)) else v) := by
  subst hv hds
  change Host.Outcome.next (doArrayEstimate t n est resid delays s) = _
  simp only [doArrayEstimate, hu, hlive, ha, hpolicy, hlearns, hdue.not_gt]
  rfl

theorem exec_calPublish_due (hdue : a.stepAt + msToFrc 10 ≤ u.time.frc) : exec (.calPublish t n) s
    = .next (u.modCal fun x => { x with arrays := x.arrays.set n { a.step with stepAt := u.time.frc } }) := by
  change Host.Outcome.next (doCalPublish t n s) = _
  simp only [doCalPublish, hu, hlive, ha, hpolicy, hdue.not_gt]
  rfl

end Array

/-! ### Ageing (R548, R549) -/

section Ageing
variable (hlive : u.stopped = false) (hpolicy : u.cal.policy.ageing = true) (hn : n < 13) (hst : (u.region n).st = .active)
  {a : Ageing} (ha : u.ageing n = a) (hdue : ∀ f, a.readAt = some f → f + msToFrc 60000 ≤ u.time.frc) {drift : Int}
  {b : Ageing} (hb : ({ a with drift := drift, readAt := some u.time.frc } : Ageing) = b)
include hlive hpolicy hn hst ha hdue hb

/-- A read of an ACTIVE region whose minute has passed, by whether it raises the trim. -/
theorem exec_ageingRead_due {up warn : Bool} {b' : Ageing}
    (hup : (decide (drift < -2000 * ((a.trim : Int) + 1)) && decide (a.trim < u.cal.policy.trimMax)) = up)
    (hb' : (if up then { b with trim := a.trim + 1 } else b) = b')
    (hwarn : (decide (drift < -2000 * ((u.cal.policy.trimMax : Int) + 1)) && decide (u.cal.policy.trimMax ≤ b'.trim)
      && !(a.warnAt.any fun f => u.time.frc < f + msToFrc 86400000)) = warn) :
    exec (.ageingRead t n drift) s =
      let b'' := if warn then { b' with warnAt := some u.time.frc } else b'
      let v := u.modCal fun x => { x with ageing := x.ageing.set n b'' }
      let v := if up then (v.modRegion n fun g => { g with changing := true }).postAll 0x0802 1 (ageWord n b'') else v
      .next (if warn then v.postAll 0x0802 2 (ageWord n b'') else v) := by
  change Host.Outcome.next (doAgeingRead t n drift s) = _
  have hlevels : hasLevels n = true := by simp [hasLevels]; omega
  subst hb
  simp only [doAgeingRead, hu, hlive, hpolicy, ha, notWithin hdue, hst, hup, hb', hlevels, decide_eq_false (by omega : ¬ 16 ≤ n),
    Bool.not_true, bne_self_eq_false, Bool.or_false, Bool.false_eq_true, if_false]
  cases up
  · subst hb'
    simp only [Bool.false_eq_true, if_false] at hwarn ⊢
    rw [hwarn]
  · subst hb'
    simp only [if_true] at hwarn ⊢
    rw [hwarn]

theorem exec_ageingRead_quiet (hsmall : -2000 * ((a.trim : Int) + 1) ≤ drift) (hmax : a.trim ≤ u.cal.policy.trimMax) :
    exec (.ageingRead t n drift) s = .next (u.modCal fun x => { x with ageing := x.ageing.set n b }) := by
  subst hb
  rw [exec_ageingRead_due hu hlive hpolicy hn hst ha hdue rfl (up := false) (warn := false)
    (by rw [decide_eq_false hsmall.not_gt, Bool.false_and]) rfl]
  · rfl
  · have : ¬ drift < -2000 * ((u.cal.policy.trimMax : Int) + 1) := by omega
    rw [decide_eq_false this]
    rfl

theorem exec_ageingRead_trims (hlow : drift < -2000 * ((a.trim : Int) + 1)) (hroom : a.trim + 1 < u.cal.policy.trimMax) :
    exec (.ageingRead t n drift) s = .next (((u.modCal fun x => { x with ageing := x.ageing.set n { b with trim := a.trim + 1 } }).modRegion n
      fun g => { g with changing := true }).postAll 0x0802 1 (ageWord n { b with trim := a.trim + 1 })) := by
  subst hb
  rw [exec_ageingRead_due hu hlive hpolicy hn hst ha hdue rfl (up := true) (warn := false)
    (by rw [decide_eq_true hlow, decide_eq_true (by omega)]; rfl) rfl]
  · rfl
  · simp only [if_true]
    rw [decide_eq_false (by omega : ¬ u.cal.policy.trimMax ≤ a.trim + 1), Bool.and_false]
    rfl

theorem exec_ageingRead_warns (hlow : drift < -2000 * ((u.cal.policy.trimMax : Int) + 1)) (hmax : a.trim = u.cal.policy.trimMax)
    (hfirst : a.warnAt = none) : exec (.ageingRead t n drift) s
      = .next ((u.modCal fun x => { x with ageing := x.ageing.set n { b with warnAt := some u.time.frc } }).postAll
        0x0802 2 (ageWord n { b with warnAt := some u.time.frc })) := by
  subst hb
  rw [exec_ageingRead_due hu hlive hpolicy hn hst ha hdue rfl (up := false) (warn := true) (by simp [hmax]) rfl]
  · rfl
  · simp only [hfirst, Option.any_none, Bool.not_false, Bool.and_true, Bool.false_eq_true, if_false]
    rw [decide_eq_true hlow, decide_eq_true hmax.ge]
    rfl

end Ageing
end Rows

end Sys2Proof.Machine

/-! PROOFS. The calibration commands (R550 to R552) and the obligation of the Collimator. -/

namespace Sys2Proof.Machine

/-! ### ARRAY_CAL_CONFIG (R550) -/

section Config
variable {i : CmdIn} {s : State} {cell : Nat} (hcell : fld i.p 0 2 = cell)
include hcell

omit hcell in
theorem bodyArrayCalConfig_bad (hbad : s.arrayCalBad i = true) : bodyArrayCalConfig i s = (s, .done (.bare .badParam)) := if_pos hbad

variable (hgood : s.arrayCalBad i = false)
include hgood

theorem bodyArrayCalConfig_foreign (hforeign : s.ownsCell i.fn cell = false) :
    bodyArrayCalConfig i s = (s, .done (.bare .notPermitted)) := by
  simp [bodyArrayCalConfig, hcell, hgood, hforeign, refuse]

variable (howns : s.ownsCell i.fn cell = true)
include howns

section Delete
variable {x : Cell} (hx : s.cells.find? cell = some x) (hact : fld i.p 2 1 = 0)
include hx hact

theorem bodyArrayCalConfig_inService (hst : x.st = .service) : bodyArrayCalConfig i s = (s, .done (.bare .notPermitted)) := by
  simp [bodyArrayCalConfig, hcell, hgood, howns, hx, hact, hst, refuse]

theorem bodyArrayCalConfig_deletes (hst : x.st ≠ .service) : bodyArrayCalConfig i s
    = (s.modCal fun y => { y with arrays := y.arrays.del cell }, .done (.ok [])) := by
  simp [bodyArrayCalConfig, hcell, hgood, howns, hx, hact, hst, ok]

end Delete

theorem bodyArrayCalConfig_sets (hact : fld i.p 2 1 = 1) : bodyArrayCalConfig i s = (s.modCal fun y =>
    { y with arrays := y.arrays.set cell (arrayOf (s.cal.arrays.find? cell) i.p s.time.frc) }, .done (.ok [])) := by
  simp [bodyArrayCalConfig, hcell, hgood, howns, hact, ok]

theorem bodyArrayCalConfig_noArray (hact : 2 ≤ fld i.p 2 1) (hnone : s.cal.arrays.find? cell = none) :
    bodyArrayCalConfig i s = (s, .done (.bare .notReady)) := by
  have h0 : fld i.p 2 1 ≠ 0 := by omega
  have h1 : fld i.p 2 1 ≠ 1 := by omega
  simp [bodyArrayCalConfig, hcell, hgood, howns, hnone, refuse, h0, h1]

section Listed
variable {a : ArrayCal} (ha : s.cal.arrays.find? cell = some a)
include ha

theorem bodyArrayCalConfig_temperature (hact : fld i.p 2 1 = 2) : bodyArrayCalConfig i s = (s.modCal fun y =>
    { y with arrays := y.arrays.set cell { a with temp := sfld i.p 10 2, tempAt := some s.time.frc } }, .done (.ok [])) := by
  simp [bodyArrayCalConfig, hcell, hgood, howns, ha, hact, ok]

theorem bodyArrayCalConfig_teaches (hact : fld i.p 2 1 = 3) : bodyArrayCalConfig i s = (s.modCal fun y =>
    { y with arrays := y.arrays.set cell { a with sets := a.sets.set (fld i.p 7 1) (some ((calData i.p a.size).map polarOf)) } },
      .done (.ok [])) := by
  simp [bodyArrayCalConfig, hcell, hgood, howns, ha, hact, ok]

end Listed
end Config

/-! ### CAL_STATUS (R551) -/

section Status
variable {i : CmdIn} {s : State} {id : Nat} (hid : fld i.p 2 2 = id)
include hid

section Lane
variable (hlane : fld i.p 0 1 = 0)
include hlane

theorem bodyCalStatus_laneForeign (hforeign : s.ownsLane i.fn id = false) : bodyCalStatus i s = (s, .done (.bare .notPermitted)) := by
  simp [bodyCalStatus, hid, hlane, hforeign, refuse]

theorem bodyCalStatus_lane (howns : s.ownsLane i.fn id = true) : bodyCalStatus i s = (s, .done (.ok (s.calLane id))) := by
  simp [bodyCalStatus, hid, hlane, howns, ok]

end Lane

section Region
variable (hregion : fld i.p 0 1 = 2)
include hregion

omit hid in
theorem bodyCalStatus_regionForeign (hfn : i.fn ≠ 0) : bodyCalStatus i s = (s, .done (.bare .notPermitted)) := by
  simp [bodyCalStatus, hregion, hfn, refuse]

theorem bodyCalStatus_region (hfn : i.fn = 0) : bodyCalStatus i s = (s, .done (.ok (s.calAgeing id))) := by
  simp [bodyCalStatus, hid, hregion, hfn, ok]

end Region

section Cell
variable (hobj : fld i.p 0 1 = 1)
include hobj

section Inline
variable (hlen : fld i.p 4 4 = 0) (hbuf : fld i.p 8 8 = 0)
include hlen hbuf

theorem bodyCalStatus_cellForeign (hforeign : s.ownsCell i.fn id = false) : bodyCalStatus i s = (s, .done (.bare .notPermitted)) := by
  simp [bodyCalStatus, hid, hobj, hlen, hbuf, hforeign, refuse, optBuf, chkOk]

theorem bodyCalStatus_cell (howns : s.ownsCell i.fn id = true) : bodyCalStatus i s = (s, .done (.ok (s.calArray id))) := by
  simp [bodyCalStatus, hid, hobj, hlen, hbuf, howns, ok, optBuf, chkOk]

end Inline

section Buffer
variable (hbuf : fld i.p 8 8 ≠ 0)
include hbuf

theorem bodyCalStatus_short (hshort : fld i.p 4 4 < 16 + 32 * s.calSize id) : bodyCalStatus i s = (s, .done (.bare .badParam)) := by
  simp [bodyCalStatus, hid, hobj, hbuf, refuse, optBuf, chkOk, hshort]

theorem bodyCalStatus_buffer (howns : s.ownsCell i.fn id = true) (hlong : 16 + 32 * s.calSize id ≤ fld i.p 4 4) : bodyCalStatus i s
    = (s, .done (.okBuf (fld i.p 8 8) (s.calArray id ++ ((s.cal.arrays.find? id).map ArrayCal.buffer).getD []))) := by
  have hlen : fld i.p 4 4 ≠ 0 := by omega
  simp [bodyCalStatus, hid, hobj, hbuf, howns, optBuf, chkOk, hlong, hlen]

end Buffer
end Cell
end Status

/-- Settles O56. The stages in which taps move and the order of the answers of ARRAY_CAL_CONFIG and CAL_STATUS are the model's choices (log
entry 107); the estimates are operands and the fixed point is the model's (log entry 17). -/
theorem collimator : Obligations.Collimator := by
  unfold Obligations.Collimator
  exact ⟨fun arc tc => rfl, fun arc tc a => interpolate_single arc tc a,
    fun tc a b hab => ⟨interpolate_below hab, interpolate_above hab, interpolate_between⟩,
    fun a sh est => ⟨nearestSet_lt _, learn_empty a sh est, fun k => learn_other a sh est⟩,
    fun lim cur tgt hlim => ⟨stepTo_bounded hlim, stepTo_reaches, stepTo_up hlim, stepTo_down⟩,
    fun c tc i => ⟨fun v => moveTap_step c tc i, fun k => moveTap_others c tc i, moveTap_sets c tc i⟩,
    fun t n k s => ⟨fun hpolicy hstage hup hdata hdue hone =>
        have hstep := exec_laneTapStep_due rfl hpolicy hstage hup hdata rfl hdue hone
        ⟨hstep none, fun est => hstep (some est)⟩,
      exec_laneTapStep_off rfl,
      fun w h => exec_eyeSweep_lane rfl,
      fun hlive a ha hpolicy => ⟨fun est resid delays => exec_arrayEstimate_paused rfl hlive ha,
        fun est resid delays hlearns hdue => exec_arrayEstimate_due rfl hlive ha hpolicy hlearns hdue rfl rfl,
        exec_calPublish_due rfl hlive ha hpolicy⟩,
      fun hlive hpolicy hn hst hdue drift => ⟨exec_ageingRead_quiet rfl hlive hpolicy hn hst rfl hdue rfl,
        exec_ageingRead_trims rfl hlive hpolicy hn hst rfl hdue rfl, exec_ageingRead_warns rfl hlive hpolicy hn hst rfl hdue rfl⟩⟩,
    fun c s fl => ⟨fun h => ⟨fun hbad => exec_done rfl h (bodyArrayCalConfig_bad hbad),
        fun hgood hforeign => exec_done rfl h (bodyArrayCalConfig_foreign rfl hgood hforeign),
        fun hgood howns x hx => ⟨fun hact hst => exec_done rfl h (bodyArrayCalConfig_inService rfl hgood howns hx hact hst),
          fun hact hst => exec_done rfl h (bodyArrayCalConfig_deletes rfl hgood howns hx hact hst),
          fun hact => exec_done rfl h (bodyArrayCalConfig_sets rfl hgood howns hact),
          fun hact hnone => exec_done rfl h (bodyArrayCalConfig_noArray rfl hgood howns hact hnone),
          fun a ha => ⟨fun hact => exec_done rfl h (bodyArrayCalConfig_temperature rfl hgood howns ha hact),
            fun hact => exec_done rfl h (bodyArrayCalConfig_teaches rfl hgood howns ha hact)⟩⟩⟩,
      fun h => ⟨fun hlane hforeign => exec_done rfl h (bodyCalStatus_laneForeign rfl hlane hforeign),
        fun hlane howns => exec_done rfl h (bodyCalStatus_lane rfl hlane howns),
        fun hregion hfn => exec_done rfl h (bodyCalStatus_regionForeign hregion hfn),
        fun hregion hfn => exec_done rfl h (bodyCalStatus_region rfl hregion hfn),
        fun hcell hforeign hlen hbuf => exec_done rfl h (bodyCalStatus_cellForeign rfl hcell hlen hbuf hforeign),
        fun hcell howns hlen hbuf => exec_done rfl h (bodyCalStatus_cell rfl hcell hlen hbuf howns),
        fun hcell hbuf hshort => exec_done rfl h (bodyCalStatus_short rfl hcell hbuf hshort),
        fun hcell howns hbuf hlong => exec_done rfl h (bodyCalStatus_buffer rfl hcell hbuf howns hlong)⟩,
      fun h => exec_done rfl h rfl⟩⟩

end Sys2Proof.Machine

/-! PROOFS. A profile erased from a table of profile slots that is not in order (chapter 20, R574, R575). -/

namespace Sys2Proof.Machine

theorem OnlyFuncs.dome {p : Nat → Prop} {s u : State} (h : OnlyFuncs p s u) : u.dome = s.dome := by
  obtain ⟨o, g, rfl, -⟩ := h; rfl

theorem complete_dome (s : State) (fl : Flight) (op : Nat) (r : Reply) : (s.complete fl op r).dome = s.dome := (complete_only ..).dome

/-- A profile slot from which the profile has been erased at an FRC value. -/
def Guard.erased (g : Guard) (frc : Nat) : Guard := { g with
  present := false, seq := 0, floor := 0, digest8 := zeros 8, entries := [], since := frc, prev := g.entries, admitted := []
  prevAdmitted := g.admitted }

theorem bodyGuardProfileLoad_erases {i : CmdIn} {s : State} (h : fld i.p 0 1 = 0) :
    bodyGuardProfileLoad i s = (s.modGuard i.fn fun g => g.erased s.time.frc, .done (.ok [])) := by
  simp only [bodyGuardProfileLoad, h]
  rfl

/-- GUARD_PROFILE_LOAD with ACTION 0, sent through function 0's mailbox with its 16 bytes of parameters in a buffer at host address 0. -/
def eraseFlight : Flight := ⟨0, 0, .mbox, leBytes 2 0x0905 ++ leBytes 2 1 ++ leBytes 4 7 ++ leBytes 4 16 ++ zeros 4 ++ leBytes 8 0
  ++ leBytes 4 16 ++ zeros 36, 0, false, none⟩
def eraseRow : CmdRef := { t := 0, id := 0, buf := zeros 16, poison := false }

/-- At FRC 0 in SERVICE the command waits, and the table lists function 0's profile slot twice: without a profile, then with one. -/
def slotTwice : State := { State.reset with
  host := { HostIf.reset with
    server := .melvi, flights := [eraseFlight], nextFlight := 1
    funcs := [(0, { Func.reset with attached := true, windows := [⟨0, 0x100000, true, true⟩], mbox := { Mailbox.reset with st := .busy } })] }
  pow := { PowerSt.reset with mode := .service }
  dome := { State.reset.dome with guards := [(0, Guard.none_), (0, { Guard.none_ with present := true })] } }

theorem ready_slotTwice : Ready layGuardProfileLoad eraseRow slotTwice eraseFlight := by decide +kernel

/-- Erasing at FRC 0 takes the first entry from the table, and function 0 reads the second. -/
theorem guard_slotTwice : ((slotTwice.advance 0).modGuard 0 fun g => g.erased (slotTwice.advance 0).time.frc).guard 0
    = { Guard.none_ with present := true } := by decide +kernel

/-- Refutes O57: the statement speaks of every state, also of one whose table of profile slots is not in order. There GUARD_PROFILE_LOAD with
ACTION 0 writes the entry of an unlisted slot, which removes function 0's first entry and uncovers a second that holds a profile. -/
theorem not_domeAndDamper : ¬ Obligations.DomeAndDamper := by
  unfold Obligations.DomeAndDamper
  intro h
  obtain ⟨-, -, -, -, -, -, -, hcommands, -⟩ := h
  obtain ⟨-, -, -, -, hload, -⟩ := hcommands eraseRow slotTwice eraseFlight
  obtain ⟨herase, -⟩ := hload ready_slotTwice
  obtain ⟨u, hu, habsent, -, -⟩ := herase rfl
  have hexec := exec_done (i := .guardProfileLoad eraseRow) rfl ready_slotTwice (bodyGuardProfileLoad_erases rfl)
  have hsame := Host.Outcome.next.inj (hu.symm.trans hexec)
  have hdome : u.dome = ((slotTwice.advance 0).modGuard 0 fun g => g.erased (slotTwice.advance 0).time.frc).dome :=
    (complete_dome ..).symm.trans ((congrArg State.dome hsame).trans (complete_dome ..))
  have hguard : u.guard eraseFlight.fn = { Guard.none_ with present := true } :=
    (congrArg (fun d : DomeSt => d.guards.get Guard.none_ 0) hdome).trans guard_slotTwice
  rw [hguard] at habsent
  exact Bool.noConfusion habsent

end Sys2Proof.Machine

/-! PROOFS. Engine and block faults, FATAL-REGION and FATAL-CHIP, the dump, and the ends of a FENCE and of a self-test (chapter 21, R584 to
R601). -/

namespace Sys2Proof.Machine

/-! ### Engine and block faults (R584, R585) -/

section Faults
variable {t : Nat} {s u : State} (hu : s.advance t = u)
include hu

theorem exec_engineFault_recovers {e : Nat} {ue : Bool} (hpop : engPop e = true) (hlive : u.stopped = false)
    (hawake : u.asleep (engRegion e) = false) {w v : State}
    (hw : (if ue then (u.logError (engRegion e) ⟨0, 2, 8, initEng e, engBase e, 1, 0, initEng e, 0, u.time.frc⟩).1
      else u.logMelvi (engRegion e) (initEng e) (engBase e)) = w) {times : List Nat}
    (htimes : ((w.fault.recov.get [] e).filter fun f => w.time.frc < f + minute) ++ [w.time.frc] = times)
    (hv : ((w.startReset 0 e).modFault fun f => { f with recov := f.recov.set e times }).postAll 0x0A01 1 (e + 4096 * min 15 times.length) = v) :
    exec (.engineFault t e ue) s = .next (if 3 ≤ times.length then v.autoFence 0 e else v) := by
  change Host.Outcome.next (doEngineFault t e ue s) = _
  subst hv htimes hw
  simp only [doEngineFault, hu, hpop, hlive, hawake]
  rfl

theorem exec_engineRecoveryTimeout_reset {e f : Nat} (hlive : u.stopped = false) (hreset : u.fault.resetAt.find? (targetKey 0 e) = some f)
    (hrecov : (u.fault.recov.get [] e).contains f = true) :
    exec (.engineRecoveryTimeout t e) s = .next (if f + msToFrc 2 ≤ u.time.frc then u.autoFence 0 e else u) := by
  change Host.Outcome.next (doEngineRecoveryTimeout t e s) = _
  simp only [doEngineRecoveryTimeout, hu, hlive, hreset, hrecov, Bool.not_false, Bool.true_and, decide_eq_true_eq]

theorem exec_blockFault_fences {b : Nat} {serves : Bool} (hlive : u.stopped = false) (hpop : targetPop 1 b = true) {w : State}
    (hw : (u.logMelvi (b / 4) (initId (b / 4) (b % 4) 0) (blkBase (b / 4) (b % 4))).fenceBlockAuto b = w) {times : List Nat}
    (htimes : ((w.fault.blkFences.get [] (b / 4)).filter fun f => w.time.frc < f + minute) ++ [w.time.frc] = times) {v : State}
    (hv : (w.modFault fun f => { f with blkFences := f.blkFences.set (b / 4) times }) = v) :
    exec (.blockFault t b serves) s = .next (if 2 ≤ times.length then v.fatalRegion (b / 4) 0x0105 serves else v) := by
  change Host.Outcome.next (doBlockFault t b serves s) = _
  subst hv htimes hw
  simp only [doBlockFault, hu, hlive, hpop]
  rfl

end Faults

theorem autoFence_fenced {u : State} {kind e : Nat} (h : u.fenceOf kind e = some true) : u.autoFence kind e = u := by
  simp [State.autoFence, h]

theorem autoFence_fences {u : State} {kind e : Nat} (h : u.fenceOf kind e ≠ some true) : u.autoFence kind e = u.setFence kind e true := by
  simp [State.autoFence, h]

/-! ### FATAL-REGION (R586, R587) -/

theorem exec_fatalRegion_due {t r cause : Nat} {serves : Bool} {s u : State} (hu : s.advance t = u) (hlive : u.stopped = false) (hr : r < 16)
    (hlow : 0x0101 ≤ cause) (hhigh : cause ≤ 0x0105) (hpll : cause = 0x0103 → (u.region r).st = .active) :
    exec (.fatalRegion t r cause serves) s = .next (u.fatalRegion r cause serves) := by
  change Host.Outcome.next (doFatalRegion t r cause serves s) = _
  simp [doFatalRegion, hu, hlive, hr.not_ge, hlow.not_gt, hhigh.not_gt]
  exact fun hcause hst => absurd (hpll hcause) hst

section Region
variable {u : State} {r cause : Nat} {serves : Bool}

theorem fatalRegion_chip (hr : 13 ≤ r) :
    u.fatalRegion r cause serves = (u.logMelvi r (initId r 0 0) (regBase r)).fatalChip 7 (initId r 0 0) serves := if_pos hr

theorem fatalRegion_fenced (hr : r < 13) (hfenced : (u.logMelvi r (initId r 0 0) (regBase r)).fault.fencedReg.has r = true) :
    u.fatalRegion r cause serves = u.logMelvi r (initId r 0 0) (regBase r) := by
  simp [State.fatalRegion, hr.not_ge, hfenced]

theorem failCell_posts {c : Nat} {x : Cell} (hx : u.cells.find? c = some x) :
    ∃ v : State, u.failCell c r = v.post (v.cellOwner c) 0x0A04 3 (c + 4096 * r) := by
  rw [State.failCell, hx]
  exact ⟨_, rfl⟩

end Region

/-! ### FATAL-CHIP (R588, R589) -/

/-- The mode, the regions' states and the pins stay as they are. -/
def KeepsPower (s u : State) : Prop := u.pow = s.pow ∧ u.pins = s.pins

namespace KeepsPower
variable {s u w : State}

theorem trans (h : KeepsPower s u) (h' : KeepsPower u w) : KeepsPower s w := ⟨h'.1.trans h.1, h'.2.trans h.2⟩

theorem foldl {α : Type} {f : State → α → State} (h : ∀ s a, KeepsPower s (f s a)) (l : List α) (s : State) : KeepsPower s (l.foldl f s) :=
  List.foldlRecOn l f (motive := KeepsPower s) ⟨rfl, rfl⟩ fun u hu a _ => hu.trans (h u a)

end KeepsPower

theorem OnlyMem.keepsPower {s u : State} (h : OnlyMem s u) : KeepsPower s u := by
  obtain ⟨_, _, _, _, rfl, -⟩ := h; exact ⟨rfl, rfl⟩

theorem complete_keepsPower (s : State) (fl : Flight) (op : Nat) (r : Reply) : KeepsPower s (s.complete fl op r) := by
  obtain ⟨_, _, h, -⟩ := complete_only s fl op r
  rw [h]
  exact ⟨rfl, rfl⟩

theorem regionMv_keepsPower (s : State) (r : Nat) : KeepsPower s (s.regionMv r).2 := by
  unfold State.regionMv
  split_ifs <;> exact ⟨rfl, rfl⟩

theorem statusRecords_keepsPower (rs : List Nat) (s : State) : KeepsPower s (s.statusRecords rs).2 := by
  induction rs generalizing s with
  | nil => exact ⟨rfl, rfl⟩
  | cons r rs ih => exact (regionMv_keepsPower s r).trans (ih _)

theorem lastGasp_keepsPower (s : State) (x : FatalSt) : KeepsPower s (s.lastGasp x) := by
  unfold State.lastGasp
  have hrecs := statusRecords_keepsPower (List.range 16) s
  generalize s.statusRecords (List.range 16) = r at hrecs ⊢
  exact hrecs.trans (write_onlyMem ..).keepsPower

theorem beginDump_keepsPower (s : State) : KeepsPower s s.beginDump :=
  ((write_onlyMem ..).trans (write_onlyMem ..)).keepsPower

theorem serveFault_keepsPower (s : State) (x : FatalSt) : KeepsPower s (s.serveFault x) := by
  unfold State.serveFault
  have hdone := KeepsPower.foldl (fun s (fl : Flight) => complete_keepsPower s fl fl.op (.bare .internal)) s.host.flights s
  generalize s.host.flights.foldl (fun s fl => s.complete fl fl.op (.bare .internal)) s = u at hdone ⊢
  have hchip : KeepsPower u (u.modFault fun f => { f with chip := some { x with served := true, dumping := !decide (u.dumpState = 2) } }) :=
    ⟨rfl, rfl⟩
  refine hdone.trans (hchip.trans ?_)
  dsimp only
  split_ifs
  · exact lastGasp_keepsPower ..
  · exact beginDump_keepsPower _

section Chip
variable {u : State} {cause source : Nat} {serves : Bool}

theorem fatalChip_off (hoff : u.pow.mode = .off) : u.fatalChip cause source serves = u := if_pos hoff

/-- The first FATAL-CHIP puts the chip in FAULT and asserts TOCSIN_N, whether or not Melvi serves it. -/
theorem fatalChip_faults (hon : u.pow.mode ≠ .off) (hfirst : u.fault.chip = none) :
    (u.fatalChip cause source serves).pow.mode = .fault ∧ (u.fatalChip cause source serves).pins.tocsin = true := by
  have hfirst' : (u.modFault fun f => { f with seq := f.seq + 1 }).fault.chip = none := hfirst
  simp only [State.fatalChip, if_neg hon, hfirst']
  split
  · obtain ⟨hpow, hpins⟩ := serveFault_keepsPower _ _
    rw [hpow, hpins]
    exact ⟨rfl, rfl⟩
  · exact ⟨rfl, rfl⟩

theorem exec_fatalChip_cause {t : Nat} {s : State} (hu : s.advance t = u) (hlow : 1 ≤ cause) (hhigh : cause ≤ 9) :
    exec (.fatalChip t cause source serves) s = .next (u.fatalChip cause (source % 4096) serves) := by
  change Host.Outcome.next (doFatalChip t cause source serves s) = _
  simp [doFatalChip, hu, hlow, hhigh]

end Chip

/-! ### The dump, and the Dome's takeover (R590, R591) -/

section Dump
variable {t : Nat} {s u : State} (hu : s.advance t = u) {x : FatalSt} (hchip : u.fault.chip = some x) (hfault : u.pow.mode = .fault)
include hu hchip hfault

theorem exec_dumpComplete_ends {env : DumpEnv} (hmelvi : u.host.server = .melvi) (hdump : x.dumping = true) :
    ∃ v : State, exec (.dumpComplete t env) s = .next v ∧ v.fault.chip = some { x with dumping := false } := by
  refine ⟨doDumpComplete t env s, rfl, ?_⟩
  simp only [doDumpComplete, hu, hchip, hfault, hmelvi, hdump, bne_self_eq_false, Bool.or_false, Bool.not_true, Bool.false_eq_true, if_false]
  split <;> rfl

theorem exec_domeTakeover_takes {watchdog : Bool} (hother : u.host.server ≠ .domeFault)
    (hdue : (x.served = false ∧ x.frc + msToFrc 10 ≤ u.time.frc) ∨ (x.dumping = true ∧ watchdog = true)) :
    ∃ v : State, exec (.domeTakeover t watchdog) s = .next v ∧ v.host.server = .domeFault ∧ v.host.flights = [] := by
  refine ⟨doDomeTakeover t watchdog s, rfl, ?_⟩
  have hother' : (u.host.server == .domeFault) = false := beq_eq_false_iff_ne.mpr hother
  have hdue' : (!x.served && decide (x.frc + msToFrc 10 ≤ u.time.frc) || x.dumping && watchdog) = true := by
    rcases hdue with ⟨hserved, hlate⟩ | ⟨hdump, hwatch⟩
    · rw [hserved, decide_eq_true hlate]; rfl
    · rw [hdump, hwatch]; exact Bool.or_true _
  simp only [doDomeTakeover, hu, hchip, hfault, hother', hdue', bne_self_eq_false, Bool.or_false, Bool.not_true, Bool.false_eq_true, if_false]
  exact ⟨rfl, rfl⟩

end Dump

/-! ### WAIT_MS of a FENCE is over (R597) -/

section Fence
variable {t : Nat} {s u : State} (hu : s.advance t = u) (hlive : u.stopped = false) {op : FenceOp}
  (hop : (u.fault.fences.find? fun f => f.due ≤ u.time.frc && (!f.forced || u.targetEmpty f.kind f.target)) = some op)
include hu hlive hop

theorem exec_fenceWaitTimeout_empty (hempty : u.targetEmpty op.kind op.target = true) : exec (.fenceWaitTimeout t) s
    = .next (((u.dropFence op).setFence op.kind op.target op.cmd.isNone).fenceReply op .success (leBytes 4 op.failed)) := by
  change Host.Outcome.next (doFenceWaitTimeout t s) = _
  simp only [doFenceWaitTimeout, hu, hlive, hop, hempty, State.settleFence]
  rfl

variable (hheld : u.targetEmpty op.kind op.target = false)
include hheld

theorem exec_fenceWaitTimeout_withdraws (hgentle : op.force = false) : exec (.fenceWaitTimeout t) s = .next (u.withdrawFence op) := by
  change Host.Outcome.next (doFenceWaitTimeout t s) = _
  simp only [doFenceWaitTimeout, hu, hlive, hop, hheld, hgentle]
  rfl

theorem exec_fenceWaitTimeout_forces (hforce : op.force = true) {f : State × Nat} (hf : u.forceTarget op.kind op.target = f) {op' : FenceOp}
    (hop' : ({ op with forced := true, failed := f.2 } : FenceOp) = op') : exec (.fenceWaitTimeout t) s
      = .next ((f.1.modFault fun x => { x with
        fences := x.fences.map fun o => if o.kind == op.kind && o.target == op.target then op' else o }).settleFence op') := by
  change Host.Outcome.next (doFenceWaitTimeout t s) = _
  subst hop' hf
  simp only [doFenceWaitTimeout, hu, hlive, hop, hheld, hforce]
  rfl

end Fence

/-! ### A self-test ends (R599, R600) -/

theorem zeroEngine_onlyMem (s : State) (e : Nat) (pram : Bool) : OnlyMem s (s.zeroEngine e pram) := by
  unfold State.zeroEngine
  dsimp only
  split_ifs
  · exact ((zeroMem_onlyMem ..).trans (zeroMem_onlyMem ..)).trans (zeroMem_onlyMem ..)
  · exact zeroMem_onlyMem ..
  · exact (zeroMem_onlyMem ..).trans (zeroMem_onlyMem ..)
  · exact .refl _

theorem zeroRegion_onlyMem (s : State) (r : Nat) (keep : List Nat) (pram : Bool) : OnlyMem s (s.zeroRegion r keep pram) := by
  refine (OnlyMem.foldl (fun s b => zeroMem_onlyMem s (retBankBase r b) 262144) _ _).trans (OnlyMem.foldl (fun s e => ?_) _ _)
  dsimp only
  split
  · exact ((zeroMem_onlyMem ..).trans (zeroMem_onlyMem ..)).trans (zeroMem_onlyMem ..)
  · exact (zeroMem_onlyMem ..).trans (zeroMem_onlyMem ..)

theorem zeroTarget_onlyMem (s : State) (kind target : Nat) : OnlyMem s (s.zeroTarget kind target) := by
  unfold State.zeroTarget
  split
  · exact zeroEngine_onlyMem ..
  · have hengines := OnlyMem.foldl (fun s e => zeroEngine_onlyMem s e true) (targetEngines 1 target) s
    dsimp only
    split
    · exact hengines.trans (zeroMem_onlyMem ..)
    · exact hengines
  · exact zeroRegion_onlyMem ..

theorem OnlyMem.fault {s u : State} (h : OnlyMem s u) : u.fault = s.fault := by obtain ⟨_, _, _, _, rfl, -⟩ := h; rfl

theorem loseTarget_bists (s : State) (kind target : Nat) : (s.loseTarget kind target).fault.bists = s.fault.bists :=
  (rfl : _ = (s.zeroTarget kind target).fault.bists).trans (congrArg FaultSt.bists (zeroTarget_onlyMem s kind target).fault)

theorem complete_bists (s : State) (fl : Flight) (op : Nat) (r : Reply) : (s.complete fl op r).fault.bists = s.fault.bists :=
  congrArg FaultSt.bists (complete_only s fl op r).onlyMem.fault

/-- Marking targets as tested leaves the self-tests in progress. -/
theorem foldl_tested_bists (ks : List (Nat × Nat)) (s : State) :
    (ks.foldl (fun s k => s.modFault fun f => { f with tested := f.tested.set (targetKey k.1 k.2) () }) s).fault.bists = s.fault.bists :=
  List.foldlRecOn ks _ (motive := fun u : State => u.fault.bists = s.fault.bists) rfl fun _ h _ _ => h

theorem exec_bistDone_passes {t kind target : Nat} {s u : State} (hu : s.advance t = u) (hlive : u.stopped = false) {b : BistOp}
    (hb : (u.fault.bists.find? fun b => b.kind == kind && b.target == target) = some b) (htests : b.tests = 3) :
    ∃ v : State, exec (.bistDone t kind target [] []) s = .next v
      ∧ v.fault.bists = u.fault.bists.filter fun o => !(o.kind == kind && o.target == target) := by
  refine ⟨doBistDone t kind target [] [] s, rfl, ?_⟩
  simp only [doBistDone, hu, hlive, hb, htests, List.filter_nil, ite_self, List.foldl_nil, List.isEmpty_nil, Bool.and_self,
    Bool.not_true, bne_self_eq_false, Bool.or_self, Bool.false_eq_true, if_false]
  generalize hw : (u.modFault fun f => { f with bists := f.bists.filter fun o => !(o.kind == kind && o.target == target) }) = w
  have hbists : w.fault.bists = u.fault.bists.filter fun o => !(o.kind == kind && o.target == target) := hw ▸ rfl
  have hends (ks : List (Nat × Nat)) (sev data : Nat) : (((ks.foldl (fun s k => s.modFault fun f =>
      { f with tested := f.tested.set (targetKey k.1 k.2) () }) w).loseTarget kind target).postAll 0x0A05 sev data).fault.bists
        = u.fault.bists.filter fun o => !(o.kind == kind && o.target == target) :=
    (congrArg FaultSt.bists (postAll_onlyMem ..).fault).trans ((loseTarget_bists ..).trans ((foldl_tested_bists ..).trans hbists))
  split
  · exact (complete_bists ..).trans (hends ..)
  · exact hends ..

end Sys2Proof.Machine

/-! PROOFS. FENCE, UNFENCE, BIST_RUN, DUMP_READ and ERRLOG_READ (chapter 21, R595 to R600), and the obligation of faults and fences. -/

namespace Sys2Proof.Machine

section Target
variable {i : CmdIn} {s : State} {kind x : Nat} (hk : fld i.p 0 1 = kind) (hx : fld i.p 2 2 = x)
include hk hx

/-! ### FENCE (R597, R598) -/

section Fence

theorem bodyFence_noTarget (hpop : targetPop kind x = false) : bodyFence i s = (s, .done (.bare .badParam)) := by
  simp [bodyFence, hk, hx, hpop, refuse]

variable (hpop : targetPop kind x = true)
include hpop

theorem bodyFence_barred (hbarred : s.fenceBarred kind x = true) : bodyFence i s = (s, .done (.bare .notPermitted)) := by
  simp [bodyFence, hk, hx, hpop, hbarred, refuse]

variable (hmay : s.fenceBarred kind x = false) {r : Nat} (hr : targetRegion kind x = r)
include hmay hr

theorem bodyFence_asleep (hasleep : s.asleep r = true) : bodyFence i s = (s, .done (.bare .domainAsleep)) := by
  simp [bodyFence, hk, hx, hpop, hmay, hr, hasleep, refuse]

variable (hawake : s.asleep r = false) {busy : Bool}
  (hbusy : ((s.fault.fences.any fun f => spansMeet (fenceSpan f.kind f.target) (fenceSpan kind x)) || s.reserveBroken kind x) = busy)
include hawake hbusy

theorem bodyFence_busy (h : busy = true) : bodyFence i s = (s, .done (.bare .noResource)) := by
  simp only [bodyFence, hk, hx, hpop, hmay, hr, hawake, hbusy, h]
  rfl

variable (hfree : busy = false)
include hfree

theorem bodyFence_fenced (hfenced : (s.fenceOf kind x).isSome = true) : bodyFence i s = (s, .done (.ok (leBytes 4 0))) := by
  simp only [bodyFence, hk, hx, hpop, hmay, hr, hawake, hbusy, hfree, hfenced]
  rfl

variable (hnone : s.fenceOf kind x = none) {u : State} (hu : s.clockUp r = u)
include hnone hu

theorem bodyFence_empty (hempty : u.targetEmpty kind x = true) : bodyFence i s
    = (if kind = 2 then (u.setFence kind x false).unlist x else u.setFence kind x false, .done (.ok (leBytes 4 0))) := by
  simp only [bodyFence, hk, hx, hpop, hmay, hr, hawake, hbusy, hfree, hnone, hu, hempty]
  rfl

theorem bodyFence_waits (hheld : u.targetEmpty kind x = false) {v : State} (hv : (u.modFault fun f => { f with
    fences := f.fences ++ [⟨kind, x, bit (fld i.p 1 1) 0, u.time.frc + msToFrc (fld i.p 4 4), false, some i.id, 0⟩] }) = v) :
    bodyFence i s = (if kind = 2 then v.unlist x else v, .later .fence) := by
  subst hv
  simp only [bodyFence, hk, hx, hpop, hmay, hr, hawake, hbusy, hfree, hnone, hu, hheld]
  rfl

end Fence

/-! ### UNFENCE (R600) -/

section Unfence

theorem bodyUnfence_noTarget (hpop : targetPop kind x = false) : bodyUnfence i s = (s, .done (.bare .badParam)) := by
  simp [bodyUnfence, hk, hx, hpop, refuse]

variable (hpop : targetPop kind x = true)
include hpop

theorem bodyUnfence_notFenced (hnone : s.fenceOf kind x = none) : bodyUnfence i s = (s, .done (.ok [])) := by
  simp [bodyUnfence, hk, hx, hpop, hnone, ok]

theorem bodyUnfence_untested (hauto : s.fenceOf kind x = some true) (huntested : s.fault.tested.has (targetKey kind x) = false) :
    bodyUnfence i s = (s, .done (.bare .notPermitted)) := by
  simp [bodyUnfence, hk, hx, hpop, hauto, huntested, refuse]

theorem bodyUnfence_resets {a : Bool} (ha : s.fenceOf kind x = some a)
    (hmay : a = false ∨ s.fault.tested.has (targetKey kind x) = true) (hquiet : s.bistOn kind x = false) :
    bodyUnfence i s = (s.startReset kind x, .later (.unfence kind x)) := by
  rcases hmay with h | h <;> simp [bodyUnfence, hk, hx, hpop, ha, h, hquiet]

end Unfence

/-! ### BIST_RUN (R599) -/

section BistRun

theorem bodyBistRun_noTarget (hpop : targetPop kind x = false) : bodyBistRun i s = (s, .done (.bare .badParam)) := by
  simp [bodyBistRun, hk, hx, hpop, refuse]

variable (hpop : targetPop kind x = true)
include hpop

theorem bodyBistRun_barred (hnot : s.pow.mode ≠ .maint ∨ s.coveredBy kind x = false) :
    bodyBistRun i s = (s, .done (.bare .notPermitted)) := by
  rcases hnot with h | h <;> simp [bodyBistRun, hk, hx, hpop, h, refuse]

theorem bodyBistRun_starts (hmaint : s.pow.mode = .maint) (hcovered : s.coveredBy kind x = true) (hquiet : s.bistOn kind x = false) :
    bodyBistRun i s = (s.modFault fun f => { f with bists := f.bists ++ [⟨kind, x, fld i.p 1 1, i.id⟩] }, .later .bist) := by
  simp [bodyBistRun, hk, hx, hpop, hmaint, hcovered, hquiet]

end BistRun
end Target

/-! ### DUMP_READ (R595) -/

section DumpRead
variable {i : CmdIn} {s : State} (hmelvi : s.host.server = .melvi)
include hmelvi

theorem bodyDumpRead_info (ha : fld i.p 0 1 = 0) : bodyDumpRead i s = (s, .done (.ok s.dumpInfo)) := by
  simp [bodyDumpRead, hmelvi, ha, ok]

section Bytes
variable (ha : fld i.p 0 1 = 1)
include ha

theorem bodyDumpRead_beyond (hlong : s.dumpLength < fld i.p 8 8 + fld i.p 4 4) : bodyDumpRead i s = (s, .done (.bare .badParam)) := by
  simp [bodyDumpRead, hmelvi, ha, hlong, refuse]

theorem bodyDumpRead_inline (hin : fld i.p 8 8 + fld i.p 4 4 ≤ s.dumpLength) (hbuf : fld i.p 16 8 = 0)
    (hclean : s.poisonIn (dumpBase + fld i.p 8 8) (fld i.p 4 4) = false) :
    bodyDumpRead i s = (s, .done (.ok (s.bytesAt (dumpBase + fld i.p 8 8) (fld i.p 4 4)))) := by
  simp [bodyDumpRead, hmelvi, ha, hin.not_gt, State.giveMem, hbuf, hclean, ok]

end Bytes

theorem bodyDumpRead_window (ha : fld i.p 0 1 = 2) : bodyDumpRead i s = if s.hostOk 0 (fld i.p 16 8) (fld i.p 24 4) true
    then (s.modFault fun f => { f with dumpWin := some (fld i.p 16 8, fld i.p 24 4) }, .done (.ok []))
    else (s, .done (.bare .badParam)) := by
  cases hok : s.hostOk 0 (fld i.p 16 8) (fld i.p 24 4) true <;> simp [bodyDumpRead, hmelvi, ha, hok, ok, refuse]

theorem bodyDumpRead_release (ha : fld i.p 0 1 = 3) : bodyDumpRead i s = if s.dumpState = 1 then (s, .done (.bare .notPermitted))
    else (s.setDumpState 3, .done (.ok [])) := by
  simp [bodyDumpRead, hmelvi, ha, ok, refuse]

section Gasp
variable (ha : fld i.p 0 1 = 4)
include ha

theorem bodyDumpRead_noGasp (hnone : s.gaspValid (fld i.p 1 1) = false) : bodyDumpRead i s = (s, .done (.bare .notReady)) := by
  simp [bodyDumpRead, hmelvi, ha, hnone, refuse]

theorem bodyDumpRead_gasp (hgasp : s.gaspValid (fld i.p 1 1) = true) (hbuf : fld i.p 16 8 = 0)
    (hclean : s.poisonIn (lastGaspBase + 4096 * fld i.p 1 1) 16 = false) :
    bodyDumpRead i s = (s, .done (.ok (s.bytesAt (lastGaspBase + 4096 * fld i.p 1 1) 16))) := by
  simp [bodyDumpRead, hmelvi, ha, hgasp, State.giveMem, hbuf, hclean, ok]

end Gasp
end DumpRead

/-! ### ERRLOG_READ (R596) -/

section ErrlogRead
variable {i : CmdIn} {s : State}

theorem bodyErrlogRead_inline (hbuf : fld i.p 16 8 = 0) : bodyErrlogRead i s
    = (s, .done (.ok (leBytes 8 s.mem.written ++ leBytes 4 0 ++ leBytes 4 s.mem.overflow))) := by
  simp [bodyErrlogRead, hbuf, ok]

theorem bodyErrlogRead_buffer (hbuf : fld i.p 16 8 ≠ 0) {r : List Nat × Nat}
    (hr : s.scanLog i.fn (fld i.p 8 4) 65536 (max (fld i.p 0 8) (s.mem.written - 65536)) = r) {u : State}
    (hu : r.1.foldl (fun s n => s.logRead ⟨initCmd, none, false, none⟩ (logAddr n) 32) s = u) : bodyErrlogRead i s
      = (u.hostRuns i.fn (fld i.p 16 8) ((leBytes 8 r.2 ++ zeros 8, false) :: r.1.map fun n =>
          (s.bytesAt (logAddr n) 32, s.poisonIn (logAddr n) 32)),
        .done (.ok (leBytes 8 s.mem.written ++ leBytes 4 r.1.length ++ leBytes 4 s.mem.overflow))) := by
  subst hu hr
  simp only [bodyErrlogRead, hbuf, if_false]
  rfl

end ErrlogRead

/-- Settles O58. That a target already fenced is answered SUCCESS, that an overlapping self-test is answered NO_RESOURCE and that FORCE acts at
WAIT_MS are the model's choices (log entries 110, 111, 112). -/
theorem faultsAndFences : Obligations.FaultsAndFences := by
  unfold Obligations.FaultsAndFences
  refine ⟨fun t e r cause ue sv s => ⟨fun hpop hlive hawake => exec_engineFault_recovers rfl hpop hlive hawake rfl rfl rfl,
      fun hlive f hreset hrecov => exec_engineRecoveryTimeout_reset rfl hlive hreset hrecov,
      fun u => autoFence_fenced, fun u => autoFence_fences,
      fun hlive b hpop => exec_blockFault_fences rfl hlive hpop rfl rfl rfl,
      exec_fatalRegion_due rfl, fun u => fatalRegion_chip, fun u => fatalRegion_fenced, fun u c x => failCell_posts,
      exec_fatalChip_cause rfl, fun u => fatalChip_off, fun u => fatalChip_faults,
      fun x hchip hfault => ⟨fun hmelvi hdump env => exec_dumpComplete_ends rfl hchip hfault hmelvi hdump,
        exec_domeTakeover_takes rfl hchip hfault⟩,
      fun hlive op hop => ⟨exec_fenceWaitTimeout_empty rfl hlive hop, exec_fenceWaitTimeout_withdraws rfl hlive hop,
        fun hheld hforce => exec_fenceWaitTimeout_forces rfl hlive hop hheld hforce rfl rfl⟩,
      fun hlive b fl hb _ htests => exec_bistDone_passes rfl hlive hb htests⟩,
    fun c s fl => ⟨fun h => ⟨fun hpop => exec_done rfl h (bodyFence_noTarget rfl rfl hpop),
        fun hpop hbarred => exec_done rfl h (bodyFence_barred rfl rfl hpop hbarred),
        fun hpop hmay hasleep => exec_done rfl h (bodyFence_asleep rfl rfl hpop hmay rfl hasleep),
        fun hpop hmay hawake => ⟨fun hbusy => exec_done rfl h
            (bodyFence_busy (i := fl.input c) (s := s.advance c.t) rfl rfl hpop hmay rfl hawake rfl hbusy),
          fun hfree hfenced => exec_done rfl h
              (bodyFence_fenced (i := fl.input c) (s := s.advance c.t) rfl rfl hpop hmay rfl hawake rfl hfree hfenced),
          fun hfree hnone hempty => exec_done rfl h
              (bodyFence_empty (i := fl.input c) (s := s.advance c.t) rfl rfl hpop hmay rfl hawake rfl hfree hnone rfl hempty),
          fun hfree hnone hheld => exec_later rfl h
              (bodyFence_waits (i := fl.input c) (s := s.advance c.t) rfl rfl hpop hmay rfl hawake rfl hfree hnone rfl hheld rfl)⟩⟩,
      fun h => ⟨fun hpop => exec_done rfl h (bodyUnfence_noTarget rfl rfl hpop),
        fun hpop hnone => exec_done rfl h (bodyUnfence_notFenced rfl rfl hpop hnone),
        fun hpop hauto huntested => exec_done rfl h (bodyUnfence_untested rfl rfl hpop hauto huntested),
        fun hpop a ha hmay hquiet => exec_later rfl h (bodyUnfence_resets rfl rfl hpop ha hmay hquiet)⟩,
      fun h => ⟨fun hpop => exec_done rfl h (bodyBistRun_noTarget rfl rfl hpop),
        fun hpop hnot => exec_done rfl h (bodyBistRun_barred rfl rfl hpop hnot),
        fun hpop hmaint hcovered hquiet => exec_later rfl h (bodyBistRun_starts rfl rfl hpop hmaint hcovered hquiet)⟩,
      fun h hmelvi => ⟨fun ha => exec_done rfl h (bodyDumpRead_info hmelvi ha),
        fun ha hlong => exec_done rfl h (bodyDumpRead_beyond hmelvi ha hlong),
        fun ha hin hbuf hclean => exec_done rfl h (bodyDumpRead_inline hmelvi ha hin hbuf hclean),
        fun ha => ?window, fun ha => ?release,
        fun ha hnone => exec_done rfl h (bodyDumpRead_noGasp hmelvi ha hnone),
        fun ha hgasp hbuf hclean => exec_done rfl h (bodyDumpRead_gasp hmelvi ha hgasp hbuf hclean)⟩,
      fun h => ⟨fun hbuf => exec_done rfl h (bodyErrlogRead_inline hbuf),
        fun hbuf => exec_done rfl h (bodyErrlogRead_buffer hbuf rfl rfl)⟩⟩⟩
  case window =>
    have hbody := bodyDumpRead_window (i := fl.input c) (s := s.advance c.t) hmelvi ha
    split
    case isTrue hok => exact exec_done rfl h (hbody.trans (if_pos hok))
    case isFalse hbad => exact exec_done rfl h (hbody.trans (if_neg hbad))
  case release =>
    have hbody := bodyDumpRead_release (i := fl.input c) (s := s.advance c.t) hmelvi ha
    split
    case isTrue hwriting => exact exec_done rfl h (hbody.trans (if_pos hwriting))
    case isFalse hdone => exact exec_done rfl h (hbody.trans (if_neg hdone))

end Sys2Proof.Machine
